-- ==== Sys2Proof/Word.lean ====
section
/-! DEFINITION. The words of the Geltil 9: its register, byte, vector, tile and instruction widths (R17, R63, R120). -/

namespace Sys2Proof

/-- A general register or an address (R17). -/
abbrev Word := BitVec 64

/-- The smallest addressable unit of memory (R153). -/
abbrev Byte := BitVec 8

/-- An instruction word (R63). -/
abbrev IWord := BitVec 32

/-- A vector or residue register (R17). -/
abbrev VReg := BitVec 512

/-- One matrix tile: 1,024 words of 32 bits (R120). -/
abbrev Tile := BitVec 32768

end Sys2Proof
end

