-- ==== Sys2Proof/Message.lean ====
section
/-! DEFINITION. Trap causes, task records, and the messages between agents of the module and between modules
(R161, R241, R246, R252, R253, R201-R205, R274, R288, R301, R302, R375). -/

namespace Sys2Proof

/-- The causes of R342. -/
inductive Cause where
  | illOpcode | illFn | illMbz | illOperand | priv | align | pageFault | prot | regionClass | fpInvalid | fpDivZero
  | fpOverflow | queueWaitLimit | ringMisuse | engineLease | migrateVector | contextClipped | rule | levelSpan
  | remoteTimeout | poison | trap | digestMismatch | machineCheck
  deriving DecidableEq, Repr

/-- A trap's cause and report words (R342). -/
structure Stop where
  cause : Cause
  xval : Word
  xaux : Word
  deriving DecidableEq, Repr

/-- A task record (R234). -/
structure TaskRec where
  pc : Word
  g : Vector Word 6
  frame : Word
  deriving DecidableEq, Repr

/-- A remote access of R161 and R217: a load, lanes of a vector load in one line (R158, R211), the read of a frame counter
(R239), a store, or an AMO with its operation, operand and compare value. -/
inductive AccessKind where
  | load (plain : Bool)
  | lanes (las : List Nat)
  | frame
  | store (data : Nat)
  | amo (op : BitVec 3) (b cmp : Word)
  deriving DecidableEq, Repr

/-- A request to the service slot of a target core: local address, size, kind, and the sender's active queue slot and, in its
module, serial number. -/
structure RemoteReq where
  la : Nat
  size : Nat
  kind : AccessKind
  q : Nat
  strand : Nat
  deriving DecidableEq, Repr

/-- What a remote side answers: the bytes, the trap to raise (R161), or, for a plain load of a MIGRATE page, the home
core to which the strand migrates (R160). -/
inductive Answer where
  | ok (data : Nat)
  | stop (s : Stop)
  | home (core : Nat)
  deriving DecidableEq, Repr

/-- What the other modules of an engine's accesses answer: the bytes read, in turn; a stop says which of the bytes in
turn is refused, why, and whether as a destination. -/
inductive RemoteSide where
  | ok (data : List Byte)
  | stop (data : List Byte) (n : Nat) (cause : Cause) (dst : Bool)
  deriving DecidableEq, Repr

/-- A send held in a slot of this module, or a message of another module in flight. -/
inductive Source where
  | slot (core slot : Nat)
  | flight (n : Nat)
  deriving DecidableEq, Repr

/-- A Lupin exchange packet (R202). -/
structure LupPkt where
  seq : Nat
  /-- The epoch of the link direction (R205). -/
  epoch : Nat
  va : Nat
  q : Vector Word 8
  deriving DecidableEq, Repr

/-- A half link as an Aster installs it (R288). -/
structure HalfLink where
  nid : Nat
  peer : Nat
  rd : Bool
  wr : Bool
  rule : Nat
  soff : Nat
  flen : Nat
  nlogs : Nat
  nhsz : Nat
  dst : Word
  rfree : Bool
  /-- What the neighbour's Aster checks: the domain, the face length and rule word of the other direction; and the
  operands that a refusal reports. -/
  dom : Nat
  flenOther : Nat
  ruleOther : Nat
  xb : Word
  xd : Word
  deriving DecidableEq, Repr

/-- What a migrating strand keeps beside its packet (R21, R280): the cycle of its last issue as the receiving module counts,
and, within a module, the block it is bound to with its BNEXT address, and whether that update has been abandoned since, from
a trap handler or not (R305); and the module of its launch, none for this one (R33). -/
structure Carried where
  issued : Option Nat
  bound : Option (Nat × Nat)
  bnext : Word
  gone : Option Bool
  home : Option Nat
  /-- The block of another module to which it is bound, as module, cluster and entry (R280). -/
  far : Option (Nat × Nat × Nat)
  deriving DecidableEq, Repr

/-- Messages. Agents of this module are named by core, cluster or die index; block IDs are those of R281. -/
inductive Msg where
  /-- A completion or remote value for a register of the strand with a serial number (R79, R262). -/
  | fill (uid : Nat) (r : BitVec 4) (v : Word)
  /-- A SEND reply under a token, from a module, under the serial number of the send (R246). -/
  | reply (from_ send : Nat) (token v : Word)
  /-- A remote access for the service slot of a core, from a module, under a transaction tag (R161, R370). -/
  | access (core from_ tag : Nat) (req : RemoteReq)
  /-- The answer to a load or AMO, and the acknowledgement of a store (R161, R168). -/
  | answer (tag : Nat) (a : Answer)
  | ack (tag : Nat) (a : Answer)
  /-- SEND and SEND.SVC entries of another module, under the tag of the send there (R246, R370). -/
  | recvEntry (core from_ send : Nat) (words : Vector Word 4)
  | svcEntry (core from_ send : Nat) (words : Vector Word 4) (handler token sender : Word) (q : Nat)
  /-- Another module withdraws a send that has not been accepted (R246, R356). -/
  | unsend (from_ send : Nat)
  /-- The send under a tag has been accepted by its target on another module, or its reply delivered or discarded there. -/
  | sendAccepted (send : Nat)
  /-- The request under a tag has come to its target on another module, which has no room for it yet (R246, R253). -/
  | noted (tag : Nat)
  /-- The sender, on another module, confirms a send for which a place is kept (R246). -/
  | sendConfirm (core from_ send : Nat)
  /-- A migration packet of R252 for a core, with the serial number under which its place is reserved. -/
  | migrate (core from_ uid : Nat) (carried : Carried) (packet : List Byte)
  /-- A request for a place at a core, under a tag, its withdrawal, and its grant (R253, R356, R370). -/
  | reserve (core from_ uid tag : Nat)
  | unreserve (core from_ uid : Nat)
  | granted (tag : Nat)
  /-- Stealing (R241): thief and victim are cores. -/
  | stealRequest (thief victim : Nat)
  | stealRecord (thief victim tag : Nat) (task : TaskRec)
  | stealEmpty (thief victim : Nat)
  | stealAck (thief victim tag : Nat)
  | stealConfirm (thief victim : Nat)
  | stealVoid (thief victim : Nat)
  /-- The VOID of a thief whose strand has been pre-empted (R242). -/
  | stealReject (thief victim tag : Nat)
  /-- Lupin (R202-R205), on a port. -/
  | lupPacket (port : Nat) (pkt : LupPkt) (base : Nat) (cfg : Word)
  | lupAck (port epoch seq : Nat)
  | lupRefusal (port epoch seq : Nat)
  | reconRequest (port epoch : Nat) (seqs : List Nat)
  | reconReply (port epoch x : Nat) (applied : List Nat)
  /-- Peony (R274): from a module and die, to a die of this module; the number of the step there, by which a copy is known. -/
  | peonyReady (fromM fromD die : Nat) (tag count no : Nat)
  | peonyData (fromM fromD die : Nat) (tag : Nat) (vals : List Nat) (no : Nat)
  | peonyNotice (fromM fromD die : Nat) (tag : Nat)
  /-- Aster (R286, R288, R293, R301): the block and edge slot reached, and the tag of the instruction to confirm to, 0 for none. -/
  | level (block edge from_ : Nat) (l lp : Nat) (done : Bool)
  | linkInstall (block edge : Nat) (half : HalfLink) (waiter : Nat)
  | linkClear (block edge from_ waiter : Nat)
  | rfree (block edge from_ : Nat) (free : Bool) (waiter : Nat)
  | confirm (waiter from_ : Nat)
  /-- The answer to a link installation of a block: from a module, the neighbour's LOGS, HSZ and halo pair, or its refusal
  (R288). -/
  | linked (waiter from_ block nlogs nhsz : Nat) (dst : Word)
  | linkRefused (waiter from_ : Nat) (st : Stop)
  /-- Bytes that an engine of this module writes on another (R263, R302). -/
  | bytes (la : Nat) (data : List Byte)
  /-- A multicast line from a module for physical address dst, under the number of the multicast there, and the answer of a member
  of another module's multicast, with whether it failed (R375). -/
  | multicast (from_ no dst : Nat) (data : List Byte)
  | multicastAck (failed : Bool)
  deriving DecidableEq, Repr

end Sys2Proof
end

