-- ==== Sys2Proof/Syntax.lean ====
section
/-! DEFINITION. The instructions of the Geltil 9 (R63-R72) and the events of its opcode table, one constructor a row.
In an instruction every argument is the field of the word that has its name in the opcode table, the guard p last.
In an event the arguments say which core, slot, queue or message in flight it happens to. -/

namespace Sys2Proof

/-- One row of the opcode table. -/
inductive Instr where
  /-- ADD (R89). -/
  | add (d : BitVec 4) (a : BitVec 4) (b : BitVec 4) (p : BitVec 4)
  /-- SUB (R89). -/
  | sub (d : BitVec 4) (a : BitVec 4) (b : BitVec 4) (p : BitVec 4)
  /-- AND (R89). -/
  | and (d : BitVec 4) (a : BitVec 4) (b : BitVec 4) (p : BitVec 4)
  /-- OR (R89). -/
  | or (d : BitVec 4) (a : BitVec 4) (b : BitVec 4) (p : BitVec 4)
  /-- XOR (R89). -/
  | xor (d : BitVec 4) (a : BitVec 4) (b : BitVec 4) (p : BitVec 4)
  /-- ANDN (R89). -/
  | andn (d : BitVec 4) (a : BitVec 4) (b : BitVec 4) (p : BitVec 4)
  /-- SLL (R89). -/
  | sll (d : BitVec 4) (a : BitVec 4) (b : BitVec 4) (p : BitVec 4)
  /-- SRL (R89). -/
  | srl (d : BitVec 4) (a : BitVec 4) (b : BitVec 4) (p : BitVec 4)
  /-- SRA (R89). -/
  | sra (d : BitVec 4) (a : BitVec 4) (b : BitVec 4) (p : BitVec 4)
  /-- MIN (R89). -/
  | min (d : BitVec 4) (a : BitVec 4) (b : BitVec 4) (p : BitVec 4)
  /-- MAX (R89). -/
  | max (d : BitVec 4) (a : BitVec 4) (b : BitVec 4) (p : BitVec 4)
  /-- MINU (R89). -/
  | minu (d : BitVec 4) (a : BitVec 4) (b : BitVec 4) (p : BitVec 4)
  /-- MAXU (R89). -/
  | maxu (d : BitVec 4) (a : BitVec 4) (b : BitVec 4) (p : BitVec 4)
  /-- MUL (R89). -/
  | mul (d : BitVec 4) (a : BitVec 4) (b : BitVec 4) (p : BitVec 4)
  /-- MULH (R89). -/
  | mulh (d : BitVec 4) (a : BitVec 4) (b : BitVec 4) (p : BitVec 4)
  /-- MULHU (R89). -/
  | mulhu (d : BitVec 4) (a : BitVec 4) (b : BitVec 4) (p : BitVec 4)
  /-- DIV (R90). -/
  | div (d : BitVec 4) (a : BitVec 4) (b : BitVec 4) (p : BitVec 4)
  /-- DIVU (R90). -/
  | divu (d : BitVec 4) (a : BitVec 4) (b : BitVec 4) (p : BitVec 4)
  /-- REM (R90). -/
  | rem (d : BitVec 4) (a : BitVec 4) (b : BitVec 4) (p : BitVec 4)
  /-- REMU (R90). -/
  | remu (d : BitVec 4) (a : BitVec 4) (b : BitVec 4) (p : BitVec 4)
  /-- CLZ (R89). -/
  | clz (d : BitVec 4) (a : BitVec 4) (p : BitVec 4)
  /-- POPC (R89). -/
  | popc (d : BitVec 4) (a : BitVec 4) (p : BitVec 4)
  /-- SEXT_B (R89). -/
  | sextB (d : BitVec 4) (a : BitVec 4) (p : BitVec 4)
  /-- SEXT_H (R89). -/
  | sextH (d : BitVec 4) (a : BitVec 4) (p : BitVec 4)
  /-- SEXT_W (R89). -/
  | sextW (d : BitVec 4) (a : BitVec 4) (p : BitVec 4)
  /-- ZEXT_B (R89). -/
  | zextB (d : BitVec 4) (a : BitVec 4) (p : BitVec 4)
  /-- ZEXT_H (R89). -/
  | zextH (d : BitVec 4) (a : BitVec 4) (p : BitVec 4)
  /-- ZEXT_W (R89). -/
  | zextW (d : BitVec 4) (a : BitVec 4) (p : BitVec 4)
  /-- SEL (R89). -/
  | sel (d : BitVec 4) (a : BitVec 4) (b : BitVec 4) (n : BitVec 3) (p : BitVec 4)
  /-- NOP (R101). -/
  | nop
  /-- ADDI (R91). -/
  | addi (d : BitVec 4) (a : BitVec 4) (i : BitVec 14) (p : BitVec 4)
  /-- ANDI (R91). -/
  | andi (d : BitVec 4) (a : BitVec 4) (i : BitVec 14) (p : BitVec 4)
  /-- ORI (R91). -/
  | ori (d : BitVec 4) (a : BitVec 4) (i : BitVec 14) (p : BitVec 4)
  /-- XORI (R91). -/
  | xori (d : BitVec 4) (a : BitVec 4) (i : BitVec 14) (p : BitVec 4)
  /-- SLLI (R92). -/
  | slli (d : BitVec 4) (a : BitVec 4) (s : BitVec 6) (p : BitVec 4)
  /-- SRLI (R92). -/
  | srli (d : BitVec 4) (a : BitVec 4) (s : BitVec 6) (p : BitVec 4)
  /-- SRAI (R92). -/
  | srai (d : BitVec 4) (a : BitVec 4) (s : BitVec 6) (p : BitVec 4)
  /-- MOVI (R93). -/
  | movi (d : BitVec 4) (i : BitVec 18) (p : BitVec 4)
  /-- MOVHI (R93). -/
  | movhi (d : BitVec 4) (i : BitVec 18) (p : BitVec 4)
  /-- LDK (R94). -/
  | ldk (d : BitVec 4) (k : BitVec 8) (p : BitVec 4)
  /-- ADDK (R94). -/
  | addk (d : BitVec 4) (a : BitVec 4) (k : BitVec 8) (p : BitVec 4)
  /-- CMP (R97). -/
  | cmp (d : BitVec 3) (a : BitVec 4) (b : BitVec 4) (c : BitVec 3) (p : BitVec 4)
  /-- CMPI (R97). -/
  | cmpi (d : BitVec 3) (a : BitVec 4) (c : BitVec 3) (i : BitVec 11) (p : BitVec 4)
  /-- PAND (R98). -/
  | pand (d : BitVec 3) (a : BitVec 3) (b : BitVec 3) (p : BitVec 4)
  /-- POR (R98). -/
  | por (d : BitVec 3) (a : BitVec 3) (b : BitVec 3) (p : BitVec 4)
  /-- PXOR (R98). -/
  | pxor (d : BitVec 3) (a : BitVec 3) (b : BitVec 3) (p : BitVec 4)
  /-- PNOT (R98). -/
  | pnot (d : BitVec 3) (a : BitVec 3) (p : BitVec 4)
  /-- PRD (R98). -/
  | prd (d : BitVec 4) (p : BitVec 4)
  /-- PWR (R98). -/
  | pwr (m : BitVec 3) (a : BitVec 4) (p : BitVec 4)
  /-- BFX (R95). -/
  | bfx (d : BitVec 4) (a : BitVec 4) (s : BitVec 6) (w : BitVec 6) (p : BitVec 4)
  /-- BFI (R95). -/
  | bfi (d : BitVec 4) (a : BitVec 4) (s : BitVec 6) (w : BitVec 6) (p : BitVec 4)
  /-- BR (R99). -/
  | br (i : BitVec 22) (p : BitVec 4)
  /-- CALL (R99). -/
  | call (i : BitVec 22) (p : BitVec 4)
  /-- JMPR (R99). -/
  | jmpr (a : BitVec 4) (p : BitVec 4)
  /-- CALLR (R99). -/
  | callr (a : BitVec 4) (p : BitVec 4)
  /-- RET (R99). -/
  | ret (p : BitVec 4)
  /-- LEA_B (R96). -/
  | leaB (d : BitVec 4) (a : BitVec 4) (o : BitVec 12) (p : BitVec 4)
  /-- LEA_H (R96). -/
  | leaH (d : BitVec 4) (a : BitVec 4) (o : BitVec 12) (p : BitVec 4)
  /-- LEA_W (R96). -/
  | leaW (d : BitVec 4) (a : BitVec 4) (o : BitVec 12) (p : BitVec 4)
  /-- LEA_D (R96). -/
  | leaD (d : BitVec 4) (a : BitVec 4) (o : BitVec 12) (p : BitVec 4)
  /-- LDBU (R155). -/
  | ldbu (d : BitVec 4) (a : BitVec 4) (o : BitVec 12) (p : BitVec 4)
  /-- LDHU (R155). -/
  | ldhu (d : BitVec 4) (a : BitVec 4) (o : BitVec 12) (p : BitVec 4)
  /-- LDWU (R155). -/
  | ldwu (d : BitVec 4) (a : BitVec 4) (o : BitVec 12) (p : BitVec 4)
  /-- LDD (R155). -/
  | ldd (d : BitVec 4) (a : BitVec 4) (o : BitVec 12) (p : BitVec 4)
  /-- STB (R155). -/
  | stb (s : BitVec 4) (a : BitVec 4) (o : BitVec 12) (p : BitVec 4)
  /-- STH (R155). -/
  | sth (s : BitVec 4) (a : BitVec 4) (o : BitVec 12) (p : BitVec 4)
  /-- STW (R155). -/
  | stw (s : BitVec 4) (a : BitVec 4) (o : BitVec 12) (p : BitVec 4)
  /-- STD (R155). -/
  | std (s : BitVec 4) (a : BitVec 4) (o : BitVec 12) (p : BitVec 4)
  /-- LDM (R157). -/
  | ldm (d : BitVec 4) (a : BitVec 4) (b : BitVec 4) (p : BitVec 4)
  /-- STM (R157). -/
  | stm (d : BitVec 4) (a : BitVec 4) (b : BitVec 4) (p : BitVec 4)
  /-- LDB (R155). -/
  | ldb (d : BitVec 4) (a : BitVec 4) (b : BitVec 4) (p : BitVec 4)
  /-- LDH (R155). -/
  | ldh (d : BitVec 4) (a : BitVec 4) (b : BitVec 4) (p : BitVec 4)
  /-- LDW (R155). -/
  | ldw (d : BitVec 4) (a : BitVec 4) (b : BitVec 4) (p : BitVec 4)
  /-- LDB_ACQ (R168). -/
  | ldbAcq (d : BitVec 4) (a : BitVec 4) (b : BitVec 4) (p : BitVec 4)
  /-- LDH_ACQ (R168). -/
  | ldhAcq (d : BitVec 4) (a : BitVec 4) (b : BitVec 4) (p : BitVec 4)
  /-- LDW_ACQ (R168). -/
  | ldwAcq (d : BitVec 4) (a : BitVec 4) (b : BitVec 4) (p : BitVec 4)
  /-- LDD_ACQ (R168). -/
  | lddAcq (d : BitVec 4) (a : BitVec 4) (b : BitVec 4) (p : BitVec 4)
  /-- LDBU_ACQ (R168). -/
  | ldbuAcq (d : BitVec 4) (a : BitVec 4) (b : BitVec 4) (p : BitVec 4)
  /-- LDHU_ACQ (R168). -/
  | ldhuAcq (d : BitVec 4) (a : BitVec 4) (b : BitVec 4) (p : BitVec 4)
  /-- LDWU_ACQ (R168). -/
  | ldwuAcq (d : BitVec 4) (a : BitVec 4) (b : BitVec 4) (p : BitVec 4)
  /-- LDB_SC (R169). -/
  | ldbSc (d : BitVec 4) (a : BitVec 4) (b : BitVec 4) (p : BitVec 4)
  /-- LDH_SC (R169). -/
  | ldhSc (d : BitVec 4) (a : BitVec 4) (b : BitVec 4) (p : BitVec 4)
  /-- LDW_SC (R169). -/
  | ldwSc (d : BitVec 4) (a : BitVec 4) (b : BitVec 4) (p : BitVec 4)
  /-- LDD_SC (R169). -/
  | lddSc (d : BitVec 4) (a : BitVec 4) (b : BitVec 4) (p : BitVec 4)
  /-- LDBU_SC (R169). -/
  | ldbuSc (d : BitVec 4) (a : BitVec 4) (b : BitVec 4) (p : BitVec 4)
  /-- LDHU_SC (R169). -/
  | ldhuSc (d : BitVec 4) (a : BitVec 4) (b : BitVec 4) (p : BitVec 4)
  /-- LDWU_SC (R169). -/
  | ldwuSc (d : BitVec 4) (a : BitVec 4) (b : BitVec 4) (p : BitVec 4)
  /-- STB_REL (R168). -/
  | stbRel (s : BitVec 4) (a : BitVec 4) (b : BitVec 4) (p : BitVec 4)
  /-- STH_REL (R168). -/
  | sthRel (s : BitVec 4) (a : BitVec 4) (b : BitVec 4) (p : BitVec 4)
  /-- STW_REL (R168). -/
  | stwRel (s : BitVec 4) (a : BitVec 4) (b : BitVec 4) (p : BitVec 4)
  /-- STD_REL (R168). -/
  | stdRel (s : BitVec 4) (a : BitVec 4) (b : BitVec 4) (p : BitVec 4)
  /-- STB_SC (R169). -/
  | stbSc (s : BitVec 4) (a : BitVec 4) (b : BitVec 4) (p : BitVec 4)
  /-- STH_SC (R169). -/
  | sthSc (s : BitVec 4) (a : BitVec 4) (b : BitVec 4) (p : BitVec 4)
  /-- STW_SC (R169). -/
  | stwSc (s : BitVec 4) (a : BitVec 4) (b : BitVec 4) (p : BitVec 4)
  /-- STD_SC (R169). -/
  | stdSc (s : BitVec 4) (a : BitVec 4) (b : BitVec 4) (p : BitVec 4)
  /-- VLD (R158). -/
  | vld (v : BitVec 3) (a : BitVec 4) (b : BitVec 4) (t : BitVec 3) (k : BitVec 2) (p : BitVec 4)
  /-- VST (R158). -/
  | vst (v : BitVec 3) (a : BitVec 4) (b : BitVec 4) (t : BitVec 3) (k : BitVec 2) (p : BitVec 4)
  /-- VLDS (R158). -/
  | vlds (v : BitVec 3) (a : BitVec 4) (b : BitVec 4) (t : BitVec 3) (k : BitVec 2) (p : BitVec 4)
  /-- VSTS (R158). -/
  | vsts (v : BitVec 3) (a : BitVec 4) (b : BitVec 4) (t : BitVec 3) (k : BitVec 2) (p : BitVec 4)
  /-- VGATH (R158). -/
  | vgath (v : BitVec 3) (a : BitVec 4) (i : BitVec 3) (t : BitVec 3) (k : BitVec 2) (p : BitVec 4)
  /-- VSCAT (R158). -/
  | vscat (v : BitVec 3) (a : BitVec 4) (i : BitVec 3) (t : BitVec 3) (k : BitVec 2) (p : BitVec 4)
  /-- PREF (R159). -/
  | pref (a : BitVec 4) (b : BitVec 3) (p : BitVec 4)
  /-- AMO_ADD (R217). -/
  | amoAdd (d : BitVec 4) (a : BitVec 4) (b : BitVec 4) (z : BitVec 1) (s : BitVec 1) (p : BitVec 4)
  /-- AMO_MIN (R217). -/
  | amoMin (d : BitVec 4) (a : BitVec 4) (b : BitVec 4) (z : BitVec 1) (s : BitVec 1) (p : BitVec 4)
  /-- AMO_MAX (R217). -/
  | amoMax (d : BitVec 4) (a : BitVec 4) (b : BitVec 4) (z : BitVec 1) (s : BitVec 1) (p : BitVec 4)
  /-- AMO_AND (R217). -/
  | amoAnd (d : BitVec 4) (a : BitVec 4) (b : BitVec 4) (z : BitVec 1) (s : BitVec 1) (p : BitVec 4)
  /-- AMO_OR (R217). -/
  | amoOr (d : BitVec 4) (a : BitVec 4) (b : BitVec 4) (z : BitVec 1) (s : BitVec 1) (p : BitVec 4)
  /-- AMO_XOR (R217). -/
  | amoXor (d : BitVec 4) (a : BitVec 4) (b : BitVec 4) (z : BitVec 1) (s : BitVec 1) (p : BitVec 4)
  /-- AMO_SWAP (R217). -/
  | amoSwap (d : BitVec 4) (a : BitVec 4) (b : BitVec 4) (z : BitVec 1) (s : BitVec 1) (p : BitVec 4)
  /-- AMO_CAS (R217). -/
  | amoCas (d : BitVec 4) (a : BitVec 4) (b : BitVec 4) (z : BitVec 1) (s : BitVec 1) (p : BitVec 4)
  /-- AMO_ORD_ADD (R220). -/
  | amoOrdAdd (d : BitVec 4) (a : BitVec 4) (b : BitVec 4) (p : BitVec 4)
  /-- AMO_ORD_FADD (R220). -/
  | amoOrdFadd (d : BitVec 4) (a : BitVec 4) (b : BitVec 4) (p : BitVec 4)
  /-- AMO_ORD_SWAP (R220). -/
  | amoOrdSwap (d : BitVec 4) (a : BitVec 4) (b : BitVec 4) (p : BitVec 4)
  /-- FRED (R223). -/
  | fred (d : BitVec 4) (a : BitVec 4) (p : BitVec 4)
  /-- FENCE_ACQ (R231). -/
  | fenceAcq (s : BitVec 3) (p : BitVec 4)
  /-- FENCE_REL (R231). -/
  | fenceRel (s : BitVec 3) (p : BitVec 4)
  /-- FENCE_FULL (R231). -/
  | fenceFull (s : BitVec 3) (p : BitVec 4)
  /-- MON (R225). -/
  | mon (a : BitVec 4) (p : BitVec 4)
  /-- MUNM (R226). -/
  | munm (p : BitVec 4)
  /-- MWAIT (R228). -/
  | mwait (d : BitVec 4) (a : BitVec 4) (p : BitVec 4)
  /-- BARI (R333). -/
  | bari (a : BitVec 4) (b : BitVec 4) (p : BitVec 4)
  /-- BARV (R334). -/
  | barv (d : BitVec 4) (a : BitVec 4) (p : BitVec 4)
  /-- BARW (R335). -/
  | barw (a : BitVec 4) (b : BitVec 4) (p : BitVec 4)
  /-- SYNCI (R330). -/
  | synci (a : BitVec 4) (b : BitVec 4) (p : BitVec 4)
  /-- DIGEST (R338). -/
  | digest (d : BitVec 4) (p : BitVec 4)
  /-- VADD (R107). -/
  | vadd (d : BitVec 3) (a : BitVec 3) (b : BitVec 3) (k : BitVec 2) (t : BitVec 3) (p : BitVec 4)
  /-- VSUB (R107). -/
  | vsub (d : BitVec 3) (a : BitVec 3) (b : BitVec 3) (k : BitVec 2) (t : BitVec 3) (p : BitVec 4)
  /-- VMUL (R107). -/
  | vmul (d : BitVec 3) (a : BitVec 3) (b : BitVec 3) (k : BitVec 2) (t : BitVec 3) (p : BitVec 4)
  /-- VFMA (R107). -/
  | vfma (d : BitVec 3) (a : BitVec 3) (b : BitVec 3) (k : BitVec 2) (t : BitVec 3) (p : BitVec 4)
  /-- VMIN (R109). -/
  | vmin (d : BitVec 3) (a : BitVec 3) (b : BitVec 3) (k : BitVec 2) (t : BitVec 3) (p : BitVec 4)
  /-- VMAX (R109). -/
  | vmax (d : BitVec 3) (a : BitVec 3) (b : BitVec 3) (k : BitVec 2) (t : BitVec 3) (p : BitVec 4)
  /-- VABS (R107). -/
  | vabs (d : BitVec 3) (a : BitVec 3) (k : BitVec 2) (t : BitVec 3) (p : BitVec 4)
  /-- VNEG (R107). -/
  | vneg (d : BitVec 3) (a : BitVec 3) (k : BitVec 2) (t : BitVec 3) (p : BitVec 4)
  /-- VAND (R107). -/
  | vand (d : BitVec 3) (a : BitVec 3) (b : BitVec 3) (k : BitVec 2) (t : BitVec 3) (p : BitVec 4)
  /-- VOR (R107). -/
  | vor (d : BitVec 3) (a : BitVec 3) (b : BitVec 3) (k : BitVec 2) (t : BitVec 3) (p : BitVec 4)
  /-- VXOR (R107). -/
  | vxor (d : BitVec 3) (a : BitVec 3) (b : BitVec 3) (k : BitVec 2) (t : BitVec 3) (p : BitVec 4)
  /-- VSHL (R110). -/
  | vshl (d : BitVec 3) (a : BitVec 3) (b : BitVec 3) (k : BitVec 2) (t : BitVec 3) (p : BitVec 4)
  /-- VSHR (R110). -/
  | vshr (d : BitVec 3) (a : BitVec 3) (b : BitVec 3) (k : BitVec 2) (t : BitVec 3) (p : BitVec 4)
  /-- VCVT (R111). -/
  | vcvt (d : BitVec 3) (a : BitVec 3) (r : BitVec 2) (t : BitVec 3) (o : BitVec 3) (p : BitVec 4)
  /-- VPERM (R113). -/
  | vperm (d : BitVec 3) (a : BitVec 3) (b : BitVec 3) (k : BitVec 2) (t : BitVec 3) (p : BitVec 4)
  /-- VBCAST (R114). -/
  | vbcast (g : BitVec 4) (v : BitVec 3) (t : BitVec 3) (p : BitVec 4)
  /-- VEXT (R114). -/
  | vext (g : BitVec 4) (i : BitVec 4) (v : BitVec 3) (t : BitVec 3) (p : BitVec 4)
  /-- VINS (R114). -/
  | vins (g : BitVec 4) (i : BitVec 4) (v : BitVec 3) (t : BitVec 3) (p : BitVec 4)
  /-- VRCP (R115). -/
  | vrcp (d : BitVec 3) (a : BitVec 3) (k : BitVec 2) (t : BitVec 3) (p : BitVec 4)
  /-- VRSQ (R115). -/
  | vrsq (d : BitVec 3) (a : BitVec 3) (k : BitVec 2) (t : BitVec 3) (p : BitVec 4)
  /-- VEXP2 (R115). -/
  | vexp2 (d : BitVec 3) (a : BitVec 3) (k : BitVec 2) (t : BitVec 3) (p : BitVec 4)
  /-- VLOG2 (R115). -/
  | vlog2 (d : BitVec 3) (a : BitVec 3) (k : BitVec 2) (t : BitVec 3) (p : BitVec 4)
  /-- VRED_SUM (R117). -/
  | vredSum (g : BitVec 4) (k : BitVec 2) (v : BitVec 3) (t : BitVec 3) (p : BitVec 4)
  /-- VRED_MIN (R117). -/
  | vredMin (g : BitVec 4) (k : BitVec 2) (v : BitVec 3) (t : BitVec 3) (p : BitVec 4)
  /-- VRED_MAX (R117). -/
  | vredMax (g : BitVec 4) (k : BitVec 2) (v : BitVec 3) (t : BitVec 3) (p : BitVec 4)
  /-- VSCAN (R118). -/
  | vscan (d : BitVec 3) (a : BitVec 3) (k : BitVec 2) (t : BitVec 3) (p : BitVec 4)
  /-- VDOT (R119). -/
  | vdot (d : BitVec 3) (a : BitVec 3) (b : BitVec 3) (k : BitVec 2) (t : BitVec 3) (p : BitVec 4)
  /-- VCMP (R116). -/
  | vcmp (m : BitVec 2) (a : BitVec 3) (b : BitVec 3) (k : BitVec 2) (t : BitVec 3) (c : BitVec 3) (p : BitVec 4)
  /-- VSEL (R113). -/
  | vsel (d : BitVec 3) (a : BitVec 3) (b : BitVec 3) (k : BitVec 2) (t : BitVec 3) (p : BitVec 4)
  /-- MMA_BB (R129). -/
  | mmaBb (c : BitVec 2) (a : BitVec 3) (b : BitVec 3) (s : BitVec 4) (l : BitVec 4) (p : BitVec 4)
  /-- MMA_HH (R129). -/
  | mmaHh (c : BitVec 2) (a : BitVec 3) (b : BitVec 3) (s : BitVec 4) (l : BitVec 4) (p : BitVec 4)
  /-- MMA_QQ (R129). -/
  | mmaQq (c : BitVec 2) (a : BitVec 3) (b : BitVec 3) (s : BitVec 4) (l : BitVec 4) (p : BitVec 4)
  /-- MMA_WW (R129). -/
  | mmaWw (c : BitVec 2) (a : BitVec 3) (b : BitVec 3) (s : BitVec 4) (l : BitVec 4) (p : BitVec 4)
  /-- MMA_QW (R129). -/
  | mmaQw (c : BitVec 2) (a : BitVec 3) (b : BitVec 3) (s : BitVec 4) (l : BitVec 4) (p : BitVec 4)
  /-- MMA_NN (R129). -/
  | mmaNn (c : BitVec 2) (a : BitVec 3) (b : BitVec 3) (s : BitVec 4) (l : BitVec 4) (p : BitVec 4)
  /-- MMA_LL (R129). -/
  | mmaLl (c : BitVec 2) (a : BitVec 3) (b : BitVec 3) (s : BitVec 4) (l : BitVec 4) (p : BitVec 4)
  /-- MMA_II (R129). -/
  | mmaIi (c : BitVec 2) (a : BitVec 3) (b : BitVec 3) (l : BitVec 4) (p : BitVec 4)
  /-- MCFG (R122). -/
  | mcfg (s : BitVec 4) (p : BitVec 4)
  /-- MZERO (R136). -/
  | mzero (c : BitVec 2) (p : BitVec 4)
  /-- MRD (R137). -/
  | mrd (c : BitVec 2) (v : BitVec 3) (s : BitVec 4) (p : BitVec 4)
  /-- MWR (R137). -/
  | mwr (c : BitVec 2) (v : BitVec 3) (s : BitVec 4) (p : BitVec 4)
  /-- MSAVE (R138). -/
  | msave (c : BitVec 2) (s : BitVec 4) (p : BitVec 4)
  /-- MLOAD (R138). -/
  | mload (c : BitVec 2) (s : BitVec 4) (p : BitVec 4)
  /-- QAXIS (R175). -/
  | qaxis (e : BitVec 2) (a : BitVec 4) (b : BitVec 4) (p : BitVec 4)
  /-- QST (R179). -/
  | qst (e : BitVec 2) (v : BitVec 3) (a : BitVec 4) (b : BitVec 4) (q : BitVec 3) (p : BitVec 4)
  /-- QSTA (R179). -/
  | qsta (e : BitVec 2) (c : BitVec 2) (a : BitVec 4) (b : BitVec 4) (q : BitVec 3) (p : BitVec 4)
  /-- QRES_R (R184). -/
  | qresR (e : BitVec 2) (v : BitVec 3) (p : BitVec 4)
  /-- QRES_W (R184). -/
  | qresW (e : BitVec 2) (v : BitVec 3) (p : BitVec 4)
  /-- GCFG (R191). -/
  | gcfg (d : BitVec 4) (a : BitVec 4) (b : BitVec 4) (p : BitVec 4)
  /-- GSEED (R194). -/
  | gseed (v : BitVec 3) (a : BitVec 4) (b : BitVec 4) (p : BitVec 4)
  /-- GADD (R195). -/
  | gadd (v : BitVec 3) (a : BitVec 4) (b : BitVec 4) (p : BitVec 4)
  /-- GLD (R196). -/
  | gld (v : BitVec 3) (a : BitVec 4) (b : BitVec 4) (p : BitVec 4)
  /-- GSPRD (R197). -/
  | gsprd (d : BitVec 3) (a : BitVec 4) (b : BitVec 4) (p : BitVec 4)
  /-- GFENCE (R198). -/
  | gfence (p : BitVec 4)
  /-- GMASS (R199). -/
  | gmass (d : BitVec 4) (a : BitVec 4) (b : BitVec 4) (p : BitVec 4)
  /-- SPAWN (R237). -/
  | spawn (a : BitVec 4) (i : BitVec 12) (p : BitVec 4)
  /-- JOIN (R239). -/
  | join (a : BitVec 4) (p : BitVec 4)
  /-- TEND (R238). -/
  | tend (a : BitVec 4) (p : BitVec 4)
  /-- SEND (R246). -/
  | send (d : BitVec 4) (a : BitVec 4) (n : BitVec 2) (p : BitVec 4)
  /-- SEND_SVC (R246). -/
  | sendSvc (d : BitVec 4) (a : BitVec 4) (b : BitVec 4) (n : BitVec 2) (p : BitVec 4)
  /-- RECV (R248). -/
  | recv (d : BitVec 4) (a : BitVec 4) (n : BitVec 2) (p : BitVec 4)
  /-- MIG (R254). -/
  | mig (a : BitVec 4) (p : BitVec 4)
  /-- CPY (R263). -/
  | cpy (d : BitVec 4) (a : BitVec 4) (b : BitVec 4) (p : BitVec 4)
  /-- CPYR (R266). -/
  | cpyr (d : BitVec 4) (a : BitVec 4) (b : BitVec 4) (p : BitVec 4)
  /-- RPUSH (R269). -/
  | rpush (d : BitVec 4) (a : BitVec 4) (b : BitVec 4) (p : BitVec 4)
  /-- QFENCE (R276). -/
  | qfence (a : BitVec 4) (p : BitVec 4)
  /-- COLL (R275). -/
  | coll (d : BitVec 4) (a : BitVec 4) (b : BitVec 4) (p : BitVec 4)
  /-- COLLW (R275). -/
  | collw (d : BitVec 4) (a : BitVec 4) (b : BitVec 4) (p : BitVec 4)
  /-- BDEF (R286). -/
  | bdef (d : BitVec 4) (a : BitVec 4) (b : BitVec 4) (p : BitVec 4)
  /-- BNBR (R288). -/
  | bnbr (a : BitVec 4) (b : BitVec 4) (p : BitVec 4)
  /-- BRULE (R293). -/
  | brule (a : BitVec 4) (b : BitVec 4) (p : BitVec 4)
  /-- BSTART (R294). -/
  | bstart (a : BitVec 4) (b : BitVec 4) (p : BitVec 4)
  /-- BNEXT (R297). -/
  | bnext (p : BitVec 4)
  /-- BCOMMIT (R300). -/
  | bcommit (p : BitVec 4)
  /-- BCOMMIT_C (R299). -/
  | bcommitC (p : BitVec 4)
  /-- BLVL (R310). -/
  | blvl (d : BitVec 4) (a : BitVec 4) (p : BitVec 4)
  /-- BFRZ_B (R305). -/
  | bfrzB (p : BitVec 4)
  /-- BFRZ_D (R309). -/
  | bfrzD (d : BitVec 4) (a : BitVec 4) (p : BitVec 4)
  /-- BTHAW (R309). -/
  | bthaw (a : BitVec 4) (p : BitVec 4)
  /-- BFRONT (R311). -/
  | bfront (d : BitVec 4) (a : BitVec 4) (b : BitVec 4) (p : BitVec 4)
  /-- CSRR (R141). -/
  | csrr (d : BitVec 4) (c : BitVec 12) (p : BitVec 4)
  /-- CSRW (R141). -/
  | csrw (d : BitVec 4) (a : BitVec 4) (c : BitVec 12) (p : BitVec 4)
  /-- CSRS (R141). -/
  | csrs (d : BitVec 4) (a : BitVec 4) (c : BitVec 12) (p : BitVec 4)
  /-- CSRC (R141). -/
  | csrc (d : BitVec 4) (a : BitVec 4) (c : BitVec 12) (p : BitVec 4)
  /-- TRAP (R345). -/
  | trap (i : BitVec 12) (p : BitVec 4)
  /-- RFT (R346). -/
  | rft (p : BitVec 4)
  /-- HALT (R347). -/
  | halt (p : BitVec 4)
  /-- YIELD (R348). -/
  | yield (p : BitVec 4)
  /-- STRAND_INTERVAL_END (R21). Eight cycles after its issue a strand leaves INTERVAL for READY. -/
  | strandIntervalEnd (c : Nat) (n : Nat)
  /-- SERVICE_FORCED_ISSUE (R23). A service slot ready for 64 cycles takes the next cycle ahead of issue slots. -/
  | serviceForcedIssue (c : Nat)
  /-- ROTATION_BOUNDARY (R321). Every 1,024 cycles each core rewrites the owners of its EMPTY slots by weight. -/
  | rotationBoundary
  /-- STRAND_PLACEMENT (R33). An EMPTY slot takes the oldest fitting waiting strand. -/
  | strandPlacement (c : Nat) (n : Nat)
  /-- REGISTER_FILL (R79). A reply, completion or remote value fills an empty g register. -/
  | registerFill (n : Nat)
  /-- LOAD_COMPLETE (R156). A load in WAIT receives its data, writes gd and leaves WAIT. -/
  | loadComplete (c : Nat) (n : Nat)
  /-- STORE_BUFFER_DRAIN (R162). The oldest store buffer entry is performed in memory and frees its entry. -/
  | storeBufferDrain (c : Nat)
  /-- SC_WINDOW_CLOSE (R169). At the end of each 16-cycle window the SC operations of the module are performed in order. -/
  | scWindowClose
  /-- REQUESTER_TIMEOUT (R370). A request with no reply within FTO cycles ends with REMOTE_TIMEOUT. -/
  | requesterTimeout (tag : Nat)
  /-- PACKET_AGE_EXPIRY (R370). A packet whose age reaches 2^24 cycles is discarded. -/
  | packetAgeExpiry (n : Nat)
  /-- REMOTE_ACCESS_PERFORM (R161). The service slot performs an arrived remote load, store or AMO and replies. -/
  | remoteAccessPerform (c : Nat)
  /-- SERVICE_QUEUE_ENTRY (R247). An active message or remote access enters a core's service queue. -/
  | serviceQueueEntry (src : Source)
  /-- SERVICE_HANDLER_START (R247). The service slot starts the next handler with its message registers. -/
  | serviceHandlerStart (c : Nat)
  /-- RECEIVE_QUEUE_ENTRY (R246). A SEND entry is accepted into a core's receive queue. -/
  | receiveQueueEntry (src : Source)
  /-- SEND_ACCEPT (R246). A send held at the sender is accepted when its target queue has room. -/
  | sendAccept (c : Nat) (n : Nat)
  /-- SEND_ACCEPT_TIMEOUT (R246). A send not accepted within 2^26 cycles traps with QUEUE_WAIT_LIMIT. -/
  | sendAcceptTimeout (c : Nat) (n : Nat)
  /-- RECV_WAIT_LIMIT (R248). A RECV assigned no entry within its limit traps with QUEUE_WAIT_LIMIT. -/
  | recvWaitLimit (c : Nat) (n : Nat)
  /-- MWAIT_TIMEOUT (R228). An MWAIT time-out expires and writes code 1. -/
  | mwaitTimeout (c : Nat) (n : Nat)
  /-- MONITOR_REGISTERED (R225). A MON's line is registered at its home and the strand leaves WAIT. -/
  | monitorRegistered (c : Nat) (n : Nat)
  /-- AMO_PERFORM (R218). The home forwards a line to the next AMO requester, which performs its operation and releases it. -/
  | amoPerform (c : Nat) (n : Nat)
  /-- ORD_ENTRY_ARRIVAL (R221). An AMO.ORD entry reaches its home slice and is applied, held or refused. -/
  | ordEntryArrival (c : Nat) (n : Nat)
  /-- ORD_REPLY (R221). The result or refusal of an AMO.ORD entry reaches its strand. -/
  | ordReply (c : Nat) (n : Nat)
  /-- ORD_NACK (R222). A NACK reaches the requesting core, which schedules a resend. -/
  | ordNack (c : Nat) (n : Nat)
  /-- ORD_RESEND (R222). After its back-off a NACKed entry is sent again. -/
  | ordResend (c : Nat) (n : Nat)
  /-- ORD_TIMEOUT (R222). An entry unapplied after 2^26 cycles is withdrawn and traps with QUEUE_WAIT_LIMIT. -/
  | ordTimeout (c : Nat) (n : Nat)
  /-- FRED_UPDATE (R223). A FRED update is applied to its slot at the home slice. -/
  | fredUpdate (c : Nat) (n : Nat)
  /-- AVG_ENTRY_APPLY (R200). A GSEED or GADD entry is applied atomically at its home slice. -/
  | avgEntryApply (c : Nat)
  /-- LUPIN_EXCHANGE (R201). At each region interval a Lupin engine examines lines and sends a halved line. -/
  | lupinExchange (port : Nat)
  /-- LUPIN_PACKET_ARRIVAL (R203). An exchange packet is applied, refused or treated as a duplicate at the receiver. -/
  | lupinPacketArrival (n : Nat)
  /-- LUPIN_ACK (R204). An acknowledgement removes the packet's halves from escrow. -/
  | lupinAck (n : Nat)
  /-- LUPIN_REFUSAL (R204). A refusal returns the halves to the line and removes them from escrow. -/
  | lupinRefusal (n : Nat)
  /-- LUPIN_RETRY (R202). An unacknowledged packet is resent after the link retry interval. -/
  | lupinRetry (port : Nat)
  /-- RECONCILIATION_REQUEST (R205). The receiver answers a reconciliation request with X and its answers. -/
  | reconciliationRequest (n : Nat)
  /-- RECONCILIATION_REPLY (R205). The sender settles outstanding packets and both ends start a new epoch. -/
  | reconciliationReply (n : Nat)
  /-- STEAL_REQUEST (R241). A victim lends its top entry to a thief or answers EMPTY. -/
  | stealRequest (n : Nat)
  /-- STEAL_RECORD (R241). A lent record reaches the thief, which answers ACK. -/
  | stealRecord (n : Nat)
  /-- STEAL_EMPTY (R241). An EMPTY answer makes the thief try the next victim. -/
  | stealEmpty (n : Nat)
  /-- STEAL_ACK (R241). The victim deletes a still-lent entry and answers CONFIRM, or answers VOID. -/
  | stealAck (n : Nat)
  /-- STEAL_CONFIRM (R242). The thief's core resumes the record in an idle strand or pushes it on its deque. -/
  | stealConfirm (n : Nat)
  /-- STEAL_VOID (R241). The thief discards the record and tries the next victim. -/
  | stealVoid (n : Nat)
  /-- LENT_TIMEOUT (R241). An entry lent for 4,096 cycles loses its mark. -/
  | lentTimeout (c : Nat)
  /-- MIGRATION_DEPARTURE (R251). A strand whose conditions hold leaves its slot with its context packet. -/
  | migrationDeparture (c : Nat) (n : Nat)
  /-- MIGRATION_ARRIVAL (R252). A migration packet reaches its reserved place at the home core. -/
  | migrationArrival (n : Nat)
  /-- MMA_START (R130). An engine starts a waiting MMA when it is idle and its head slots hold tiles. -/
  | mmaStart (k : Nat) (e : Nat)
  /-- MMA_RETIRE (R129). A started MMA retires, writes its tile, pops rings and merges flags. -/
  | mmaRetire (k : Nat) (e : Nat)
  /-- RING_WAIT_LIMIT (R271). An MMA or RPUSH waiting past 2^WLIM cycles traps with QUEUE_WAIT_LIMIT. -/
  | ringWaitLimit (c : Nat) (n : Nat)
  /-- RPUSH_RESERVE (R269). A waiting RPUSH reserves a slot when the ring has room and queues its fill. -/
  | rpushReserve (c : Nat) (n : Nat)
  /-- SLOT_PUBLISH (R270). A filled slot and every earlier reserved slot are published. -/
  | slotPublish (k : Nat) (r : Nat)
  /-- RING_DISABLE_EFFECT (R268). Clearing EN takes effect once started MMAs retire and reserved slots publish. -/
  | ringDisableEffect (k : Nat) (r : Nat)
  /-- COMMAND_START (R260). An engine command starts after the command ahead of it completes. -/
  | commandStart (k : Nat) (q : Nat)
  /-- COPY_CHUNK (R263). A copy chunk is performed and its byte count is added to the sync word. -/
  | copyChunk (k : Nat) (q : Nat) (side : RemoteSide)
  /-- COPY_FAULT (R265). A failing byte faults the command, with partial count and report. -/
  | copyFault (k : Nat) (q : Nat) (side : RemoteSide)
  /-- COMMAND_COMPLETE (R260). A completed command publishes its slot and fills its completion register. -/
  | commandComplete (k : Nat) (q : Nat)
  /-- PEONY_STEP_START (R275). Peony reads the next descriptor and starts the step. -/
  | peonyStepStart (die : Nat) (q : Nat) (side : RemoteSide)
  /-- PEONY_READY (R274). A partner's READY with a matching TAG lets the step send its data. -/
  | peonyReady (n : Nat)
  /-- PEONY_DATA (R273). The partner's XADD operands arrive. -/
  | peonyData (n : Nat)
  /-- PEONY_STEP_COMPLETE (R273). A step's writes are performed and its bytes added to SYNC. -/
  | peonyStepComplete (die : Nat) (q : Nat) (side : RemoteSide)
  /-- PEONY_FAULT_NOTICE (R274). A fault notice faults the matching XADD step with ILL_OPERAND. -/
  | peonyFaultNotice (n : Nat)
  /-- PEONY_PARTNER_TIMEOUT (R274). No partner READY within 2^26 cycles faults the step with REMOTE_TIMEOUT. -/
  | peonyPartnerTimeout (die : Nat) (q : Nat)
  /-- ASTER_DISPATCH (R296). Aster hands the best runnable block to the longest-waiting worker. -/
  | asterDispatch (k : Nat)
  /-- FACE_PUSH_COMPLETE (R302). A face push completes and Aster notifies the reader. -/
  | facePushComplete (k : Nat)
  /-- FACE_PUSH_FAULT (R303). A faulted face push sets PUSHF and withholds the notification. -/
  | facePushFault (k : Nat) (side : RemoteSide)
  /-- LEVEL_NOTIFICATION (R301). A notification updates a link's shadow levels and the rule is re-evaluated. -/
  | levelNotification (n : Nat)
  /-- ASTER_LINK_INSTALL (R288). A link-install message installs one half of a link at the neighbour's Aster. -/
  | asterLinkInstall (n : Nat)
  /-- ASTER_LINK_CLEAR (R286). A freeing message clears USED in the neighbour's edge slot. -/
  | asterLinkClear (n : Nat)
  /-- ASTER_RFREE_UPDATE (R293). A rule change message updates RFREE at the neighbour. -/
  | asterRfreeUpdate (n : Nat)
  /-- ASTER_CONFIRM (R286). A neighbour Aster's confirmation lets the waiting instruction leave WAIT. -/
  | asterConfirm (n : Nat)
  /-- FREEZE_DRAIN_EXPIRY (R306). When FDRAIN expires, running updates that have not committed are abandoned. -/
  | freezeDrainExpiry (dom : Nat) (k : Nat)
  /-- FREEZE_COMPLETE (R306). The freeze completes once every push and notification of the domain is done. -/
  | freezeComplete (dom : Nat)
  /-- WALK_COMPLETE (R316). A page walk ends, filling TLBs or faulting every joined requester. -/
  | walkComplete (k : Nat) (va : Word)
  /-- LAUNCH_START (R29). The module takes the next packet of a bound queue and starts the launch. -/
  | launchStart (n : Nat)
  /-- KERNEL_COMPLETION (R31). A launch completes when its strands, queues and stores are done. -/
  | kernelCompletion (n : Nat)
  /-- QUEUE_NOTIFY (R379). A NOTIFYq write sets the tail, or sets ERR on an overfull tail. -/
  | queueNotify (q : Nat) (w : Word)
  /-- QUEUE_DESCRIPTOR_WRITE (R379). A host write to a queue descriptor enables, disables or configures the queue. -/
  | queueDescriptorWrite (q : Nat) (w : Word)
  /-- MAP_WRITE (R322). A host write binds or unbinds a queue to an active slot. -/
  | mapWrite (n : Nat) (w : Word)
  /-- TROOT_WRITE (R313). A host write to TROOT is held until no launch runs, then empties every TLB. -/
  | trootWrite (w : Word)
  /-- PREEMPT (R354). A PCTLn write of 1 starts pre-emption of the slot's launch. -/
  | preempt (n : Nat)
  /-- PREEMPT_REQUEST_ARRIVAL (R36). The pre-emption request reaches a core and stops its issue. -/
  | preemptRequestArrival (n : Nat) (c : Nat)
  /-- PREEMPT_SAVE_COMPLETE (R355). Once every save write is performed, BUSY clears and SAVED is set. -/
  | preemptSaveComplete (n : Nat)
  /-- RESUME (R359). A PCTLn write of 2 restores and places a saved launch. -/
  | resume (n : Nat)
  /-- MODULE_REMOVE (R374). A REMOVE write removes a module from routing and access. -/
  | moduleRemove (w : Word)
  /-- LATECNT_CLEAR (R377). A write to LATECNT clears it. -/
  | latecntClear
  /-- MULTICAST_GO (R375). Writing GO starts a multicast of one line to the listed members. -/
  | multicastGo (w : Word)
  /-- MULTICAST_LINE (R375). A member performs the multicast line as one atomic store. -/
  | multicastLine (n : Nat)
  /-- MULTICAST_REPLY (R375). The merged reply writes MCSTAT and sets DONE. -/
  | multicastReply (failed : Word)
  /-- ATTESTATION_GO (R383). Writing GO starts an attestation report. -/
  | attestationGo
  /-- ATTESTATION_COMPLETE (R383). The signed report is written and BUSY clears. -/
  | attestationComplete
  /-- REGISTER_WRITE (R377). A host write to a BAR0 register without behaviour of its own. -/
  | registerWrite (off : Nat) (w : Word)
  /-- APERTURE_WRITE (R380). A posted host write through BAR2 is performed at MODULE scope in arrival order. -/
  | apertureWrite (off : Nat) (size : Nat) (w : Word)
  /-- APERTURE_READ (R380). A host read returns after every earlier posted write is performed. -/
  | apertureRead (off : Nat) (size : Nat)
  /-- LINK_FRAME (R372). A received frame is tag-checked and its packets delivered, or a resend is requested. -/
  | linkFrame (port : Nat) (tagOk : Bool) (msgs : List Msg)
  /-- LINK_BRING_UP (R371). A link comes up with fresh keys, boot counts and a new epoch. -/
  | linkBringUp (port : Nat) (far : Nat) (dom : Nat) (boot : Nat)
  /-- LINK_REKEY (R371). The link exchanges a new key before its frame counter reaches 2^48. -/
  | linkRekey (port : Nat)
  /-- LINK_CONTROL_TIMEOUT (R373). No control flit for 2,400 cycles declares the link down. -/
  | linkControlTimeout (port : Nat)
  /-- LINK_DOWN (R373). A link is declared down, routing avoids it and Lupin stops sending on it. -/
  | linkDown (port : Nat)
  /-- MEMORY_ECC_ERROR (R361). An uncorrectable memory read is retried, then logged or the line poisoned. -/
  | memoryEccError (line : Nat) (lasting : Bool)
  /-- REGISTER_ECC_ERROR (R361). A lasting g register ECC error raises MACHINE_CHECK and zeroes the register. -/
  | registerEccError (c : Nat) (n : Nat) (r : BitVec 4) (syndrome : Word)
  /-- FABRIC_TRANSFER_ERROR (R361). A failed fabric transfer is retried, and a lasting one downs the link. -/
  | fabricTransferError (port : Nat) (lasting : Bool)
  /-- FATAL_ERROR (R363). A unit failure, over-temperature or control-state error stops the module and dumps state. -/
  | fatalError (unit : Nat) (index : Nat) (syndrome : Word)
  /-- POWER_LIMIT_HOLD (R14). When demand would exceed 4,000 W, MMA starts are held back equally. -/
  | powerLimitHold (hold : Bool)
  /-- GATING_ENTRY (R364). A core idle for 16,384 cycles begins gating. -/
  | gatingEntry (c : Nat)
  /-- GATING_COMMIT (R365). At cycle 64 of gating the core passes the commit point. -/
  | gatingCommit (c : Nat)
  /-- GATED (R365). At cycle 96 the core is gated. -/
  | gated (c : Nat)
  /-- WAKE_EVENT (R365). A wake event aborts gating, is latched or starts ungating. -/
  | wakeEvent (c : Nat)
  /-- UNGATING_COMPLETE (R365). The core finishes ungating and takes its held events. -/
  | ungatingComplete (c : Nat)
  /-- MODULE_RESET (R207). A reset empties the region table, raises the boot count and resets module state. -/
  | moduleReset
  /-- BOOT (R381). The ROM and firmware controller verify images and set BOOTST. -/
  | boot (stage : Nat) (why : Nat)
  /-- FIRMWARE_UPDATE (R16). A staged image is verified and replaces one unit's firmware while the module runs. -/
  | firmwareUpdate (unit : Nat) (version : Nat) (why : Nat)
  /-- WORD_NOT_AN_INSTRUCTION (R72). A strand issues a word that fails a check of R72 (unallocated major, reserved fn, set must-be-zero bit, privilege or field limit) and traps with the first failing cause. -/
  | wordNotAnInstruction (w : IWord)
  /-- INSTRUCTION_FETCH_FAULT (R100). The fetch of the next word from an untranslated or non-X target raises PAGE_FAULT or PROT with XPC holding the target. -/
  | instructionFetchFault
  /-- BARW_WAIT_LIMIT (R335). A BARW whose generation has not passed within 2^WLIM cycles of issue traps with QUEUE_WAIT_LIMIT. -/
  | barwWaitLimit (c : Nat) (n : Nat)
  /-- ARRIVAL_RESERVATION_REQUEST (R253). A request to reserve an arrival-queue entry or spill context reaches the home core, which grants a place or holds the request until one frees. -/
  | arrivalReservationRequest (src : Source)
  /-- REMOTE_STORE_ACKNOWLEDGEMENT (R168). The target's acknowledgement of a store to another module arrives, so the store counts as performed and waiting release stores and fences may proceed. -/
  | remoteStoreAcknowledgement (n : Nat)
  /-- DISCARD_COUNT_RECORD (R362). Once per minute the module writes a trap-log record counting the late replies and discarded fills of that minute. -/
  | discardCountRecord
  deriving DecidableEq, Repr

end Sys2Proof
end

