-- ==== Sys2Proof/Decode.lean ====
section
/-! DEFINITION. Decoding and encoding of instruction words (R63-R72). decode makes checks 1 to 3 of R72 and rejects by
name; Instr.privileged is check 4 and Instr.limits is check 5, which the machine makes at issue. -/

namespace Sys2Proof

/-- Why a word is no instruction (R72, checks 1 to 3, and the one check 5 that leaves no instruction to name). -/
inductive DecodeError where
  /-- Check 1: ILL_OPCODE. -/
  | illOpcode
  /-- Check 2: ILL_FN. -/
  | illFn
  /-- Check 3: ILL_MBZ. -/
  | illMbz
  /-- Check 5 of an MMA.II whose gs is not g0: ILL_OPERAND. -/
  | illOperand
  deriving DecidableEq, Repr

/-- The n bits of a word from bit lo up. -/
def fld (w lo n : Nat) : Nat :=
  w / 2 ^ lo % 2 ^ n

/-- Major 0x01 (R68, R69). -/
def decodeMajor01 (w : Nat) : Except DecodeError Instr :=
  match fld w 4 10 with
  | 0x000 => .ok (.add (.ofNat 4 (w / 4194304)) (.ofNat 4 (w / 262144)) (.ofNat 4 (w / 16384)) (.ofNat 4 (w / 1)))
  | 0x001 => .ok (.sub (.ofNat 4 (w / 4194304)) (.ofNat 4 (w / 262144)) (.ofNat 4 (w / 16384)) (.ofNat 4 (w / 1)))
  | 0x002 => .ok (.and (.ofNat 4 (w / 4194304)) (.ofNat 4 (w / 262144)) (.ofNat 4 (w / 16384)) (.ofNat 4 (w / 1)))
  | 0x003 => .ok (.or (.ofNat 4 (w / 4194304)) (.ofNat 4 (w / 262144)) (.ofNat 4 (w / 16384)) (.ofNat 4 (w / 1)))
  | 0x004 => .ok (.xor (.ofNat 4 (w / 4194304)) (.ofNat 4 (w / 262144)) (.ofNat 4 (w / 16384)) (.ofNat 4 (w / 1)))
  | 0x005 => .ok (.andn (.ofNat 4 (w / 4194304)) (.ofNat 4 (w / 262144)) (.ofNat 4 (w / 16384)) (.ofNat 4 (w / 1)))
  | 0x006 => .ok (.sll (.ofNat 4 (w / 4194304)) (.ofNat 4 (w / 262144)) (.ofNat 4 (w / 16384)) (.ofNat 4 (w / 1)))
  | 0x007 => .ok (.srl (.ofNat 4 (w / 4194304)) (.ofNat 4 (w / 262144)) (.ofNat 4 (w / 16384)) (.ofNat 4 (w / 1)))
  | 0x008 => .ok (.sra (.ofNat 4 (w / 4194304)) (.ofNat 4 (w / 262144)) (.ofNat 4 (w / 16384)) (.ofNat 4 (w / 1)))
  | 0x009 => .ok (.min (.ofNat 4 (w / 4194304)) (.ofNat 4 (w / 262144)) (.ofNat 4 (w / 16384)) (.ofNat 4 (w / 1)))
  | 0x00A => .ok (.max (.ofNat 4 (w / 4194304)) (.ofNat 4 (w / 262144)) (.ofNat 4 (w / 16384)) (.ofNat 4 (w / 1)))
  | 0x00B => .ok (.minu (.ofNat 4 (w / 4194304)) (.ofNat 4 (w / 262144)) (.ofNat 4 (w / 16384)) (.ofNat 4 (w / 1)))
  | 0x00C => .ok (.maxu (.ofNat 4 (w / 4194304)) (.ofNat 4 (w / 262144)) (.ofNat 4 (w / 16384)) (.ofNat 4 (w / 1)))
  | 0x010 => .ok (.mul (.ofNat 4 (w / 4194304)) (.ofNat 4 (w / 262144)) (.ofNat 4 (w / 16384)) (.ofNat 4 (w / 1)))
  | 0x011 => .ok (.mulh (.ofNat 4 (w / 4194304)) (.ofNat 4 (w / 262144)) (.ofNat 4 (w / 16384)) (.ofNat 4 (w / 1)))
  | 0x012 => .ok (.mulhu (.ofNat 4 (w / 4194304)) (.ofNat 4 (w / 262144)) (.ofNat 4 (w / 16384)) (.ofNat 4 (w / 1)))
  | 0x014 => .ok (.div (.ofNat 4 (w / 4194304)) (.ofNat 4 (w / 262144)) (.ofNat 4 (w / 16384)) (.ofNat 4 (w / 1)))
  | 0x015 => .ok (.divu (.ofNat 4 (w / 4194304)) (.ofNat 4 (w / 262144)) (.ofNat 4 (w / 16384)) (.ofNat 4 (w / 1)))
  | 0x016 => .ok (.rem (.ofNat 4 (w / 4194304)) (.ofNat 4 (w / 262144)) (.ofNat 4 (w / 16384)) (.ofNat 4 (w / 1)))
  | 0x017 => .ok (.remu (.ofNat 4 (w / 4194304)) (.ofNat 4 (w / 262144)) (.ofNat 4 (w / 16384)) (.ofNat 4 (w / 1)))
  | 0x020 => if fld w 14 4 = 0 then .ok (.clz (.ofNat 4 (w / 4194304)) (.ofNat 4 (w / 262144)) (.ofNat 4 (w / 1))) else .error .illMbz
  | 0x021 => if fld w 14 4 = 0 then .ok (.popc (.ofNat 4 (w / 4194304)) (.ofNat 4 (w / 262144)) (.ofNat 4 (w / 1))) else .error .illMbz
  | 0x024 => if fld w 14 4 = 0 then .ok (.sextB (.ofNat 4 (w / 4194304)) (.ofNat 4 (w / 262144)) (.ofNat 4 (w / 1))) else .error .illMbz
  | 0x025 => if fld w 14 4 = 0 then .ok (.sextH (.ofNat 4 (w / 4194304)) (.ofNat 4 (w / 262144)) (.ofNat 4 (w / 1))) else .error .illMbz
  | 0x026 => if fld w 14 4 = 0 then .ok (.sextW (.ofNat 4 (w / 4194304)) (.ofNat 4 (w / 262144)) (.ofNat 4 (w / 1))) else .error .illMbz
  | 0x028 => if fld w 14 4 = 0 then .ok (.zextB (.ofNat 4 (w / 4194304)) (.ofNat 4 (w / 262144)) (.ofNat 4 (w / 1))) else .error .illMbz
  | 0x029 => if fld w 14 4 = 0 then .ok (.zextH (.ofNat 4 (w / 4194304)) (.ofNat 4 (w / 262144)) (.ofNat 4 (w / 1))) else .error .illMbz
  | 0x02A => if fld w 14 4 = 0 then .ok (.zextW (.ofNat 4 (w / 4194304)) (.ofNat 4 (w / 262144)) (.ofNat 4 (w / 1))) else .error .illMbz
  | 0x040 | 0x041 | 0x042 | 0x043 | 0x044 | 0x045 | 0x046 | 0x047 => .ok (.sel (.ofNat 4 (w / 4194304)) (.ofNat 4 (w / 262144)) (.ofNat 4 (w / 16384)) (.ofNat 3 (w / 16)) (.ofNat 4 (w / 1)))
  | _ => .error .illFn

/-- Major 0x02 (R68, R69). -/
def decodeMajor02 (w : Nat) : Except DecodeError Instr :=
  .ok (.addi (.ofNat 4 (w / 4194304)) (.ofNat 4 (w / 262144)) (.ofNat 14 (w / 16)) (.ofNat 4 (w / 1)))

/-- Major 0x03 (R68, R69). -/
def decodeMajor03 (w : Nat) : Except DecodeError Instr :=
  .ok (.andi (.ofNat 4 (w / 4194304)) (.ofNat 4 (w / 262144)) (.ofNat 14 (w / 16)) (.ofNat 4 (w / 1)))

/-- Major 0x04 (R68, R69). -/
def decodeMajor04 (w : Nat) : Except DecodeError Instr :=
  .ok (.ori (.ofNat 4 (w / 4194304)) (.ofNat 4 (w / 262144)) (.ofNat 14 (w / 16)) (.ofNat 4 (w / 1)))

/-- Major 0x05 (R68, R69). -/
def decodeMajor05 (w : Nat) : Except DecodeError Instr :=
  .ok (.xori (.ofNat 4 (w / 4194304)) (.ofNat 4 (w / 262144)) (.ofNat 14 (w / 16)) (.ofNat 4 (w / 1)))

/-- Major 0x06 (R68, R69). -/
def decodeMajor06 (w : Nat) : Except DecodeError Instr :=
  match fld w 10 2 with
  | 0x000 => if fld w 12 6 = 0 then .ok (.slli (.ofNat 4 (w / 4194304)) (.ofNat 4 (w / 262144)) (.ofNat 6 (w / 16)) (.ofNat 4 (w / 1))) else .error .illMbz
  | 0x001 => if fld w 12 6 = 0 then .ok (.srli (.ofNat 4 (w / 4194304)) (.ofNat 4 (w / 262144)) (.ofNat 6 (w / 16)) (.ofNat 4 (w / 1))) else .error .illMbz
  | 0x002 => if fld w 12 6 = 0 then .ok (.srai (.ofNat 4 (w / 4194304)) (.ofNat 4 (w / 262144)) (.ofNat 6 (w / 16)) (.ofNat 4 (w / 1))) else .error .illMbz
  | _ => .error .illFn

/-- Major 0x07 (R68, R69). -/
def decodeMajor07 (w : Nat) : Except DecodeError Instr :=
  .ok (.movi (.ofNat 4 (w / 4194304)) (.ofNat 18 (w / 16)) (.ofNat 4 (w / 1)))

/-- Major 0x08 (R68, R69). -/
def decodeMajor08 (w : Nat) : Except DecodeError Instr :=
  .ok (.movhi (.ofNat 4 (w / 4194304)) (.ofNat 18 (w / 16)) (.ofNat 4 (w / 1)))

/-- Major 0x09 (R68, R69). -/
def decodeMajor09 (w : Nat) : Except DecodeError Instr :=
  match fld w 4 6 with
  | 0x000 => if fld w 18 4 = 0 then .ok (.ldk (.ofNat 4 (w / 4194304)) (.ofNat 8 (w / 1024)) (.ofNat 4 (w / 1))) else .error .illMbz
  | 0x001 => .ok (.addk (.ofNat 4 (w / 4194304)) (.ofNat 4 (w / 262144)) (.ofNat 8 (w / 1024)) (.ofNat 4 (w / 1)))
  | _ => .error .illFn

/-- Major 0x0A (R68, R69). -/
def decodeMajor0A (w : Nat) : Except DecodeError Instr :=
  match fld w 4 10 with
  | 0x000 | 0x001 | 0x002 | 0x003 | 0x004 | 0x005 => if fld w 25 1 = 0 then .ok (.cmp (.ofNat 3 (w / 4194304)) (.ofNat 4 (w / 262144)) (.ofNat 4 (w / 16384)) (.ofNat 3 (w / 16)) (.ofNat 4 (w / 1))) else .error .illMbz
  | _ => .error .illFn

/-- Major 0x0B (R68, R69). -/
def decodeMajor0B (w : Nat) : Except DecodeError Instr :=
  match fld w 15 3 with
  | 0x000 | 0x001 | 0x002 | 0x003 | 0x004 | 0x005 => if fld w 25 1 = 0 then .ok (.cmpi (.ofNat 3 (w / 4194304)) (.ofNat 4 (w / 262144)) (.ofNat 3 (w / 32768)) (.ofNat 11 (w / 16)) (.ofNat 4 (w / 1))) else .error .illMbz
  | _ => .error .illFn

/-- Major 0x0C (R68, R69). -/
def decodeMajor0C (w : Nat) : Except DecodeError Instr :=
  match fld w 4 10 with
  | 0x000 => if fld w 17 1 = 0 ∧ fld w 21 1 = 0 ∧ fld w 25 1 = 0 then .ok (.pand (.ofNat 3 (w / 4194304)) (.ofNat 3 (w / 262144)) (.ofNat 3 (w / 16384)) (.ofNat 4 (w / 1))) else .error .illMbz
  | 0x001 => if fld w 17 1 = 0 ∧ fld w 21 1 = 0 ∧ fld w 25 1 = 0 then .ok (.por (.ofNat 3 (w / 4194304)) (.ofNat 3 (w / 262144)) (.ofNat 3 (w / 16384)) (.ofNat 4 (w / 1))) else .error .illMbz
  | 0x002 => if fld w 17 1 = 0 ∧ fld w 21 1 = 0 ∧ fld w 25 1 = 0 then .ok (.pxor (.ofNat 3 (w / 4194304)) (.ofNat 3 (w / 262144)) (.ofNat 3 (w / 16384)) (.ofNat 4 (w / 1))) else .error .illMbz
  | 0x003 => if fld w 14 4 = 0 ∧ fld w 21 1 = 0 ∧ fld w 25 1 = 0 then .ok (.pnot (.ofNat 3 (w / 4194304)) (.ofNat 3 (w / 262144)) (.ofNat 4 (w / 1))) else .error .illMbz
  | 0x004 => if fld w 14 8 = 0 then .ok (.prd (.ofNat 4 (w / 4194304)) (.ofNat 4 (w / 1))) else .error .illMbz
  | 0x005 => if fld w 14 4 = 0 ∧ fld w 25 1 = 0 then .ok (.pwr (.ofNat 3 (w / 4194304)) (.ofNat 4 (w / 262144)) (.ofNat 4 (w / 1))) else .error .illMbz
  | _ => .error .illFn

/-- Major 0x0D (R68, R69). -/
def decodeMajor0D (w : Nat) : Except DecodeError Instr :=
  match fld w 4 2 with
  | 0x000 => .ok (.bfx (.ofNat 4 (w / 4194304)) (.ofNat 4 (w / 262144)) (.ofNat 6 (w / 4096)) (.ofNat 6 (w / 64)) (.ofNat 4 (w / 1)))
  | 0x001 => .ok (.bfi (.ofNat 4 (w / 4194304)) (.ofNat 4 (w / 262144)) (.ofNat 6 (w / 4096)) (.ofNat 6 (w / 64)) (.ofNat 4 (w / 1)))
  | _ => .error .illFn

/-- Major 0x10 (R68, R69). -/
def decodeMajor10 (w : Nat) : Except DecodeError Instr :=
  .ok (.br (.ofNat 22 (w / 16)) (.ofNat 4 (w / 1)))

/-- Major 0x11 (R68, R69). -/
def decodeMajor11 (w : Nat) : Except DecodeError Instr :=
  .ok (.call (.ofNat 22 (w / 16)) (.ofNat 4 (w / 1)))

/-- Major 0x12 (R68, R69). -/
def decodeMajor12 (w : Nat) : Except DecodeError Instr :=
  match fld w 4 10 with
  | 0x000 => if fld w 14 4 = 0 ∧ fld w 22 4 = 0 then .ok (.jmpr (.ofNat 4 (w / 262144)) (.ofNat 4 (w / 1))) else .error .illMbz
  | 0x001 => if fld w 14 4 = 0 ∧ fld w 22 4 = 0 then .ok (.callr (.ofNat 4 (w / 262144)) (.ofNat 4 (w / 1))) else .error .illMbz
  | 0x002 => if fld w 14 12 = 0 then .ok (.ret (.ofNat 4 (w / 1))) else .error .illMbz
  | _ => .error .illFn

/-- Major 0x13 (R68, R69). -/
def decodeMajor13 (w : Nat) : Except DecodeError Instr :=
  match fld w 4 2 with
  | 0x000 => .ok (.leaB (.ofNat 4 (w / 4194304)) (.ofNat 4 (w / 262144)) (.ofNat 12 (w / 64)) (.ofNat 4 (w / 1)))
  | 0x001 => .ok (.leaH (.ofNat 4 (w / 4194304)) (.ofNat 4 (w / 262144)) (.ofNat 12 (w / 64)) (.ofNat 4 (w / 1)))
  | 0x002 => .ok (.leaW (.ofNat 4 (w / 4194304)) (.ofNat 4 (w / 262144)) (.ofNat 12 (w / 64)) (.ofNat 4 (w / 1)))
  | 0x003 => .ok (.leaD (.ofNat 4 (w / 4194304)) (.ofNat 4 (w / 262144)) (.ofNat 12 (w / 64)) (.ofNat 4 (w / 1)))
  | _ => .error .illFn

/-- Major 0x18 (R68, R69). -/
def decodeMajor18 (w : Nat) : Except DecodeError Instr :=
  match fld w 4 2 with
  | 0x000 => .ok (.ldbu (.ofNat 4 (w / 4194304)) (.ofNat 4 (w / 262144)) (.ofNat 12 (w / 64)) (.ofNat 4 (w / 1)))
  | 0x001 => .ok (.ldhu (.ofNat 4 (w / 4194304)) (.ofNat 4 (w / 262144)) (.ofNat 12 (w / 64)) (.ofNat 4 (w / 1)))
  | 0x002 => .ok (.ldwu (.ofNat 4 (w / 4194304)) (.ofNat 4 (w / 262144)) (.ofNat 12 (w / 64)) (.ofNat 4 (w / 1)))
  | 0x003 => .ok (.ldd (.ofNat 4 (w / 4194304)) (.ofNat 4 (w / 262144)) (.ofNat 12 (w / 64)) (.ofNat 4 (w / 1)))
  | _ => .error .illFn

/-- Major 0x19 (R68, R69). -/
def decodeMajor19 (w : Nat) : Except DecodeError Instr :=
  match fld w 4 2 with
  | 0x000 => .ok (.stb (.ofNat 4 (w / 4194304)) (.ofNat 4 (w / 262144)) (.ofNat 12 (w / 64)) (.ofNat 4 (w / 1)))
  | 0x001 => .ok (.sth (.ofNat 4 (w / 4194304)) (.ofNat 4 (w / 262144)) (.ofNat 12 (w / 64)) (.ofNat 4 (w / 1)))
  | 0x002 => .ok (.stw (.ofNat 4 (w / 4194304)) (.ofNat 4 (w / 262144)) (.ofNat 12 (w / 64)) (.ofNat 4 (w / 1)))
  | 0x003 => .ok (.std (.ofNat 4 (w / 4194304)) (.ofNat 4 (w / 262144)) (.ofNat 12 (w / 64)) (.ofNat 4 (w / 1)))
  | _ => .error .illFn

/-- Major 0x1A (R68, R69). -/
def decodeMajor1A (w : Nat) : Except DecodeError Instr :=
  match fld w 4 10 with
  | 0x000 => .ok (.ldm (.ofNat 4 (w / 4194304)) (.ofNat 4 (w / 262144)) (.ofNat 4 (w / 16384)) (.ofNat 4 (w / 1)))
  | 0x001 => .ok (.stm (.ofNat 4 (w / 4194304)) (.ofNat 4 (w / 262144)) (.ofNat 4 (w / 16384)) (.ofNat 4 (w / 1)))
  | 0x010 => .ok (.ldb (.ofNat 4 (w / 4194304)) (.ofNat 4 (w / 262144)) (.ofNat 4 (w / 16384)) (.ofNat 4 (w / 1)))
  | 0x011 => .ok (.ldh (.ofNat 4 (w / 4194304)) (.ofNat 4 (w / 262144)) (.ofNat 4 (w / 16384)) (.ofNat 4 (w / 1)))
  | 0x012 => .ok (.ldw (.ofNat 4 (w / 4194304)) (.ofNat 4 (w / 262144)) (.ofNat 4 (w / 16384)) (.ofNat 4 (w / 1)))
  | 0x020 => .ok (.ldbAcq (.ofNat 4 (w / 4194304)) (.ofNat 4 (w / 262144)) (.ofNat 4 (w / 16384)) (.ofNat 4 (w / 1)))
  | 0x021 => .ok (.ldhAcq (.ofNat 4 (w / 4194304)) (.ofNat 4 (w / 262144)) (.ofNat 4 (w / 16384)) (.ofNat 4 (w / 1)))
  | 0x022 => .ok (.ldwAcq (.ofNat 4 (w / 4194304)) (.ofNat 4 (w / 262144)) (.ofNat 4 (w / 16384)) (.ofNat 4 (w / 1)))
  | 0x023 => .ok (.lddAcq (.ofNat 4 (w / 4194304)) (.ofNat 4 (w / 262144)) (.ofNat 4 (w / 16384)) (.ofNat 4 (w / 1)))
  | 0x024 => .ok (.ldbuAcq (.ofNat 4 (w / 4194304)) (.ofNat 4 (w / 262144)) (.ofNat 4 (w / 16384)) (.ofNat 4 (w / 1)))
  | 0x025 => .ok (.ldhuAcq (.ofNat 4 (w / 4194304)) (.ofNat 4 (w / 262144)) (.ofNat 4 (w / 16384)) (.ofNat 4 (w / 1)))
  | 0x026 => .ok (.ldwuAcq (.ofNat 4 (w / 4194304)) (.ofNat 4 (w / 262144)) (.ofNat 4 (w / 16384)) (.ofNat 4 (w / 1)))
  | 0x030 => .ok (.ldbSc (.ofNat 4 (w / 4194304)) (.ofNat 4 (w / 262144)) (.ofNat 4 (w / 16384)) (.ofNat 4 (w / 1)))
  | 0x031 => .ok (.ldhSc (.ofNat 4 (w / 4194304)) (.ofNat 4 (w / 262144)) (.ofNat 4 (w / 16384)) (.ofNat 4 (w / 1)))
  | 0x032 => .ok (.ldwSc (.ofNat 4 (w / 4194304)) (.ofNat 4 (w / 262144)) (.ofNat 4 (w / 16384)) (.ofNat 4 (w / 1)))
  | 0x033 => .ok (.lddSc (.ofNat 4 (w / 4194304)) (.ofNat 4 (w / 262144)) (.ofNat 4 (w / 16384)) (.ofNat 4 (w / 1)))
  | 0x034 => .ok (.ldbuSc (.ofNat 4 (w / 4194304)) (.ofNat 4 (w / 262144)) (.ofNat 4 (w / 16384)) (.ofNat 4 (w / 1)))
  | 0x035 => .ok (.ldhuSc (.ofNat 4 (w / 4194304)) (.ofNat 4 (w / 262144)) (.ofNat 4 (w / 16384)) (.ofNat 4 (w / 1)))
  | 0x036 => .ok (.ldwuSc (.ofNat 4 (w / 4194304)) (.ofNat 4 (w / 262144)) (.ofNat 4 (w / 16384)) (.ofNat 4 (w / 1)))
  | 0x040 => .ok (.stbRel (.ofNat 4 (w / 4194304)) (.ofNat 4 (w / 262144)) (.ofNat 4 (w / 16384)) (.ofNat 4 (w / 1)))
  | 0x041 => .ok (.sthRel (.ofNat 4 (w / 4194304)) (.ofNat 4 (w / 262144)) (.ofNat 4 (w / 16384)) (.ofNat 4 (w / 1)))
  | 0x042 => .ok (.stwRel (.ofNat 4 (w / 4194304)) (.ofNat 4 (w / 262144)) (.ofNat 4 (w / 16384)) (.ofNat 4 (w / 1)))
  | 0x043 => .ok (.stdRel (.ofNat 4 (w / 4194304)) (.ofNat 4 (w / 262144)) (.ofNat 4 (w / 16384)) (.ofNat 4 (w / 1)))
  | 0x050 => .ok (.stbSc (.ofNat 4 (w / 4194304)) (.ofNat 4 (w / 262144)) (.ofNat 4 (w / 16384)) (.ofNat 4 (w / 1)))
  | 0x051 => .ok (.sthSc (.ofNat 4 (w / 4194304)) (.ofNat 4 (w / 262144)) (.ofNat 4 (w / 16384)) (.ofNat 4 (w / 1)))
  | 0x052 => .ok (.stwSc (.ofNat 4 (w / 4194304)) (.ofNat 4 (w / 262144)) (.ofNat 4 (w / 16384)) (.ofNat 4 (w / 1)))
  | 0x053 => .ok (.stdSc (.ofNat 4 (w / 4194304)) (.ofNat 4 (w / 262144)) (.ofNat 4 (w / 16384)) (.ofNat 4 (w / 1)))
  | _ => .error .illFn

/-- Major 0x1B (R68, R69). -/
def decodeMajor1B (w : Nat) : Except DecodeError Instr :=
  match fld w 4 5 with
  | 0x000 => if fld w 25 1 = 0 then .ok (.vld (.ofNat 3 (w / 4194304)) (.ofNat 4 (w / 262144)) (.ofNat 4 (w / 16384)) (.ofNat 3 (w / 2048)) (.ofNat 2 (w / 512)) (.ofNat 4 (w / 1))) else .error .illMbz
  | 0x001 => if fld w 25 1 = 0 then .ok (.vst (.ofNat 3 (w / 4194304)) (.ofNat 4 (w / 262144)) (.ofNat 4 (w / 16384)) (.ofNat 3 (w / 2048)) (.ofNat 2 (w / 512)) (.ofNat 4 (w / 1))) else .error .illMbz
  | 0x002 => if fld w 25 1 = 0 then .ok (.vlds (.ofNat 3 (w / 4194304)) (.ofNat 4 (w / 262144)) (.ofNat 4 (w / 16384)) (.ofNat 3 (w / 2048)) (.ofNat 2 (w / 512)) (.ofNat 4 (w / 1))) else .error .illMbz
  | 0x003 => if fld w 25 1 = 0 then .ok (.vsts (.ofNat 3 (w / 4194304)) (.ofNat 4 (w / 262144)) (.ofNat 4 (w / 16384)) (.ofNat 3 (w / 2048)) (.ofNat 2 (w / 512)) (.ofNat 4 (w / 1))) else .error .illMbz
  | _ => .error .illFn

/-- Major 0x1C (R68, R69). -/
def decodeMajor1C (w : Nat) : Except DecodeError Instr :=
  match fld w 4 5 with
  | 0x000 => if fld w 17 1 = 0 ∧ fld w 25 1 = 0 then .ok (.vgath (.ofNat 3 (w / 4194304)) (.ofNat 4 (w / 262144)) (.ofNat 3 (w / 16384)) (.ofNat 3 (w / 2048)) (.ofNat 2 (w / 512)) (.ofNat 4 (w / 1))) else .error .illMbz
  | 0x001 => if fld w 17 1 = 0 ∧ fld w 25 1 = 0 then .ok (.vscat (.ofNat 3 (w / 4194304)) (.ofNat 4 (w / 262144)) (.ofNat 3 (w / 16384)) (.ofNat 3 (w / 2048)) (.ofNat 2 (w / 512)) (.ofNat 4 (w / 1))) else .error .illMbz
  | 0x002 => if fld w 9 5 = 0 ∧ fld w 17 1 = 0 ∧ fld w 22 4 = 0 then .ok (.pref (.ofNat 4 (w / 262144)) (.ofNat 3 (w / 16384)) (.ofNat 4 (w / 1))) else .error .illMbz
  | _ => .error .illFn

/-- Major 0x1D (R68, R69). -/
def decodeMajor1D (w : Nat) : Except DecodeError Instr :=
  match fld w 4 6 with
  | 0x020 | 0x028 | 0x030 | 0x038 => if fld w 10 4 = 0 then .ok (.amoAdd (.ofNat 4 (w / 4194304)) (.ofNat 4 (w / 262144)) (.ofNat 4 (w / 16384)) (.ofNat 1 (w / 256)) (.ofNat 1 (w / 128)) (.ofNat 4 (w / 1))) else .error .illMbz
  | 0x021 | 0x029 | 0x031 | 0x039 => if fld w 10 4 = 0 then .ok (.amoMin (.ofNat 4 (w / 4194304)) (.ofNat 4 (w / 262144)) (.ofNat 4 (w / 16384)) (.ofNat 1 (w / 256)) (.ofNat 1 (w / 128)) (.ofNat 4 (w / 1))) else .error .illMbz
  | 0x022 | 0x02A | 0x032 | 0x03A => if fld w 10 4 = 0 then .ok (.amoMax (.ofNat 4 (w / 4194304)) (.ofNat 4 (w / 262144)) (.ofNat 4 (w / 16384)) (.ofNat 1 (w / 256)) (.ofNat 1 (w / 128)) (.ofNat 4 (w / 1))) else .error .illMbz
  | 0x023 | 0x02B | 0x033 | 0x03B => if fld w 10 4 = 0 then .ok (.amoAnd (.ofNat 4 (w / 4194304)) (.ofNat 4 (w / 262144)) (.ofNat 4 (w / 16384)) (.ofNat 1 (w / 256)) (.ofNat 1 (w / 128)) (.ofNat 4 (w / 1))) else .error .illMbz
  | 0x024 | 0x02C | 0x034 | 0x03C => if fld w 10 4 = 0 then .ok (.amoOr (.ofNat 4 (w / 4194304)) (.ofNat 4 (w / 262144)) (.ofNat 4 (w / 16384)) (.ofNat 1 (w / 256)) (.ofNat 1 (w / 128)) (.ofNat 4 (w / 1))) else .error .illMbz
  | 0x025 | 0x02D | 0x035 | 0x03D => if fld w 10 4 = 0 then .ok (.amoXor (.ofNat 4 (w / 4194304)) (.ofNat 4 (w / 262144)) (.ofNat 4 (w / 16384)) (.ofNat 1 (w / 256)) (.ofNat 1 (w / 128)) (.ofNat 4 (w / 1))) else .error .illMbz
  | 0x026 | 0x02E | 0x036 | 0x03E => if fld w 10 4 = 0 then .ok (.amoSwap (.ofNat 4 (w / 4194304)) (.ofNat 4 (w / 262144)) (.ofNat 4 (w / 16384)) (.ofNat 1 (w / 256)) (.ofNat 1 (w / 128)) (.ofNat 4 (w / 1))) else .error .illMbz
  | 0x027 | 0x02F | 0x037 | 0x03F => if fld w 10 4 = 0 then .ok (.amoCas (.ofNat 4 (w / 4194304)) (.ofNat 4 (w / 262144)) (.ofNat 4 (w / 16384)) (.ofNat 1 (w / 256)) (.ofNat 1 (w / 128)) (.ofNat 4 (w / 1))) else .error .illMbz
  | _ => .error .illFn

/-- Major 0x1E (R68, R69). -/
def decodeMajor1E (w : Nat) : Except DecodeError Instr :=
  match fld w 4 10 with
  | 0x000 => .ok (.amoOrdAdd (.ofNat 4 (w / 4194304)) (.ofNat 4 (w / 262144)) (.ofNat 4 (w / 16384)) (.ofNat 4 (w / 1)))
  | 0x001 => .ok (.amoOrdFadd (.ofNat 4 (w / 4194304)) (.ofNat 4 (w / 262144)) (.ofNat 4 (w / 16384)) (.ofNat 4 (w / 1)))
  | 0x002 => .ok (.amoOrdSwap (.ofNat 4 (w / 4194304)) (.ofNat 4 (w / 262144)) (.ofNat 4 (w / 16384)) (.ofNat 4 (w / 1)))
  | 0x010 => if fld w 14 4 = 0 then .ok (.fred (.ofNat 4 (w / 4194304)) (.ofNat 4 (w / 262144)) (.ofNat 4 (w / 1))) else .error .illMbz
  | _ => .error .illFn

/-- Major 0x1F (R68, R69). -/
def decodeMajor1F (w : Nat) : Except DecodeError Instr :=
  match fld w 4 10 with
  | 0x000 | 0x004 | 0x008 | 0x00C | 0x010 => if fld w 14 12 = 0 then .ok (.fenceAcq (.ofNat 3 (w / 64)) (.ofNat 4 (w / 1))) else .error .illMbz
  | 0x001 | 0x005 | 0x009 | 0x00D | 0x011 => if fld w 14 12 = 0 then .ok (.fenceRel (.ofNat 3 (w / 64)) (.ofNat 4 (w / 1))) else .error .illMbz
  | 0x002 | 0x006 | 0x00A | 0x00E | 0x012 => if fld w 14 12 = 0 then .ok (.fenceFull (.ofNat 3 (w / 64)) (.ofNat 4 (w / 1))) else .error .illMbz
  | 0x020 => if fld w 14 4 = 0 ∧ fld w 22 4 = 0 then .ok (.mon (.ofNat 4 (w / 262144)) (.ofNat 4 (w / 1))) else .error .illMbz
  | 0x021 => if fld w 14 12 = 0 then .ok (.munm (.ofNat 4 (w / 1))) else .error .illMbz
  | 0x022 => if fld w 14 4 = 0 then .ok (.mwait (.ofNat 4 (w / 4194304)) (.ofNat 4 (w / 262144)) (.ofNat 4 (w / 1))) else .error .illMbz
  | 0x030 => if fld w 22 4 = 0 then .ok (.bari (.ofNat 4 (w / 262144)) (.ofNat 4 (w / 16384)) (.ofNat 4 (w / 1))) else .error .illMbz
  | 0x031 => if fld w 14 4 = 0 then .ok (.barv (.ofNat 4 (w / 4194304)) (.ofNat 4 (w / 262144)) (.ofNat 4 (w / 1))) else .error .illMbz
  | 0x032 => if fld w 22 4 = 0 then .ok (.barw (.ofNat 4 (w / 262144)) (.ofNat 4 (w / 16384)) (.ofNat 4 (w / 1))) else .error .illMbz
  | 0x038 => if fld w 22 4 = 0 then .ok (.synci (.ofNat 4 (w / 262144)) (.ofNat 4 (w / 16384)) (.ofNat 4 (w / 1))) else .error .illMbz
  | 0x040 => if fld w 14 8 = 0 then .ok (.digest (.ofNat 4 (w / 4194304)) (.ofNat 4 (w / 1))) else .error .illMbz
  | _ => .error .illFn

/-- Major 0x20 (R68, R69). -/
def decodeMajor20 (w : Nat) : Except DecodeError Instr :=
  match fld w 4 7 with
  | 0x000 => if fld w 16 1 = 0 then .ok (.vadd (.ofNat 3 (w / 8388608)) (.ofNat 3 (w / 1048576)) (.ofNat 3 (w / 131072)) (.ofNat 2 (w / 16384)) (.ofNat 3 (w / 2048)) (.ofNat 4 (w / 1))) else .error .illMbz
  | 0x001 => if fld w 16 1 = 0 then .ok (.vsub (.ofNat 3 (w / 8388608)) (.ofNat 3 (w / 1048576)) (.ofNat 3 (w / 131072)) (.ofNat 2 (w / 16384)) (.ofNat 3 (w / 2048)) (.ofNat 4 (w / 1))) else .error .illMbz
  | 0x002 => if fld w 16 1 = 0 then .ok (.vmul (.ofNat 3 (w / 8388608)) (.ofNat 3 (w / 1048576)) (.ofNat 3 (w / 131072)) (.ofNat 2 (w / 16384)) (.ofNat 3 (w / 2048)) (.ofNat 4 (w / 1))) else .error .illMbz
  | 0x003 => if fld w 16 1 = 0 then .ok (.vfma (.ofNat 3 (w / 8388608)) (.ofNat 3 (w / 1048576)) (.ofNat 3 (w / 131072)) (.ofNat 2 (w / 16384)) (.ofNat 3 (w / 2048)) (.ofNat 4 (w / 1))) else .error .illMbz
  | 0x004 => if fld w 16 1 = 0 then .ok (.vmin (.ofNat 3 (w / 8388608)) (.ofNat 3 (w / 1048576)) (.ofNat 3 (w / 131072)) (.ofNat 2 (w / 16384)) (.ofNat 3 (w / 2048)) (.ofNat 4 (w / 1))) else .error .illMbz
  | 0x005 => if fld w 16 1 = 0 then .ok (.vmax (.ofNat 3 (w / 8388608)) (.ofNat 3 (w / 1048576)) (.ofNat 3 (w / 131072)) (.ofNat 2 (w / 16384)) (.ofNat 3 (w / 2048)) (.ofNat 4 (w / 1))) else .error .illMbz
  | 0x006 => if fld w 16 4 = 0 then .ok (.vabs (.ofNat 3 (w / 8388608)) (.ofNat 3 (w / 1048576)) (.ofNat 2 (w / 16384)) (.ofNat 3 (w / 2048)) (.ofNat 4 (w / 1))) else .error .illMbz
  | 0x007 => if fld w 16 4 = 0 then .ok (.vneg (.ofNat 3 (w / 8388608)) (.ofNat 3 (w / 1048576)) (.ofNat 2 (w / 16384)) (.ofNat 3 (w / 2048)) (.ofNat 4 (w / 1))) else .error .illMbz
  | 0x008 => if fld w 16 1 = 0 then .ok (.vand (.ofNat 3 (w / 8388608)) (.ofNat 3 (w / 1048576)) (.ofNat 3 (w / 131072)) (.ofNat 2 (w / 16384)) (.ofNat 3 (w / 2048)) (.ofNat 4 (w / 1))) else .error .illMbz
  | 0x009 => if fld w 16 1 = 0 then .ok (.vor (.ofNat 3 (w / 8388608)) (.ofNat 3 (w / 1048576)) (.ofNat 3 (w / 131072)) (.ofNat 2 (w / 16384)) (.ofNat 3 (w / 2048)) (.ofNat 4 (w / 1))) else .error .illMbz
  | 0x00A => if fld w 16 1 = 0 then .ok (.vxor (.ofNat 3 (w / 8388608)) (.ofNat 3 (w / 1048576)) (.ofNat 3 (w / 131072)) (.ofNat 2 (w / 16384)) (.ofNat 3 (w / 2048)) (.ofNat 4 (w / 1))) else .error .illMbz
  | 0x00B => if fld w 16 1 = 0 then .ok (.vshl (.ofNat 3 (w / 8388608)) (.ofNat 3 (w / 1048576)) (.ofNat 3 (w / 131072)) (.ofNat 2 (w / 16384)) (.ofNat 3 (w / 2048)) (.ofNat 4 (w / 1))) else .error .illMbz
  | 0x00C => if fld w 16 1 = 0 then .ok (.vshr (.ofNat 3 (w / 8388608)) (.ofNat 3 (w / 1048576)) (.ofNat 3 (w / 131072)) (.ofNat 2 (w / 16384)) (.ofNat 3 (w / 2048)) (.ofNat 4 (w / 1))) else .error .illMbz
  | _ => .error .illFn

/-- Major 0x21 (R68, R69). -/
def decodeMajor21 (w : Nat) : Except DecodeError Instr :=
  match fld w 4 7 with
  | 0x000 | 0x001 | 0x002 | 0x003 | 0x004 | 0x005 | 0x006 | 0x007 => if fld w 16 4 = 0 then .ok (.vcvt (.ofNat 3 (w / 8388608)) (.ofNat 3 (w / 1048576)) (.ofNat 2 (w / 16384)) (.ofNat 3 (w / 2048)) (.ofNat 3 (w / 16)) (.ofNat 4 (w / 1))) else .error .illMbz
  | 0x010 => if fld w 16 1 = 0 then .ok (.vperm (.ofNat 3 (w / 8388608)) (.ofNat 3 (w / 1048576)) (.ofNat 3 (w / 131072)) (.ofNat 2 (w / 16384)) (.ofNat 3 (w / 2048)) (.ofNat 4 (w / 1))) else .error .illMbz
  | 0x011 => if fld w 14 1 = 0 ∧ fld w 18 4 = 0 then .ok (.vbcast (.ofNat 4 (w / 4194304)) (.ofNat 3 (w / 32768)) (.ofNat 3 (w / 2048)) (.ofNat 4 (w / 1))) else .error .illMbz
  | 0x012 => if fld w 14 1 = 0 then .ok (.vext (.ofNat 4 (w / 4194304)) (.ofNat 4 (w / 262144)) (.ofNat 3 (w / 32768)) (.ofNat 3 (w / 2048)) (.ofNat 4 (w / 1))) else .error .illMbz
  | 0x013 => if fld w 14 1 = 0 then .ok (.vins (.ofNat 4 (w / 4194304)) (.ofNat 4 (w / 262144)) (.ofNat 3 (w / 32768)) (.ofNat 3 (w / 2048)) (.ofNat 4 (w / 1))) else .error .illMbz
  | _ => .error .illFn

/-- Major 0x22 (R68, R69). -/
def decodeMajor22 (w : Nat) : Except DecodeError Instr :=
  match fld w 4 7 with
  | 0x000 => if fld w 16 4 = 0 then .ok (.vrcp (.ofNat 3 (w / 8388608)) (.ofNat 3 (w / 1048576)) (.ofNat 2 (w / 16384)) (.ofNat 3 (w / 2048)) (.ofNat 4 (w / 1))) else .error .illMbz
  | 0x001 => if fld w 16 4 = 0 then .ok (.vrsq (.ofNat 3 (w / 8388608)) (.ofNat 3 (w / 1048576)) (.ofNat 2 (w / 16384)) (.ofNat 3 (w / 2048)) (.ofNat 4 (w / 1))) else .error .illMbz
  | 0x002 => if fld w 16 4 = 0 then .ok (.vexp2 (.ofNat 3 (w / 8388608)) (.ofNat 3 (w / 1048576)) (.ofNat 2 (w / 16384)) (.ofNat 3 (w / 2048)) (.ofNat 4 (w / 1))) else .error .illMbz
  | 0x003 => if fld w 16 4 = 0 then .ok (.vlog2 (.ofNat 3 (w / 8388608)) (.ofNat 3 (w / 1048576)) (.ofNat 2 (w / 16384)) (.ofNat 3 (w / 2048)) (.ofNat 4 (w / 1))) else .error .illMbz
  | _ => .error .illFn

/-- Major 0x23 (R68, R69). -/
def decodeMajor23 (w : Nat) : Except DecodeError Instr :=
  match fld w 4 7 with
  | 0x000 => if fld w 14 1 = 0 ∧ fld w 20 2 = 0 then .ok (.vredSum (.ofNat 4 (w / 4194304)) (.ofNat 2 (w / 262144)) (.ofNat 3 (w / 32768)) (.ofNat 3 (w / 2048)) (.ofNat 4 (w / 1))) else .error .illMbz
  | 0x001 => if fld w 14 1 = 0 ∧ fld w 20 2 = 0 then .ok (.vredMin (.ofNat 4 (w / 4194304)) (.ofNat 2 (w / 262144)) (.ofNat 3 (w / 32768)) (.ofNat 3 (w / 2048)) (.ofNat 4 (w / 1))) else .error .illMbz
  | 0x002 => if fld w 14 1 = 0 ∧ fld w 20 2 = 0 then .ok (.vredMax (.ofNat 4 (w / 4194304)) (.ofNat 2 (w / 262144)) (.ofNat 3 (w / 32768)) (.ofNat 3 (w / 2048)) (.ofNat 4 (w / 1))) else .error .illMbz
  | 0x010 => if fld w 16 4 = 0 then .ok (.vscan (.ofNat 3 (w / 8388608)) (.ofNat 3 (w / 1048576)) (.ofNat 2 (w / 16384)) (.ofNat 3 (w / 2048)) (.ofNat 4 (w / 1))) else .error .illMbz
  | 0x020 => if fld w 16 1 = 0 then .ok (.vdot (.ofNat 3 (w / 8388608)) (.ofNat 3 (w / 1048576)) (.ofNat 3 (w / 131072)) (.ofNat 2 (w / 16384)) (.ofNat 3 (w / 2048)) (.ofNat 4 (w / 1))) else .error .illMbz
  | _ => .error .illFn

/-- Major 0x24 (R68, R69). -/
def decodeMajor24 (w : Nat) : Except DecodeError Instr :=
  match fld w 4 7 with
  | 0x000 | 0x001 | 0x002 | 0x003 | 0x004 | 0x005 => if fld w 16 1 = 0 ∧ fld w 25 1 = 0 then .ok (.vcmp (.ofNat 2 (w / 8388608)) (.ofNat 3 (w / 1048576)) (.ofNat 3 (w / 131072)) (.ofNat 2 (w / 16384)) (.ofNat 3 (w / 2048)) (.ofNat 3 (w / 16)) (.ofNat 4 (w / 1))) else .error .illMbz
  | 0x010 => if fld w 16 1 = 0 then .ok (.vsel (.ofNat 3 (w / 8388608)) (.ofNat 3 (w / 1048576)) (.ofNat 3 (w / 131072)) (.ofNat 2 (w / 16384)) (.ofNat 3 (w / 2048)) (.ofNat 4 (w / 1))) else .error .illMbz
  | _ => .error .illFn

/-- Major 0x28 (R68, R69). -/
def decodeMajor28 (w : Nat) : Except DecodeError Instr :=
  match fld w 4 6 with
  | 0x000 => .ok (.mmaBb (.ofNat 2 (w / 16777216)) (.ofNat 3 (w / 2097152)) (.ofNat 3 (w / 262144)) (.ofNat 4 (w / 16384)) (.ofNat 4 (w / 1024)) (.ofNat 4 (w / 1)))
  | 0x001 => .ok (.mmaHh (.ofNat 2 (w / 16777216)) (.ofNat 3 (w / 2097152)) (.ofNat 3 (w / 262144)) (.ofNat 4 (w / 16384)) (.ofNat 4 (w / 1024)) (.ofNat 4 (w / 1)))
  | 0x002 => .ok (.mmaQq (.ofNat 2 (w / 16777216)) (.ofNat 3 (w / 2097152)) (.ofNat 3 (w / 262144)) (.ofNat 4 (w / 16384)) (.ofNat 4 (w / 1024)) (.ofNat 4 (w / 1)))
  | 0x003 => .ok (.mmaWw (.ofNat 2 (w / 16777216)) (.ofNat 3 (w / 2097152)) (.ofNat 3 (w / 262144)) (.ofNat 4 (w / 16384)) (.ofNat 4 (w / 1024)) (.ofNat 4 (w / 1)))
  | 0x004 => .ok (.mmaQw (.ofNat 2 (w / 16777216)) (.ofNat 3 (w / 2097152)) (.ofNat 3 (w / 262144)) (.ofNat 4 (w / 16384)) (.ofNat 4 (w / 1024)) (.ofNat 4 (w / 1)))
  | _ => .error .illFn

/-- Major 0x29 (R68, R69). -/
def decodeMajor29 (w : Nat) : Except DecodeError Instr :=
  match fld w 4 6 with
  | 0x000 => .ok (.mmaNn (.ofNat 2 (w / 16777216)) (.ofNat 3 (w / 2097152)) (.ofNat 3 (w / 262144)) (.ofNat 4 (w / 16384)) (.ofNat 4 (w / 1024)) (.ofNat 4 (w / 1)))
  | 0x001 => .ok (.mmaLl (.ofNat 2 (w / 16777216)) (.ofNat 3 (w / 2097152)) (.ofNat 3 (w / 262144)) (.ofNat 4 (w / 16384)) (.ofNat 4 (w / 1024)) (.ofNat 4 (w / 1)))
  | 0x002 => if fld w 14 4 = 0 then .ok (.mmaIi (.ofNat 2 (w / 16777216)) (.ofNat 3 (w / 2097152)) (.ofNat 3 (w / 262144)) (.ofNat 4 (w / 1024)) (.ofNat 4 (w / 1))) else .error .illOperand
  | _ => .error .illFn

/-- Major 0x2A (R68, R69). -/
def decodeMajor2A (w : Nat) : Except DecodeError Instr :=
  match fld w 4 6 with
  | 0x000 => if fld w 10 4 = 0 ∧ fld w 18 8 = 0 then .ok (.mcfg (.ofNat 4 (w / 16384)) (.ofNat 4 (w / 1))) else .error .illMbz
  | 0x001 => if fld w 10 14 = 0 then .ok (.mzero (.ofNat 2 (w / 16777216)) (.ofNat 4 (w / 1))) else .error .illMbz
  | 0x002 => if fld w 10 4 = 0 ∧ fld w 18 3 = 0 then .ok (.mrd (.ofNat 2 (w / 16777216)) (.ofNat 3 (w / 2097152)) (.ofNat 4 (w / 16384)) (.ofNat 4 (w / 1))) else .error .illMbz
  | 0x003 => if fld w 10 4 = 0 ∧ fld w 18 3 = 0 then .ok (.mwr (.ofNat 2 (w / 16777216)) (.ofNat 3 (w / 2097152)) (.ofNat 4 (w / 16384)) (.ofNat 4 (w / 1))) else .error .illMbz
  | 0x004 => if fld w 10 4 = 0 ∧ fld w 18 6 = 0 then .ok (.msave (.ofNat 2 (w / 16777216)) (.ofNat 4 (w / 16384)) (.ofNat 4 (w / 1))) else .error .illMbz
  | 0x005 => if fld w 10 4 = 0 ∧ fld w 18 6 = 0 then .ok (.mload (.ofNat 2 (w / 16777216)) (.ofNat 4 (w / 16384)) (.ofNat 4 (w / 1))) else .error .illMbz
  | _ => .error .illFn

/-- Major 0x2C (R68, R69). -/
def decodeMajor2C (w : Nat) : Except DecodeError Instr :=
  if fld w 10 3 = 7 then .error .illFn else
  match fld w 4 6 with
  | 0x000 => if fld w 10 3 = 0 ∧ fld w 21 3 = 0 then .ok (.qaxis (.ofNat 2 (w / 16777216)) (.ofNat 4 (w / 131072)) (.ofNat 4 (w / 8192)) (.ofNat 4 (w / 1))) else .error .illMbz
  | 0x001 => if (fld w 13 4 = 0 ∨ fld w 10 3 = 2) then .ok (.qst (.ofNat 2 (w / 16777216)) (.ofNat 3 (w / 2097152)) (.ofNat 4 (w / 131072)) (.ofNat 4 (w / 8192)) (.ofNat 3 (w / 1024)) (.ofNat 4 (w / 1))) else .error .illMbz
  | 0x002 => if fld w 23 1 = 0 ∧ (fld w 13 4 = 0 ∨ fld w 10 3 = 2) then .ok (.qsta (.ofNat 2 (w / 16777216)) (.ofNat 2 (w / 2097152)) (.ofNat 4 (w / 131072)) (.ofNat 4 (w / 8192)) (.ofNat 3 (w / 1024)) (.ofNat 4 (w / 1))) else .error .illMbz
  | 0x003 => if fld w 10 11 = 0 then .ok (.qresR (.ofNat 2 (w / 16777216)) (.ofNat 3 (w / 2097152)) (.ofNat 4 (w / 1))) else .error .illMbz
  | 0x004 => if fld w 10 11 = 0 then .ok (.qresW (.ofNat 2 (w / 16777216)) (.ofNat 3 (w / 2097152)) (.ofNat 4 (w / 1))) else .error .illMbz
  | _ => .error .illFn

/-- Major 0x2D (R68, R69). -/
def decodeMajor2D (w : Nat) : Except DecodeError Instr :=
  match fld w 4 10 with
  | 0x000 => .ok (.gcfg (.ofNat 4 (w / 4194304)) (.ofNat 4 (w / 262144)) (.ofNat 4 (w / 16384)) (.ofNat 4 (w / 1)))
  | 0x001 => if fld w 25 1 = 0 then .ok (.gseed (.ofNat 3 (w / 4194304)) (.ofNat 4 (w / 262144)) (.ofNat 4 (w / 16384)) (.ofNat 4 (w / 1))) else .error .illMbz
  | 0x002 => if fld w 25 1 = 0 then .ok (.gadd (.ofNat 3 (w / 4194304)) (.ofNat 4 (w / 262144)) (.ofNat 4 (w / 16384)) (.ofNat 4 (w / 1))) else .error .illMbz
  | 0x003 => if fld w 25 1 = 0 then .ok (.gld (.ofNat 3 (w / 4194304)) (.ofNat 4 (w / 262144)) (.ofNat 4 (w / 16384)) (.ofNat 4 (w / 1))) else .error .illMbz
  | 0x004 => if fld w 25 1 = 0 then .ok (.gsprd (.ofNat 3 (w / 4194304)) (.ofNat 4 (w / 262144)) (.ofNat 4 (w / 16384)) (.ofNat 4 (w / 1))) else .error .illMbz
  | 0x005 => if fld w 14 12 = 0 then .ok (.gfence (.ofNat 4 (w / 1))) else .error .illMbz
  | 0x006 => .ok (.gmass (.ofNat 4 (w / 4194304)) (.ofNat 4 (w / 262144)) (.ofNat 4 (w / 16384)) (.ofNat 4 (w / 1)))
  | _ => .error .illFn

/-- Major 0x30 (R68, R69). -/
def decodeMajor30 (w : Nat) : Except DecodeError Instr :=
  match fld w 4 2 with
  | 0x000 => if fld w 22 4 = 0 then .ok (.spawn (.ofNat 4 (w / 262144)) (.ofNat 12 (w / 64)) (.ofNat 4 (w / 1))) else .error .illMbz
  | 0x001 => if fld w 6 12 = 0 ∧ fld w 22 4 = 0 then .ok (.join (.ofNat 4 (w / 262144)) (.ofNat 4 (w / 1))) else .error .illMbz
  | 0x002 => if fld w 6 12 = 0 ∧ fld w 22 4 = 0 then .ok (.tend (.ofNat 4 (w / 262144)) (.ofNat 4 (w / 1))) else .error .illMbz
  | _ => .error .illFn

/-- Major 0x31 (R68, R69). -/
def decodeMajor31 (w : Nat) : Except DecodeError Instr :=
  match fld w 4 10 with
  | 0x000 | 0x001 | 0x002 | 0x003 => if fld w 14 4 = 0 then .ok (.send (.ofNat 4 (w / 4194304)) (.ofNat 4 (w / 262144)) (.ofNat 2 (w / 16)) (.ofNat 4 (w / 1))) else .error .illMbz
  | 0x004 | 0x005 | 0x006 | 0x007 => .ok (.sendSvc (.ofNat 4 (w / 4194304)) (.ofNat 4 (w / 262144)) (.ofNat 4 (w / 16384)) (.ofNat 2 (w / 16)) (.ofNat 4 (w / 1)))
  | 0x010 | 0x011 | 0x012 | 0x013 => if fld w 14 4 = 0 then .ok (.recv (.ofNat 4 (w / 4194304)) (.ofNat 4 (w / 262144)) (.ofNat 2 (w / 16)) (.ofNat 4 (w / 1))) else .error .illMbz
  | 0x020 => if fld w 14 4 = 0 ∧ fld w 22 4 = 0 then .ok (.mig (.ofNat 4 (w / 262144)) (.ofNat 4 (w / 1))) else .error .illMbz
  | _ => .error .illFn

/-- Major 0x32 (R68, R69). -/
def decodeMajor32 (w : Nat) : Except DecodeError Instr :=
  match fld w 4 10 with
  | 0x000 => .ok (.cpy (.ofNat 4 (w / 4194304)) (.ofNat 4 (w / 262144)) (.ofNat 4 (w / 16384)) (.ofNat 4 (w / 1)))
  | 0x001 => .ok (.cpyr (.ofNat 4 (w / 4194304)) (.ofNat 4 (w / 262144)) (.ofNat 4 (w / 16384)) (.ofNat 4 (w / 1)))
  | 0x002 => .ok (.rpush (.ofNat 4 (w / 4194304)) (.ofNat 4 (w / 262144)) (.ofNat 4 (w / 16384)) (.ofNat 4 (w / 1)))
  | 0x003 => if fld w 14 4 = 0 ∧ fld w 22 4 = 0 then .ok (.qfence (.ofNat 4 (w / 262144)) (.ofNat 4 (w / 1))) else .error .illMbz
  | 0x004 => .ok (.coll (.ofNat 4 (w / 4194304)) (.ofNat 4 (w / 262144)) (.ofNat 4 (w / 16384)) (.ofNat 4 (w / 1)))
  | 0x005 => .ok (.collw (.ofNat 4 (w / 4194304)) (.ofNat 4 (w / 262144)) (.ofNat 4 (w / 16384)) (.ofNat 4 (w / 1)))
  | _ => .error .illFn

/-- Major 0x34 (R68, R69). -/
def decodeMajor34 (w : Nat) : Except DecodeError Instr :=
  match fld w 4 10 with
  | 0x000 => .ok (.bdef (.ofNat 4 (w / 4194304)) (.ofNat 4 (w / 262144)) (.ofNat 4 (w / 16384)) (.ofNat 4 (w / 1)))
  | 0x001 => if fld w 22 4 = 0 then .ok (.bnbr (.ofNat 4 (w / 262144)) (.ofNat 4 (w / 16384)) (.ofNat 4 (w / 1))) else .error .illMbz
  | 0x002 => if fld w 22 4 = 0 then .ok (.brule (.ofNat 4 (w / 262144)) (.ofNat 4 (w / 16384)) (.ofNat 4 (w / 1))) else .error .illMbz
  | 0x003 => if fld w 22 4 = 0 then .ok (.bstart (.ofNat 4 (w / 262144)) (.ofNat 4 (w / 16384)) (.ofNat 4 (w / 1))) else .error .illMbz
  | 0x004 => if fld w 14 12 = 0 then .ok (.bnext (.ofNat 4 (w / 1))) else .error .illMbz
  | 0x005 => if fld w 14 12 = 0 then .ok (.bcommit (.ofNat 4 (w / 1))) else .error .illMbz
  | 0x006 => if fld w 14 12 = 0 then .ok (.bcommitC (.ofNat 4 (w / 1))) else .error .illMbz
  | 0x007 => if fld w 14 4 = 0 then .ok (.blvl (.ofNat 4 (w / 4194304)) (.ofNat 4 (w / 262144)) (.ofNat 4 (w / 1))) else .error .illMbz
  | 0x008 => if fld w 14 12 = 0 then .ok (.bfrzB (.ofNat 4 (w / 1))) else .error .illMbz
  | 0x009 => if fld w 14 4 = 0 then .ok (.bfrzD (.ofNat 4 (w / 4194304)) (.ofNat 4 (w / 262144)) (.ofNat 4 (w / 1))) else .error .illMbz
  | 0x00A => if fld w 14 4 = 0 ∧ fld w 22 4 = 0 then .ok (.bthaw (.ofNat 4 (w / 262144)) (.ofNat 4 (w / 1))) else .error .illMbz
  | 0x00B => .ok (.bfront (.ofNat 4 (w / 4194304)) (.ofNat 4 (w / 262144)) (.ofNat 4 (w / 16384)) (.ofNat 4 (w / 1)))
  | _ => .error .illFn

/-- Major 0x38 (R68, R69). -/
def decodeMajor38 (w : Nat) : Except DecodeError Instr :=
  match fld w 4 2 with
  | 0x000 => if fld w 18 4 = 0 then .ok (.csrr (.ofNat 4 (w / 4194304)) (.ofNat 12 (w / 64)) (.ofNat 4 (w / 1))) else .error .illMbz
  | 0x001 => .ok (.csrw (.ofNat 4 (w / 4194304)) (.ofNat 4 (w / 262144)) (.ofNat 12 (w / 64)) (.ofNat 4 (w / 1)))
  | 0x002 => .ok (.csrs (.ofNat 4 (w / 4194304)) (.ofNat 4 (w / 262144)) (.ofNat 12 (w / 64)) (.ofNat 4 (w / 1)))
  | 0x003 => .ok (.csrc (.ofNat 4 (w / 4194304)) (.ofNat 4 (w / 262144)) (.ofNat 12 (w / 64)) (.ofNat 4 (w / 1)))
  | _ => .error .illFn

/-- Major 0x39 (R68, R69). -/
def decodeMajor39 (w : Nat) : Except DecodeError Instr :=
  match fld w 4 2 with
  | 0x000 => if fld w 18 8 = 0 then .ok (.trap (.ofNat 12 (w / 64)) (.ofNat 4 (w / 1))) else .error .illMbz
  | 0x001 => if fld w 6 20 = 0 then .ok (.rft (.ofNat 4 (w / 1))) else .error .illMbz
  | 0x002 => if fld w 6 20 = 0 then .ok (.halt (.ofNat 4 (w / 1))) else .error .illMbz
  | 0x003 => if fld w 6 20 = 0 then .ok (.yield (.ofNat 4 (w / 1))) else .error .illMbz
  | _ => .error .illFn

/-- Checks 1 to 3 of R72 on a word of 32 bits. -/
def decodeNat (w : Nat) : Except DecodeError Instr :=
  if w = 0x04000000 then .ok .nop else
  match fld w 26 6 with
  | 0x01 => decodeMajor01 w
  | 0x02 => decodeMajor02 w
  | 0x03 => decodeMajor03 w
  | 0x04 => decodeMajor04 w
  | 0x05 => decodeMajor05 w
  | 0x06 => decodeMajor06 w
  | 0x07 => decodeMajor07 w
  | 0x08 => decodeMajor08 w
  | 0x09 => decodeMajor09 w
  | 0x0A => decodeMajor0A w
  | 0x0B => decodeMajor0B w
  | 0x0C => decodeMajor0C w
  | 0x0D => decodeMajor0D w
  | 0x10 => decodeMajor10 w
  | 0x11 => decodeMajor11 w
  | 0x12 => decodeMajor12 w
  | 0x13 => decodeMajor13 w
  | 0x18 => decodeMajor18 w
  | 0x19 => decodeMajor19 w
  | 0x1A => decodeMajor1A w
  | 0x1B => decodeMajor1B w
  | 0x1C => decodeMajor1C w
  | 0x1D => decodeMajor1D w
  | 0x1E => decodeMajor1E w
  | 0x1F => decodeMajor1F w
  | 0x20 => decodeMajor20 w
  | 0x21 => decodeMajor21 w
  | 0x22 => decodeMajor22 w
  | 0x23 => decodeMajor23 w
  | 0x24 => decodeMajor24 w
  | 0x28 => decodeMajor28 w
  | 0x29 => decodeMajor29 w
  | 0x2A => decodeMajor2A w
  | 0x2C => decodeMajor2C w
  | 0x2D => decodeMajor2D w
  | 0x30 => decodeMajor30 w
  | 0x31 => decodeMajor31 w
  | 0x32 => decodeMajor32 w
  | 0x34 => decodeMajor34 w
  | 0x38 => decodeMajor38 w
  | 0x39 => decodeMajor39 w
  | _ => .error .illOpcode

/-- The word of an instruction as a number, from the encoding strips of the spec; 0 for an event, which has no word. -/
def encodeNat : Instr → Nat
  | .add d a b p => 0x04000000 + d.toNat * 4194304 + a.toNat * 262144 + b.toNat * 16384 + p.toNat
  | .sub d a b p => 0x04000010 + d.toNat * 4194304 + a.toNat * 262144 + b.toNat * 16384 + p.toNat
  | .and d a b p => 0x04000020 + d.toNat * 4194304 + a.toNat * 262144 + b.toNat * 16384 + p.toNat
  | .or d a b p => 0x04000030 + d.toNat * 4194304 + a.toNat * 262144 + b.toNat * 16384 + p.toNat
  | .xor d a b p => 0x04000040 + d.toNat * 4194304 + a.toNat * 262144 + b.toNat * 16384 + p.toNat
  | .andn d a b p => 0x04000050 + d.toNat * 4194304 + a.toNat * 262144 + b.toNat * 16384 + p.toNat
  | .sll d a b p => 0x04000060 + d.toNat * 4194304 + a.toNat * 262144 + b.toNat * 16384 + p.toNat
  | .srl d a b p => 0x04000070 + d.toNat * 4194304 + a.toNat * 262144 + b.toNat * 16384 + p.toNat
  | .sra d a b p => 0x04000080 + d.toNat * 4194304 + a.toNat * 262144 + b.toNat * 16384 + p.toNat
  | .min d a b p => 0x04000090 + d.toNat * 4194304 + a.toNat * 262144 + b.toNat * 16384 + p.toNat
  | .max d a b p => 0x040000A0 + d.toNat * 4194304 + a.toNat * 262144 + b.toNat * 16384 + p.toNat
  | .minu d a b p => 0x040000B0 + d.toNat * 4194304 + a.toNat * 262144 + b.toNat * 16384 + p.toNat
  | .maxu d a b p => 0x040000C0 + d.toNat * 4194304 + a.toNat * 262144 + b.toNat * 16384 + p.toNat
  | .mul d a b p => 0x04000100 + d.toNat * 4194304 + a.toNat * 262144 + b.toNat * 16384 + p.toNat
  | .mulh d a b p => 0x04000110 + d.toNat * 4194304 + a.toNat * 262144 + b.toNat * 16384 + p.toNat
  | .mulhu d a b p => 0x04000120 + d.toNat * 4194304 + a.toNat * 262144 + b.toNat * 16384 + p.toNat
  | .div d a b p => 0x04000140 + d.toNat * 4194304 + a.toNat * 262144 + b.toNat * 16384 + p.toNat
  | .divu d a b p => 0x04000150 + d.toNat * 4194304 + a.toNat * 262144 + b.toNat * 16384 + p.toNat
  | .rem d a b p => 0x04000160 + d.toNat * 4194304 + a.toNat * 262144 + b.toNat * 16384 + p.toNat
  | .remu d a b p => 0x04000170 + d.toNat * 4194304 + a.toNat * 262144 + b.toNat * 16384 + p.toNat
  | .clz d a p => 0x04000200 + d.toNat * 4194304 + a.toNat * 262144 + p.toNat
  | .popc d a p => 0x04000210 + d.toNat * 4194304 + a.toNat * 262144 + p.toNat
  | .sextB d a p => 0x04000240 + d.toNat * 4194304 + a.toNat * 262144 + p.toNat
  | .sextH d a p => 0x04000250 + d.toNat * 4194304 + a.toNat * 262144 + p.toNat
  | .sextW d a p => 0x04000260 + d.toNat * 4194304 + a.toNat * 262144 + p.toNat
  | .zextB d a p => 0x04000280 + d.toNat * 4194304 + a.toNat * 262144 + p.toNat
  | .zextH d a p => 0x04000290 + d.toNat * 4194304 + a.toNat * 262144 + p.toNat
  | .zextW d a p => 0x040002A0 + d.toNat * 4194304 + a.toNat * 262144 + p.toNat
  | .sel d a b n p => 0x04000400 + d.toNat * 4194304 + a.toNat * 262144 + b.toNat * 16384 + n.toNat * 16 + p.toNat
  | .nop => 0x04000000
  | .addi d a i p => 0x08000000 + d.toNat * 4194304 + a.toNat * 262144 + i.toNat * 16 + p.toNat
  | .andi d a i p => 0x0C000000 + d.toNat * 4194304 + a.toNat * 262144 + i.toNat * 16 + p.toNat
  | .ori d a i p => 0x10000000 + d.toNat * 4194304 + a.toNat * 262144 + i.toNat * 16 + p.toNat
  | .xori d a i p => 0x14000000 + d.toNat * 4194304 + a.toNat * 262144 + i.toNat * 16 + p.toNat
  | .slli d a s p => 0x18000000 + d.toNat * 4194304 + a.toNat * 262144 + s.toNat * 16 + p.toNat
  | .srli d a s p => 0x18000400 + d.toNat * 4194304 + a.toNat * 262144 + s.toNat * 16 + p.toNat
  | .srai d a s p => 0x18000800 + d.toNat * 4194304 + a.toNat * 262144 + s.toNat * 16 + p.toNat
  | .movi d i p => 0x1C000000 + d.toNat * 4194304 + i.toNat * 16 + p.toNat
  | .movhi d i p => 0x20000000 + d.toNat * 4194304 + i.toNat * 16 + p.toNat
  | .ldk d k p => 0x24000000 + d.toNat * 4194304 + k.toNat * 1024 + p.toNat
  | .addk d a k p => 0x24000010 + d.toNat * 4194304 + a.toNat * 262144 + k.toNat * 1024 + p.toNat
  | .cmp d a b c p => 0x28000000 + d.toNat * 4194304 + a.toNat * 262144 + b.toNat * 16384 + c.toNat * 16 + p.toNat
  | .cmpi d a c i p => 0x2C000000 + d.toNat * 4194304 + a.toNat * 262144 + c.toNat * 32768 + i.toNat * 16 + p.toNat
  | .pand d a b p => 0x30000000 + d.toNat * 4194304 + a.toNat * 262144 + b.toNat * 16384 + p.toNat
  | .por d a b p => 0x30000010 + d.toNat * 4194304 + a.toNat * 262144 + b.toNat * 16384 + p.toNat
  | .pxor d a b p => 0x30000020 + d.toNat * 4194304 + a.toNat * 262144 + b.toNat * 16384 + p.toNat
  | .pnot d a p => 0x30000030 + d.toNat * 4194304 + a.toNat * 262144 + p.toNat
  | .prd d p => 0x30000040 + d.toNat * 4194304 + p.toNat
  | .pwr m a p => 0x30000050 + m.toNat * 4194304 + a.toNat * 262144 + p.toNat
  | .bfx d a s w p => 0x34000000 + d.toNat * 4194304 + a.toNat * 262144 + s.toNat * 4096 + w.toNat * 64 + p.toNat
  | .bfi d a s w p => 0x34000010 + d.toNat * 4194304 + a.toNat * 262144 + s.toNat * 4096 + w.toNat * 64 + p.toNat
  | .br i p => 0x40000000 + i.toNat * 16 + p.toNat
  | .call i p => 0x44000000 + i.toNat * 16 + p.toNat
  | .jmpr a p => 0x48000000 + a.toNat * 262144 + p.toNat
  | .callr a p => 0x48000010 + a.toNat * 262144 + p.toNat
  | .ret p => 0x48000020 + p.toNat
  | .leaB d a o p => 0x4C000000 + d.toNat * 4194304 + a.toNat * 262144 + o.toNat * 64 + p.toNat
  | .leaH d a o p => 0x4C000010 + d.toNat * 4194304 + a.toNat * 262144 + o.toNat * 64 + p.toNat
  | .leaW d a o p => 0x4C000020 + d.toNat * 4194304 + a.toNat * 262144 + o.toNat * 64 + p.toNat
  | .leaD d a o p => 0x4C000030 + d.toNat * 4194304 + a.toNat * 262144 + o.toNat * 64 + p.toNat
  | .ldbu d a o p => 0x60000000 + d.toNat * 4194304 + a.toNat * 262144 + o.toNat * 64 + p.toNat
  | .ldhu d a o p => 0x60000010 + d.toNat * 4194304 + a.toNat * 262144 + o.toNat * 64 + p.toNat
  | .ldwu d a o p => 0x60000020 + d.toNat * 4194304 + a.toNat * 262144 + o.toNat * 64 + p.toNat
  | .ldd d a o p => 0x60000030 + d.toNat * 4194304 + a.toNat * 262144 + o.toNat * 64 + p.toNat
  | .stb s a o p => 0x64000000 + s.toNat * 4194304 + a.toNat * 262144 + o.toNat * 64 + p.toNat
  | .sth s a o p => 0x64000010 + s.toNat * 4194304 + a.toNat * 262144 + o.toNat * 64 + p.toNat
  | .stw s a o p => 0x64000020 + s.toNat * 4194304 + a.toNat * 262144 + o.toNat * 64 + p.toNat
  | .std s a o p => 0x64000030 + s.toNat * 4194304 + a.toNat * 262144 + o.toNat * 64 + p.toNat
  | .ldm d a b p => 0x68000000 + d.toNat * 4194304 + a.toNat * 262144 + b.toNat * 16384 + p.toNat
  | .stm d a b p => 0x68000010 + d.toNat * 4194304 + a.toNat * 262144 + b.toNat * 16384 + p.toNat
  | .ldb d a b p => 0x68000100 + d.toNat * 4194304 + a.toNat * 262144 + b.toNat * 16384 + p.toNat
  | .ldh d a b p => 0x68000110 + d.toNat * 4194304 + a.toNat * 262144 + b.toNat * 16384 + p.toNat
  | .ldw d a b p => 0x68000120 + d.toNat * 4194304 + a.toNat * 262144 + b.toNat * 16384 + p.toNat
  | .ldbAcq d a b p => 0x68000200 + d.toNat * 4194304 + a.toNat * 262144 + b.toNat * 16384 + p.toNat
  | .ldhAcq d a b p => 0x68000210 + d.toNat * 4194304 + a.toNat * 262144 + b.toNat * 16384 + p.toNat
  | .ldwAcq d a b p => 0x68000220 + d.toNat * 4194304 + a.toNat * 262144 + b.toNat * 16384 + p.toNat
  | .lddAcq d a b p => 0x68000230 + d.toNat * 4194304 + a.toNat * 262144 + b.toNat * 16384 + p.toNat
  | .ldbuAcq d a b p => 0x68000240 + d.toNat * 4194304 + a.toNat * 262144 + b.toNat * 16384 + p.toNat
  | .ldhuAcq d a b p => 0x68000250 + d.toNat * 4194304 + a.toNat * 262144 + b.toNat * 16384 + p.toNat
  | .ldwuAcq d a b p => 0x68000260 + d.toNat * 4194304 + a.toNat * 262144 + b.toNat * 16384 + p.toNat
  | .ldbSc d a b p => 0x68000300 + d.toNat * 4194304 + a.toNat * 262144 + b.toNat * 16384 + p.toNat
  | .ldhSc d a b p => 0x68000310 + d.toNat * 4194304 + a.toNat * 262144 + b.toNat * 16384 + p.toNat
  | .ldwSc d a b p => 0x68000320 + d.toNat * 4194304 + a.toNat * 262144 + b.toNat * 16384 + p.toNat
  | .lddSc d a b p => 0x68000330 + d.toNat * 4194304 + a.toNat * 262144 + b.toNat * 16384 + p.toNat
  | .ldbuSc d a b p => 0x68000340 + d.toNat * 4194304 + a.toNat * 262144 + b.toNat * 16384 + p.toNat
  | .ldhuSc d a b p => 0x68000350 + d.toNat * 4194304 + a.toNat * 262144 + b.toNat * 16384 + p.toNat
  | .ldwuSc d a b p => 0x68000360 + d.toNat * 4194304 + a.toNat * 262144 + b.toNat * 16384 + p.toNat
  | .stbRel s a b p => 0x68000400 + s.toNat * 4194304 + a.toNat * 262144 + b.toNat * 16384 + p.toNat
  | .sthRel s a b p => 0x68000410 + s.toNat * 4194304 + a.toNat * 262144 + b.toNat * 16384 + p.toNat
  | .stwRel s a b p => 0x68000420 + s.toNat * 4194304 + a.toNat * 262144 + b.toNat * 16384 + p.toNat
  | .stdRel s a b p => 0x68000430 + s.toNat * 4194304 + a.toNat * 262144 + b.toNat * 16384 + p.toNat
  | .stbSc s a b p => 0x68000500 + s.toNat * 4194304 + a.toNat * 262144 + b.toNat * 16384 + p.toNat
  | .sthSc s a b p => 0x68000510 + s.toNat * 4194304 + a.toNat * 262144 + b.toNat * 16384 + p.toNat
  | .stwSc s a b p => 0x68000520 + s.toNat * 4194304 + a.toNat * 262144 + b.toNat * 16384 + p.toNat
  | .stdSc s a b p => 0x68000530 + s.toNat * 4194304 + a.toNat * 262144 + b.toNat * 16384 + p.toNat
  | .vld v a b t k p => 0x6C000000 + v.toNat * 4194304 + a.toNat * 262144 + b.toNat * 16384 + t.toNat * 2048 + k.toNat * 512 + p.toNat
  | .vst v a b t k p => 0x6C000010 + v.toNat * 4194304 + a.toNat * 262144 + b.toNat * 16384 + t.toNat * 2048 + k.toNat * 512 + p.toNat
  | .vlds v a b t k p => 0x6C000020 + v.toNat * 4194304 + a.toNat * 262144 + b.toNat * 16384 + t.toNat * 2048 + k.toNat * 512 + p.toNat
  | .vsts v a b t k p => 0x6C000030 + v.toNat * 4194304 + a.toNat * 262144 + b.toNat * 16384 + t.toNat * 2048 + k.toNat * 512 + p.toNat
  | .vgath v a i t k p => 0x70000000 + v.toNat * 4194304 + a.toNat * 262144 + i.toNat * 16384 + t.toNat * 2048 + k.toNat * 512 + p.toNat
  | .vscat v a i t k p => 0x70000010 + v.toNat * 4194304 + a.toNat * 262144 + i.toNat * 16384 + t.toNat * 2048 + k.toNat * 512 + p.toNat
  | .pref a b p => 0x70000020 + a.toNat * 262144 + b.toNat * 16384 + p.toNat
  | .amoAdd d a b z s p => 0x74000200 + d.toNat * 4194304 + a.toNat * 262144 + b.toNat * 16384 + z.toNat * 256 + s.toNat * 128 + p.toNat
  | .amoMin d a b z s p => 0x74000210 + d.toNat * 4194304 + a.toNat * 262144 + b.toNat * 16384 + z.toNat * 256 + s.toNat * 128 + p.toNat
  | .amoMax d a b z s p => 0x74000220 + d.toNat * 4194304 + a.toNat * 262144 + b.toNat * 16384 + z.toNat * 256 + s.toNat * 128 + p.toNat
  | .amoAnd d a b z s p => 0x74000230 + d.toNat * 4194304 + a.toNat * 262144 + b.toNat * 16384 + z.toNat * 256 + s.toNat * 128 + p.toNat
  | .amoOr d a b z s p => 0x74000240 + d.toNat * 4194304 + a.toNat * 262144 + b.toNat * 16384 + z.toNat * 256 + s.toNat * 128 + p.toNat
  | .amoXor d a b z s p => 0x74000250 + d.toNat * 4194304 + a.toNat * 262144 + b.toNat * 16384 + z.toNat * 256 + s.toNat * 128 + p.toNat
  | .amoSwap d a b z s p => 0x74000260 + d.toNat * 4194304 + a.toNat * 262144 + b.toNat * 16384 + z.toNat * 256 + s.toNat * 128 + p.toNat
  | .amoCas d a b z s p => 0x74000270 + d.toNat * 4194304 + a.toNat * 262144 + b.toNat * 16384 + z.toNat * 256 + s.toNat * 128 + p.toNat
  | .amoOrdAdd d a b p => 0x78000000 + d.toNat * 4194304 + a.toNat * 262144 + b.toNat * 16384 + p.toNat
  | .amoOrdFadd d a b p => 0x78000010 + d.toNat * 4194304 + a.toNat * 262144 + b.toNat * 16384 + p.toNat
  | .amoOrdSwap d a b p => 0x78000020 + d.toNat * 4194304 + a.toNat * 262144 + b.toNat * 16384 + p.toNat
  | .fred d a p => 0x78000100 + d.toNat * 4194304 + a.toNat * 262144 + p.toNat
  | .fenceAcq s p => 0x7C000000 + s.toNat * 64 + p.toNat
  | .fenceRel s p => 0x7C000010 + s.toNat * 64 + p.toNat
  | .fenceFull s p => 0x7C000020 + s.toNat * 64 + p.toNat
  | .mon a p => 0x7C000200 + a.toNat * 262144 + p.toNat
  | .munm p => 0x7C000210 + p.toNat
  | .mwait d a p => 0x7C000220 + d.toNat * 4194304 + a.toNat * 262144 + p.toNat
  | .bari a b p => 0x7C000300 + a.toNat * 262144 + b.toNat * 16384 + p.toNat
  | .barv d a p => 0x7C000310 + d.toNat * 4194304 + a.toNat * 262144 + p.toNat
  | .barw a b p => 0x7C000320 + a.toNat * 262144 + b.toNat * 16384 + p.toNat
  | .synci a b p => 0x7C000380 + a.toNat * 262144 + b.toNat * 16384 + p.toNat
  | .digest d p => 0x7C000400 + d.toNat * 4194304 + p.toNat
  | .vadd d a b k t p => 0x80000000 + d.toNat * 8388608 + a.toNat * 1048576 + b.toNat * 131072 + k.toNat * 16384 + t.toNat * 2048 + p.toNat
  | .vsub d a b k t p => 0x80000010 + d.toNat * 8388608 + a.toNat * 1048576 + b.toNat * 131072 + k.toNat * 16384 + t.toNat * 2048 + p.toNat
  | .vmul d a b k t p => 0x80000020 + d.toNat * 8388608 + a.toNat * 1048576 + b.toNat * 131072 + k.toNat * 16384 + t.toNat * 2048 + p.toNat
  | .vfma d a b k t p => 0x80000030 + d.toNat * 8388608 + a.toNat * 1048576 + b.toNat * 131072 + k.toNat * 16384 + t.toNat * 2048 + p.toNat
  | .vmin d a b k t p => 0x80000040 + d.toNat * 8388608 + a.toNat * 1048576 + b.toNat * 131072 + k.toNat * 16384 + t.toNat * 2048 + p.toNat
  | .vmax d a b k t p => 0x80000050 + d.toNat * 8388608 + a.toNat * 1048576 + b.toNat * 131072 + k.toNat * 16384 + t.toNat * 2048 + p.toNat
  | .vabs d a k t p => 0x80000060 + d.toNat * 8388608 + a.toNat * 1048576 + k.toNat * 16384 + t.toNat * 2048 + p.toNat
  | .vneg d a k t p => 0x80000070 + d.toNat * 8388608 + a.toNat * 1048576 + k.toNat * 16384 + t.toNat * 2048 + p.toNat
  | .vand d a b k t p => 0x80000080 + d.toNat * 8388608 + a.toNat * 1048576 + b.toNat * 131072 + k.toNat * 16384 + t.toNat * 2048 + p.toNat
  | .vor d a b k t p => 0x80000090 + d.toNat * 8388608 + a.toNat * 1048576 + b.toNat * 131072 + k.toNat * 16384 + t.toNat * 2048 + p.toNat
  | .vxor d a b k t p => 0x800000A0 + d.toNat * 8388608 + a.toNat * 1048576 + b.toNat * 131072 + k.toNat * 16384 + t.toNat * 2048 + p.toNat
  | .vshl d a b k t p => 0x800000B0 + d.toNat * 8388608 + a.toNat * 1048576 + b.toNat * 131072 + k.toNat * 16384 + t.toNat * 2048 + p.toNat
  | .vshr d a b k t p => 0x800000C0 + d.toNat * 8388608 + a.toNat * 1048576 + b.toNat * 131072 + k.toNat * 16384 + t.toNat * 2048 + p.toNat
  | .vcvt d a r t o p => 0x84000000 + d.toNat * 8388608 + a.toNat * 1048576 + r.toNat * 16384 + t.toNat * 2048 + o.toNat * 16 + p.toNat
  | .vperm d a b k t p => 0x84000100 + d.toNat * 8388608 + a.toNat * 1048576 + b.toNat * 131072 + k.toNat * 16384 + t.toNat * 2048 + p.toNat
  | .vbcast g v t p => 0x84000110 + g.toNat * 4194304 + v.toNat * 32768 + t.toNat * 2048 + p.toNat
  | .vext g i v t p => 0x84000120 + g.toNat * 4194304 + i.toNat * 262144 + v.toNat * 32768 + t.toNat * 2048 + p.toNat
  | .vins g i v t p => 0x84000130 + g.toNat * 4194304 + i.toNat * 262144 + v.toNat * 32768 + t.toNat * 2048 + p.toNat
  | .vrcp d a k t p => 0x88000000 + d.toNat * 8388608 + a.toNat * 1048576 + k.toNat * 16384 + t.toNat * 2048 + p.toNat
  | .vrsq d a k t p => 0x88000010 + d.toNat * 8388608 + a.toNat * 1048576 + k.toNat * 16384 + t.toNat * 2048 + p.toNat
  | .vexp2 d a k t p => 0x88000020 + d.toNat * 8388608 + a.toNat * 1048576 + k.toNat * 16384 + t.toNat * 2048 + p.toNat
  | .vlog2 d a k t p => 0x88000030 + d.toNat * 8388608 + a.toNat * 1048576 + k.toNat * 16384 + t.toNat * 2048 + p.toNat
  | .vredSum g k v t p => 0x8C000000 + g.toNat * 4194304 + k.toNat * 262144 + v.toNat * 32768 + t.toNat * 2048 + p.toNat
  | .vredMin g k v t p => 0x8C000010 + g.toNat * 4194304 + k.toNat * 262144 + v.toNat * 32768 + t.toNat * 2048 + p.toNat
  | .vredMax g k v t p => 0x8C000020 + g.toNat * 4194304 + k.toNat * 262144 + v.toNat * 32768 + t.toNat * 2048 + p.toNat
  | .vscan d a k t p => 0x8C000100 + d.toNat * 8388608 + a.toNat * 1048576 + k.toNat * 16384 + t.toNat * 2048 + p.toNat
  | .vdot d a b k t p => 0x8C000200 + d.toNat * 8388608 + a.toNat * 1048576 + b.toNat * 131072 + k.toNat * 16384 + t.toNat * 2048 + p.toNat
  | .vcmp m a b k t c p => 0x90000000 + m.toNat * 8388608 + a.toNat * 1048576 + b.toNat * 131072 + k.toNat * 16384 + t.toNat * 2048 + c.toNat * 16 + p.toNat
  | .vsel d a b k t p => 0x90000100 + d.toNat * 8388608 + a.toNat * 1048576 + b.toNat * 131072 + k.toNat * 16384 + t.toNat * 2048 + p.toNat
  | .mmaBb c a b s l p => 0xA0000000 + c.toNat * 16777216 + a.toNat * 2097152 + b.toNat * 262144 + s.toNat * 16384 + l.toNat * 1024 + p.toNat
  | .mmaHh c a b s l p => 0xA0000010 + c.toNat * 16777216 + a.toNat * 2097152 + b.toNat * 262144 + s.toNat * 16384 + l.toNat * 1024 + p.toNat
  | .mmaQq c a b s l p => 0xA0000020 + c.toNat * 16777216 + a.toNat * 2097152 + b.toNat * 262144 + s.toNat * 16384 + l.toNat * 1024 + p.toNat
  | .mmaWw c a b s l p => 0xA0000030 + c.toNat * 16777216 + a.toNat * 2097152 + b.toNat * 262144 + s.toNat * 16384 + l.toNat * 1024 + p.toNat
  | .mmaQw c a b s l p => 0xA0000040 + c.toNat * 16777216 + a.toNat * 2097152 + b.toNat * 262144 + s.toNat * 16384 + l.toNat * 1024 + p.toNat
  | .mmaNn c a b s l p => 0xA4000000 + c.toNat * 16777216 + a.toNat * 2097152 + b.toNat * 262144 + s.toNat * 16384 + l.toNat * 1024 + p.toNat
  | .mmaLl c a b s l p => 0xA4000010 + c.toNat * 16777216 + a.toNat * 2097152 + b.toNat * 262144 + s.toNat * 16384 + l.toNat * 1024 + p.toNat
  | .mmaIi c a b l p => 0xA4000020 + c.toNat * 16777216 + a.toNat * 2097152 + b.toNat * 262144 + l.toNat * 1024 + p.toNat
  | .mcfg s p => 0xA8000000 + s.toNat * 16384 + p.toNat
  | .mzero c p => 0xA8000010 + c.toNat * 16777216 + p.toNat
  | .mrd c v s p => 0xA8000020 + c.toNat * 16777216 + v.toNat * 2097152 + s.toNat * 16384 + p.toNat
  | .mwr c v s p => 0xA8000030 + c.toNat * 16777216 + v.toNat * 2097152 + s.toNat * 16384 + p.toNat
  | .msave c s p => 0xA8000040 + c.toNat * 16777216 + s.toNat * 16384 + p.toNat
  | .mload c s p => 0xA8000050 + c.toNat * 16777216 + s.toNat * 16384 + p.toNat
  | .qaxis e a b p => 0xB0000000 + e.toNat * 16777216 + a.toNat * 131072 + b.toNat * 8192 + p.toNat
  | .qst e v a b q p => 0xB0000010 + e.toNat * 16777216 + v.toNat * 2097152 + a.toNat * 131072 + b.toNat * 8192 + q.toNat * 1024 + p.toNat
  | .qsta e c a b q p => 0xB0000020 + e.toNat * 16777216 + c.toNat * 2097152 + a.toNat * 131072 + b.toNat * 8192 + q.toNat * 1024 + p.toNat
  | .qresR e v p => 0xB0000030 + e.toNat * 16777216 + v.toNat * 2097152 + p.toNat
  | .qresW e v p => 0xB0000040 + e.toNat * 16777216 + v.toNat * 2097152 + p.toNat
  | .gcfg d a b p => 0xB4000000 + d.toNat * 4194304 + a.toNat * 262144 + b.toNat * 16384 + p.toNat
  | .gseed v a b p => 0xB4000010 + v.toNat * 4194304 + a.toNat * 262144 + b.toNat * 16384 + p.toNat
  | .gadd v a b p => 0xB4000020 + v.toNat * 4194304 + a.toNat * 262144 + b.toNat * 16384 + p.toNat
  | .gld v a b p => 0xB4000030 + v.toNat * 4194304 + a.toNat * 262144 + b.toNat * 16384 + p.toNat
  | .gsprd d a b p => 0xB4000040 + d.toNat * 4194304 + a.toNat * 262144 + b.toNat * 16384 + p.toNat
  | .gfence p => 0xB4000050 + p.toNat
  | .gmass d a b p => 0xB4000060 + d.toNat * 4194304 + a.toNat * 262144 + b.toNat * 16384 + p.toNat
  | .spawn a i p => 0xC0000000 + a.toNat * 262144 + i.toNat * 64 + p.toNat
  | .join a p => 0xC0000010 + a.toNat * 262144 + p.toNat
  | .tend a p => 0xC0000020 + a.toNat * 262144 + p.toNat
  | .send d a n p => 0xC4000000 + d.toNat * 4194304 + a.toNat * 262144 + n.toNat * 16 + p.toNat
  | .sendSvc d a b n p => 0xC4000040 + d.toNat * 4194304 + a.toNat * 262144 + b.toNat * 16384 + n.toNat * 16 + p.toNat
  | .recv d a n p => 0xC4000100 + d.toNat * 4194304 + a.toNat * 262144 + n.toNat * 16 + p.toNat
  | .mig a p => 0xC4000200 + a.toNat * 262144 + p.toNat
  | .cpy d a b p => 0xC8000000 + d.toNat * 4194304 + a.toNat * 262144 + b.toNat * 16384 + p.toNat
  | .cpyr d a b p => 0xC8000010 + d.toNat * 4194304 + a.toNat * 262144 + b.toNat * 16384 + p.toNat
  | .rpush d a b p => 0xC8000020 + d.toNat * 4194304 + a.toNat * 262144 + b.toNat * 16384 + p.toNat
  | .qfence a p => 0xC8000030 + a.toNat * 262144 + p.toNat
  | .coll d a b p => 0xC8000040 + d.toNat * 4194304 + a.toNat * 262144 + b.toNat * 16384 + p.toNat
  | .collw d a b p => 0xC8000050 + d.toNat * 4194304 + a.toNat * 262144 + b.toNat * 16384 + p.toNat
  | .bdef d a b p => 0xD0000000 + d.toNat * 4194304 + a.toNat * 262144 + b.toNat * 16384 + p.toNat
  | .bnbr a b p => 0xD0000010 + a.toNat * 262144 + b.toNat * 16384 + p.toNat
  | .brule a b p => 0xD0000020 + a.toNat * 262144 + b.toNat * 16384 + p.toNat
  | .bstart a b p => 0xD0000030 + a.toNat * 262144 + b.toNat * 16384 + p.toNat
  | .bnext p => 0xD0000040 + p.toNat
  | .bcommit p => 0xD0000050 + p.toNat
  | .bcommitC p => 0xD0000060 + p.toNat
  | .blvl d a p => 0xD0000070 + d.toNat * 4194304 + a.toNat * 262144 + p.toNat
  | .bfrzB p => 0xD0000080 + p.toNat
  | .bfrzD d a p => 0xD0000090 + d.toNat * 4194304 + a.toNat * 262144 + p.toNat
  | .bthaw a p => 0xD00000A0 + a.toNat * 262144 + p.toNat
  | .bfront d a b p => 0xD00000B0 + d.toNat * 4194304 + a.toNat * 262144 + b.toNat * 16384 + p.toNat
  | .csrr d c p => 0xE0000000 + d.toNat * 4194304 + c.toNat * 64 + p.toNat
  | .csrw d a c p => 0xE0000010 + d.toNat * 4194304 + a.toNat * 262144 + c.toNat * 64 + p.toNat
  | .csrs d a c p => 0xE0000020 + d.toNat * 4194304 + a.toNat * 262144 + c.toNat * 64 + p.toNat
  | .csrc d a c p => 0xE0000030 + d.toNat * 4194304 + a.toNat * 262144 + c.toNat * 64 + p.toNat
  | .trap i p => 0xE4000000 + i.toNat * 64 + p.toNat
  | .rft p => 0xE4000010 + p.toNat
  | .halt p => 0xE4000020 + p.toNat
  | .yield p => 0xE4000030 + p.toNat
  | .strandIntervalEnd _ _ => 0
  | .serviceForcedIssue _ => 0
  | .rotationBoundary => 0
  | .strandPlacement _ _ => 0
  | .registerFill _ => 0
  | .loadComplete _ _ => 0
  | .storeBufferDrain _ => 0
  | .scWindowClose => 0
  | .requesterTimeout _ => 0
  | .packetAgeExpiry _ => 0
  | .remoteAccessPerform _ => 0
  | .serviceQueueEntry _ => 0
  | .serviceHandlerStart _ => 0
  | .receiveQueueEntry _ => 0
  | .sendAccept _ _ => 0
  | .sendAcceptTimeout _ _ => 0
  | .recvWaitLimit _ _ => 0
  | .mwaitTimeout _ _ => 0
  | .monitorRegistered _ _ => 0
  | .amoPerform _ _ => 0
  | .ordEntryArrival _ _ => 0
  | .ordReply _ _ => 0
  | .ordNack _ _ => 0
  | .ordResend _ _ => 0
  | .ordTimeout _ _ => 0
  | .fredUpdate _ _ => 0
  | .avgEntryApply _ => 0
  | .lupinExchange _ => 0
  | .lupinPacketArrival _ => 0
  | .lupinAck _ => 0
  | .lupinRefusal _ => 0
  | .lupinRetry _ => 0
  | .reconciliationRequest _ => 0
  | .reconciliationReply _ => 0
  | .stealRequest _ => 0
  | .stealRecord _ => 0
  | .stealEmpty _ => 0
  | .stealAck _ => 0
  | .stealConfirm _ => 0
  | .stealVoid _ => 0
  | .lentTimeout _ => 0
  | .migrationDeparture _ _ => 0
  | .migrationArrival _ => 0
  | .mmaStart _ _ => 0
  | .mmaRetire _ _ => 0
  | .ringWaitLimit _ _ => 0
  | .rpushReserve _ _ => 0
  | .slotPublish _ _ => 0
  | .ringDisableEffect _ _ => 0
  | .commandStart _ _ => 0
  | .copyChunk _ _ _ => 0
  | .copyFault _ _ _ => 0
  | .commandComplete _ _ => 0
  | .peonyStepStart _ _ _ => 0
  | .peonyReady _ => 0
  | .peonyData _ => 0
  | .peonyStepComplete _ _ _ => 0
  | .peonyFaultNotice _ => 0
  | .peonyPartnerTimeout _ _ => 0
  | .asterDispatch _ => 0
  | .facePushComplete _ => 0
  | .facePushFault _ _ => 0
  | .levelNotification _ => 0
  | .asterLinkInstall _ => 0
  | .asterLinkClear _ => 0
  | .asterRfreeUpdate _ => 0
  | .asterConfirm _ => 0
  | .freezeDrainExpiry _ _ => 0
  | .freezeComplete _ => 0
  | .walkComplete _ _ => 0
  | .launchStart _ => 0
  | .kernelCompletion _ => 0
  | .queueNotify _ _ => 0
  | .queueDescriptorWrite _ _ => 0
  | .mapWrite _ _ => 0
  | .trootWrite _ => 0
  | .preempt _ => 0
  | .preemptRequestArrival _ _ => 0
  | .preemptSaveComplete _ => 0
  | .resume _ => 0
  | .moduleRemove _ => 0
  | .latecntClear => 0
  | .multicastGo _ => 0
  | .multicastLine _ => 0
  | .multicastReply _ => 0
  | .attestationGo => 0
  | .attestationComplete => 0
  | .registerWrite _ _ => 0
  | .apertureWrite _ _ _ => 0
  | .apertureRead _ _ => 0
  | .linkFrame _ _ _ => 0
  | .linkBringUp _ _ _ _ => 0
  | .linkRekey _ => 0
  | .linkControlTimeout _ => 0
  | .linkDown _ => 0
  | .memoryEccError _ _ => 0
  | .registerEccError _ _ _ _ => 0
  | .fabricTransferError _ _ => 0
  | .fatalError _ _ _ => 0
  | .powerLimitHold _ => 0
  | .gatingEntry _ => 0
  | .gatingCommit _ => 0
  | .gated _ => 0
  | .wakeEvent _ => 0
  | .ungatingComplete _ => 0
  | .moduleReset => 0
  | .boot _ _ => 0
  | .firmwareUpdate _ _ _ => 0
  | .wordNotAnInstruction _ => 0
  | .instructionFetchFault => 0
  | .barwWaitLimit _ _ => 0
  | .arrivalReservationRequest _ => 0
  | .remoteStoreAcknowledgement _ => 0
  | .discardCountRecord => 0

/-- The row is an event, which no word encodes. -/
def Instr.isEvent : Instr → Bool
  | .add _ _ _ _ => false
  | .sub _ _ _ _ => false
  | .and _ _ _ _ => false
  | .or _ _ _ _ => false
  | .xor _ _ _ _ => false
  | .andn _ _ _ _ => false
  | .sll _ _ _ _ => false
  | .srl _ _ _ _ => false
  | .sra _ _ _ _ => false
  | .min _ _ _ _ => false
  | .max _ _ _ _ => false
  | .minu _ _ _ _ => false
  | .maxu _ _ _ _ => false
  | .mul _ _ _ _ => false
  | .mulh _ _ _ _ => false
  | .mulhu _ _ _ _ => false
  | .div _ _ _ _ => false
  | .divu _ _ _ _ => false
  | .rem _ _ _ _ => false
  | .remu _ _ _ _ => false
  | .clz _ _ _ => false
  | .popc _ _ _ => false
  | .sextB _ _ _ => false
  | .sextH _ _ _ => false
  | .sextW _ _ _ => false
  | .zextB _ _ _ => false
  | .zextH _ _ _ => false
  | .zextW _ _ _ => false
  | .sel _ _ _ _ _ => false
  | .nop => false
  | .addi _ _ _ _ => false
  | .andi _ _ _ _ => false
  | .ori _ _ _ _ => false
  | .xori _ _ _ _ => false
  | .slli _ _ _ _ => false
  | .srli _ _ _ _ => false
  | .srai _ _ _ _ => false
  | .movi _ _ _ => false
  | .movhi _ _ _ => false
  | .ldk _ _ _ => false
  | .addk _ _ _ _ => false
  | .cmp _ _ _ _ _ => false
  | .cmpi _ _ _ _ _ => false
  | .pand _ _ _ _ => false
  | .por _ _ _ _ => false
  | .pxor _ _ _ _ => false
  | .pnot _ _ _ => false
  | .prd _ _ => false
  | .pwr _ _ _ => false
  | .bfx _ _ _ _ _ => false
  | .bfi _ _ _ _ _ => false
  | .br _ _ => false
  | .call _ _ => false
  | .jmpr _ _ => false
  | .callr _ _ => false
  | .ret _ => false
  | .leaB _ _ _ _ => false
  | .leaH _ _ _ _ => false
  | .leaW _ _ _ _ => false
  | .leaD _ _ _ _ => false
  | .ldbu _ _ _ _ => false
  | .ldhu _ _ _ _ => false
  | .ldwu _ _ _ _ => false
  | .ldd _ _ _ _ => false
  | .stb _ _ _ _ => false
  | .sth _ _ _ _ => false
  | .stw _ _ _ _ => false
  | .std _ _ _ _ => false
  | .ldm _ _ _ _ => false
  | .stm _ _ _ _ => false
  | .ldb _ _ _ _ => false
  | .ldh _ _ _ _ => false
  | .ldw _ _ _ _ => false
  | .ldbAcq _ _ _ _ => false
  | .ldhAcq _ _ _ _ => false
  | .ldwAcq _ _ _ _ => false
  | .lddAcq _ _ _ _ => false
  | .ldbuAcq _ _ _ _ => false
  | .ldhuAcq _ _ _ _ => false
  | .ldwuAcq _ _ _ _ => false
  | .ldbSc _ _ _ _ => false
  | .ldhSc _ _ _ _ => false
  | .ldwSc _ _ _ _ => false
  | .lddSc _ _ _ _ => false
  | .ldbuSc _ _ _ _ => false
  | .ldhuSc _ _ _ _ => false
  | .ldwuSc _ _ _ _ => false
  | .stbRel _ _ _ _ => false
  | .sthRel _ _ _ _ => false
  | .stwRel _ _ _ _ => false
  | .stdRel _ _ _ _ => false
  | .stbSc _ _ _ _ => false
  | .sthSc _ _ _ _ => false
  | .stwSc _ _ _ _ => false
  | .stdSc _ _ _ _ => false
  | .vld _ _ _ _ _ _ => false
  | .vst _ _ _ _ _ _ => false
  | .vlds _ _ _ _ _ _ => false
  | .vsts _ _ _ _ _ _ => false
  | .vgath _ _ _ _ _ _ => false
  | .vscat _ _ _ _ _ _ => false
  | .pref _ _ _ => false
  | .amoAdd _ _ _ _ _ _ => false
  | .amoMin _ _ _ _ _ _ => false
  | .amoMax _ _ _ _ _ _ => false
  | .amoAnd _ _ _ _ _ _ => false
  | .amoOr _ _ _ _ _ _ => false
  | .amoXor _ _ _ _ _ _ => false
  | .amoSwap _ _ _ _ _ _ => false
  | .amoCas _ _ _ _ _ _ => false
  | .amoOrdAdd _ _ _ _ => false
  | .amoOrdFadd _ _ _ _ => false
  | .amoOrdSwap _ _ _ _ => false
  | .fred _ _ _ => false
  | .fenceAcq _ _ => false
  | .fenceRel _ _ => false
  | .fenceFull _ _ => false
  | .mon _ _ => false
  | .munm _ => false
  | .mwait _ _ _ => false
  | .bari _ _ _ => false
  | .barv _ _ _ => false
  | .barw _ _ _ => false
  | .synci _ _ _ => false
  | .digest _ _ => false
  | .vadd _ _ _ _ _ _ => false
  | .vsub _ _ _ _ _ _ => false
  | .vmul _ _ _ _ _ _ => false
  | .vfma _ _ _ _ _ _ => false
  | .vmin _ _ _ _ _ _ => false
  | .vmax _ _ _ _ _ _ => false
  | .vabs _ _ _ _ _ => false
  | .vneg _ _ _ _ _ => false
  | .vand _ _ _ _ _ _ => false
  | .vor _ _ _ _ _ _ => false
  | .vxor _ _ _ _ _ _ => false
  | .vshl _ _ _ _ _ _ => false
  | .vshr _ _ _ _ _ _ => false
  | .vcvt _ _ _ _ _ _ => false
  | .vperm _ _ _ _ _ _ => false
  | .vbcast _ _ _ _ => false
  | .vext _ _ _ _ _ => false
  | .vins _ _ _ _ _ => false
  | .vrcp _ _ _ _ _ => false
  | .vrsq _ _ _ _ _ => false
  | .vexp2 _ _ _ _ _ => false
  | .vlog2 _ _ _ _ _ => false
  | .vredSum _ _ _ _ _ => false
  | .vredMin _ _ _ _ _ => false
  | .vredMax _ _ _ _ _ => false
  | .vscan _ _ _ _ _ => false
  | .vdot _ _ _ _ _ _ => false
  | .vcmp _ _ _ _ _ _ _ => false
  | .vsel _ _ _ _ _ _ => false
  | .mmaBb _ _ _ _ _ _ => false
  | .mmaHh _ _ _ _ _ _ => false
  | .mmaQq _ _ _ _ _ _ => false
  | .mmaWw _ _ _ _ _ _ => false
  | .mmaQw _ _ _ _ _ _ => false
  | .mmaNn _ _ _ _ _ _ => false
  | .mmaLl _ _ _ _ _ _ => false
  | .mmaIi _ _ _ _ _ => false
  | .mcfg _ _ => false
  | .mzero _ _ => false
  | .mrd _ _ _ _ => false
  | .mwr _ _ _ _ => false
  | .msave _ _ _ => false
  | .mload _ _ _ => false
  | .qaxis _ _ _ _ => false
  | .qst _ _ _ _ _ _ => false
  | .qsta _ _ _ _ _ _ => false
  | .qresR _ _ _ => false
  | .qresW _ _ _ => false
  | .gcfg _ _ _ _ => false
  | .gseed _ _ _ _ => false
  | .gadd _ _ _ _ => false
  | .gld _ _ _ _ => false
  | .gsprd _ _ _ _ => false
  | .gfence _ => false
  | .gmass _ _ _ _ => false
  | .spawn _ _ _ => false
  | .join _ _ => false
  | .tend _ _ => false
  | .send _ _ _ _ => false
  | .sendSvc _ _ _ _ _ => false
  | .recv _ _ _ _ => false
  | .mig _ _ => false
  | .cpy _ _ _ _ => false
  | .cpyr _ _ _ _ => false
  | .rpush _ _ _ _ => false
  | .qfence _ _ => false
  | .coll _ _ _ _ => false
  | .collw _ _ _ _ => false
  | .bdef _ _ _ _ => false
  | .bnbr _ _ _ => false
  | .brule _ _ _ => false
  | .bstart _ _ _ => false
  | .bnext _ => false
  | .bcommit _ => false
  | .bcommitC _ => false
  | .blvl _ _ _ => false
  | .bfrzB _ => false
  | .bfrzD _ _ _ => false
  | .bthaw _ _ => false
  | .bfront _ _ _ _ => false
  | .csrr _ _ _ => false
  | .csrw _ _ _ _ => false
  | .csrs _ _ _ _ => false
  | .csrc _ _ _ _ => false
  | .trap _ _ => false
  | .rft _ => false
  | .halt _ => false
  | .yield _ => false
  | .strandIntervalEnd _ _ => true
  | .serviceForcedIssue _ => true
  | .rotationBoundary => true
  | .strandPlacement _ _ => true
  | .registerFill _ => true
  | .loadComplete _ _ => true
  | .storeBufferDrain _ => true
  | .scWindowClose => true
  | .requesterTimeout _ => true
  | .packetAgeExpiry _ => true
  | .remoteAccessPerform _ => true
  | .serviceQueueEntry _ => true
  | .serviceHandlerStart _ => true
  | .receiveQueueEntry _ => true
  | .sendAccept _ _ => true
  | .sendAcceptTimeout _ _ => true
  | .recvWaitLimit _ _ => true
  | .mwaitTimeout _ _ => true
  | .monitorRegistered _ _ => true
  | .amoPerform _ _ => true
  | .ordEntryArrival _ _ => true
  | .ordReply _ _ => true
  | .ordNack _ _ => true
  | .ordResend _ _ => true
  | .ordTimeout _ _ => true
  | .fredUpdate _ _ => true
  | .avgEntryApply _ => true
  | .lupinExchange _ => true
  | .lupinPacketArrival _ => true
  | .lupinAck _ => true
  | .lupinRefusal _ => true
  | .lupinRetry _ => true
  | .reconciliationRequest _ => true
  | .reconciliationReply _ => true
  | .stealRequest _ => true
  | .stealRecord _ => true
  | .stealEmpty _ => true
  | .stealAck _ => true
  | .stealConfirm _ => true
  | .stealVoid _ => true
  | .lentTimeout _ => true
  | .migrationDeparture _ _ => true
  | .migrationArrival _ => true
  | .mmaStart _ _ => true
  | .mmaRetire _ _ => true
  | .ringWaitLimit _ _ => true
  | .rpushReserve _ _ => true
  | .slotPublish _ _ => true
  | .ringDisableEffect _ _ => true
  | .commandStart _ _ => true
  | .copyChunk _ _ _ => true
  | .copyFault _ _ _ => true
  | .commandComplete _ _ => true
  | .peonyStepStart _ _ _ => true
  | .peonyReady _ => true
  | .peonyData _ => true
  | .peonyStepComplete _ _ _ => true
  | .peonyFaultNotice _ => true
  | .peonyPartnerTimeout _ _ => true
  | .asterDispatch _ => true
  | .facePushComplete _ => true
  | .facePushFault _ _ => true
  | .levelNotification _ => true
  | .asterLinkInstall _ => true
  | .asterLinkClear _ => true
  | .asterRfreeUpdate _ => true
  | .asterConfirm _ => true
  | .freezeDrainExpiry _ _ => true
  | .freezeComplete _ => true
  | .walkComplete _ _ => true
  | .launchStart _ => true
  | .kernelCompletion _ => true
  | .queueNotify _ _ => true
  | .queueDescriptorWrite _ _ => true
  | .mapWrite _ _ => true
  | .trootWrite _ => true
  | .preempt _ => true
  | .preemptRequestArrival _ _ => true
  | .preemptSaveComplete _ => true
  | .resume _ => true
  | .moduleRemove _ => true
  | .latecntClear => true
  | .multicastGo _ => true
  | .multicastLine _ => true
  | .multicastReply _ => true
  | .attestationGo => true
  | .attestationComplete => true
  | .registerWrite _ _ => true
  | .apertureWrite _ _ _ => true
  | .apertureRead _ _ => true
  | .linkFrame _ _ _ => true
  | .linkBringUp _ _ _ _ => true
  | .linkRekey _ => true
  | .linkControlTimeout _ => true
  | .linkDown _ => true
  | .memoryEccError _ _ => true
  | .registerEccError _ _ _ _ => true
  | .fabricTransferError _ _ => true
  | .fatalError _ _ _ => true
  | .powerLimitHold _ => true
  | .gatingEntry _ => true
  | .gatingCommit _ => true
  | .gated _ => true
  | .wakeEvent _ => true
  | .ungatingComplete _ => true
  | .moduleReset => true
  | .boot _ _ => true
  | .firmwareUpdate _ _ _ => true
  | .wordNotAnInstruction _ => true
  | .instructionFetchFault => true
  | .barwWaitLimit _ _ => true
  | .arrivalReservationRequest _ => true
  | .remoteStoreAcknowledgement _ => true
  | .discardCountRecord => true

/-- How software may reach a CSR (R139, R140). -/
inductive CsrAccess where
  | rw | sw | s | ro
  deriving DecidableEq, Repr

/-- The access code of a CSR number; none for a number that names no CSR (R139). -/
def csrAccess : Nat → Option CsrAccess
  | 0x001 => some .rw
  | 0x002 => some .rw
  | 0x010 => some .rw
  | 0x011 => some .ro
  | 0x012 => some .rw
  | 0x013 => some .rw
  | 0x014 => some .rw
  | 0x020 => some .s
  | 0x021 => some .s
  | 0x022 => some .s
  | 0x023 => some .s
  | 0x030 => some .s
  | 0x031 => some .sw
  | 0x032 => some .sw
  | 0x033 => some .ro
  | 0x040 => some .sw
  | 0x041 => some .sw
  | 0x050 => some .sw
  | 0xC00 => some .ro
  | _ => none

/-- A write form that names a supervisor-write CSR (R70). -/
def csrWritePriv (c : BitVec 12) : Bool :=
  csrAccess c.toNat = some .sw || csrAccess c.toNat = some .s

/-- A write form that names a CSR that can be written (R141). -/
def csrWritable (c : BitVec 12) : Bool :=
  (csrAccess c.toNat).isSome && csrAccess c.toNat != some .ro

/-- Lane width of a lane type (R66, R103). -/
def laneWidth (t : BitVec 3) : Nat :=
  match t.toNat with
  | 0 => 32
  | 1 => 16
  | 2 => 16
  | 3 => 32
  | 4 => 16
  | _ => 8

/-- Types Flt and Int of R69: all but E4M3 and E5M2. -/
def typeFltInt (t : BitVec 3) : Bool := decide (t.toNat ≤ 5)

/-- Types Int of R69. -/
def typeInt (t : BitVec 3) : Bool := decide (3 ≤ t.toNat) && decide (t.toNat ≤ 5)

/-- Types Flt of R69. -/
def typeFlt (t : BitVec 3) : Bool := decide (t.toNat ≤ 2)

/-- The ratio q of the two lane widths of a VCVT (R111). -/
def cvtRatio (ts td : BitVec 3) : Nat :=
  max (laneWidth ts) (laneWidth td) / min (laneWidth ts) (laneWidth td)

/-- The guard field of an instruction (R64); 0 where the row has none. -/
def Instr.guardField : Instr → BitVec 4
  | .add _ _ _ p => p
  | .sub _ _ _ p => p
  | .and _ _ _ p => p
  | .or _ _ _ p => p
  | .xor _ _ _ p => p
  | .andn _ _ _ p => p
  | .sll _ _ _ p => p
  | .srl _ _ _ p => p
  | .sra _ _ _ p => p
  | .min _ _ _ p => p
  | .max _ _ _ p => p
  | .minu _ _ _ p => p
  | .maxu _ _ _ p => p
  | .mul _ _ _ p => p
  | .mulh _ _ _ p => p
  | .mulhu _ _ _ p => p
  | .div _ _ _ p => p
  | .divu _ _ _ p => p
  | .rem _ _ _ p => p
  | .remu _ _ _ p => p
  | .clz _ _ p => p
  | .popc _ _ p => p
  | .sextB _ _ p => p
  | .sextH _ _ p => p
  | .sextW _ _ p => p
  | .zextB _ _ p => p
  | .zextH _ _ p => p
  | .zextW _ _ p => p
  | .sel _ _ _ _ p => p
  | .nop => 0
  | .addi _ _ _ p => p
  | .andi _ _ _ p => p
  | .ori _ _ _ p => p
  | .xori _ _ _ p => p
  | .slli _ _ _ p => p
  | .srli _ _ _ p => p
  | .srai _ _ _ p => p
  | .movi _ _ p => p
  | .movhi _ _ p => p
  | .ldk _ _ p => p
  | .addk _ _ _ p => p
  | .cmp _ _ _ _ p => p
  | .cmpi _ _ _ _ p => p
  | .pand _ _ _ p => p
  | .por _ _ _ p => p
  | .pxor _ _ _ p => p
  | .pnot _ _ p => p
  | .prd _ p => p
  | .pwr _ _ p => p
  | .bfx _ _ _ _ p => p
  | .bfi _ _ _ _ p => p
  | .br _ p => p
  | .call _ p => p
  | .jmpr _ p => p
  | .callr _ p => p
  | .ret p => p
  | .leaB _ _ _ p => p
  | .leaH _ _ _ p => p
  | .leaW _ _ _ p => p
  | .leaD _ _ _ p => p
  | .ldbu _ _ _ p => p
  | .ldhu _ _ _ p => p
  | .ldwu _ _ _ p => p
  | .ldd _ _ _ p => p
  | .stb _ _ _ p => p
  | .sth _ _ _ p => p
  | .stw _ _ _ p => p
  | .std _ _ _ p => p
  | .ldm _ _ _ p => p
  | .stm _ _ _ p => p
  | .ldb _ _ _ p => p
  | .ldh _ _ _ p => p
  | .ldw _ _ _ p => p
  | .ldbAcq _ _ _ p => p
  | .ldhAcq _ _ _ p => p
  | .ldwAcq _ _ _ p => p
  | .lddAcq _ _ _ p => p
  | .ldbuAcq _ _ _ p => p
  | .ldhuAcq _ _ _ p => p
  | .ldwuAcq _ _ _ p => p
  | .ldbSc _ _ _ p => p
  | .ldhSc _ _ _ p => p
  | .ldwSc _ _ _ p => p
  | .lddSc _ _ _ p => p
  | .ldbuSc _ _ _ p => p
  | .ldhuSc _ _ _ p => p
  | .ldwuSc _ _ _ p => p
  | .stbRel _ _ _ p => p
  | .sthRel _ _ _ p => p
  | .stwRel _ _ _ p => p
  | .stdRel _ _ _ p => p
  | .stbSc _ _ _ p => p
  | .sthSc _ _ _ p => p
  | .stwSc _ _ _ p => p
  | .stdSc _ _ _ p => p
  | .vld _ _ _ _ _ p => p
  | .vst _ _ _ _ _ p => p
  | .vlds _ _ _ _ _ p => p
  | .vsts _ _ _ _ _ p => p
  | .vgath _ _ _ _ _ p => p
  | .vscat _ _ _ _ _ p => p
  | .pref _ _ p => p
  | .amoAdd _ _ _ _ _ p => p
  | .amoMin _ _ _ _ _ p => p
  | .amoMax _ _ _ _ _ p => p
  | .amoAnd _ _ _ _ _ p => p
  | .amoOr _ _ _ _ _ p => p
  | .amoXor _ _ _ _ _ p => p
  | .amoSwap _ _ _ _ _ p => p
  | .amoCas _ _ _ _ _ p => p
  | .amoOrdAdd _ _ _ p => p
  | .amoOrdFadd _ _ _ p => p
  | .amoOrdSwap _ _ _ p => p
  | .fred _ _ p => p
  | .fenceAcq _ p => p
  | .fenceRel _ p => p
  | .fenceFull _ p => p
  | .mon _ p => p
  | .munm p => p
  | .mwait _ _ p => p
  | .bari _ _ p => p
  | .barv _ _ p => p
  | .barw _ _ p => p
  | .synci _ _ p => p
  | .digest _ p => p
  | .vadd _ _ _ _ _ p => p
  | .vsub _ _ _ _ _ p => p
  | .vmul _ _ _ _ _ p => p
  | .vfma _ _ _ _ _ p => p
  | .vmin _ _ _ _ _ p => p
  | .vmax _ _ _ _ _ p => p
  | .vabs _ _ _ _ p => p
  | .vneg _ _ _ _ p => p
  | .vand _ _ _ _ _ p => p
  | .vor _ _ _ _ _ p => p
  | .vxor _ _ _ _ _ p => p
  | .vshl _ _ _ _ _ p => p
  | .vshr _ _ _ _ _ p => p
  | .vcvt _ _ _ _ _ p => p
  | .vperm _ _ _ _ _ p => p
  | .vbcast _ _ _ p => p
  | .vext _ _ _ _ p => p
  | .vins _ _ _ _ p => p
  | .vrcp _ _ _ _ p => p
  | .vrsq _ _ _ _ p => p
  | .vexp2 _ _ _ _ p => p
  | .vlog2 _ _ _ _ p => p
  | .vredSum _ _ _ _ p => p
  | .vredMin _ _ _ _ p => p
  | .vredMax _ _ _ _ p => p
  | .vscan _ _ _ _ p => p
  | .vdot _ _ _ _ _ p => p
  | .vcmp _ _ _ _ _ _ p => p
  | .vsel _ _ _ _ _ p => p
  | .mmaBb _ _ _ _ _ p => p
  | .mmaHh _ _ _ _ _ p => p
  | .mmaQq _ _ _ _ _ p => p
  | .mmaWw _ _ _ _ _ p => p
  | .mmaQw _ _ _ _ _ p => p
  | .mmaNn _ _ _ _ _ p => p
  | .mmaLl _ _ _ _ _ p => p
  | .mmaIi _ _ _ _ p => p
  | .mcfg _ p => p
  | .mzero _ p => p
  | .mrd _ _ _ p => p
  | .mwr _ _ _ p => p
  | .msave _ _ p => p
  | .mload _ _ p => p
  | .qaxis _ _ _ p => p
  | .qst _ _ _ _ _ p => p
  | .qsta _ _ _ _ _ p => p
  | .qresR _ _ p => p
  | .qresW _ _ p => p
  | .gcfg _ _ _ p => p
  | .gseed _ _ _ p => p
  | .gadd _ _ _ p => p
  | .gld _ _ _ p => p
  | .gsprd _ _ _ p => p
  | .gfence p => p
  | .gmass _ _ _ p => p
  | .spawn _ _ p => p
  | .join _ p => p
  | .tend _ p => p
  | .send _ _ _ p => p
  | .sendSvc _ _ _ _ p => p
  | .recv _ _ _ p => p
  | .mig _ p => p
  | .cpy _ _ _ p => p
  | .cpyr _ _ _ p => p
  | .rpush _ _ _ p => p
  | .qfence _ p => p
  | .coll _ _ _ p => p
  | .collw _ _ _ p => p
  | .bdef _ _ _ p => p
  | .bnbr _ _ p => p
  | .brule _ _ p => p
  | .bstart _ _ p => p
  | .bnext p => p
  | .bcommit p => p
  | .bcommitC p => p
  | .blvl _ _ p => p
  | .bfrzB p => p
  | .bfrzD _ _ p => p
  | .bthaw _ p => p
  | .bfront _ _ _ p => p
  | .csrr _ _ p => p
  | .csrw _ _ _ p => p
  | .csrs _ _ _ p => p
  | .csrc _ _ _ p => p
  | .trap _ p => p
  | .rft p => p
  | .halt p => p
  | .yield p => p
  | .strandIntervalEnd _ _ => 0
  | .serviceForcedIssue _ => 0
  | .rotationBoundary => 0
  | .strandPlacement _ _ => 0
  | .registerFill _ => 0
  | .loadComplete _ _ => 0
  | .storeBufferDrain _ => 0
  | .scWindowClose => 0
  | .requesterTimeout _ => 0
  | .packetAgeExpiry _ => 0
  | .remoteAccessPerform _ => 0
  | .serviceQueueEntry _ => 0
  | .serviceHandlerStart _ => 0
  | .receiveQueueEntry _ => 0
  | .sendAccept _ _ => 0
  | .sendAcceptTimeout _ _ => 0
  | .recvWaitLimit _ _ => 0
  | .mwaitTimeout _ _ => 0
  | .monitorRegistered _ _ => 0
  | .amoPerform _ _ => 0
  | .ordEntryArrival _ _ => 0
  | .ordReply _ _ => 0
  | .ordNack _ _ => 0
  | .ordResend _ _ => 0
  | .ordTimeout _ _ => 0
  | .fredUpdate _ _ => 0
  | .avgEntryApply _ => 0
  | .lupinExchange _ => 0
  | .lupinPacketArrival _ => 0
  | .lupinAck _ => 0
  | .lupinRefusal _ => 0
  | .lupinRetry _ => 0
  | .reconciliationRequest _ => 0
  | .reconciliationReply _ => 0
  | .stealRequest _ => 0
  | .stealRecord _ => 0
  | .stealEmpty _ => 0
  | .stealAck _ => 0
  | .stealConfirm _ => 0
  | .stealVoid _ => 0
  | .lentTimeout _ => 0
  | .migrationDeparture _ _ => 0
  | .migrationArrival _ => 0
  | .mmaStart _ _ => 0
  | .mmaRetire _ _ => 0
  | .ringWaitLimit _ _ => 0
  | .rpushReserve _ _ => 0
  | .slotPublish _ _ => 0
  | .ringDisableEffect _ _ => 0
  | .commandStart _ _ => 0
  | .copyChunk _ _ _ => 0
  | .copyFault _ _ _ => 0
  | .commandComplete _ _ => 0
  | .peonyStepStart _ _ _ => 0
  | .peonyReady _ => 0
  | .peonyData _ => 0
  | .peonyStepComplete _ _ _ => 0
  | .peonyFaultNotice _ => 0
  | .peonyPartnerTimeout _ _ => 0
  | .asterDispatch _ => 0
  | .facePushComplete _ => 0
  | .facePushFault _ _ => 0
  | .levelNotification _ => 0
  | .asterLinkInstall _ => 0
  | .asterLinkClear _ => 0
  | .asterRfreeUpdate _ => 0
  | .asterConfirm _ => 0
  | .freezeDrainExpiry _ _ => 0
  | .freezeComplete _ => 0
  | .walkComplete _ _ => 0
  | .launchStart _ => 0
  | .kernelCompletion _ => 0
  | .queueNotify _ _ => 0
  | .queueDescriptorWrite _ _ => 0
  | .mapWrite _ _ => 0
  | .trootWrite _ => 0
  | .preempt _ => 0
  | .preemptRequestArrival _ _ => 0
  | .preemptSaveComplete _ => 0
  | .resume _ => 0
  | .moduleRemove _ => 0
  | .latecntClear => 0
  | .multicastGo _ => 0
  | .multicastLine _ => 0
  | .multicastReply _ => 0
  | .attestationGo => 0
  | .attestationComplete => 0
  | .registerWrite _ _ => 0
  | .apertureWrite _ _ _ => 0
  | .apertureRead _ _ => 0
  | .linkFrame _ _ _ => 0
  | .linkBringUp _ _ _ _ => 0
  | .linkRekey _ => 0
  | .linkControlTimeout _ => 0
  | .linkDown _ => 0
  | .memoryEccError _ _ => 0
  | .registerEccError _ _ _ _ => 0
  | .fabricTransferError _ _ => 0
  | .fatalError _ _ _ => 0
  | .powerLimitHold _ => 0
  | .gatingEntry _ => 0
  | .gatingCommit _ => 0
  | .gated _ => 0
  | .wakeEvent _ => 0
  | .ungatingComplete _ => 0
  | .moduleReset => 0
  | .boot _ _ => 0
  | .firmwareUpdate _ _ _ => 0
  | .wordNotAnInstruction _ => 0
  | .instructionFetchFault => 0
  | .barwWaitLimit _ _ => 0
  | .arrivalReservationRequest _ => 0
  | .remoteStoreAcknowledgement _ => 0
  | .discardCountRecord => 0

/-- The limits that check 5 of R72 sets on the fields, the guard apart. -/
def Instr.fieldLimits : Instr → Bool
  | .add _ _ _ _ => true
  | .sub _ _ _ _ => true
  | .and _ _ _ _ => true
  | .or _ _ _ _ => true
  | .xor _ _ _ _ => true
  | .andn _ _ _ _ => true
  | .sll _ _ _ _ => true
  | .srl _ _ _ _ => true
  | .sra _ _ _ _ => true
  | .min _ _ _ _ => true
  | .max _ _ _ _ => true
  | .minu _ _ _ _ => true
  | .maxu _ _ _ _ => true
  | .mul _ _ _ _ => true
  | .mulh _ _ _ _ => true
  | .mulhu _ _ _ _ => true
  | .div _ _ _ _ => true
  | .divu _ _ _ _ => true
  | .rem _ _ _ _ => true
  | .remu _ _ _ _ => true
  | .clz _ _ _ => true
  | .popc _ _ _ => true
  | .sextB _ _ _ => true
  | .sextH _ _ _ => true
  | .sextW _ _ _ => true
  | .zextB _ _ _ => true
  | .zextH _ _ _ => true
  | .zextW _ _ _ => true
  | .sel _ _ _ _ _ => true
  | .nop => true
  | .addi _ _ _ _ => true
  | .andi _ _ _ _ => true
  | .ori _ _ _ _ => true
  | .xori _ _ _ _ => true
  | .slli _ _ _ _ => true
  | .srli _ _ _ _ => true
  | .srai _ _ _ _ => true
  | .movi _ _ _ => true
  | .movhi _ _ _ => true
  | .ldk _ _ _ => true
  | .addk _ _ _ _ => true
  | .cmp _ _ _ _ _ => true
  | .cmpi _ _ _ _ _ => true
  | .pand _ _ _ _ => true
  | .por _ _ _ _ => true
  | .pxor _ _ _ _ => true
  | .pnot _ _ _ => true
  | .prd _ _ => true
  | .pwr _ _ _ => true
  | .bfx _ _ s w _ => decide (s.toNat + w.toNat + 1 ≤ 64)
  | .bfi _ _ s w _ => decide (s.toNat + w.toNat + 1 ≤ 64)
  | .br _ _ => true
  | .call _ _ => true
  | .jmpr _ _ => true
  | .callr _ _ => true
  | .ret _ => true
  | .leaB _ _ _ _ => true
  | .leaH _ _ _ _ => true
  | .leaW _ _ _ _ => true
  | .leaD _ _ _ _ => true
  | .ldbu _ _ _ _ => true
  | .ldhu _ _ _ _ => true
  | .ldwu _ _ _ _ => true
  | .ldd _ _ _ _ => true
  | .stb _ _ _ _ => true
  | .sth _ _ _ _ => true
  | .stw _ _ _ _ => true
  | .std _ _ _ _ => true
  | .ldm d _ b _ => decide (d.toNat ≤ b.toNat)
  | .stm d _ b _ => decide (d.toNat ≤ b.toNat)
  | .ldb _ _ _ _ => true
  | .ldh _ _ _ _ => true
  | .ldw _ _ _ _ => true
  | .ldbAcq _ _ _ _ => true
  | .ldhAcq _ _ _ _ => true
  | .ldwAcq _ _ _ _ => true
  | .lddAcq _ _ _ _ => true
  | .ldbuAcq _ _ _ _ => true
  | .ldhuAcq _ _ _ _ => true
  | .ldwuAcq _ _ _ _ => true
  | .ldbSc _ _ _ _ => true
  | .ldhSc _ _ _ _ => true
  | .ldwSc _ _ _ _ => true
  | .lddSc _ _ _ _ => true
  | .ldbuSc _ _ _ _ => true
  | .ldhuSc _ _ _ _ => true
  | .ldwuSc _ _ _ _ => true
  | .stbRel _ _ _ _ => true
  | .sthRel _ _ _ _ => true
  | .stwRel _ _ _ _ => true
  | .stdRel _ _ _ _ => true
  | .stbSc _ _ _ _ => true
  | .sthSc _ _ _ _ => true
  | .stwSc _ _ _ _ => true
  | .stdSc _ _ _ _ => true
  | .vld _ _ _ _ _ _ => true
  | .vst _ _ _ _ _ _ => true
  | .vlds _ _ _ _ _ _ => true
  | .vsts _ _ _ _ _ _ => true
  | .vgath _ _ _ t _ _ => decide (t.toNat < 5)
  | .vscat _ _ _ t _ _ => decide (t.toNat < 5)
  | .pref _ _ _ => true
  | .amoAdd _ _ _ _ _ _ => true
  | .amoMin _ _ _ _ _ _ => true
  | .amoMax _ _ _ _ _ _ => true
  | .amoAnd _ _ _ _ _ _ => true
  | .amoOr _ _ _ _ _ _ => true
  | .amoXor _ _ _ _ _ _ => true
  | .amoSwap _ _ _ _ _ _ => true
  | .amoCas _ _ _ _ _ _ => true
  | .amoOrdAdd _ _ _ _ => true
  | .amoOrdFadd _ _ _ _ => true
  | .amoOrdSwap _ _ _ _ => true
  | .fred _ _ _ => true
  | .fenceAcq _ _ => true
  | .fenceRel _ _ => true
  | .fenceFull _ _ => true
  | .mon _ _ => true
  | .munm _ => true
  | .mwait _ _ _ => true
  | .bari _ _ _ => true
  | .barv _ _ _ => true
  | .barw _ _ _ => true
  | .synci _ _ _ => true
  | .digest _ _ => true
  | .vadd _ _ _ _ t _ => typeFltInt t
  | .vsub _ _ _ _ t _ => typeFltInt t
  | .vmul _ _ _ _ t _ => typeFltInt t
  | .vfma _ _ _ _ t _ => typeFltInt t
  | .vmin _ _ _ _ t _ => typeFltInt t
  | .vmax _ _ _ _ t _ => typeFltInt t
  | .vabs _ _ _ t _ => typeFltInt t
  | .vneg _ _ _ t _ => typeFltInt t
  | .vand _ _ _ _ t _ => typeInt t
  | .vor _ _ _ _ t _ => typeInt t
  | .vxor _ _ _ _ t _ => typeInt t
  | .vshl _ _ _ _ t _ => typeInt t
  | .vshr _ _ _ _ t _ => typeInt t
  | .vcvt _ _ r t o _ => t != o && decide (r.toNat < cvtRatio t o)
  | .vperm _ _ _ _ t _ => typeFltInt t
  | .vbcast _ _ t _ => typeFltInt t
  | .vext _ _ _ t _ => typeFltInt t
  | .vins _ _ _ t _ => typeFltInt t
  | .vrcp _ _ _ t _ => typeFlt t
  | .vrsq _ _ _ t _ => typeFlt t
  | .vexp2 _ _ _ t _ => typeFlt t
  | .vlog2 _ _ _ t _ => typeFlt t
  | .vredSum _ _ _ t _ => typeFltInt t
  | .vredMin _ _ _ t _ => typeFltInt t
  | .vredMax _ _ _ t _ => typeFltInt t
  | .vscan _ _ _ t _ => typeFltInt t
  | .vdot _ _ _ _ t _ => decide (t.toNat = 1 ∨ t.toNat = 2 ∨ t.toNat = 4 ∨ t.toNat = 5)
  | .vcmp _ _ _ _ t c _ => (if c.toNat < 4 then typeFltInt t else typeInt t)
  | .vsel _ _ _ _ t _ => typeFltInt t
  | .mmaBb _ _ _ _ _ _ => true
  | .mmaHh _ _ _ _ _ _ => true
  | .mmaQq _ _ _ _ _ _ => true
  | .mmaWw _ _ _ _ _ _ => true
  | .mmaQw _ _ _ _ _ _ => true
  | .mmaNn _ _ _ _ _ _ => true
  | .mmaLl _ _ _ _ _ _ => true
  | .mmaIi _ _ _ _ _ => true
  | .mcfg _ _ => true
  | .mzero _ _ => true
  | .mrd _ _ _ _ => true
  | .mwr _ _ _ _ => true
  | .msave _ _ _ => true
  | .mload _ _ _ => true
  | .qaxis _ _ _ _ => true
  | .qst _ _ _ _ _ _ => true
  | .qsta _ _ _ _ _ _ => true
  | .qresR _ _ _ => true
  | .qresW _ _ _ => true
  | .gcfg _ _ _ _ => true
  | .gseed _ _ _ _ => true
  | .gadd _ _ _ _ => true
  | .gld _ _ _ _ => true
  | .gsprd _ _ _ _ => true
  | .gfence _ => true
  | .gmass _ _ _ _ => true
  | .spawn _ _ _ => true
  | .join _ _ => true
  | .tend _ _ => true
  | .send d _ n _ => decide (d.toNat + n.toNat ≤ 15)
  | .sendSvc d _ _ n _ => decide (d.toNat + n.toNat ≤ 15)
  | .recv d _ n _ => decide (d.toNat + n.toNat ≤ 15)
  | .mig _ _ => true
  | .cpy _ a _ _ => decide (a.toNat ≤ 13)
  | .cpyr _ a _ _ => decide (a.toNat ≤ 12)
  | .rpush _ _ _ _ => true
  | .qfence _ _ => true
  | .coll _ _ _ _ => true
  | .collw _ _ _ _ => true
  | .bdef _ _ _ _ => true
  | .bnbr _ _ _ => true
  | .brule _ _ _ => true
  | .bstart _ _ _ => true
  | .bnext _ => true
  | .bcommit _ => true
  | .bcommitC _ => true
  | .blvl _ _ _ => true
  | .bfrzB _ => true
  | .bfrzD _ _ _ => true
  | .bthaw _ _ => true
  | .bfront _ _ _ _ => true
  | .csrr _ c _ => (csrAccess c.toNat).isSome
  | .csrw _ _ c _ => csrWritable c
  | .csrs _ _ c _ => csrWritable c
  | .csrc _ _ c _ => csrWritable c
  | .trap _ _ => true
  | .rft _ => true
  | .halt _ => true
  | .yield _ => true
  | .strandIntervalEnd _ _ => true
  | .serviceForcedIssue _ => true
  | .rotationBoundary => true
  | .strandPlacement _ _ => true
  | .registerFill _ => true
  | .loadComplete _ _ => true
  | .storeBufferDrain _ => true
  | .scWindowClose => true
  | .requesterTimeout _ => true
  | .packetAgeExpiry _ => true
  | .remoteAccessPerform _ => true
  | .serviceQueueEntry _ => true
  | .serviceHandlerStart _ => true
  | .receiveQueueEntry _ => true
  | .sendAccept _ _ => true
  | .sendAcceptTimeout _ _ => true
  | .recvWaitLimit _ _ => true
  | .mwaitTimeout _ _ => true
  | .monitorRegistered _ _ => true
  | .amoPerform _ _ => true
  | .ordEntryArrival _ _ => true
  | .ordReply _ _ => true
  | .ordNack _ _ => true
  | .ordResend _ _ => true
  | .ordTimeout _ _ => true
  | .fredUpdate _ _ => true
  | .avgEntryApply _ => true
  | .lupinExchange _ => true
  | .lupinPacketArrival _ => true
  | .lupinAck _ => true
  | .lupinRefusal _ => true
  | .lupinRetry _ => true
  | .reconciliationRequest _ => true
  | .reconciliationReply _ => true
  | .stealRequest _ => true
  | .stealRecord _ => true
  | .stealEmpty _ => true
  | .stealAck _ => true
  | .stealConfirm _ => true
  | .stealVoid _ => true
  | .lentTimeout _ => true
  | .migrationDeparture _ _ => true
  | .migrationArrival _ => true
  | .mmaStart _ _ => true
  | .mmaRetire _ _ => true
  | .ringWaitLimit _ _ => true
  | .rpushReserve _ _ => true
  | .slotPublish _ _ => true
  | .ringDisableEffect _ _ => true
  | .commandStart _ _ => true
  | .copyChunk _ _ _ => true
  | .copyFault _ _ _ => true
  | .commandComplete _ _ => true
  | .peonyStepStart _ _ _ => true
  | .peonyReady _ => true
  | .peonyData _ => true
  | .peonyStepComplete _ _ _ => true
  | .peonyFaultNotice _ => true
  | .peonyPartnerTimeout _ _ => true
  | .asterDispatch _ => true
  | .facePushComplete _ => true
  | .facePushFault _ _ => true
  | .levelNotification _ => true
  | .asterLinkInstall _ => true
  | .asterLinkClear _ => true
  | .asterRfreeUpdate _ => true
  | .asterConfirm _ => true
  | .freezeDrainExpiry _ _ => true
  | .freezeComplete _ => true
  | .walkComplete _ _ => true
  | .launchStart _ => true
  | .kernelCompletion _ => true
  | .queueNotify _ _ => true
  | .queueDescriptorWrite _ _ => true
  | .mapWrite _ _ => true
  | .trootWrite _ => true
  | .preempt _ => true
  | .preemptRequestArrival _ _ => true
  | .preemptSaveComplete _ => true
  | .resume _ => true
  | .moduleRemove _ => true
  | .latecntClear => true
  | .multicastGo _ => true
  | .multicastLine _ => true
  | .multicastReply _ => true
  | .attestationGo => true
  | .attestationComplete => true
  | .registerWrite _ _ => true
  | .apertureWrite _ _ _ => true
  | .apertureRead _ _ => true
  | .linkFrame _ _ _ => true
  | .linkBringUp _ _ _ _ => true
  | .linkRekey _ => true
  | .linkControlTimeout _ => true
  | .linkDown _ => true
  | .memoryEccError _ _ => true
  | .registerEccError _ _ _ _ => true
  | .fabricTransferError _ _ => true
  | .fatalError _ _ _ => true
  | .powerLimitHold _ => true
  | .gatingEntry _ => true
  | .gatingCommit _ => true
  | .gated _ => true
  | .wakeEvent _ => true
  | .ungatingComplete _ => true
  | .moduleReset => true
  | .boot _ _ => true
  | .firmwareUpdate _ _ _ => true
  | .wordNotAnInstruction _ => true
  | .instructionFetchFault => true
  | .barwWaitLimit _ _ => true
  | .arrivalReservationRequest _ => true
  | .remoteStoreAcknowledgement _ => true
  | .discardCountRecord => true

/-- The fields hold values that the encoding admits (checks 2 and 3 of R72); an ADD of zeros has the word of NOP (R101). -/
def Instr.encodable : Instr → Bool
  | .add d a b p => !(d == 0 && a == 0 && b == 0 && p == 0)
  | .sub _ _ _ _ => true
  | .and _ _ _ _ => true
  | .or _ _ _ _ => true
  | .xor _ _ _ _ => true
  | .andn _ _ _ _ => true
  | .sll _ _ _ _ => true
  | .srl _ _ _ _ => true
  | .sra _ _ _ _ => true
  | .min _ _ _ _ => true
  | .max _ _ _ _ => true
  | .minu _ _ _ _ => true
  | .maxu _ _ _ _ => true
  | .mul _ _ _ _ => true
  | .mulh _ _ _ _ => true
  | .mulhu _ _ _ _ => true
  | .div _ _ _ _ => true
  | .divu _ _ _ _ => true
  | .rem _ _ _ _ => true
  | .remu _ _ _ _ => true
  | .clz _ _ _ => true
  | .popc _ _ _ => true
  | .sextB _ _ _ => true
  | .sextH _ _ _ => true
  | .sextW _ _ _ => true
  | .zextB _ _ _ => true
  | .zextH _ _ _ => true
  | .zextW _ _ _ => true
  | .sel _ _ _ _ _ => true
  | .nop => true
  | .addi _ _ _ _ => true
  | .andi _ _ _ _ => true
  | .ori _ _ _ _ => true
  | .xori _ _ _ _ => true
  | .slli _ _ _ _ => true
  | .srli _ _ _ _ => true
  | .srai _ _ _ _ => true
  | .movi _ _ _ => true
  | .movhi _ _ _ => true
  | .ldk _ _ _ => true
  | .addk _ _ _ _ => true
  | .cmp _ _ _ c _ => decide (c.toNat < 6)
  | .cmpi _ _ c _ _ => decide (c.toNat < 6)
  | .pand _ _ _ _ => true
  | .por _ _ _ _ => true
  | .pxor _ _ _ _ => true
  | .pnot _ _ _ => true
  | .prd _ _ => true
  | .pwr _ _ _ => true
  | .bfx _ _ _ _ _ => true
  | .bfi _ _ _ _ _ => true
  | .br _ _ => true
  | .call _ _ => true
  | .jmpr _ _ => true
  | .callr _ _ => true
  | .ret _ => true
  | .leaB _ _ _ _ => true
  | .leaH _ _ _ _ => true
  | .leaW _ _ _ _ => true
  | .leaD _ _ _ _ => true
  | .ldbu _ _ _ _ => true
  | .ldhu _ _ _ _ => true
  | .ldwu _ _ _ _ => true
  | .ldd _ _ _ _ => true
  | .stb _ _ _ _ => true
  | .sth _ _ _ _ => true
  | .stw _ _ _ _ => true
  | .std _ _ _ _ => true
  | .ldm _ _ _ _ => true
  | .stm _ _ _ _ => true
  | .ldb _ _ _ _ => true
  | .ldh _ _ _ _ => true
  | .ldw _ _ _ _ => true
  | .ldbAcq _ _ _ _ => true
  | .ldhAcq _ _ _ _ => true
  | .ldwAcq _ _ _ _ => true
  | .lddAcq _ _ _ _ => true
  | .ldbuAcq _ _ _ _ => true
  | .ldhuAcq _ _ _ _ => true
  | .ldwuAcq _ _ _ _ => true
  | .ldbSc _ _ _ _ => true
  | .ldhSc _ _ _ _ => true
  | .ldwSc _ _ _ _ => true
  | .lddSc _ _ _ _ => true
  | .ldbuSc _ _ _ _ => true
  | .ldhuSc _ _ _ _ => true
  | .ldwuSc _ _ _ _ => true
  | .stbRel _ _ _ _ => true
  | .sthRel _ _ _ _ => true
  | .stwRel _ _ _ _ => true
  | .stdRel _ _ _ _ => true
  | .stbSc _ _ _ _ => true
  | .sthSc _ _ _ _ => true
  | .stwSc _ _ _ _ => true
  | .stdSc _ _ _ _ => true
  | .vld _ _ _ _ _ _ => true
  | .vst _ _ _ _ _ _ => true
  | .vlds _ _ _ _ _ _ => true
  | .vsts _ _ _ _ _ _ => true
  | .vgath _ _ _ _ _ _ => true
  | .vscat _ _ _ _ _ _ => true
  | .pref _ _ _ => true
  | .amoAdd _ _ _ _ _ _ => true
  | .amoMin _ _ _ _ _ _ => true
  | .amoMax _ _ _ _ _ _ => true
  | .amoAnd _ _ _ _ _ _ => true
  | .amoOr _ _ _ _ _ _ => true
  | .amoXor _ _ _ _ _ _ => true
  | .amoSwap _ _ _ _ _ _ => true
  | .amoCas _ _ _ _ _ _ => true
  | .amoOrdAdd _ _ _ _ => true
  | .amoOrdFadd _ _ _ _ => true
  | .amoOrdSwap _ _ _ _ => true
  | .fred _ _ _ => true
  | .fenceAcq s _ => decide (s.toNat < 5)
  | .fenceRel s _ => decide (s.toNat < 5)
  | .fenceFull s _ => decide (s.toNat < 5)
  | .mon _ _ => true
  | .munm _ => true
  | .mwait _ _ _ => true
  | .bari _ _ _ => true
  | .barv _ _ _ => true
  | .barw _ _ _ => true
  | .synci _ _ _ => true
  | .digest _ _ => true
  | .vadd _ _ _ _ _ _ => true
  | .vsub _ _ _ _ _ _ => true
  | .vmul _ _ _ _ _ _ => true
  | .vfma _ _ _ _ _ _ => true
  | .vmin _ _ _ _ _ _ => true
  | .vmax _ _ _ _ _ _ => true
  | .vabs _ _ _ _ _ => true
  | .vneg _ _ _ _ _ => true
  | .vand _ _ _ _ _ _ => true
  | .vor _ _ _ _ _ _ => true
  | .vxor _ _ _ _ _ _ => true
  | .vshl _ _ _ _ _ _ => true
  | .vshr _ _ _ _ _ _ => true
  | .vcvt _ _ _ _ _ _ => true
  | .vperm _ _ _ _ _ _ => true
  | .vbcast _ _ _ _ => true
  | .vext _ _ _ _ _ => true
  | .vins _ _ _ _ _ => true
  | .vrcp _ _ _ _ _ => true
  | .vrsq _ _ _ _ _ => true
  | .vexp2 _ _ _ _ _ => true
  | .vlog2 _ _ _ _ _ => true
  | .vredSum _ _ _ _ _ => true
  | .vredMin _ _ _ _ _ => true
  | .vredMax _ _ _ _ _ => true
  | .vscan _ _ _ _ _ => true
  | .vdot _ _ _ _ _ _ => true
  | .vcmp _ _ _ _ _ c _ => decide (c.toNat < 6)
  | .vsel _ _ _ _ _ _ => true
  | .mmaBb _ _ _ _ _ _ => true
  | .mmaHh _ _ _ _ _ _ => true
  | .mmaQq _ _ _ _ _ _ => true
  | .mmaWw _ _ _ _ _ _ => true
  | .mmaQw _ _ _ _ _ _ => true
  | .mmaNn _ _ _ _ _ _ => true
  | .mmaLl _ _ _ _ _ _ => true
  | .mmaIi _ _ _ _ _ => true
  | .mcfg _ _ => true
  | .mzero _ _ => true
  | .mrd _ _ _ _ => true
  | .mwr _ _ _ _ => true
  | .msave _ _ _ => true
  | .mload _ _ _ => true
  | .qaxis _ _ _ _ => true
  | .qst _ _ _ b q _ => decide (q.toNat ≠ 7) && decide (b.toNat = 0 ∨ q.toNat = 2)
  | .qsta _ _ _ b q _ => decide (q.toNat ≠ 7) && decide (b.toNat = 0 ∨ q.toNat = 2)
  | .qresR _ _ _ => true
  | .qresW _ _ _ => true
  | .gcfg _ _ _ _ => true
  | .gseed _ _ _ _ => true
  | .gadd _ _ _ _ => true
  | .gld _ _ _ _ => true
  | .gsprd _ _ _ _ => true
  | .gfence _ => true
  | .gmass _ _ _ _ => true
  | .spawn _ _ _ => true
  | .join _ _ => true
  | .tend _ _ => true
  | .send _ _ _ _ => true
  | .sendSvc _ _ _ _ _ => true
  | .recv _ _ _ _ => true
  | .mig _ _ => true
  | .cpy _ _ _ _ => true
  | .cpyr _ _ _ _ => true
  | .rpush _ _ _ _ => true
  | .qfence _ _ => true
  | .coll _ _ _ _ => true
  | .collw _ _ _ _ => true
  | .bdef _ _ _ _ => true
  | .bnbr _ _ _ => true
  | .brule _ _ _ => true
  | .bstart _ _ _ => true
  | .bnext _ => true
  | .bcommit _ => true
  | .bcommitC _ => true
  | .blvl _ _ _ => true
  | .bfrzB _ => true
  | .bfrzD _ _ _ => true
  | .bthaw _ _ => true
  | .bfront _ _ _ _ => true
  | .csrr _ _ _ => true
  | .csrw _ _ _ _ => true
  | .csrs _ _ _ _ => true
  | .csrc _ _ _ _ => true
  | .trap _ _ => true
  | .rft _ => true
  | .halt _ => true
  | .yield _ => true
  | .strandIntervalEnd _ _ => true
  | .serviceForcedIssue _ => true
  | .rotationBoundary => true
  | .strandPlacement _ _ => true
  | .registerFill _ => true
  | .loadComplete _ _ => true
  | .storeBufferDrain _ => true
  | .scWindowClose => true
  | .requesterTimeout _ => true
  | .packetAgeExpiry _ => true
  | .remoteAccessPerform _ => true
  | .serviceQueueEntry _ => true
  | .serviceHandlerStart _ => true
  | .receiveQueueEntry _ => true
  | .sendAccept _ _ => true
  | .sendAcceptTimeout _ _ => true
  | .recvWaitLimit _ _ => true
  | .mwaitTimeout _ _ => true
  | .monitorRegistered _ _ => true
  | .amoPerform _ _ => true
  | .ordEntryArrival _ _ => true
  | .ordReply _ _ => true
  | .ordNack _ _ => true
  | .ordResend _ _ => true
  | .ordTimeout _ _ => true
  | .fredUpdate _ _ => true
  | .avgEntryApply _ => true
  | .lupinExchange _ => true
  | .lupinPacketArrival _ => true
  | .lupinAck _ => true
  | .lupinRefusal _ => true
  | .lupinRetry _ => true
  | .reconciliationRequest _ => true
  | .reconciliationReply _ => true
  | .stealRequest _ => true
  | .stealRecord _ => true
  | .stealEmpty _ => true
  | .stealAck _ => true
  | .stealConfirm _ => true
  | .stealVoid _ => true
  | .lentTimeout _ => true
  | .migrationDeparture _ _ => true
  | .migrationArrival _ => true
  | .mmaStart _ _ => true
  | .mmaRetire _ _ => true
  | .ringWaitLimit _ _ => true
  | .rpushReserve _ _ => true
  | .slotPublish _ _ => true
  | .ringDisableEffect _ _ => true
  | .commandStart _ _ => true
  | .copyChunk _ _ _ => true
  | .copyFault _ _ _ => true
  | .commandComplete _ _ => true
  | .peonyStepStart _ _ _ => true
  | .peonyReady _ => true
  | .peonyData _ => true
  | .peonyStepComplete _ _ _ => true
  | .peonyFaultNotice _ => true
  | .peonyPartnerTimeout _ _ => true
  | .asterDispatch _ => true
  | .facePushComplete _ => true
  | .facePushFault _ _ => true
  | .levelNotification _ => true
  | .asterLinkInstall _ => true
  | .asterLinkClear _ => true
  | .asterRfreeUpdate _ => true
  | .asterConfirm _ => true
  | .freezeDrainExpiry _ _ => true
  | .freezeComplete _ => true
  | .walkComplete _ _ => true
  | .launchStart _ => true
  | .kernelCompletion _ => true
  | .queueNotify _ _ => true
  | .queueDescriptorWrite _ _ => true
  | .mapWrite _ _ => true
  | .trootWrite _ => true
  | .preempt _ => true
  | .preemptRequestArrival _ _ => true
  | .preemptSaveComplete _ => true
  | .resume _ => true
  | .moduleRemove _ => true
  | .latecntClear => true
  | .multicastGo _ => true
  | .multicastLine _ => true
  | .multicastReply _ => true
  | .attestationGo => true
  | .attestationComplete => true
  | .registerWrite _ _ => true
  | .apertureWrite _ _ _ => true
  | .apertureRead _ _ => true
  | .linkFrame _ _ _ => true
  | .linkBringUp _ _ _ _ => true
  | .linkRekey _ => true
  | .linkControlTimeout _ => true
  | .linkDown _ => true
  | .memoryEccError _ _ => true
  | .registerEccError _ _ _ _ => true
  | .fabricTransferError _ _ => true
  | .fatalError _ _ _ => true
  | .powerLimitHold _ => true
  | .gatingEntry _ => true
  | .gatingCommit _ => true
  | .gated _ => true
  | .wakeEvent _ => true
  | .ungatingComplete _ => true
  | .moduleReset => true
  | .boot _ _ => true
  | .firmwareUpdate _ _ _ => true
  | .wordNotAnInstruction _ => true
  | .instructionFetchFault => true
  | .barwWaitLimit _ _ => true
  | .arrivalReservationRequest _ => true
  | .remoteStoreAcknowledgement _ => true
  | .discardCountRecord => true

/-- Check 4 of R72: a supervisor instruction (R70). -/
def Instr.privileged : Instr → Bool
  | .add _ _ _ _ => false
  | .sub _ _ _ _ => false
  | .and _ _ _ _ => false
  | .or _ _ _ _ => false
  | .xor _ _ _ _ => false
  | .andn _ _ _ _ => false
  | .sll _ _ _ _ => false
  | .srl _ _ _ _ => false
  | .sra _ _ _ _ => false
  | .min _ _ _ _ => false
  | .max _ _ _ _ => false
  | .minu _ _ _ _ => false
  | .maxu _ _ _ _ => false
  | .mul _ _ _ _ => false
  | .mulh _ _ _ _ => false
  | .mulhu _ _ _ _ => false
  | .div _ _ _ _ => false
  | .divu _ _ _ _ => false
  | .rem _ _ _ _ => false
  | .remu _ _ _ _ => false
  | .clz _ _ _ => false
  | .popc _ _ _ => false
  | .sextB _ _ _ => false
  | .sextH _ _ _ => false
  | .sextW _ _ _ => false
  | .zextB _ _ _ => false
  | .zextH _ _ _ => false
  | .zextW _ _ _ => false
  | .sel _ _ _ _ _ => false
  | .nop => false
  | .addi _ _ _ _ => false
  | .andi _ _ _ _ => false
  | .ori _ _ _ _ => false
  | .xori _ _ _ _ => false
  | .slli _ _ _ _ => false
  | .srli _ _ _ _ => false
  | .srai _ _ _ _ => false
  | .movi _ _ _ => false
  | .movhi _ _ _ => false
  | .ldk _ _ _ => false
  | .addk _ _ _ _ => false
  | .cmp _ _ _ _ _ => false
  | .cmpi _ _ _ _ _ => false
  | .pand _ _ _ _ => false
  | .por _ _ _ _ => false
  | .pxor _ _ _ _ => false
  | .pnot _ _ _ => false
  | .prd _ _ => false
  | .pwr _ _ _ => false
  | .bfx _ _ _ _ _ => false
  | .bfi _ _ _ _ _ => false
  | .br _ _ => false
  | .call _ _ => false
  | .jmpr _ _ => false
  | .callr _ _ => false
  | .ret _ => false
  | .leaB _ _ _ _ => false
  | .leaH _ _ _ _ => false
  | .leaW _ _ _ _ => false
  | .leaD _ _ _ _ => false
  | .ldbu _ _ _ _ => false
  | .ldhu _ _ _ _ => false
  | .ldwu _ _ _ _ => false
  | .ldd _ _ _ _ => false
  | .stb _ _ _ _ => false
  | .sth _ _ _ _ => false
  | .stw _ _ _ _ => false
  | .std _ _ _ _ => false
  | .ldm _ _ _ _ => false
  | .stm _ _ _ _ => false
  | .ldb _ _ _ _ => false
  | .ldh _ _ _ _ => false
  | .ldw _ _ _ _ => false
  | .ldbAcq _ _ _ _ => false
  | .ldhAcq _ _ _ _ => false
  | .ldwAcq _ _ _ _ => false
  | .lddAcq _ _ _ _ => false
  | .ldbuAcq _ _ _ _ => false
  | .ldhuAcq _ _ _ _ => false
  | .ldwuAcq _ _ _ _ => false
  | .ldbSc _ _ _ _ => false
  | .ldhSc _ _ _ _ => false
  | .ldwSc _ _ _ _ => false
  | .lddSc _ _ _ _ => false
  | .ldbuSc _ _ _ _ => false
  | .ldhuSc _ _ _ _ => false
  | .ldwuSc _ _ _ _ => false
  | .stbRel _ _ _ _ => false
  | .sthRel _ _ _ _ => false
  | .stwRel _ _ _ _ => false
  | .stdRel _ _ _ _ => false
  | .stbSc _ _ _ _ => false
  | .sthSc _ _ _ _ => false
  | .stwSc _ _ _ _ => false
  | .stdSc _ _ _ _ => false
  | .vld _ _ _ _ _ _ => false
  | .vst _ _ _ _ _ _ => false
  | .vlds _ _ _ _ _ _ => false
  | .vsts _ _ _ _ _ _ => false
  | .vgath _ _ _ _ _ _ => false
  | .vscat _ _ _ _ _ _ => false
  | .pref _ _ _ => false
  | .amoAdd _ _ _ _ _ _ => false
  | .amoMin _ _ _ _ _ _ => false
  | .amoMax _ _ _ _ _ _ => false
  | .amoAnd _ _ _ _ _ _ => false
  | .amoOr _ _ _ _ _ _ => false
  | .amoXor _ _ _ _ _ _ => false
  | .amoSwap _ _ _ _ _ _ => false
  | .amoCas _ _ _ _ _ _ => false
  | .amoOrdAdd _ _ _ _ => false
  | .amoOrdFadd _ _ _ _ => false
  | .amoOrdSwap _ _ _ _ => false
  | .fred _ _ _ => false
  | .fenceAcq _ _ => false
  | .fenceRel _ _ => false
  | .fenceFull _ _ => false
  | .mon _ _ => false
  | .munm _ => false
  | .mwait _ _ _ => false
  | .bari _ _ _ => false
  | .barv _ _ _ => false
  | .barw _ _ _ => false
  | .synci _ _ _ => false
  | .digest _ _ => false
  | .vadd _ _ _ _ _ _ => false
  | .vsub _ _ _ _ _ _ => false
  | .vmul _ _ _ _ _ _ => false
  | .vfma _ _ _ _ _ _ => false
  | .vmin _ _ _ _ _ _ => false
  | .vmax _ _ _ _ _ _ => false
  | .vabs _ _ _ _ _ => false
  | .vneg _ _ _ _ _ => false
  | .vand _ _ _ _ _ _ => false
  | .vor _ _ _ _ _ _ => false
  | .vxor _ _ _ _ _ _ => false
  | .vshl _ _ _ _ _ _ => false
  | .vshr _ _ _ _ _ _ => false
  | .vcvt _ _ _ _ _ _ => false
  | .vperm _ _ _ _ _ _ => false
  | .vbcast _ _ _ _ => false
  | .vext _ _ _ _ _ => false
  | .vins _ _ _ _ _ => false
  | .vrcp _ _ _ _ _ => false
  | .vrsq _ _ _ _ _ => false
  | .vexp2 _ _ _ _ _ => false
  | .vlog2 _ _ _ _ _ => false
  | .vredSum _ _ _ _ _ => false
  | .vredMin _ _ _ _ _ => false
  | .vredMax _ _ _ _ _ => false
  | .vscan _ _ _ _ _ => false
  | .vdot _ _ _ _ _ _ => false
  | .vcmp _ _ _ _ _ _ _ => false
  | .vsel _ _ _ _ _ _ => false
  | .mmaBb _ _ _ _ _ _ => false
  | .mmaHh _ _ _ _ _ _ => false
  | .mmaQq _ _ _ _ _ _ => false
  | .mmaWw _ _ _ _ _ _ => false
  | .mmaQw _ _ _ _ _ _ => false
  | .mmaNn _ _ _ _ _ _ => false
  | .mmaLl _ _ _ _ _ _ => false
  | .mmaIi _ _ _ _ _ => false
  | .mcfg _ _ => false
  | .mzero _ _ => false
  | .mrd _ _ _ _ => false
  | .mwr _ _ _ _ => false
  | .msave _ _ _ => false
  | .mload _ _ _ => false
  | .qaxis _ _ _ _ => false
  | .qst _ _ _ _ _ _ => false
  | .qsta _ _ _ _ _ _ => false
  | .qresR _ _ _ => false
  | .qresW _ _ _ => false
  | .gcfg _ _ _ _ => true
  | .gseed _ _ _ _ => false
  | .gadd _ _ _ _ => false
  | .gld _ _ _ _ => false
  | .gsprd _ _ _ _ => false
  | .gfence _ => false
  | .gmass _ _ _ _ => false
  | .spawn _ _ _ => false
  | .join _ _ => false
  | .tend _ _ => false
  | .send _ _ _ _ => false
  | .sendSvc _ _ _ _ _ => false
  | .recv _ _ _ _ => false
  | .mig _ _ => false
  | .cpy _ _ _ _ => false
  | .cpyr _ _ _ _ => false
  | .rpush _ _ _ _ => false
  | .qfence _ _ => false
  | .coll _ _ _ _ => false
  | .collw _ _ _ _ => false
  | .bdef _ _ _ _ => false
  | .bnbr _ _ _ => false
  | .brule _ _ _ => false
  | .bstart _ _ _ => false
  | .bnext _ => false
  | .bcommit _ => false
  | .bcommitC _ => false
  | .blvl _ _ _ => false
  | .bfrzB _ => false
  | .bfrzD _ _ _ => true
  | .bthaw _ _ => true
  | .bfront _ _ _ _ => false
  | .csrr _ c _ => csrAccess c.toNat == some .s
  | .csrw _ _ c _ => csrWritePriv c
  | .csrs _ _ c _ => csrWritePriv c
  | .csrc _ _ c _ => csrWritePriv c
  | .trap _ _ => false
  | .rft _ => true
  | .halt _ => true
  | .yield _ => false
  | .strandIntervalEnd _ _ => false
  | .serviceForcedIssue _ => false
  | .rotationBoundary => false
  | .strandPlacement _ _ => false
  | .registerFill _ => false
  | .loadComplete _ _ => false
  | .storeBufferDrain _ => false
  | .scWindowClose => false
  | .requesterTimeout _ => false
  | .packetAgeExpiry _ => false
  | .remoteAccessPerform _ => false
  | .serviceQueueEntry _ => false
  | .serviceHandlerStart _ => false
  | .receiveQueueEntry _ => false
  | .sendAccept _ _ => false
  | .sendAcceptTimeout _ _ => false
  | .recvWaitLimit _ _ => false
  | .mwaitTimeout _ _ => false
  | .monitorRegistered _ _ => false
  | .amoPerform _ _ => false
  | .ordEntryArrival _ _ => false
  | .ordReply _ _ => false
  | .ordNack _ _ => false
  | .ordResend _ _ => false
  | .ordTimeout _ _ => false
  | .fredUpdate _ _ => false
  | .avgEntryApply _ => false
  | .lupinExchange _ => false
  | .lupinPacketArrival _ => false
  | .lupinAck _ => false
  | .lupinRefusal _ => false
  | .lupinRetry _ => false
  | .reconciliationRequest _ => false
  | .reconciliationReply _ => false
  | .stealRequest _ => false
  | .stealRecord _ => false
  | .stealEmpty _ => false
  | .stealAck _ => false
  | .stealConfirm _ => false
  | .stealVoid _ => false
  | .lentTimeout _ => false
  | .migrationDeparture _ _ => false
  | .migrationArrival _ => false
  | .mmaStart _ _ => false
  | .mmaRetire _ _ => false
  | .ringWaitLimit _ _ => false
  | .rpushReserve _ _ => false
  | .slotPublish _ _ => false
  | .ringDisableEffect _ _ => false
  | .commandStart _ _ => false
  | .copyChunk _ _ _ => false
  | .copyFault _ _ _ => false
  | .commandComplete _ _ => false
  | .peonyStepStart _ _ _ => false
  | .peonyReady _ => false
  | .peonyData _ => false
  | .peonyStepComplete _ _ _ => false
  | .peonyFaultNotice _ => false
  | .peonyPartnerTimeout _ _ => false
  | .asterDispatch _ => false
  | .facePushComplete _ => false
  | .facePushFault _ _ => false
  | .levelNotification _ => false
  | .asterLinkInstall _ => false
  | .asterLinkClear _ => false
  | .asterRfreeUpdate _ => false
  | .asterConfirm _ => false
  | .freezeDrainExpiry _ _ => false
  | .freezeComplete _ => false
  | .walkComplete _ _ => false
  | .launchStart _ => false
  | .kernelCompletion _ => false
  | .queueNotify _ _ => false
  | .queueDescriptorWrite _ _ => false
  | .mapWrite _ _ => false
  | .trootWrite _ => false
  | .preempt _ => false
  | .preemptRequestArrival _ _ => false
  | .preemptSaveComplete _ => false
  | .resume _ => false
  | .moduleRemove _ => false
  | .latecntClear => false
  | .multicastGo _ => false
  | .multicastLine _ => false
  | .multicastReply _ => false
  | .attestationGo => false
  | .attestationComplete => false
  | .registerWrite _ _ => false
  | .apertureWrite _ _ _ => false
  | .apertureRead _ _ => false
  | .linkFrame _ _ _ => false
  | .linkBringUp _ _ _ _ => false
  | .linkRekey _ => false
  | .linkControlTimeout _ => false
  | .linkDown _ => false
  | .memoryEccError _ _ => false
  | .registerEccError _ _ _ _ => false
  | .fabricTransferError _ _ => false
  | .fatalError _ _ _ => false
  | .powerLimitHold _ => false
  | .gatingEntry _ => false
  | .gatingCommit _ => false
  | .gated _ => false
  | .wakeEvent _ => false
  | .ungatingComplete _ => false
  | .moduleReset => false
  | .boot _ _ => false
  | .firmwareUpdate _ _ _ => false
  | .wordNotAnInstruction _ => false
  | .instructionFetchFault => false
  | .barwWaitLimit _ _ => false
  | .arrivalReservationRequest _ => false
  | .remoteStoreAcknowledgement _ => false
  | .discardCountRecord => false


/-- Check 5 of R72: every field within the limits of its chapter, the guard among them. -/
def Instr.limits (i : Instr) : Bool :=
  i.guardField != 8 && i.fieldLimits

/-- The word of an instruction. -/
def encode (i : Instr) : IWord :=
  BitVec.ofNat 32 (encodeNat i)

/-- The instruction of a word, or the check of R72 that it fails first. -/
def decode (w : IWord) : Except DecodeError Instr :=
  decodeNat w.toNat

/-- The word that four bytes in memory hold, lowest address first (R63: little-endian). -/
def wordOfBytes (b0 b1 b2 b3 : Byte) : IWord :=
  BitVec.ofNat 32 (b0.toNat + b1.toNat * 256 + b2.toNat * 65536 + b3.toNat * 16777216)

/-- The decoder on any bytes: the instruction of the first four and the rest; fewer bytes are no instruction. -/
def decodeBytes : List Byte → Except DecodeError (Instr × List Byte)
  | b0 :: b1 :: b2 :: b3 :: rest => (decode (wordOfBytes b0 b1 b2 b3)).map (·, rest)
  | _ => .error .illOpcode

/-- The instruction that the decoder reads from the bits w, laid out as little-endian bytes. -/
def decodeTableWord (nbits w : Nat) : Option Instr :=
  let x := w % 2 ^ nbits
  match decodeBytes [BitVec.ofNat 8 x, BitVec.ofNat 8 (x / 256), BitVec.ofNat 8 (x / 65536),
      BitVec.ofNat 8 (x / 16777216)] with
  | .ok (i, _) => some i
  | .error _ => none

end Sys2Proof
end

