-- ==== Sys2Proof/Config.lean ====
section
/-! DEFINITION. What one implementation fixes, and the free values, which have no body so that no proof can see them. -/

namespace Sys2Proof

/-- Cores, clusters and dies of a module (R4, R85). -/
def Config.cores : Nat := 12288
def Config.clusters : Nat := 768
def Config.dies : Nat := 8

/-- L2 slices of a module (R9). -/
def Config.slices : Nat := 3072

/-- Fabric ports (R325). -/
def Config.ports : Nat := 36

/-- Lupin's link retry interval in cycles (R373). -/
def Config.linkRetry : Nat := 65536

/-- Free value: the L2 slice that homes a physical line (R217 leaves the interleave to the implementation). -/
opaque Config.homeSlice : Nat → Fin 3072

/-- Free value: the strand tag of a reply token (R246), for a serial number. -/
opaque Config.strandTag : Nat → BitVec 32

/-- Free value: the head index and the entry count of a queue of another module in a QUEUE_WAIT_LIMIT report (R249), for a
serial number. -/
opaque Config.farQueue : Nat → BitVec 4 × Fin 17

/-- Free value: whether a strand that leaves WAIT or PARK becomes READY in the second cycle after the event and not in
the first (R19), for a cycle, core and slot. -/
opaque Config.slowWake : Nat → Nat → Nat → Bool

/-- Free value: a byte of the write slot of an abandoned update (R305), for a serial number and an offset. -/
opaque Config.abandonedByte : Nat → Nat → Byte

/-- Free value: a byte of the constant window whose image byte cannot be read at a launch (R29), for a launch ID and an
offset. -/
opaque Config.unreadImage : Nat → Nat → Byte

/-- Free value: the size in KiB of the save area of a launch (R354), by its first core, core count and strands. -/
opaque Config.saveNeed : Nat → Nat → Nat → BitVec 32

/-- Free value: whether the strands of a launch that have left for other modules have all ended there (R31), for a launch
ID and a cycle. -/
opaque Config.endedAway : Nat → Nat → Bool

/-- Free value: where in the second tier the dump area lies (R363). -/
opaque Config.dumpArea : Fin 0x10000000000

/-- Free value: whether the route of the outstanding request of a number to a module crosses a port (R326, R373): module,
number, port. -/
opaque Config.routeUses : Nat → Nat → Nat → Bool

/-- Free value: a fresh link key (R371), for a serial number. -/
opaque Config.linkKey : Nat → Nat

/-- Free value: the fused minimum of the security versions of images (R381). -/
opaque Config.fusedMinimum : Nat

/-- Free values: the SM3 digest of the running images, by unit and version, that of the fuses, the serial number, security
version and SM2 signature of an attestation report, and the identity public key (R383). -/
opaque Config.imageDigest : List (Nat × Nat) → BitVec 256
opaque Config.identityKey : BitVec 512
opaque Config.fuseDigest : List Nat → BitVec 256
opaque Config.serialNumber : BitVec 128
opaque Config.securityVersion : List (Nat × Nat) → BitVec 64
opaque Config.signature : BitVec 1024 → BitVec 512

end Sys2Proof
end

