-- ==== Sys2Proof/Machine/Bits.lean ====
section
/-! DEFINITION. Bit-field, sign-extension and byte helpers over words. -/

namespace Sys2Proof.Machine

/-- Bits [hi:lo] of a word as a number. -/
def bits {w : Nat} (x : BitVec w) (hi lo : Nat) : Nat :=
  (x.toNat >>> lo) % 2 ^ (hi + 1 - lo)

/-- Bit i of a word. -/
def bitAt {w : Nat} (x : BitVec w) (i : Nat) : Bool :=
  x.getLsbD i

/-- Bits [hi:lo] of a number. -/
def nbits (x hi lo : Nat) : Nat :=
  (x >>> lo) % 2 ^ (hi + 1 - lo)

/-- A Bool as the number 0 or 1. -/
def b2n (b : Bool) : Nat :=
  if b then 1 else 0

/-- sx(x, n): the low n bits of x read as two's complement, as a 64-bit value (R2). -/
def sx (x n : Nat) : Word :=
  (BitVec.ofNat n x).signExtend 64

/-- zx(x, n): the low n bits of x, zero-extended. -/
def zx (x n : Nat) : Word :=
  (BitVec.ofNat n x).setWidth 64

/-- The low n bits of x read as a two's complement integer. -/
def sval (x n : Nat) : Int :=
  (BitVec.ofNat n x).toInt

/-- Byte i of a little-endian number. -/
def byteOf (x i : Nat) : Byte :=
  BitVec.ofNat 8 (x >>> (8 * i))

/-- Sets bit i of a word to b. -/
def setBit {w : Nat} (x : BitVec w) (i : Nat) (b : Bool) : BitVec w :=
  let m : BitVec w := BitVec.ofNat w (2 ^ i)
  if b then x ||| m else x &&& ~~~m

/-- x with bits [lo + n - 1 : lo] replaced by the low n bits of v. -/
def setField {w : Nat} (x : BitVec w) (lo n v : Nat) : BitVec w :=
  let m : BitVec w := BitVec.ofNat w ((2 ^ n - 1) <<< lo)
  (x &&& ~~~m) ||| BitVec.ofNat w ((v % 2 ^ n) <<< lo)

/-- The number of one bits among the n lowest bits of x. -/
def popcount (x : Nat) : Nat → Nat
  | 0 => 0
  | n + 1 => b2n (x.testBit n) + popcount x n

/-- The number of zero bits above the highest one bit among the n lowest bits of x. -/
def leadingZeros (x : Nat) : Nat → Nat
  | 0 => 0
  | n + 1 => if x.testBit n then 0 else 1 + leadingZeros x n

/-- Lane i of a register of lanes w bits wide, as a number (R103). -/
def lane {n : Nat} (x : BitVec n) (w i : Nat) : Nat :=
  (x.toNat >>> (w * i)) % 2 ^ w

/-- Joins lanes of w bits, lane 0 lowest, into one number. -/
def joinLanes (w : Nat) : List Nat → Nat
  | [] => 0
  | x :: xs => x % 2 ^ w + 2 ^ w * joinLanes w xs

/-- The first k numbers of 0, 1, … that satisfy p. -/
def firstBelow (k : Nat) (p : Nat → Bool) : Option Nat :=
  (List.range k).find? p

/-- Floor of the base-2 logarithm by fuel: the number of times x can be halved before it is below 2. -/
def log2Fuel : Nat → Nat → Nat
  | 0, _ => 0
  | f + 1, x => if x < 2 then 0 else 1 + log2Fuel f (x / 2)

end Sys2Proof.Machine
end

