-- ==== Sys2Proof/Machine/Float.lean ====
section
/-! DEFINITION. Number formats and exact arithmetic: decoding, the one rounding step, and the flags (R38-R62). -/

namespace Sys2Proof.Machine

/-- A set of the six exception flags in the FPS layout of R145: NV, DZ, OF, UF, NX, FMT from bit 0 up. -/
abbrev Flags := BitVec 6

def flNV : Flags := 1
def flDZ : Flags := 2
def flOF : Flags := 4
def flUF : Flags := 8
def flNX : Flags := 16
def flFMT : Flags := 32

/-- The FPC fields that an operation captures at issue (R50, R144). -/
structure FpEnv where
  rm : Nat
  fiz : Bool
  frz : Bool
  nve : Bool
  dze : Bool
  ofe : Bool
  deriving DecidableEq, Repr

/-- Round to nearest even with no flush: the environment of the helpers that ignore FPC (R62). -/
def rneEnv : FpEnv := ⟨0, false, false, false, false, false⟩

/-- The five binary formats of R38. -/
inductive Fmt where
  | f32 | f16 | bf16 | e4m3 | e5m2
  deriving DecidableEq, Repr

/-- The width of the exponent field (R38). -/
def fmtExp : Fmt → Nat
  | .f32 => 8
  | .f16 => 5
  | .bf16 => 8
  | .e4m3 => 4
  | .e5m2 => 5

/-- The width of the fraction field (R38). -/
def fmtFrac : Fmt → Nat
  | .f32 => 23
  | .f16 => 10
  | .bf16 => 7
  | .e4m3 => 3
  | .e5m2 => 2

/-- The bias (R38). -/
def fmtBias : Fmt → Nat
  | .f32 => 127
  | .f16 => 15
  | .bf16 => 127
  | .e4m3 => 7
  | .e5m2 => 15

/-- The code of the largest finite value (R38). -/
def fmtMax : Fmt → Nat
  | .f32 => 0x7F7FFFFF
  | .f16 => 0x7BFF
  | .bf16 => 0x7F7F
  | .e4m3 => 0x7E
  | .e5m2 => 0x7B

/-- The canonical NaN (R38). -/
def canon : Fmt → Nat
  | .f32 => 0x7FC00000
  | .f16 => 0x7E00
  | .bf16 => 0x7FC0
  | .e4m3 => 0x7F
  | .e5m2 => 0x7E

/-- The sign bit of a format. -/
def fmtSign (f : Fmt) : Nat :=
  2 ^ (fmtExp f + fmtFrac f)

/-- A real value with a signed zero, an infinity, or a NaN. fin stands for (-1)^neg × m × 2^e. -/
inductive FVal where
  | nan
  | inf (neg : Bool)
  | fin (neg : Bool) (m : Nat) (e : Int)
  deriving DecidableEq, Repr

/-- +0. -/
def fzero : FVal := .fin false 0 0

/-- The three formats to which the flush switches apply (R53). -/
def fmtFlushes : Fmt → Bool
  | .f32 => true
  | .f16 => true
  | .bf16 => true
  | .e4m3 => false
  | .e5m2 => false

/-- decode(x, fmt) of R62 under R39, with FIZ of R53. -/
def fdecode (fiz : Bool) (f : Fmt) (x : Nat) : FVal :=
  let fw := fmtFrac f
  let neg := decide (x / fmtSign f % 2 = 1)
  let ex := x / 2 ^ fw % 2 ^ fmtExp f
  let fr := x % 2 ^ fw
  let ones := decide (ex = 2 ^ fmtExp f - 1)
  if f = .e4m3 ∧ ones = true ∧ fr = 7 then .nan
  else if f ≠ .e4m3 ∧ ones = true then (if fr = 0 then .inf neg else .nan)
  else if ex = 0 then
    (if fiz && fmtFlushes f then .fin neg 0 0 else .fin neg fr (1 - (fmtBias f : Int) - fw))
  else .fin neg (fr + 2 ^ fw) ((ex : Int) - fmtBias f - fw)

/-- The number of bits of x: 0 for 0. -/
def bitLen (x : Nat) : Nat :=
  if x = 0 then 0 else Nat.log2 x + 1

/-- Whether a magnitude with low part rem of 2^k, and something smaller beyond it when sticky, is rounded up in mode rm
(R49); odd says that the kept part is odd. -/
def roundsUp (rm : Nat) (neg odd : Bool) (rem k : Nat) (sticky : Bool) : Bool :=
  let inexact := sticky || rem != 0
  if rm = 1 then false
  else if rm = 2 then inexact && !neg
  else if rm = 3 then inexact && neg
  else if k = 0 then false
  else
    let half := 2 ^ (k - 1)
    if rem > half then true
    else if rem < half then false
    else if sticky then true
    else (if rm = 4 then true else odd)

/-- m × 2^e as a multiple of 2^q, rounded; the second part says that the result differs. -/
def roundAt (rm : Nat) (neg : Bool) (m : Nat) (e q : Int) (sticky : Bool) : Nat × Bool :=
  if q ≤ e then (m * 2 ^ (e - q).toNat, sticky)
  else
    let k := (q - e).toNat
    let hi := m / 2 ^ k
    let rem := m % 2 ^ k
    (hi + b2n (roundsUp rm neg (hi % 2 = 1) rem k sticky), sticky || rem != 0)

/-- The overflow result of R52, or of R51 for the 8-bit formats. -/
def overflowCode (rm : Nat) (f : Fmt) (neg : Bool) : Nat :=
  let toMax := match f with
    | .e4m3 => true
    | .e5m2 => true
    | _ => rm = 1 || (rm = 2 && neg) || (rm = 3 && !neg)
  (if toMax then fmtMax f else fmtMax f + 1) + b2n neg * fmtSign f

/-- Rounds a non-zero magnitude (m + δ) × 2^e, 0 < δ < 1 exactly when sticky, once to a format (R49, R51, R52, R53,
R55). -/
def roundMag (env : FpEnv) (f : Fmt) (neg : Bool) (m : Nat) (e : Int) (sticky : Bool) : Nat × Flags :=
  let rm := if fmtFlushes f then env.rm else 0
  let fw : Int := fmtFrac f
  let emin : Int := 1 - (fmtBias f : Int)
  let top : Int := (bitLen m : Int) - 1 + e
  let q := max (top - fw) (emin - fw)
  let (r, inexact) := roundAt rm neg m e q sticky
  let (u, _) := roundAt rm neg m e (top - fw) sticky
  let tiny := decide (top < emin) && !(decide (top + 1 = emin) && decide (u = 2 ^ (fmtFrac f + 1)))
  let code := (q - (emin - fw)).toNat * 2 ^ fmtFrac f + r
  let sgn := b2n neg * fmtSign f
  if code > fmtMax f then (overflowCode rm f neg, flOF ||| flNX)
  else if env.frz && fmtFlushes f && decide (code < 2 ^ fmtFrac f) && code != 0 then (sgn, flUF ||| flNX)
  else (code + sgn, (if inexact then flNX else 0) ||| (if inexact && tiny then flUF else 0))

/-- rnd(v, fmt, rm) of R62 for the float formats; an infinity to E4M3 saturates under R51. -/
def rndTo (env : FpEnv) (f : Fmt) : FVal → Nat × Flags
  | .nan => (canon f, 0)
  | .inf neg =>
    if f = .e4m3 then (fmtMax f + b2n neg * fmtSign f, flFMT)
    else ((2 ^ fmtExp f - 1) * 2 ^ fmtFrac f + b2n neg * fmtSign f, 0)
  | .fin neg m e => if m = 0 then (b2n neg * fmtSign f, 0) else roundMag env f neg m e false

/-- The value of a code of a format, with no flush. -/
def codeVal (f : Fmt) (x : Nat) : FVal :=
  fdecode false f x

/-- A signed integer as a value. -/
def ofInt (i : Int) : FVal :=
  .fin (decide (i < 0)) i.natAbs 0

/-- m × 2^e as a signed multiple of 2^q, for q not above e. -/
def finScaled (neg : Bool) (m : Nat) (e q : Int) : Int :=
  let x : Int := (m * 2 ^ (e - q).toNat : Nat)
  if neg then -x else x

/-- The sign of an exact zero sum of operands with these signs (R108, R59). -/
def zeroSumNeg (rm : Nat) (a b : Bool) : Bool :=
  if a = b then a else rm = 3

/-- Exact addition; a sum of opposite infinities is invalid (R55, R108). -/
def fadd (rm : Nat) : FVal → FVal → FVal × Flags
  | .nan, _ => (.nan, 0)
  | _, .nan => (.nan, 0)
  | .inf a, .inf b => if a = b then (.inf a, 0) else (.nan, flNV)
  | .inf a, .fin _ _ _ => (.inf a, 0)
  | .fin _ _ _, .inf b => (.inf b, 0)
  | .fin a m e, .fin b k d =>
    let q := min e d
    let x := finScaled a m e q + finScaled b k d q
    if x = 0 then (.fin (zeroSumNeg rm a b) 0 0, 0) else (.fin (decide (x < 0)) x.natAbs q, 0)

/-- The value with its sign inverted. -/
def fneg : FVal → FVal
  | .nan => .nan
  | .inf a => .inf (!a)
  | .fin a m e => .fin (!a) m e

/-- Exact multiplication; 0 × ∞ is invalid. -/
def fmul : FVal → FVal → FVal × Flags
  | .nan, _ => (.nan, 0)
  | _, .nan => (.nan, 0)
  | .inf a, .inf b => (.inf (a != b), 0)
  | .inf a, .fin b m _ => if m = 0 then (.nan, flNV) else (.inf (a != b), 0)
  | .fin a m _, .inf b => if m = 0 then (.nan, flNV) else (.inf (a != b), 0)
  | .fin a m e, .fin b k d => (.fin (a != b) (m * k) (e + d), 0)

/-- A value times 2^k. -/
def fscale (k : Int) : FVal → FVal
  | .nan => .nan
  | .inf a => .inf a
  | .fin a m e => .fin a m (e + k)

/-- a < b for values neither of which is a NaN, with -0 equal to +0. -/
def flt : FVal → FVal → Bool
  | .nan, _ => false
  | _, .nan => false
  | .inf a, .inf b => a && !b
  | .inf a, .fin _ _ _ => a
  | .fin _ _ _, .inf b => !b
  | .fin a m e, .fin b k d =>
    let q := min e d
    decide (finScaled a m e q < finScaled b k d q)

/-- a = b for values neither of which is a NaN, with -0 equal to +0. -/
def feq : FVal → FVal → Bool
  | .nan, _ => false
  | _, .nan => false
  | .inf a, .inf b => a = b
  | .inf _, .fin _ _ _ => false
  | .fin _ _ _, .inf _ => false
  | .fin a m e, .fin b k d =>
    let q := min e d
    decide (finScaled a m e q = finScaled b k d q)

/-- The value is negative, or -0. -/
def fisNeg : FVal → Bool
  | .nan => false
  | .inf a => a
  | .fin a _ _ => a

/-- The value is a NaN. -/
def fisNan : FVal → Bool
  | .nan => true
  | .inf _ => false
  | .fin _ _ _ => false

/-- a comes before b, with -0 less than +0 (R109). -/
def fbelow (a b : FVal) : Bool :=
  flt a b || (feq a b && fisNeg a && !fisNeg b)

/-- Float minimum and maximum on decoded values (R109). -/
def fminmax (wantMax : Bool) (a b : FVal) : FVal :=
  if fisNan a || fisNan b then .nan
  else if fbelow a b then (if wantMax then b else a) else (if wantMax then a else b)

/-- rnd(v, integer format of w bits, rm) of R47: the low w bits of the result, and the flags. -/
def rndInt (rm w : Nat) : FVal → Nat × Flags
  | .nan => (0, flNV)
  | .inf neg => (if neg then 2 ^ (w - 1) else 2 ^ (w - 1) - 1, flNV)
  | .fin neg m e =>
    let (r, inexact) := roundAt rm neg m e 0 false
    let x : Int := if neg then -(r : Int) else r
    let lo : Int := -(2 ^ (w - 1) : Nat)
    let hi : Int := (2 ^ (w - 1) : Nat) - 1
    if x < lo then (2 ^ (w - 1), flNV)
    else if x > hi then (2 ^ (w - 1) - 1, flNV)
    else ((BitVec.ofInt w x).toNat, if inexact then flNX else 0)

/-- One Newton step list for the integer square root, from an upper bound, by fuel. -/
def isqrtFrom (n : Nat) : Nat → Nat → Nat
  | 0, x => x
  | f + 1, x =>
    let y := (x + n / x) / 2
    if y < x then isqrtFrom n f y else x

/-- The integer square root. -/
def isqrt (n : Nat) : Nat :=
  if n = 0 then 0 else isqrtFrom n (bitLen n + 8) (2 ^ ((bitLen n + 1) / 2))

/-- 1/a for a finite non-zero a, rounded once (R115). -/
def recipFin (env : FpEnv) (f : Fmt) (neg : Bool) (m : Nat) (e : Int) : Nat × Flags :=
  let k := bitLen m + 64
  let q := 2 ^ k / m
  roundMag env f neg q (-(k : Int) - e) (2 ^ k % m != 0)

/-- 1/√a for a finite positive a, rounded once (R115). -/
def rsqrtFin (env : FpEnv) (f : Fmt) (m : Nat) (e : Int) : Nat × Flags :=
  let odd := decide (e % 2 = 1)
  let m' := if odd then 2 * m else m
  let e' := if odd then e - 1 else e
  let k := bitLen m' + 70
  let r := isqrt (2 ^ (2 * k) / m')
  roundMag env f false r (-(k : Int) - e' / 2) (r * r * m' != 2 ^ (2 * k))

/-- The fraction bits of the fixed-point enclosures of 2^x. -/
def expPrec : Nat := 256

/-- A lower bound of 2^f for the fraction f given by its bits below the point, the highest first. Root is a lower bound
of 2^(2^-i) for the bit in turn. The bound falls short by less than 2^-200 (log 9). DEDUCED. -/
def exp2Frac (root : Nat) : List Bool → Nat → Nat
  | [], acc => acc
  | b :: bs, acc =>
    let r := isqrt (root * 2 ^ expPrec)
    exp2Frac r bs (if b then acc * r / 2 ^ expPrec else acc)

/-- The n bits below the point of x / 2^n, the highest first. -/
def fracBits (x n : Nat) : List Bool :=
  ((List.range n).map fun i => x.testBit (n - 1 - i))

/-- 2^x of a finite x: mantissa, exponent, and whether something smaller lies beyond (R115). -/
def exp2Val (neg : Bool) (m : Nat) (e : Int) : Nat × Int × Bool :=
  if m = 0 then (1, 0, false)
  else if (bitLen m : Int) + e > 14 then (1, if neg then -4096 else 4096, true)
  else
    let x : Int := if neg then -(m : Int) else m
    if e ≥ 0 then (1, x * (2 ^ e.toNat : Nat), false)
    else
      let n := (-e).toNat
      let fl : Int := x / (2 ^ n : Nat)
      let fr := (x - fl * (2 ^ n : Nat)).toNat
      if fr = 0 then (1, fl, false)
      else (exp2Frac (2 ^ (expPrec + 1)) (fracBits fr n) (2 ^ expPrec), fl - expPrec, true)

/-- The bits of log2 of y / 2^p, for 1 ≤ y / 2^p < 2, as a number of n fraction bits, from below. DEDUCED, log 9. -/
def log2Frac (p : Nat) : Nat → Nat → Nat → Nat
  | 0, _, acc => acc
  | n + 1, y, acc =>
    let z := y * y / 2 ^ p
    if z ≥ 2 ^ (p + 1) then log2Frac p n (z / 2) (2 * acc + 1) else log2Frac p n z (2 * acc)

/-- log2 of a finite positive m × 2^e, rounded once (R115). The zero that 1.0 gives is +0 in every mode: DESIGN CHOICE, log 63. -/
def log2Fin (env : FpEnv) (f : Fmt) (m : Nat) (e : Int) : Nat × Flags :=
  let k := bitLen m - 1
  let top : Int := (k : Int) + e
  if m = 2 ^ k then rndTo env f (ofInt top)
  else
    let p := 384
    let fr := log2Frac p 144 (m * 2 ^ (p - k)) 0
    let v : Int := top * (2 ^ 144 : Nat) + fr
    if v ≥ 0 then roundMag env f false v.toNat (-144) true
    else roundMag env f true (v.natAbs - 1) (-144) true

/-- The special functions of R115 by fn7: 0 VRCP, 1 VRSQ, 2 VEXP2, 3 VLOG2. -/
def special (fn : Nat) (env : FpEnv) (f : Fmt) : FVal → Nat × Flags
  | .nan => (canon f, 0)
  | .inf neg =>
    if fn = 0 then rndTo env f (.fin neg 0 0)
    else if fn = 2 then rndTo env f (if neg then fzero else .inf false)
    else if neg then (canon f, flNV)
    else if fn = 1 then rndTo env f fzero
    else rndTo env f (.inf false)
  | .fin neg m e =>
    if fn = 2 then
      let (r, d, st) := exp2Val neg m e
      roundMag env f false r d st
    else if m = 0 then
      rndTo env f (if fn = 3 then .inf true else .inf neg) |>.map id (· ||| flDZ)
    else if fn = 0 then recipFin env f neg m e
    else if neg then (canon f, flNV)
    else if fn = 1 then rsqrtFin env f m e
    else log2Fin env f m e

/-- BF16_RNE(v) and F32_RNE(v) of R62, with the flags of the rounding. -/
def rneTo (f : Fmt) (v : FVal) : Nat × Flags :=
  rndTo rneEnv f v

/-- Twice the magnitudes of the E2M1 codes 0 to 7 (R40). -/
def e2m1Twice : List Nat := [0, 1, 2, 3, 4, 6, 8, 12]

/-- The value of an E2M1 code other than the escape (R40). -/
def e2m1Val (c : Nat) : FVal :=
  .fin (decide (c / 8 % 2 = 1)) (e2m1Twice.getD (c % 8) 0) (-1)

/-- The E2M1 magnitude code nearest to m × 2^e, ties to the code with bit 0 clear (R42). -/
def e2m1Nearest (m : Nat) (e : Int) : Nat :=
  let le4 (x : Nat) : Bool := flt (.fin false m e) (.fin false x (-2))
  let eq4 (x : Nat) : Bool := feq (.fin false m e) (.fin false x (-2))
  if le4 1 || eq4 1 then 0
  else if le4 3 then 1
  else if le4 5 || eq4 5 then 2
  else if le4 7 then 3
  else if le4 10 || eq4 10 then 4
  else if le4 14 then 5
  else if le4 20 || eq4 20 then 6
  else 7

/-- The conversion of a value to E2M1 with a side list that holds n entries, or with none (R42): the code, the entry
appended, and the flags. A value that rounds to 0 sets NX and not UF: E2M1 has no smallest normal (R55). DESIGN CHOICE,
log 58. -/
def toE2m1 (side : Option Nat) (v : FVal) : Nat × Option Nat × Flags :=
  let outlier := match v with
    | .fin _ m e => !flt (.fin false m e) (.fin false 7 0)
    | _ => true
  if outlier then
    let room := match side with
      | some n => decide (n < 64)
      | none => false
    if room then
      match v with
      | .nan => (8, some 0x7FC0, 0)
      | .inf neg => (8, some (0x7F80 + b2n neg * 0x8000), 0)
      | .fin _ _ _ =>
        let (c, fl) := rneTo .bf16 v
        (8, some c, fl &&& (flOF ||| flNX))
    else
      match v with
      | .fin neg _ _ => (7 + b2n neg * 8, none, flFMT ||| flNX)
      | .inf neg => (7 + b2n neg * 8, none, flFMT)
      | .nan => (7, none, flFMT)
  else
    match v with
    | .fin neg m e =>
      let c := e2m1Nearest m e
      let code := if c = 0 then 0 else c + b2n neg * 8
      (code, none, if feq v (e2m1Val code) then 0 else flNX)
    | _ => (0, none, 0)

/-- The F32 code of θ_j of R45. DEDUCED, log 9. -/
def theta (j : Nat) : FVal :=
  let x : Int := 2 * (j : Int) - 31
  let (r, d, st) := exp2Val (decide (x < 0)) x.natAbs (-3)
  codeVal .f32 (roundMag rneEnv .f32 false r d st).1

/-- A quarter power of two is exact only at whole powers: the value of an L6 code with m divisible by 4 (R43). -/
def l6Exact (m : Nat) : Option FVal :=
  if m % 4 = 0 then some (.fin false 1 ((m : Int) / 4 - 4)) else none

/-- The conversion of an F32 value to L6 (R45). -/
def toL6 (v : FVal) : Nat × Flags :=
  match v with
  | .nan => (0, flFMT ||| flNV)
  | .inf neg => (31 + b2n neg * 32, flFMT)
  | .fin neg m e =>
    let x : FVal := .fin false m e
    let above := ((List.range 31).filter fun j => flt (theta j) x).length
    let tie := (List.range 31).find? fun j => feq x (theta j)
    let k := match tie with
      | some j => if j % 2 = 0 then j else j + 1
      | none => above
    let exact := if k = 0 then decide (m = 0) else
      match l6Exact k with
      | some y => feq x y
      | none => false
    (k + b2n neg * 32,
      (if exact then 0 else flNX) ||| (if m != 0 && k == 0 then flUF else 0)
        ||| (if flt (theta 31) x then flOF else 0))

/-- T[f] × 2^14 of R44. -/
def l6Table : List Nat := [16384, 19484, 23170, 27554]

/-- The L6 magnitude index of a code; a code with bits [7:6] set reads as zero (R43). -/
def l6Index (c : Nat) : Nat :=
  if c / 64 % 4 = 0 then c % 32 else 0

/-- l6_term(a, b) of R62: the product of two L6 codes as a multiple of 2^-22. -/
def l6Term (a b : Nat) : Int :=
  let ma := l6Index a
  let mb := l6Index b
  if ma = 0 || mb = 0 then 0
  else
    let n : Int := (ma : Int) + mb - 32
    let q := n / 4
    let f := (n - 4 * q).toNat
    let t : Int := (l6Table.getD f 0 * 2 ^ (q + 8).toNat : Nat)
    if (a / 32 % 2) != (b / 32 % 2) then -t else t

/-- The flag of an L6 code that bits [7:6] make malformed (R43). -/
def l6Flag (c : Nat) : Flags :=
  if c / 64 % 4 = 0 then 0 else flFMT

/-- Whether a list of products holds an infinity of a sign. -/
def hasInf (neg : Bool) (ps : List FVal) : Bool :=
  ps.any fun p => decide (p = .inf neg)

/-- The largest floor(log2 |p|) of the non-zero products (R58 step 2). -/
def windowTop : List FVal → Option Int
  | [] => none
  | .fin _ m e :: ps =>
    if m = 0 then windowTop ps
    else
      let x : Int := (bitLen m : Int) - 1 + e
      match windowTop ps with
      | none => some x
      | some y => some (max x y)
  | _ :: ps => windowTop ps

/-- The products of a group truncated toward zero to multiples of 2^q and summed (R58 steps 3 and 4). -/
def windowTerms (q : Int) : List FVal → Int
  | [] => 0
  | .fin neg m e :: ps =>
    let t : Int := (if q ≤ e then m * 2 ^ (e - q).toNat else m / 2 ^ (q - e).toNat : Nat)
    (if neg then -t else t) + windowTerms q ps
  | _ :: ps => windowTerms q ps

/-- The exact sum S of a group of finite products, with its zero sign (R58, R59). -/
def windowSum (rm : Nat) (ps : List FVal) : FVal :=
  match windowTop ps with
  | none => .fin (ps.all fisNeg && !ps.isEmpty) 0 0
  | some top =>
    let q := top - 55
    let x := windowTerms q ps
    if x = 0 then .fin (rm = 3) 0 0 else .fin (decide (x < 0)) x.natAbs q

/-- One element of a float group: products of the pairs, scaled by 2^sc, added to c and rounded once to F32
(R58, R59). -/
def dotGroup (env : FpEnv) (pairs : List (FVal × FVal)) (sc : Int) (c : FVal) : Nat × Flags :=
  let ps := pairs.map fun (a, b) => fmul a b
  let inv := ps.any fun (_, fl) => decide (fl ≠ 0)
  let anyNan := fisNan c || pairs.any fun (a, b) => fisNan a || fisNan b
  let vs := ps.map Prod.fst
  let pInf := hasInf false (c :: vs)
  let nInf := hasInf true (c :: vs)
  let clash := pInf && nInf
  if anyNan || inv || clash then (canon .f32, if inv || clash then flNV else 0)
  else if pInf then rndTo env .f32 (.inf false)
  else if nInf then rndTo env .f32 (.inf true)
  else rndTo env .f32 (fadd env.rm (fscale sc (windowSum env.rm vs)) c).1

/-- The exceptions that trap under the captured enables, in the order of R57: 0 NV, 1 DZ, 2 OF. -/
def enabledTrap (env : FpEnv) (fl : Flags) : Option Nat :=
  if fl &&& flNV != 0 && env.nve then some 0
  else if fl &&& flDZ != 0 && env.dze then some 1
  else if fl &&& flOF != 0 && env.ofe then some 2
  else none

/-- A deposit of an F32 value into an averaging word of scale σ (R48). -/
def deposit (sigma : Nat) (v : FVal) : Int × Flags :=
  let hi : Int := (2 ^ 63 : Nat) - 1
  let lo : Int := -(2 ^ 63 : Nat)
  match v with
  | .nan => (0, flNV)
  | .inf neg => (if neg then lo else hi, flOF ||| flNX)
  | .fin neg m e =>
    let (r, inexact) := roundAt 0 neg m (e + sigma) 0 false
    let x : Int := if neg then -(r : Int) else r
    if x > hi then (hi, flOF ||| flNX)
    else if x < lo then (lo, flOF ||| flNX)
    else (x, if inexact then flNX else 0)

/-- The estimate F32_RNE((s × 2^32) / (w × 2^σ)) of R48; w = 0 gives the canonical NaN and NV. -/
def estimate (s : Int) (w sigma : Nat) : Nat × Flags :=
  if w = 0 then (canon .f32, flNV)
  else if s = 0 then (0, 0)
  else
    let k := bitLen w + 80
    let n := s.natAbs * 2 ^ k
    roundMag rneEnv .f32 (decide (s < 0)) (n / w) (32 - (sigma : Int) - k) (n % w != 0)

end Sys2Proof.Machine
end

