-- ==== Sys2Proof/Machine/Memory.lean ====
section
/-! DEFINITION. Memory as (address, byte) pairs in one canonical form, and its byte and word accesses (R153). -/

namespace Sys2Proof.Machine

/-- The bytes of one module, keyed by module-local physical address, rising, none equal to what an unlisted
address reads as. -/
abbrev Memory := List Host.Cell

/-- What a byte of memory that nothing has written reads as. DESIGN CHOICE (log 1): the spec gives no contents. -/
def unlistedByte : Byte := 0

/-- The byte at an address. -/
def memByte : Memory → Nat → Byte
  | [], _ => unlistedByte
  | (k, b) :: m, a => if a = k then b else if a < k then unlistedByte else memByte m a

/-- Writes one byte and keeps the canonical form. -/
def memPut : Memory → Nat → Byte → Memory
  | [], a, v => if v = unlistedByte then [] else [(a, v)]
  | (k, b) :: m, a, v =>
    if a < k then (if v = unlistedByte then (k, b) :: m else (a, v) :: (k, b) :: m)
    else if a = k then (if v = unlistedByte then m else (a, v) :: m)
    else (k, b) :: memPut m a v

/-- The canonical form: addresses above lo rise strictly and no entry holds the unlisted byte. -/
def memWfFrom : Nat → Memory → Bool
  | _, [] => true
  | lo, (k, b) :: m => decide (lo ≤ k) && decide (b ≠ unlistedByte) && memWfFrom (k + 1) m

/-- The canonical form of memory. -/
def Memory.wf (m : Memory) : Bool :=
  memWfFrom 0 m

/-- The n bytes at an address as a little-endian number. -/
def memRead (m : Memory) (a : Nat) : Nat → Nat
  | 0 => 0
  | n + 1 => (memByte m a).toNat + 256 * memRead m (a + 1) n

/-- Writes n bytes of x, little-endian, at an address. -/
def memWrite (m : Memory) (a : Nat) : Nat → Nat → Memory
  | 0, _ => m
  | n + 1, x => memWrite (memPut m a (BitVec.ofNat 8 x)) (a + 1) n (x / 256)

/-- The n bytes at an address, lowest first. -/
def memBytes (m : Memory) (a : Nat) : Nat → List Byte
  | 0 => []
  | n + 1 => memByte m a :: memBytes m (a + 1) n

/-- Writes a list of bytes, lowest first. -/
def memPutAll (m : Memory) (a : Nat) : List Byte → Memory
  | [] => m
  | b :: bs => memPutAll (memPut m a b) (a + 1) bs

/-- Bytes, lowest first, as a little-endian number. -/
def leNat : List Byte → Nat
  | [] => 0
  | b :: bs => b.toNat + 256 * leNat bs

/-- The n low bytes of a number, lowest first. -/
def leBytes : Nat → Nat → List Byte
  | 0, _ => []
  | n + 1, x => BitVec.ofNat 8 x :: leBytes n (x / 256)

end Sys2Proof.Machine
end

