-- ==== Sys2Proof/Machine/Tables.lean ====
section
/-! DEFINITION. Sparse tables held as lists of (key, value) pairs with strictly rising keys. -/

namespace Sys2Proof.Machine

/-- A sparse table. -/
abbrev Tab (α : Type) := List (Nat × α)

/-- The value at a key, when the table lists it. -/
def tabFind {α : Type} : Tab α → Nat → Option α
  | [], _ => none
  | (k, v) :: t, x => if x = k then some v else tabFind t x

/-- The value at a key, or d. -/
def tabGet {α : Type} (d : α) (t : Tab α) (x : Nat) : α :=
  (tabFind t x).getD d

/-- The table with the value v at key x; keys stay rising. -/
def tabSet {α : Type} : Tab α → Nat → α → Tab α
  | [], x, v => [(x, v)]
  | (k, u) :: t, x, v =>
    if x < k then (x, v) :: (k, u) :: t
    else if x = k then (x, v) :: t
    else (k, u) :: tabSet t x v

/-- The table without the key x. -/
def tabDel {α : Type} : Tab α → Nat → Tab α
  | [], _ => []
  | (k, u) :: t, x => if x = k then t else (k, u) :: tabDel t x

/-- The keys strictly rise. -/
def tabRising {α : Type} : Tab α → Bool
  | [] => true
  | [_] => true
  | (a, _) :: (b, v) :: t => decide (a < b) && tabRising ((b, v) :: t)

end Sys2Proof.Machine
end

