-- ==== Sys2Proof/Machine/State.lean ====
section
/-! DEFINITION. The state of one Geltil 9 module as plain data, and the state right after reset (R17, R139, R152, R213,
R233). Times are cycle numbers. -/

namespace Sys2Proof.Machine

/-- Why the machine stops. -/
inductive Fault where
  /-- Raised by step alone, when a fatal error holds the module until reset (R363) and nothing is left on the agenda.
  Safe: nothing follows. -/
  | moduleHeld
  deriving DecidableEq, Repr

/-- Why the machine has no meaning for an instruction. -/
inductive Refusal where
  /-- An arm of exec that has no meaning yet. Safe. -/
  | notModelled (mnemonic : String)
  deriving DecidableEq, Repr

/-- The ordering kinds of R155. -/
inductive OrderKind where
  | plain | acquire | release | sc
  deriving DecidableEq, Repr

/-- Where an access goes: a physical byte of this module, or a local address of another module (R153). -/
inductive Loc where
  | here (pa : Nat)
  | there (module la : Nat)
  deriving DecidableEq, Repr

/-- The address rights of an accessor under step 4 of R154: its mode and the core set of its launch. -/
structure Rights where
  sup : Bool
  set : Option (Nat × Nat)
  deriving DecidableEq, Repr

/-- One axis descriptor Dj of the quantising store (R173). -/
structure Axis where
  kind : Nat
  onEnd : Nat
  load : Bool
  lenm1 : Nat
  slot : Word
  pos : Nat
  elem : Nat
  deriving DecidableEq, Repr

/-- The descriptor at placement (R173). -/
def Axis.reset : Axis := ⟨0, 0, false, 0, 0, 0, 0⟩

/-- A store buffer entry (R162). -/
structure SbEntry where
  uid : Nat
  kind : OrderKind
  va : Word
  loc : Loc
  size : Nat
  data : Nat
  /-- The cycle of its entry, and the one in which its address was translated (R163, R317). -/
  since : Nat
  walked : Nat
  /-- The address of the store, for a fault that its target answers (R161). -/
  pc : Word
  /-- The module and tag to acknowledge and the strand of that module, when the service slot stores it for another module
  (R161, R168). -/
  ack : Option (Nat × Nat × Nat)
  /-- The other strands that have seen it: those whose loads have forwarded it (R166), 0 for every strand of its core (R394),
  and the numbers of answers that have forwarded it to another module. -/
  readers : List Nat
  deriving DecidableEq, Repr

/-- One element of a load: its place, and its value once it is read (R155, R157, R158). -/
structure Elem where
  idx : Nat
  va : Word
  loc : Loc
  size : Nat
  /-- The page is an ORD page (R214). -/
  ord : Bool
  val : Option Nat
  /-- The transaction tag of a remote element once its request is sent; 0 before (R370), and its place in the answer,
  when lanes of one line share a request (R158, R211). -/
  tag : Nat
  part : Nat
  deriving DecidableEq, Repr

/-- A QST or QSTA with its operands captured: the element codes, the destination, the side list and FPC (R179). -/
structure QOp where
  j : BitVec 2
  qt : BitVec 3
  src : List Nat
  va : Word
  side : Option Word
  env : FpEnv
  deriving DecidableEq, Repr

/-- The elements of a QST or QSTA whose destination bytes form one store (R183), with the stores that follow them: the
element after them, and the residue, position and flags that they leave. -/
structure QGroup where
  entries : List SbEntry
  next : Nat
  ej : VReg
  pos : Nat
  flags : Flags
  deriving DecidableEq, Repr

/-- What a load writes (R155, R157, R158, R138). -/
inductive LoadDst where
  /-- A scalar load, with whether it is plain (R160). -/
  | scalar (d : BitVec 4) (signed plain : Bool)
  /-- LDM, with the register at which it stops, and the home core for which it departs there (R157, R160). -/
  | regs (stopAt : Nat) (home : Option Nat)
  | vec (v : BitVec 3) (t : BitVec 3)
  | tile (c : BitVec 2)
  /-- The descriptor of BDEF, or with link of BNBR, and the operand values of ga and gb (R286, R288). -/
  | desc (link : Bool) (d : BitVec 4) (a b : Word)
  /-- The side-list count, and the byte at an odd start element, of a QST or QSTA (R176, R178). -/
  | quant (op : QOp)
  /-- The inline record of a TEND, with its frame (R238). -/
  | record (f : Option (Word × Loc))
  deriving DecidableEq, Repr

/-- An AMO on its way (R217). -/
structure AmoOp where
  op : BitVec 3
  size : Nat
  sc : Bool
  d : BitVec 4
  va : Word
  loc : Loc
  b : Word
  cmp : Word
  deriving DecidableEq, Repr

/-- Where an ordered atomic's entry is (R220, R221, R222). -/
inductive OrdPhase where
  | draining
  | travelling
  | held
  | nacked
  | backOff (at_ : Nat)
  | applied (old : Word)
  | refused (why : Stop)
  deriving DecidableEq, Repr

/-- An ordered atomic in WAIT: operation 0 ADD, 1 FADD, 2 SWAP (R220). -/
structure OrdOp where
  op : Nat
  d : BitVec 4
  va : Word
  cell : Nat
  key : Nat
  v : Word
  nacks : Nat
  arrival : Nat
  phase : OrdPhase
  deriving DecidableEq, Repr

/-- A message held by its sender (R246). -/
structure SendOp where
  svc : Bool
  dest : Word
  words : Vector Word 4
  handler : Word
  reply : BitVec 4
  token : Word
  rights : Option (Nat × Nat)
  sup : Bool
  q : Nat
  held : Option Nat
  deriving DecidableEq, Repr

/-- What a store that waits for buffer room does once its last entry is in. -/
inductive StoreFin where
  | plain
  /-- STM, with the register at which its trap stops it, or one past its last. -/
  | stm (stopAt : Nat)
  /-- MSAVE, with its stores, whose items are folded when it completes (R338). -/
  | msave (es : List SbEntry)
  | sc (window : Nat)
  /-- BFRONT, with its register, the count of images, and their address (R311). -/
  | front (d : BitVec 4) (count : Nat) (base : Word)
  /-- The inline record of a SPAWN, with the child's address (R237). -/
  | spawn (target : Word)
  deriving DecidableEq, Repr

/-- An entry of a core's averaging queue: GSEED with its weight, or GADD with its mask (R200). -/
structure AvgEntry where
  uid : Nat
  slot : Nat
  seed : Bool
  line : Nat
  va : Word
  d : Vector Int 7
  mask : Nat
  weight : Word
  /-- The cycle in which its address was translated (R317). -/
  walked : Nat
  deriving DecidableEq, Repr

/-- A copy engine or Peony command's place for its completion: the strand's serial number and register (R262). -/
structure FillTo where
  uid : Nat
  r : BitVec 4
  deriving DecidableEq, Repr

/-- A face push: the entry and edge slot, the reader's block and slot, and the levels and DONE flag to notify (R302). -/
structure FacePush where
  entry : Nat
  edge : Nat
  nid : Nat
  peer : Nat
  l : Nat
  lp : Nat
  done : Bool
  /-- Which definition of the entry the push belongs to (R292), and its domain (R306). -/
  defn : Nat
  dom : Nat
  deriving DecidableEq, Repr

/-- A copy command: CPY, CPYR, an RPUSH fill, or a face push (R263, R269, R302). -/
structure Command where
  cid : Nat
  core : Nat
  /-- The serial number of the issuing strand; 0 for a face push. -/
  uid : Nat
  /-- The active queue slot of the issuer's launch; of a face push, of its commit's. -/
  q : Option Nat
  rights : Rights
  fill : Option FillTo
  /-- Physical address of the sync word (R264). -/
  sync : Option Nat
  dst : Word
  src : Word
  len : Nat
  /-- Offset of the next byte (R263). -/
  off : Nat
  started : Bool
  /-- The cycle since which it waits for its next chunk (R370, R406). -/
  since : Nat
  /-- The bytes of its next chunk are written, and wait to be performed before they are counted (R260, R264, R317). -/
  moved : Bool
  /-- A fault: cause, offset, and whether the destination faulted (R265). -/
  status : Option (Cause × Nat × Bool)
  /-- The ring and slot that an RPUSH fills (R269). -/
  ring : Option (Nat × Nat)
  face : Option FacePush
  deriving DecidableEq, Repr

/-- A transaction tag number of a core: its incarnation, and the cycles of its last allocations (R370). -/
structure TagRec where
  inc : Nat
  allocs : List Nat
  deriving DecidableEq, Repr

/-- A tag number never allocated. -/
def TagRec.reset : TagRec := ⟨0, []⟩

/-- A Peony chain (R275). -/
structure Chain where
  cid : Nat
  core : Nat
  uid : Nat
  q : Option Nat
  rights : Rights
  fill : Option FillTo
  /-- The next descriptor; none once the chain has ended. -/
  desc : Option Word
  steps : Nat
  started : Bool
  /-- The cycle since which it waits for its next step, or for what a step reads and writes (R370, R406). -/
  since : Nat
  status : Option (Cause × Nat)
  /-- A COLLW waits for it. -/
  wait : Bool
  deriving DecidableEq, Repr

/-- An item of an engine queue: a command, or a join marker with the commands it waits for (R276). -/
inductive QItem where
  | cmd (c : Command)
  | chain (c : Chain)
  | marker (ids : List Nat)
  deriving DecidableEq, Repr

/-- An MMA in WAIT (R129, R130): pair 0 to 7 in the order of R128, captured operands, and the cycle of its start with the
bytes of the two head slots. -/
structure MmaOp where
  pair : Nat
  acc : BitVec 2
  qa : BitVec 3
  qb : BitVec 3
  ctl : BitVec 4
  scale : Word
  env : FpEnv
  issued : Nat
  started : Option Nat
  ta : List Byte
  tb : List Byte
  /-- Condition 4 of R133 has been judged for it, and it is a member of the shared-B group of qb (R132). -/
  judged : Bool
  joined : Bool
  deriving DecidableEq, Repr

/-- An edge slot of a block table entry (R283). -/
structure Edge where
  nid : Nat
  peer : Nat
  rd : Bool
  wr : Bool
  used : Bool
  nv : Bool
  ndone : Bool
  rfree : Bool
  nlogs : Nat
  /-- HSZ of the neighbour, with which a face push finds the parity slot (R302). -/
  nhsz : Nat
  rule : Nat
  nl : Nat
  nlp : Nat
  soff : Nat
  flen : Nat
  dst : Word
  pfc : Nat
  pfa : Word
  deriving DecidableEq, Repr

/-- An edge slot with no link (R286). -/
def Edge.reset : Edge :=
  ⟨0, 0, false, false, false, false, false, false, 0, 0, 0, 0, 0, 0, 0, 0, 0, 0⟩

/-- The operation of a strand in WAIT (R19, R356). -/
inductive WaitOp where
  /-- Loads of every kind, and MLOAD: elements, destination, and the trap that follows the elements read (R157). -/
  | load (els : List Elem) (dst : LoadDst) (stop : Option Stop)
  /-- Stores that wait for buffer room, and whether some entry is in (R162). -/
  | storeRoom (es : List SbEntry) (fin : StoreFin) (stop : Option Stop) (begun : Bool)
  /-- QST and QSTA: the groups left, the fault after them, and the element at which pre-emption stops them (R182). -/
  | qst (j : BitVec 2) (groups : List QGroup) (stop : Option (Nat × Stop)) (cut : Option Nat)
  /-- An SC load, and an SC store whose entry is in the buffer, with the window of their issue (R169). -/
  | scLoad (el : Elem) (d : BitVec 4) (signed : Bool) (window : Nat)
  | scStore (window : Nat)
  /-- R217; queued: its request is at the home; window for .SC. -/
  | amo (op : AmoOp) (queued : Bool) (window : Nat)
  | ord (op : OrdOp)
  | fred (va : Word) (cell : Nat) (x : Nat)
  | mon (va : Word)
  | mwait (d : BitVec 4) (limit : Option Nat) (entered preempted : Bool)
  | fence (scope : Nat) (kind : Nat)
  | mma (op : MmaOp)
  /-- SPAWN or TEND before its frame access, waiting for earlier accesses (R236); the branch of a SPAWN whose request
  to another module is sent. -/
  | spawn (f : Word) (loc : Loc) (target : Word) (inline : Option Bool)
  /-- The frame, the doublewords of the inline record when one is resumed, and whether the request to another module is
  sent. -/
  | tend (f : Option (Word × Loc)) (record : Option (List Elem)) (sent : Bool)
  | idle
  | join (f : Word) (loc : Loc)
  | recv (d : BitVec 4) (n : Nat) (limit : Nat)
  | send (op : SendOp) (d : BitVec 4)
  /-- A departure under R251: home core and module, and whether a place is reserved (R253). -/
  | migrate (core module : Nat) (past : Bool) (asked placed : Bool)
  /-- An engine command that waits for room in its queue (R262): queue 0-3 copy, 4-5 Peony P0-P1. -/
  | engine (queue : Nat) (item : QItem) (d : BitVec 4) (digest : Word × Nat × Word)
  /-- An RPUSH that waits for a slot (R269), with its limit (R271), and the cycle in which it has reached its queue (R259). -/
  | rpush (ring : BitVec 3) (queue : Nat) (src : Word) (d : BitVec 4) (limit : Nat) (word : Word) (reached : Option Nat)
  | qfence (ids : List Nat)
  | collw (cid : Nat) (d : BitVec 4)
  | bnext
  | bcommit
  /-- A BNBR waiting for the other Aster (R288): the tag of its request, entry and edge slot of its own half, and that half, which
  is installed once the other stands; and the entry's definition. -/
  | link (waiter b e : Nat) (half : Edge) (defn : Nat)
  /-- BDEF and BRULE waiting for confirmations of other Asters (R286, R293): the messages still to go, with their modules; the tags
  of those that have gone, with the modules that are to confirm them; the register that takes 0, and the entry that becomes FREE. -/
  | confirm (todo : List (Nat × Msg)) (left : List (Nat × Nat)) (d : Option (BitVec 4)) (free : Option Nat)
  | bfrzD (dom : Nat) (d : BitVec 4)
  /-- A GSEED, GADD or GLD that waits under R200, with the lanes and mask or weight captured, and the flags of the
  deposits (R56). -/
  | gstore (e : AvgEntry) (flags : Flags)
  | gld (line : Nat) (va : Word) (mask : Nat) (v : BitVec 3) (env : FpEnv)
  | gfence
  | synci (va : Word) (pa : Nat) (target : Nat) (b : Word)
  | barv (d : BitVec 4) (index : Nat) (module : Bool)
  | barw (index : Nat) (module : Bool) (gen : Nat) (limit : Option Nat) (des : Word)
  deriving DecidableEq, Repr

/-- The state of an issue slot (R19). A slot in INTERVAL becomes READY at its cycle. -/
inductive SlotState where
  | empty
  | ready
  | interval (at_ : Nat)
  | wait (op : WaitOp)
  /-- PARK on the empty registers of the instruction at the PC (R80). -/
  | park (rs : List (BitVec 4))
  deriving DecidableEq, Repr

/-- The context of a strand (R17). -/
structure Strand where
  /-- The model's own serial number, which addresses fills (log 5). -/
  uid : Nat
  pc : Word
  g : Vector Word 16
  full : BitVec 16
  clip : BitVec 16
  tok : Vector Word 16
  p : BitVec 8
  v : Vector VReg 8
  k : Vector Word 4
  viu : Bool
  e : Vector VReg 4
  axis : Vector Axis 4
  /-- The lease of a half: engine and half (R120). -/
  lease : Option (Nat × Nat)
  dirty : BitVec 4
  /-- The tiles of a strand saved with a lease, kept until it is placed (R126). -/
  tiles : List (Nat × Tile)
  /-- Saved with a lease, which it takes again when it is placed (R126). -/
  relet : Bool
  fpc : BitVec 11
  fps : Flags
  ridx : BitVec 4
  spl : Bool
  mode : Bool
  ctxw : BitVec 5
  stdom : BitVec 2
  icnt : Word
  xpc : Word
  xcause : Word
  xval : Word
  xaux : Word
  mon : List Nat
  latch : Bool
  gmass : Word
  /-- Identity: launch ID, index in the core, active queue slot (R252). -/
  launch : Nat
  idx : Nat
  q : Nat
  /-- The core set that bounds its address rights; none for a handler of no launch (R154, R247). -/
  set : Option (Nat × Nat)
  /-- The block it is bound to, as cluster and entry, and the address of its BNEXT (R280, R297). -/
  bound : Option (Nat × Nat)
  bnext : Word
  /-- Where the strand goes when its operation in WAIT ends, after an abandonment (R307). -/
  redir : Option Word
  /-- The same of a strand in a handler: what XPC takes then (R305, R307). -/
  redirX : Option Word
  /-- Saved idle in TEND (R357). -/
  idle : Bool
  /-- Saved in WAIT under a COLLW on a chain not yet started, with its register (R275). -/
  collw : Option (Nat × BitVec 4)
  /-- The next fetch is the first of a trap handler (R349). -/
  entry : Bool
  /-- The cycle of its last issue, while it is in no slot (R21). -/
  issued : Option Nat
  /-- The traps of earlier stores to other modules, each with that store's address, which the operation in WAIT holds back,
  oldest first (R161, R231; log 15). -/
  fault : List (Word × Stop)
  /-- The module of its launch, when that is another (R33). -/
  home : Option Nat
  /-- The block of another module to which it is bound, as module, cluster and entry (R280). -/
  far : Option (Nat × Nat × Nat)
  deriving DecidableEq, Repr

/-- The context at placement (R17, R30, R139). -/
def Strand.reset : Strand :=
  { uid := 0, pc := 0, g := Vector.replicate 16 0, full := BitVec.ofNat 16 0xFFFF, clip := 0,
    tok := Vector.replicate 16 0, p := 1, v := Vector.replicate 8 0,
    k := ⟨#[BitVec.ofNat 64 0xFFFFFFFFFFFFFFFF, 0, 0, 0], rfl⟩, viu := false, e := Vector.replicate 4 0,
    axis := Vector.replicate 4 Axis.reset, lease := none, dirty := 0, tiles := [], relet := false, fpc := 0, fps := 0, ridx := 0,
    spl := false, mode := false, ctxw := 16, stdom := 1, icnt := 0, xpc := 0, xcause := 0, xval := 0, xaux := 0,
    mon := [], latch := false, gmass := 0, launch := 0, idx := 0, q := 0, set := none, bound := none, bnext := 0,
    redir := none, redirX := none, idle := false, collw := none, entry := false, issued := none, fault := [], home := none,
    far := none }

/-- A slot of a core: queue owner, state, cycle of its last issue, cycle in which it entered WAIT, strand (R19, R27). -/
structure Slot where
  owner : Option Nat
  state : SlotState
  lastIssue : Option Nat
  waitAt : Nat
  /-- The first cycle in which a strand may be placed in it once it is EMPTY (R35). -/
  freeFrom : Nat
  strand : Strand
  deriving DecidableEq, Repr

/-- An EMPTY slot of no queue (R312). -/
def Slot.reset : Slot := ⟨none, .empty, none, 0, 0, Strand.reset⟩

/-- One deque entry: the record, and its steal tag and the cycle of lending while it is LENT (R234, R241). -/
structure DequeEntry where
  task : TaskRec
  lent : Option (Nat × Nat)
  deriving DecidableEq, Repr

/-- The tier in which a strand waits for a slot (R253). -/
inductive Tier where
  | queue | cluster | hbm
  deriving DecidableEq, Repr

/-- A strand in the arrival queue or a spill tier of a core. -/
structure ArrEntry where
  strand : Strand
  tier : Tier
  /-- It comes from a launch or a restore, and not from another core or a YIELD (R22). -/
  launched : Bool
  /-- The context of the cluster's spill area that it fills, in that tier (R253). -/
  place : Nat
  deriving DecidableEq, Repr

/-- A service queue entry (R247): an active message, or a remote access of R161. -/
inductive SvcEntry where
  | message (words : Vector Word 4) (handler token sender : Word) (sup : Bool) (set : Option (Nat × Nat)) (q : Nat)
  | access (from_ : Nat) (tag : Nat) (req : RemoteReq)
  deriving DecidableEq, Repr

/-- An entry of another module that has come to a full queue and is held, by the order in which entries were held: its module, the
number of its request there, the queue, and its core (R246). -/
structure FarHeld where
  order : Nat
  from_ : Nat
  key : Nat
  svc : Bool
  core : Nat
  deriving DecidableEq, Repr

/-- Where the gating of a core stands (R365): in gating, whether the commit point is reached and a wake is latched. -/
inductive Gating where
  | ungated
  | gating (since : Nat) (committed latched : Bool)
  | gated
  | waking (since : Nat)
  deriving DecidableEq, Repr

/-- The state of one core (R233, R162, R24, R338, R365). -/
structure Core where
  slots : Vector Slot 9
  /-- The last issue slot that issued, and the cycle of the core's last issue (R21, R22). -/
  lastSlot : Nat
  /-- A launch or a restore has placed a strand on its eight EMPTY slots since its last issue: slot 7 stands for the last that
  issued (R22). -/
  restarted : Bool
  lastIssue : Option Nat
  /-- Since when the service slot has had an instruction ready, and its last forced issue (R23). -/
  svcSince : Option Nat
  svcForced : Option Nat
  forceNow : Bool
  /-- Deterministic mode, and the cycle in which the turn counter is 0, none while strands are being placed (R24, R25). -/
  det : Bool
  turnZero : Option Nat
  /-- The active queue slots of the deterministic launches that reserve the core; the first holds it (R26). -/
  reserved : List Nat
  tvec : BitVec 62
  splim : BitVec 9
  weights : Vector Byte 32
  sb : List SbEntry
  /-- Stores of the core itself that wait for buffer room: overflow records of the deque (R162, R235). -/
  spill : List SbEntry
  deque : List DequeEntry
  /-- The steal in flight: victim and serial; the last victim that yielded (R240). -/
  steal : Option (Nat × Nat)
  lastVictim : Option Nat
  /-- The last victim tried since then, and the cycle of the last request. -/
  stealCursor : Option Nat
  stealAt : Nat
  /-- The record of the steal in flight, which the thief has been sent (R241). -/
  stolen : Option TaskRec
  recvQ : List (Vector Word 4)
  /-- Entries of other modules for which a place is kept in the receive or the service queue, until their senders confirm
  them (R246). -/
  claims : List Msg
  /-- The indices, modulo 16, of the head of the receive and service queues, for the report of R249. -/
  recvHead : Nat
  svcQ : List SvcEntry
  svcHead : Nat
  arr : List ArrEntry
  /-- Places reserved for strands on their way: uid and tier (R253). -/
  places : List (Nat × Tier)
  digests : Vector Word 9
  gating : Gating
  /-- Since when the core has been eligible for gating in every cycle (R364). -/
  idleSince : Option Nat
  /-- The active queue slots whose pre-emption has reached the core (R36). -/
  preempted : List Nat
  /-- The first cycle in which a strand may be placed on the core (R35). -/
  placeFrom : Nat
  avgQ : List AvgEntry
  /-- Transaction tags by number (R370). -/
  tags : Tab TagRec
  deriving DecidableEq, Repr

/-- A core right after module reset (R139, R312). -/
def Core.reset : Core :=
  { slots := Vector.replicate 9 Slot.reset, lastSlot := 7, restarted := false, lastIssue := none, svcSince := none, svcForced := none,
    forceNow := false, det := false, turnZero := none, reserved := [], tvec := 0, splim := 64,
    weights := Vector.replicate 32 0, sb := [], spill := [], deque := [], steal := none, lastVictim := none,
    stealCursor := none, stealAt := 0, stolen := none, recvQ := [], claims := [], recvHead := 0, svcQ := [], svcHead := 0,
    arr := [], places := [], digests := Vector.replicate 9 0, gating := .ungated, idleSince := some 0, preempted := [],
    placeFrom := 0, avgQ := [], tags := [] }

/-- One TLB entry: the page, its leaf, and the HBM lines of the entries on its walk (R316, R317). -/
structure TlbEntry where
  base : Nat
  level : Nat
  leaf : Word
  lines : List Nat
  deriving DecidableEq, Repr

/-- A reserved slot of a ring: its number, whether it is filled, and the completion that follows its publication (R260). -/
structure RingSlot where
  slot : Nat
  /-- The command that fills it. -/
  cid : Nat
  filled : Bool
  fill : Option (FillTo × Word)
  /-- Reserved before the ring was enabled anew: its tile is discarded as it is published (R268, R269; log 24). -/
  old : Bool
  deriving DecidableEq, Repr

/-- The reserved slots of a ring that are not yet published, oldest first, with whether each is filled, and whether a
clearing of EN is pending (R268, R270). -/
structure RingRt where
  resv : List RingSlot
  disabling : Bool
  /-- The cycle of the last publication with the slots published in it, and that of the last pop with the slots freed in it:
  those may be used from the next cycle on (R270). -/
  pubAt : Nat
  pubs : Nat
  popAt : Nat
  pops : Nat
  /-- The cycle in which the ring was last enabled (R268). -/
  since : Option Nat
  deriving DecidableEq, Repr

def RingRt.reset : RingRt := ⟨[], false, 0, 0, 0, 0, none⟩

/-- The states of R282. -/
inductive BState where
  | free | defined | idle | runnable | running | held | frozen | done
  deriving DecidableEq, Repr

/-- An entry of the block table (R283). -/
structure Block where
  st : BState
  l : Nat
  lp : Nat
  endL : Nat
  logs : Nat
  cur : Bool
  spanf : Bool
  pushf : Bool
  phase : Bool
  dom : Nat
  upc : Word
  ipc : Word
  slot0 : Word
  slot1 : Word
  hb : Word
  ssz : Nat
  hsz : Nat
  edges : Vector Edge 6
  /-- Face pushes of the last commit that still read the state slot (R292). -/
  pushes : Nat
  /-- The model's own number of its definition (R286). -/
  defn : Nat
  /-- The value of g7 at its dispatch (R297, R299). -/
  g7 : Word
  /-- The rights under which the block was defined, for its face pushes. -/
  rights : Rights
  /-- The bytes of the write slot that the update under way has stored: physical addresses and sizes (R305). -/
  wrote : List (Nat × Nat)
  deriving DecidableEq, Repr

/-- A FREE entry (R280). -/
def Block.reset : Block :=
  { st := .free, l := 0, lp := 0, endL := 0, logs := 0, cur := false, spanf := false, pushf := false, phase := false,
    dom := 0, upc := 0, ipc := 0, slot0 := 0, slot1 := 0, hb := 0, ssz := 0, hsz := 0,
    edges := Vector.replicate 6 Edge.reset, pushes := 0, defn := 0, g7 := 0, rights := ⟨false, none⟩, wrote := [] }

/-- A barrier counter (R331). -/
structure Barrier where
  count : Nat
  arrived : Nat
  gen : Nat
  deriving DecidableEq, Repr

def Barrier.reset : Barrier := ⟨0, 0, 0⟩

/-- An engine queue. -/
abbrev EngineQ := List QItem

/-- The state of one cluster (R120, R312, R253). -/
structure Cluster where
  tlb : List TlbEntry
  /-- Tiles by engine × 8 + tile; a tile not listed is all zeros (R120). -/
  tiles : Tab Tile
  /-- The lessee of each half by engine × 2 + half: core and slot (R121). -/
  leases : Tab (Nat × Nat)
  /-- MMAs at each engine in order of arrival: core and slot (R130). -/
  engines : Vector (List (Nat × Nat)) 4
  copyQ : Vector EngineQ 4
  faceQ : EngineQ
  /-- The next place in the copy engine's rotation of eight (R277). -/
  turn : Nat
  rings : Vector RingRt 8
  blocks : Tab Block
  spanMax : Nat
  spanHit : Bool
  fdrain : Nat
  bars : Tab Barrier
  deriving DecidableEq, Repr

/-- A cluster right after module reset. -/
def Cluster.reset : Cluster :=
  { tlb := [], tiles := [], leases := []
    , engines := Vector.replicate 4 [], copyQ := Vector.replicate 4 [], faceQ := [], turn := 0,
    rings := Vector.replicate 8 RingRt.reset, blocks := [], spanMax := 0, spanHit := false, fdrain := 4096, bars := []
    }

/-- What the next step does (log 3). -/
inductive Choice where
  | happen (i : Instr)
  | issue (core : Nat)
  | resume (core slot : Nat)
  | tick
  /-- The host writes bytes of its own memory, which the host window shows (R152). -/
  | hostWrite (pa : Nat) (data : List Byte)
  /-- A unit's ECC corrects a read, which only its counter shows (R361). -/
  | corrected (unit : Nat)
  /-- The host reads a register of BAR0 (R377). -/
  | registerRead (off : Nat)
  /-- Firmware sets the module's ID and domain, and the modules of the domain, from the system's configuration record after
  a module reset (R366). -/
  | configure (modId domain : Nat) (members : List Nat)
  /-- A module elsewhere in the fabric, of a domain, has come up (R374). -/
  | moduleUp (module domain : Nat)
  /-- The link layer of a port sends a frame (R371). -/
  | frameSent (port : Nat)
  /-- A port discards a frame that follows one whose tag has failed, its own tag good or not (R372). -/
  | frameDropped (port : Nat) (tagOk : Bool)
  /-- The retry of a g register's ECC read succeeds (R361). -/
  | registerRetried (core slot : Nat) (syndrome : Word)
  deriving DecidableEq, Repr

/-- The running step of a Peony queue (R272-R274). -/
structure PStep where
  op : Nat
  count : Nat
  pmod : Nat
  pdie : Nat
  buf : Word
  fa : Word
  fb : Word
  sync : Nat
  next : Word
  tag : Nat
  since : Nat
  /-- The model's number of an XADD step, under which its READY and data go to another module (R370, R373). -/
  no : Nat
  /-- The partner's READY has been received, and its data. -/
  ready : Bool
  data : Option (List Nat)
  /-- The values that it sends, and the own operands of its sums, as they stood at its start (R273). -/
  mine : List Nat
  own : List Nat
  /-- Its bytes are written, and wait to be performed before they are counted (R260, R273, R317). -/
  moved : Bool
  deriving DecidableEq, Repr

/-- A Peony engine: two chain queues with their running steps, and messages held until a step starts (R259, R274). -/
structure Die where
  pq : Vector EngineQ 2
  step : Vector (Option PStep) 2
  /-- READY messages: module, die, tag, count. -/
  readies : List (Nat × Nat × Nat × Nat)
  notices : List (Nat × Nat × Nat)
  tlb : List TlbEntry
  deriving DecidableEq, Repr

def Die.reset : Die :=
  ⟨Vector.replicate 2 [], Vector.replicate 2 none, [], [], []⟩

/-- A request of this module to another that awaits its answer (R370). -/
structure Pending where
  tag : Nat
  uid : Nat
  module : Nat
  va : Word
  store : Bool
  sent : Nat
  pc : Word
  /-- The other strands that have seen the store: those whose loads have forwarded it (R166), and 0 for every strand of its
  core (R394). -/
  readers : List Nat
  /-- What was asked, for a copy over another route (R373). -/
  req : RemoteReq
  deriving DecidableEq, Repr

/-- Another request of a strand to another agent that awaits its answer: a send, a reservation, or one of its Aster (R246, R253,
R286, R288, R293, R370): tag, strand, module, cycle, whether the target has told that it has no room yet, and the message. -/
structure Ask where
  tag : Nat
  uid : Nat
  module : Nat
  since : Nat
  noted : Bool
  msg : Msg
  deriving DecidableEq, Repr

/-- A trap-log record (R362): kind 1 HALT, 2 double fault, 3 transient error, 4 lasting error, 5 DIGEST_MISMATCH,
6 discards of a minute, 7 completion store refused, 8 aperture access outside memory, 9 image not run. -/
structure LogRecord where
  kind : Nat
  /-- The CAUSE field, 0 where the record has none (R342). -/
  cause : Nat
  a : Word
  b : Word
  c : Word
  d : Word
  deriving DecidableEq, Repr

/-- A region of the averaging table (R187, R190, R199). -/
structure Region where
  base : Nat
  cfg : Word
  applied : Vector (BitVec 128) 8
  escrow : Vector (BitVec 128) 8
  forfeit : Vector (BitVec 128) 8
  ovf : Bool
  qc : Bool
  /-- Spread metrics by line, F16 codes; a line not listed has none (R197). -/
  metric : Tab Nat
  /-- The counter c of each port's engine (R201), and the cycle of its last exchange. -/
  count : Tab Nat
  last : Tab Nat
  deriving DecidableEq, Repr

/-- One fabric port and its Lupin engine (R201-R205, R371-R373). -/
structure Link where
  up : Bool
  far : Nat
  dom : Nat
  boot : Nat
  epoch : Nat
  txSeq : Nat
  /-- Packets sent and not acknowledged, oldest first, with the cycle sent. -/
  unacked : List (LupPkt × Nat)
  rxSeq : Nat
  /-- The answers given to the last 64 numbers: true for an acknowledgement (R203). -/
  answers : List (Nat × Bool)
  /-- The epoch of the packets that it receives (R205). -/
  rxEpoch : Nat
  /-- Reconciled as a receiver: packets of that epoch are discarded until the new one begins (R205). -/
  rxClosed : Bool
  /-- Waiting for the answer to a reconciliation request. -/
  recon : Bool
  /-- A frame whose tag failed waits for its retry (R361). -/
  retry : Bool
  /-- Frames received and frames sent under the key (R371). -/
  frames : Nat
  sent : Nat
  key : Nat
  skid : Bool
  heard : Nat
  turn : Nat
  deriving DecidableEq, Repr

/-- A link that is down. DESIGN CHOICE (log 2). -/
def Link.reset : Link :=
  ⟨false, 0, 0, 0, 0, 0, [], 0, [], 0, false, false, false, 0, 0, 0, false, 0, 0⟩

/-- A launch queue on the host port (R255, R379). -/
structure Queue where
  log2 : Nat
  irq : Bool
  base : Nat
  en : Bool
  head : Nat
  err : Bool
  tail : Nat
  taken : Nat
  /-- A write that clears EN and waits for the running launch (R379). -/
  disabling : Option Word
  deriving DecidableEq, Repr

def Queue.reset : Queue := ⟨0, false, 0, false, 0, false, 0, 0, none⟩

/-- The freeze of a domain in progress (R306): start, clusters whose drain has expired, updates abandoned. -/
structure Freeze where
  dom : Nat
  since : Nat
  expired : List Nat
  abandoned : Nat
  deriving DecidableEq, Repr


/-- An active launch (R28, R256). -/
structure Launch where
  queue : Nat
  count : Nat
  entry : Word
  image : Word
  first : Nat
  ncores : Nat
  n : Nat
  det : Bool
  check : Bool
  weight : Nat
  domain : Nat
  compl : Word
  /-- Which run of a checked launch, and digest A (R339). -/
  second : Bool
  digestA : Word
  /-- Strands that have left for other modules and not come back (R31). -/
  away : Nat
  deriving DecidableEq, Repr

/-- A saved launch (R355): the contexts and queues of its cores. -/
structure Saved where
  launch : Launch
  /-- Contexts with their core, in order of placement. -/
  strands : List (Nat × Strand)
  /-- Where their records are written (R357). -/
  base : Nat
  deques : List (Nat × List DequeEntry)
  recvs : List (Nat × List (Vector Word 4))
  /-- Unstarted engine items: cluster or die, queue, item (R278). -/
  items : List (Nat × Nat × QItem)
  digests : List (Nat × Vector Word 9)
  locals : List (Nat × List Host.Cell)
  froze : Bool
  deriving DecidableEq, Repr

/-- Pre-emption control of an active queue slot (R354). -/
structure Pctl where
  op : Nat
  busy : Bool
  need : Nat
  base : Word
  /-- Cores that the request has reached (R36), while a pre-emption is in progress. -/
  reached : List Nat
  /-- The domain was frozen by this pre-emption (R308). -/
  froze : Bool
  deriving DecidableEq, Repr

def Pctl.reset : Pctl := ⟨0, false, 0, 0, [], false⟩


/-- The state of the module. -/
structure State where
  /-- Cycles since module reset (CYC, R149). -/
  cyc : Nat
  /-- What comes next; empty leaves the choice to step (log 3). -/
  agenda : List Choice
  /-- The end of the cycle has begun: only limits, and what is sampled at the end of a cycle, still happen in it (log 3). -/
  closing : Bool
  /-- The core and slot whose instruction is executing. -/
  cur : Nat × Nat
  /-- The model's own counter for serial numbers, tags and free values (log 5). -/
  serial : Nat
  mem : Memory
  poison : List Nat
  cores : Tab Core
  clusters : Tab Cluster
  /-- AMO requests at their homes in order of arrival: core, slot, line (R218). -/
  amoQ : List (Nat × Nat × Nat)
  /-- Ordered-atomic entries held at home slices: core, slot, slice (R221). -/
  held : List (Nat × Nat × Nat)
  /-- Agents whose stores have changed page tables that accesses under way have walked: the agent, the cycle, and the pages
  of those accesses with their cores (R317). -/
  stale : List (Nat × Nat × List (Nat × Word))
  /-- Answers to other modules that wait, to writes until those count as performed, to loads until the stores whose values they
  hold are: agent, module, message (R166, R317). -/
  replies : List (Nat × Nat × Msg)
  /-- Requests of this module's strands to other modules that await a reply. -/
  pending : List Pending
  /-- Their other requests that await an answer. -/
  asks : List Ask
  /-- Requests of other modules that have been performed: module, number, and cycle (R370). -/
  performed : List (Nat × Nat × Nat)
  /-- Engine commands of restored launches that wait for room in their queues: cluster or die, queue, item (R278). -/
  returning : List (Nat × Nat × QItem)
  /-- Messages in flight to agents of this module, oldest first, and messages sent to other modules. -/
  flight : List Msg
  /-- Those of the messages in flight that are held for room in a queue (R246). -/
  farHeld : List FarHeld
  outbox : List (Nat × Msg)
  launches : Tab Launch
  /-- TROOT, and a write that waits until no launch runs (R313). -/
  troot : Word
  trootHeld : Option Word
  maps : Vector Word 32
  /-- The cycle of the last rotation boundary (R27). -/
  rotated : Option Nat
  modId : Nat
  domain : Nat
  peers : List Nat
  removed : List Nat
  /-- The system's configuration record, as the module has read it (R366, R383). -/
  record : List Nat
  fto : Nat
  skid : Bool
  latecnt : Word
  apbase : Word
  bootst : Word
  log : List LogRecord
  logHead : Nat
  logOvf : Nat
  fatal : Bool
  /-- The dump of a fatal error, as it is copied to the host (R363). -/
  dump : List Byte
  dies : Tab Die
  /-- The TLBs of the I/O dies, by number (R316). -/
  ioTlbs : Tab (List TlbEntry)
  regions : Tab Region
  boots : Nat
  links : Tab Link
  bars : Tab Barrier
  seedA : BitVec 16
  seedB : BitVec 16
  run : Bool
  mism : Bool
  saved : Tab Saved
  pctl : Tab Pctl
  queues : Tab Queue
  /-- Queues waiting for an active slot, in the order of their first notify, and held MAP writes (R322, R323). -/
  mapWait : List Nat
  mapHeld : Tab Word
  msix : List Nat
  freezes : List Freeze
  frozenDoms : List Nat
  mcctl : Word
  mclist : Word
  mcsrc : Word
  mcdst : Word
  mcstat : Word
  /-- The multicast in progress: its members that are this module and have not performed the line, the other members that
  have not answered, those that have failed, and the cycle of its start (R375). -/
  mcOwn : Word
  mcWait : Word
  mcFailed : Word
  mcSince : Nat
  /-- Its lines to other members that await an answer: place in the list, module, and message (R373, R374). -/
  mcLines : List (Nat × Nat × Msg)
  hostRead : Word
  nonce : BitVec 256
  attBusy : Bool
  report : BitVec 1536
  /-- Replies and fills discarded in the minute that began in a cycle (R362). -/
  discards : Nat
  minute : Nat
  /-- Error counters: transient errors by unit (R361). -/
  errors : Tab Nat
  /-- Correction counters: corrected ECC reads by unit (R361). -/
  corrections : Tab Nat
  firmware : Tab Nat
  powerHold : Bool
  deriving DecidableEq, Repr

/-- The module right after reset (R139, R312, R377). -/
def State.reset : State :=
  { cyc := 0, agenda := [], closing := false, cur := (0, 0), serial := 1, mem := [], poison := [], cores := [], clusters := [],
    amoQ := [], held := [], stale := [], replies := [], pending := [], asks := [], performed := [], returning := [], flight := [], farHeld := [], outbox := [], launches := [], troot := 0,
    trootHeld := none, maps := Vector.replicate 32 0, rotated := none, modId := 0, domain := 0, peers := [], removed := [], record := [], fto := 22,
    skid := false, latecnt := 0, apbase := 0, bootst := 0, log := [], logHead := 0, logOvf := 0, fatal := false, dump := []
    , dies := [], ioTlbs := [], regions := [], boots := 0, links := [], bars := [], seedA := 1, seedB := 2, run := false,
    mism := false, saved := [], pctl := [], queues := [], mapWait := [], mapHeld := [], msix := [], freezes := [],
    frozenDoms := [], mcctl := 0, mclist := 0, mcsrc := 0, mcdst := 0, mcstat := 0, mcOwn := 0, mcWait := 0, mcFailed := 0, mcSince := 0, mcLines := [], hostRead := 0, nonce := 0,
    attBusy := false, report := 0, discards := 0, minute := 0, errors := [], corrections := [], firmware := [], powerHold := false
    }

end Sys2Proof.Machine
end

