-- ==== Sys2Proof/Machine/Slots.lean ====
section
/-! DEFINITION. Reading and updating one core, slot, strand, cluster or die of the state, and the registers of a strand
(R17, R77-R83, R102-R104). -/

namespace Sys2Proof.Machine

/-- The outcome of one step. -/
abbrev Out := Host.Outcome State Fault Refusal

/-- The state of core c. -/
def State.core (s : State) (c : Nat) : Core :=
  tabGet Core.reset s.cores c

/-- The module with core c updated by f. -/
def State.modCore (s : State) (c : Nat) (f : Core → Core) : State :=
  { s with cores := tabSet s.cores c (f (s.core c)) }

/-- Slot n of a core; 8 is the service slot. -/
def Core.slot (k : Core) (n : Nat) : Slot :=
  k.slots[n]?.getD Slot.reset

/-- A core with slot n updated by f. -/
def Core.modSlot (k : Core) (n : Nat) (f : Slot → Slot) : Core :=
  { k with slots := k.slots.setIfInBounds n (f (k.slot n)) }

/-- Slot n of core c. -/
def State.slot (s : State) (c n : Nat) : Slot :=
  (s.core c).slot n

/-- The module with slot n of core c updated by f. -/
def State.modSlot (s : State) (c n : Nat) (f : Slot → Slot) : State :=
  s.modCore c fun k => k.modSlot n f

/-- The strand in slot n of core c. -/
def State.strand (s : State) (c n : Nat) : Strand :=
  (s.slot c n).strand

/-- The module with the strand in slot n of core c updated by f. -/
def State.modStrand (s : State) (c n : Nat) (f : Strand → Strand) : State :=
  s.modSlot c n fun x => { x with strand := f x.strand }

/-- The strand whose instruction is executing. -/
def State.me (s : State) : Strand :=
  s.strand s.cur.1 s.cur.2

/-- The module with the executing strand updated by f. -/
def State.modMe (s : State) (f : Strand → Strand) : State :=
  s.modStrand s.cur.1 s.cur.2 f

/-- Cluster and die of a core (R4). -/
def clusterOf (c : Nat) : Nat := c / 16
def dieOf (k : Nat) : Nat := k / 96

/-- The state of cluster k. -/
def State.cluster (s : State) (k : Nat) : Cluster :=
  tabGet Cluster.reset s.clusters k

/-- The module with cluster k updated by f. -/
def State.modCluster (s : State) (k : Nat) (f : Cluster → Cluster) : State :=
  { s with clusters := tabSet s.clusters k (f (s.cluster k)) }

/-- The state of die d. -/
def State.die (s : State) (d : Nat) : Die :=
  tabGet Die.reset s.dies d

/-- The module with die d updated by f. -/
def State.modDie (s : State) (d : Nat) (f : Die → Die) : State :=
  { s with dies := tabSet s.dies d (f (s.die d)) }

/-- The state of port p. -/
def State.link (s : State) (p : Nat) : Link :=
  tabGet Link.reset s.links p

/-- The module with port p updated by f. -/
def State.modLink (s : State) (p : Nat) (f : Link → Link) : State :=
  { s with links := tabSet s.links p (f (s.link p)) }

/-- The value of a general register; g0 reads as zero (R77). -/
def Strand.get (x : Strand) (r : BitVec 4) : Word :=
  if r = 0 then 0 else x.g[r.toNat]'r.isLt

/-- Writes a general register and clears its clip mark; g0 discards the write (R77, R252). -/
def Strand.put (x : Strand) (r : BitVec 4) (v : Word) : Strand :=
  if r = 0 then x else { x with g := x.g.set r.toNat v r.isLt, clip := setBit x.clip r.toNat false }

/-- Whether a general register is empty; g0 never is (R77, R78). -/
def Strand.isEmpty (x : Strand) (r : BitVec 4) : Bool :=
  r != 0 && !bitAt x.full r.toNat

/-- Whether a general register is clipped (R252). -/
def Strand.isClipped (x : Strand) (r : BitVec 4) : Bool :=
  r != 0 && bitAt x.clip r.toNat

/-- A predicate; p0 reads as true (R83). -/
def Strand.pred (x : Strand) (n : BitVec 3) : Bool :=
  n == 0 || bitAt x.p n.toNat

/-- Writes a predicate; p0 discards the write (R83). -/
def Strand.putPred (x : Strand) (n : BitVec 3) (b : Bool) : Strand :=
  if n = 0 then x else { x with p := setBit x.p n.toNat b }

/-- A vector register. -/
def Strand.vec (x : Strand) (r : BitVec 3) : VReg :=
  x.v[r.toNat]'r.isLt

/-- Writes a vector register. -/
def Strand.putVec (x : Strand) (r : BitVec 3) (v : VReg) : Strand :=
  { x with v := x.v.set r.toNat v r.isLt }

/-- A mask; k0 reads as all ones (R104). -/
def Strand.mask (x : Strand) (r : BitVec 2) : Word :=
  if r = 0 then BitVec.allOnes 64 else x.k[r.toNat]'r.isLt

/-- Writes a mask; k0 discards the write (R102). -/
def Strand.putMask (x : Strand) (r : BitVec 2) (v : Word) : Strand :=
  if r = 0 then x else { x with k := x.k.set r.toNat v r.isLt }

/-- A residue register (R150). -/
def Strand.res (x : Strand) (r : BitVec 2) : VReg :=
  x.e[r.toNat]'r.isLt

/-- Writes a residue register. -/
def Strand.putRes (x : Strand) (r : BitVec 2) (v : VReg) : Strand :=
  { x with e := x.e.set r.toNat v r.isLt }

/-- An axis descriptor (R173). -/
def Strand.axisOf (x : Strand) (r : BitVec 2) : Axis :=
  x.axis[r.toNat]'r.isLt

/-- Writes an axis descriptor. -/
def Strand.putAxis (x : Strand) (r : BitVec 2) (a : Axis) : Strand :=
  { x with axis := x.axis.set r.toNat a r.isLt }

/-- The non-zero flags of the residue registers, bit j for ej (R150). -/
def Strand.enz (x : Strand) : Nat :=
  b2n (x.res 0 != 0) + 2 * b2n (x.res 1 != 0) + 4 * b2n (x.res 2 != 0) + 8 * b2n (x.res 3 != 0)

/-- The FPC fields that an instruction captures at issue (R50, R144). -/
def Strand.env (x : Strand) : FpEnv :=
  { rm := bits x.fpc 2 0, fiz := bitAt x.fpc 4, frz := bitAt x.fpc 5, nve := bitAt x.fpc 8, dze := bitAt x.fpc 9,
    ofe := bitAt x.fpc 10 }

/-- Its address rights under step 4 of R154. -/
def Strand.rights (x : Strand) : Rights :=
  ⟨x.mode, x.set⟩

/-- The cycle at which a strand that leaves WAIT or PARK in this cycle is READY (R19), and not before its interval ends
(R21). DESIGN CHOICE, log 54. -/
def wakeAt (s : State) (c n : Nat) : Nat :=
  let soon := s.cyc + 1 + b2n (Config.slowWake s.cyc c n)
  match (s.slot c n).lastIssue with
  | some t => if s.cyc + 2 ≤ t + 8 then t + 8 else max soon (t + 8)
  | none => soon

/-- The global strand index of R353. -/
def strandIndex (c n : Nat) : Nat :=
  9 * c + n

/-- The strand is one of the launch in active queue slot n of this module, and not of another module's launch in its slot of
that number (R31, R33). -/
def Strand.isOf (x : Strand) (n : Nat) : Bool :=
  x.q == n && x.home.isNone

/-- The active queue slot whose launch on this module the strand belongs to. -/
def Strand.queue (x : Strand) : Option Nat :=
  if x.home.isNone then some x.q else none

/-- The active launch of a queue slot. -/
def State.launch (s : State) (q : Nat) : Option Launch :=
  tabFind s.launches q

/-- The launch ID of R85. -/
def Launch.ident (l : Launch) : Nat :=
  l.queue + l.count % 2 ^ 32 * 2 ^ 10

/-- Whether core c lies in the core set that starts at first and has count cores. -/
def inSet (set : Nat × Nat) (c : Nat) : Bool :=
  decide (set.1 ≤ c) && decide (c < set.1 + set.2)

/-- Whether a core of cluster k lies in a core set. -/
def setMeets (set : Nat × Nat) (k : Nat) : Bool :=
  decide (set.1 < 16 * k + 16) && decide (16 * k < set.1 + set.2) && decide (0 < set.2)

/-- Of two strands in WAIT, one entered it before the other: earlier in cycles, then by core, then by slot. -/
def waitBefore (s : State) (x y : Nat × Nat) : Bool :=
  let a := (s.slot x.1 x.2).waitAt
  let b := (s.slot y.1 y.2).waitAt
  decide (a < b) || (a == b && (decide (x.1 < y.1) || (x.1 == y.1 && decide (x.2 < y.2))))

/-- A core after c has issued in this cycle: the cores issue in ascending order (R143, R259, R296). -/
def issuedAbove (s : State) (c : Nat) : Bool :=
  s.cores.any fun (d, k) => decide (c < d) && k.lastIssue == some s.cyc

/-- The strand in a slot of a core may issue in this cycle (R19, R36). -/
def mayIssue (s : State) (k : Core) (n : Nat) : Bool :=
  (match (k.slot n).state with
    | .ready => true
    | .interval t => decide (t ≤ s.cyc)
    | _ => false) && (n == 8 || !k.preempted.any (k.slot n).strand.isOf)

/-- Core c can still issue in this cycle (R21-R24). -/
def willIssue (s : State) (c : Nat) : Bool :=
  let k := s.core c
  k.lastIssue != some s.cyc && k.gating == .ungated && !issuedAbove s c &&
    if k.det then k.turnZero.any fun t => decide (t ≤ s.cyc) && mayIssue s k ((s.cyc - t) % 9)
    else (List.range 9).any (mayIssue s k)

/-- A fresh serial number (log 5). DESIGN CHOICE. -/
def State.fresh (s : State) : Nat × State :=
  (s.serial, { s with serial := s.serial + 1 })

/-- The slots of listed cores, as core and slot pairs, cores ascending. -/
def State.places (s : State) : List (Nat × Nat) :=
  s.cores.flatMap fun (c, _) => (List.range 9).map fun n => (c, n)

/-- The place of the strand with a serial number, when it is in a slot. -/
def State.find (s : State) (uid : Nat) : Option (Nat × Nat) :=
  s.places.find? fun (c, n) => (s.slot c n).state != .empty && (s.strand c n).uid == uid

/-- The operation of a strand in WAIT. -/
def State.waiting (s : State) (c n : Nat) : Option WaitOp :=
  match (s.slot c n).state with
  | .wait op => some op
  | _ => none

/-- Sets the state of a slot. -/
def State.setState (s : State) (c n : Nat) (st : SlotState) : State :=
  s.modSlot c n fun x => { x with state := st }

end Sys2Proof.Machine
end

