-- ==== Sys2Proof/Machine/Perform.lean ====
section
/-! DEFINITION. Performing reads and writes in memory, with everything that a performed write does: poison, monitors,
TLB entries, ring descriptors, ordered cells (R215-R229, R268, R317, R361). -/

namespace Sys2Proof.Machine

/-- The 64-byte lines that n bytes at a meet. -/
def linesOfRange (a n : Nat) : List Nat :=
  if n = 0 then [] else (List.range ((a + n - 1) / 64 + 1 - a / 64)).map (a / 64 + ·)

/-- The base address of a cluster store and of a local store, as keys of memory (R153). -/
def csBase : Nat := 0x600000000000
def lsBase : Nat := 0x700000000000

/-- The address of cluster k's store, and of core n's local store. -/
def csAddr (k off : Nat) : Nat := csBase + k * 0x100000 + off
def lsAddr (n off : Nat) : Nat := lsBase + n * 0x8000 + off

/-- The bytes at a place of this module, as a number. -/
def State.read (s : State) (a n : Nat) : Nat :=
  memRead s.mem a n

/-- The strand's pending latch is set when it has one of the lines armed. -/
def Strand.latchOn (ls : List Nat) (x : Strand) : Strand :=
  if x.mon.any (ls.contains ·) then { x with latch := true } else x

/-- Sets the pending latch of every strand, in a slot or waiting for one, that has one of the lines armed (R227, R229). -/
def latchLines (ls : List Nat) (s : State) : State :=
  { s with cores := s.cores.map fun (c, k) =>
      (c, { k with slots := k.slots.map (fun x => { x with strand := x.strand.latchOn ls })
                   arr := k.arr.map fun e => { e with strand := e.strand.latchOn ls } }) }

/-- A wake event reaches a core: it aborts gating before the commit point, is latched from cycle 64 on, and starts the
ungating of a gated core (R365). -/
def Core.woken (cyc : Nat) (k : Core) : Core :=
  match k.gating with
  | .gating t committed _ =>
    if committed || decide (t + 64 ≤ cyc) then { k with gating := .gating t committed true }
    else { k with gating := .ungated, idleSince := none }
  | .gated => { k with gating := .waking cyc }
  | _ => k

/-- A store of n bytes wakes the core whose local store it meets: only another agent stores there while it is gated (R365). -/
def wakeStored (a n : Nat) (s : State) : State :=
  { s with cores := s.cores.map fun (c, k) =>
      (c, if decide (a < lsAddr c 0x8000) && decide (lsAddr c 0 < a + n) then k.woken s.cyc else k) }

/-- Removes the TLB entries bound to one of the lines (R317). -/
def dropTlb (ls : List Nat) (s : State) : State :=
  let keep (t : List TlbEntry) := t.filter fun e => !e.lines.any (ls.contains ·)
  { s with
    clusters := s.clusters.map fun (k, x) => (k, { x with tlb := keep x.tlb })
    dies := s.dies.map fun (d, x) => (d, { x with tlb := keep x.tlb })
    ioTlbs := s.ioTlbs.map fun (i, t) => (i, keep t) }

/-- A write by any agent: the bytes, and what every write does to poison marks, monitors, TLBs and gated cores. -/
def writeRaw (a : Nat) (bs : List Byte) (s : State) : State :=
  let ls := linesOfRange a bs.length
  let whole := ls.filter fun l => decide (a ≤ 64 * l) && decide (64 * l + 64 ≤ a + bs.length)
  dropTlb ls (wakeStored a bs.length (latchLines ls
    { s with mem := memPutAll s.mem a bs, poison := s.poison.filter fun l => !whole.contains l }))

/-- Some byte of the range is poisoned (R361). -/
def poisoned (s : State) (a n : Nat) : Bool :=
  (linesOfRange a n).any (s.poison.contains ·)

/-- The strand goes on at an address, or where an abandonment has sent it (R307). -/
def Strand.goTo (x : Strand) (pc : Word) : Strand :=
  { x with pc := x.redir.getD pc, redir := none, xpc := x.redirX.getD x.xpc, redirX := none }

/-- Leaving WAIT for another address than the next. -/
def wakeTo (c n : Nat) (pc : Word) (f : Strand → Strand) (s : State) : State :=
  s.modSlot c n fun x => { x with state := .interval (wakeAt s c n), strand := (f x.strand).goTo pc }

/-- Leaving WAIT: the strand is updated, its PC moves past the instruction, and it is READY under R19. -/
def wake (c n : Nat) (f : Strand → Strand) (s : State) : State :=
  s.modSlot c n fun x =>
    { x with state := .interval (wakeAt s c n), strand := let y := f x.strand; y.goTo (y.pc + 4) }

/-- NEXT, MODE and VALUE of an ordered cell (R215). -/
def cellNext (s : State) (cell : Nat) : Nat := s.read (cell + 8) 4
def cellMode (s : State) (cell : Nat) : Nat := s.read (cell + 12) 4
def cellValue (s : State) (cell : Nat) : Nat := s.read cell 8

/-- The new VALUE of an ordered atomic (R220): 0 ADD, 1 FADD, 2 SWAP. -/
def ordValue (op old : Nat) (v : Word) : Nat :=
  if op = 0 then (old + v.toNat) % 2 ^ 64
  else if op = 1 then
    let a := codeVal .f32 (old % 2 ^ 32)
    let b := codeVal .f32 (v.toNat % 2 ^ 32)
    (rneTo .f32 (fadd 0 a b).1).1
  else v.toNat

/-- The ordered atomic that a slot waits for. -/
def ordOf (s : State) (c n : Nat) : Option OrdOp :=
  match s.waiting c n with
  | some (.ord op) => some op
  | _ => none

/-- Moves a waiting ordered atomic to another phase. -/
def setOrd (c n : Nat) (op : OrdOp) (ph : OrdPhase) (s : State) : State :=
  s.setState c n (.wait (.ord { op with phase := ph }))

/-- Removes an entry from the holding buffers. -/
def unhold (c n : Nat) (s : State) : State :=
  { s with held := s.held.filter fun (c', n', _) => !(c' == c && n' == n) }

/-- apply(e) of R221 for the entry of one slot, without the held entries that follow it. -/
def ordApplyOne (c n : Nat) (op : OrdOp) (s : State) : State :=
  let old := cellValue s op.cell
  let nxt := (cellNext s op.cell + 1) % 2 ^ 32
  let s1 := writeRaw op.cell (leBytes 8 (ordValue op.op old op.v) ++ leBytes 4 nxt) s
  unhold c n (setOrd c n op (.applied (BitVec.ofNat 64 old)) s1)

/-- The held entry of a cell whose key is the cell's NEXT. -/
def heldNext (s : State) (cell : Nat) : Option (Nat × Nat × OrdOp) :=
  s.held.findSome? fun (c, n, _) =>
    match ordOf s c n with
    | some op => if op.cell == cell && op.key == cellNext s cell then some (c, n, op) else none
    | none => none

/-- Applies held entries of a cell while one has the key NEXT, by fuel (R221). -/
def ordChain (cell : Nat) : Nat → State → State
  | 0, s => s
  | f + 1, s =>
    match heldNext s cell with
    | some (c, n, op) => ordChain cell f (ordApplyOne c n op s)
    | none => s

/-- apply(e) of R221 with the held entries that follow. -/
def ordApply (c n : Nat) (op : OrdOp) (s : State) : State :=
  ordChain op.cell s.held.length (ordApplyOne c n op s)

/-- The report of a key already passed (R221). -/
def ordPassed (s : State) (op : OrdOp) : Stop :=
  ⟨.illOperand, op.va, BitVec.ofNat 64 (op.key + cellNext s op.cell * 2 ^ 32)⟩

/-- What a plain store to an ordered cell does to one held entry of the cell, whose NEXT was next before it (R221). -/
def ordRecheck (next c n : Nat) (op : OrdOp) (s : State) : State :=
  if cellMode s op.cell ≠ 0 then unhold c n (setOrd c n op (.refused ⟨.regionClass, op.va, 0⟩) s)
  else if cellNext s op.cell ≠ next ∧ (op.key + 2 ^ 32 - cellNext s op.cell) % 2 ^ 32 ≥ 2 ^ 31 then
    unhold c n (setOrd c n op (.refused (ordPassed s op)) s)
  else s

/-- What a store to n bytes at a, made since old, does to the held entries of the cells it meets, in the same atomic step
(R221). DEDUCED, log 47. -/
def ordSweep (a n : Nat) (old s : State) : State :=
  let meets (cell : Nat) : Bool := decide (cell < a + n) && decide (a < cell + 16)
  let here := s.held.filterMap fun (c, m, _) =>
    match ordOf s c m with
    | some op => if meets op.cell then some (c, m, op) else none
    | none => none
  let s1 := here.foldl (fun s (c, m, op) => ordRecheck (cellNext old op.cell) c m op s) s
  here.foldl (fun s (_, _, op) => ordChain op.cell s.held.length s) s1

/-- The cluster and ring whose configuration word lies at an address, when one does (R267). -/
def ringWordAt (a : Nat) : Option (Nat × Nat) :=
  if a < csBase ∨ csBase + 768 * 0x100000 ≤ a then none
  else
    let off := (a - csBase) % 0x100000
    if 0xEFF00 ≤ off ∧ off < 0xEFF80 ∧ off % 16 = 0 then some ((a - csBase) / 0x100000, (off - 0xEFF00) / 16)
    else none

/-- EN of a configuration word. -/
def ringEn (w : Nat) : Bool := w / 2 ^ 63 % 2 = 1

/-- A ring that is enabled: the slots reserved before are filled yet, and their completions sent, but count no more (R262,
R268, R269). DEDUCED, log 24. -/
def RingRt.enable (cyc : Nat) (x : RingRt) : RingRt :=
  { RingRt.reset with resv := x.resv.map fun y => { y with old := true }, since := some cyc }

/-- What a performed store to a configuration word does to the ring (R268). -/
def ringStored (a old : Nat) (s : State) : State :=
  match ringWordAt a with
  | none => s
  | some (k, r) =>
    let new := s.read a 8
    if ringEn new && !ringEn old then
      { s with mem := memWrite s.mem (a + 8) 8 0 }.modCluster k fun x =>
        { x with rings := x.rings.setIfInBounds r ((x.rings[r]?.getD RingRt.reset).enable s.cyc) }
    else if ringEn old && !ringEn new then
      s.modCluster k fun x =>
        { x with rings := x.rings.setIfInBounds r { (x.rings[r]?.getD RingRt.reset) with disabling := true } }
    else s

/-- A write by any agent is performed: the one funnel of R152's writes. -/
def perform (a : Nat) (bs : List Byte) (s : State) : State :=
  ordSweep a bs.length s (ringStored a (s.read a 8) (writeRaw a bs s))

/-- R224: the sum over the slots of a reduction cell, in core order, from core c up, by fuel. -/
def redSum (s : State) (r : Nat) : Nat → Nat → Nat → Nat
  | 0, _, acc => acc
  | f + 1, c, acc =>
    let x := codeVal .f32 (s.read (r + 0x40 + 4 * c) 4)
    redSum s r f (c + 1) (rneTo .f32 (fadd 0 (codeVal .f32 acc) x).1).1

/-- A reduction cell (R216). -/
def isRedCell (s : State) (cell : Nat) : Bool :=
  decide (cell % 0x10000 = 0) && decide (cellMode s cell = 1)

/-- The bytes that a load of n bytes at a returns from memory; on an ORD page, bytes 0-7 of a reduction cell read as the
sum (R216, R224). -/
def loadMem (s : State) (ord : Bool) (a n : Nat) : Nat :=
  let cell := a / 16 * 16
  if ord && decide (a - cell < 8) && isRedCell s cell then
    (redSum s cell Config.cores 0 0) / 2 ^ (8 * (a - cell)) % 2 ^ (8 * n)
  else s.read a n

end Sys2Proof.Machine
end

