-- ==== Sys2Proof/Machine/Context.lean ====
section
/-! DEFINITION. A strand's context as the words of a migration packet and of a saved record (R125, R150, R185, R252,
R357, R358). -/

namespace Sys2Proof.Machine

/-- The identity word of a context (R252). -/
def identityWord (x : Strand) : Nat :=
  x.launch % 2 ^ 42 + x.idx % 8 * 2 ^ 42 + x.q % 32 * 2 ^ 45

/-- The flags word of a context (R252). -/
def flagsWord (x : Strand) : Nat :=
  x.fpc.toNat + x.fps.toNat * 2 ^ 16 + x.ridx.toNat * 2 ^ 24 + b2n x.spl * 2 ^ 28 + b2n x.mode * 2 ^ 29 +
    b2n (x.ctxw == 16) * 2 ^ 30 + b2n x.idle * 2 ^ 31 + x.stdom.toNat * 2 ^ 32 + bits x.p 7 1 * 2 ^ 40 +
    bits x.clip 15 8 * 2 ^ 56

/-- The monitor lines of a context as four line addresses, 0 for none (R230, R252): physical ones, so that line 0 reads back as
none. DESIGN CHOICE, log 42. -/
def monWords (x : Strand) : List Nat :=
  (List.range 4).map fun i => 64 * x.mon.getD i 0

/-- The values of g1 to gn. -/
def gWords (x : Strand) (n : Nat) : List Nat :=
  (List.range n).map fun i => (x.get (BitVec.ofNat 4 (i + 1))).toNat

/-- A descriptor that pre-emption saves (R185). -/
def Axis.isSaved (a : Axis) : Bool :=
  a.kind != 0 || a.elem != 0

/-- The presence word of a record (R357). -/
def presenceWord (x : Strand) : Nat :=
  let axes := ((List.range 4).map fun j => b2n ((x.axis[j]?.getD Axis.reset).isSaved) * 2 ^ (21 + j)).sum
  bits x.full 15 1 * 2 + b2n x.viu * 2 ^ 16 + x.enz * 2 ^ 17 + axes + b2n x.relet * 2 ^ 25 + x.dirty.toNat * 2 ^ 26

/-- The two doublewords of an axis descriptor in a record (R357). -/
def axisWords (a : Axis) : List Nat :=
  [a.kind + a.onEnd * 4 + b2n a.load * 16 + a.lenm1 % 2 ^ 16 * 2 ^ 8 + a.pos % 2 ^ 16 * 2 ^ 32 + a.elem % 2 ^ 11 * 2 ^ 48,
   a.slot.toNat]

/-- The record of a saved context: 320 bytes, then the parts that are present (R357). -/
def contextRecord (x : Strand) : List Byte :=
  let pc := x.redir.getD (if x.collw.isSome then x.pc + 4 else x.pc)
  let fixed :=
    [pc.toNat, x.icnt.toNat, identityWord x, flagsWord x, presenceWord x, (x.redirX.getD x.xpc).toNat, x.xcause.toNat, x.xval.toNat,
     x.xaux.toNat] ++ monWords x ++ [x.gmass.toNat, 0] ++ gWords x 15 ++ [0, 0] ++ x.axis.toList.flatMap axisWords
  fixed.flatMap (leBytes 8) ++
    (if x.viu then x.v.toList.flatMap (fun v => leBytes 64 v.toNat) ++
        (x.k.toList.drop 1).flatMap (fun k => leBytes 8 k.toNat) ++ List.replicate 40 0 else []) ++
    (x.e.toList.filter (· != 0)).flatMap (fun e => leBytes 64 e.toNat) ++
    x.tiles.flatMap fun t => leBytes 4096 t.2.toNat

/-- The context as a restore finds it: parts that are not saved hold their reset values, and the lines are armed again
with the latch set (R105, R150, R185, R230). DESIGN CHOICE, log 42. -/
def savedContext (x : Strand) : Strand :=
  { x with
    v := if x.viu then x.v else Strand.reset.v
    k := if x.viu then x.k else Strand.reset.k
    axis := x.axis.map fun a => if a.isSaved then a else Axis.reset
    latch := true }

/-- The records of the strands of a saved launch, one after another. -/
def Saved.records (sv : Saved) : List Byte :=
  sv.strands.flatMap fun x => contextRecord x.2

/-- The records of a saved launch are written from its base (R355, R357, R358). DEDUCED, log 38. -/
def writeRecords (sv : Saved) (s : State) : State :=
  perform sv.base sv.records s

end Sys2Proof.Machine
end

