-- ==== Sys2Proof/Machine/Translate.lean ====
section
/-! DEFINITION. The address space, the page-table walk, and the checks of an access in the order of R154 (R153, R154,
R214, R268, R313-R318, R366). -/

namespace Sys2Proof.Machine

/-- The parts of the address space (R153). -/
inductive Range where
  | hbm | tier2 | host
  | cluster (k : Nat)
  | local_ (n : Nat)
  | own
  deriving DecidableEq, Repr

/-- The range of a module-local address. -/
def rangeOf (la : Nat) : Option Range :=
  if la < 0x10000000000 then some .hbm
  else if la < 0x30000000000 then some .tier2
  else if la < 0x40000000000 then none
  else if la < 0x80000000000 then some .host
  else if la < csBase then none
  else if la < csBase + 768 * 0x100000 then some (.cluster ((la - csBase) / 0x100000))
  else if la < lsBase then none
  else if la < lsBase + 12288 * 0x8000 then some (.local_ ((la - lsBase) / 0x8000))
  else if la < 0x7FFFFFFF8000 then none
  else some .own

/-- The parts that the page tables translate (R153). -/
def Range.translated : Range → Bool
  | .hbm => true
  | .tier2 => true
  | .host => true
  | _ => false

/-- Module field and module-local part of an address (R153). -/
def modField (va : Word) : Nat := bits va 63 47
def localPart (va : Word) : Nat := bits va 46 0

/-- The address names the accessing module (R153). -/
def isOwn (s : State) (va : Word) : Bool :=
  modField va == 0x1FFFF || modField va == s.modId

/-- The size of a leaf page of a level (R315). -/
def pageSize (level : Nat) : Nat :=
  if level = 1 then 2 ^ 32 else if level = 2 then 2 ^ 25 else 2 ^ 18

/-- A valid entry of a level is malformed for a virtual address (R315). -/
def malformed (level la : Nat) (e : Word) : Bool :=
  let leaf := bitAt e 1
  let addr := bits e 42 10 * 1024
  let three := b2n (bitAt e 6) + b2n (bitAt e 7) + b2n (bitAt e 8)
  bitAt e 5 || bits e 63 57 != 0 ||
  (if leaf then
    addr % pageSize level != 0 || (bitAt e 3 && !bitAt e 2) || decide (three > 1) ||
    ((bitAt e 7 || bitAt e 8) && rangeOf la != some .hbm) ||
    (bitAt e 6 && decide (bits e 56 43 ≥ Config.cores)) || rangeOf addr != rangeOf la
  else
    level == 3 || bits e 9 2 != 0 || bits e 56 43 != 0 || decide (addr ≥ 2 ^ 40))

/-- A walk's end: the leaf with its level and the lines read, or the level and WHY of its fault (R318). -/
inductive Walk where
  | leaf (level : Nat) (e : Word) (lines : List Nat)
  | fault (level why : Nat)
  deriving DecidableEq, Repr

/-- The level of table at an address, and those below it by fuel (R315, R316). -/
def walkFrom (s : State) (la : Nat) : Nat → Nat → Nat → List Nat → Walk
  | 0, level, _, _ => .fault level 2
  | f + 1, level, table, lines =>
    let idx := if level = 1 then la / 2 ^ 32 else if level = 2 then la / 2 ^ 25 % 128 else la / 2 ^ 18 % 128
    let a := table + 8 * idx
    let e : Word := BitVec.ofNat 64 (s.read a 8)
    if !bitAt e 0 then .fault level 1
    else if malformed level la e then .fault level 2
    else if bitAt e 1 then .leaf level e (lines ++ [a / 64])
    else walkFrom s la f (level + 1) (bits e 42 10 * 1024) (lines ++ [a / 64])

/-- The walk of a virtual address from TROOT (R313, R315); a level-1 table outside HBM is not read (R314), and reported as a
malformed entry of level 1. DESIGN CHOICE, log 61. -/
def walk (s : State) (la : Nat) : Walk :=
  let root := bits s.troot 42 18 * 2 ^ 18
  if 2 ^ 40 ≤ root then .fault 1 2 else walkFrom s la 3 1 root []

/-- The entry of a TLB that holds an address (R316). -/
def tlbHit (t : List TlbEntry) (la : Nat) : Option TlbEntry :=
  t.find? fun e => decide (e.base ≤ la) && decide (la < e.base + pageSize e.level)

/-- The translation of an address through a TLB, or by a walk (R316). DESIGN CHOICE, log 7, for the walk. -/
def translate (s : State) (t : List TlbEntry) (la : Nat) : Walk :=
  match tlbHit t la with
  | some e => .leaf e.level e.leaf e.lines
  | none => walk s la

/-- A walk's entry for a TLB (R316, R317). -/
def tlbEntry (level la : Nat) (e : Word) (lines : List Nat) : TlbEntry :=
  ⟨la / pageSize level * pageSize level, level, e, lines⟩

/-- The kind of an access for R154: what it is, for the rights of step 4 and the class of step 5. A store carries the
value when it is a single aligned doubleword store that may change a ring descriptor (R268). -/
inductive Acc where
  | load
  | store (desc : Option Nat)
  | atomic
  | frame
  | ord
  | fred
  | fetch
  | avg (write : Bool)
  deriving DecidableEq, Repr

/-- The access reads, writes, fetches (R318). -/
def Acc.reads : Acc → Bool
  | .load => true
  | .store _ => false
  | .atomic => true
  | .frame => true
  | .ord => true
  | .fred => false
  | .fetch => false
  | .avg w => !w

def Acc.writes : Acc → Bool
  | .load => false
  | .store _ => true
  | .atomic => true
  | .frame => true
  | .ord => true
  | .fred => true
  | .fetch => false
  | .avg w => w

def Acc.fetches : Acc → Bool
  | .fetch => true
  | _ => false

/-- An access that passes every check: its place, the page's class, and the home core of a MIGRATE page. -/
structure Place where
  loc : Loc
  ord : Bool
  avg : Bool
  mig : Option Nat
  deriving DecidableEq, Repr

/-- The detail of a translation fault in XAUX[63:48] (R318). -/
def detail (k : Acc) (level why : Nat) : Word :=
  BitVec.ofNat 64 (level * 2 ^ 48 + why * 2 ^ 50 + b2n k.writes * 2 ^ 56 + b2n k.fetches * 2 ^ 57)

/-- The region whose lines hold a virtual module-local address (R188). -/
def regionAt (s : State) (la : Nat) : Option (Nat × Region) :=
  s.regions.find? fun (_, r) => decide (r.base ≤ la) && decide (la < r.base + (bits r.cfg 37 24 + 1) * 2 ^ 18)

/-- The region of an address is quiescing (R192). -/
def quiescing (s : State) (la : Nat) : Bool :=
  match regionAt s la with
  | some (_, r) => bitAt r.cfg 15
  | none => false

/-- A doubleword store of a value may be made to a configuration word that holds old (R268). -/
def ringStoreOk (old new : Nat) : Bool :=
  let w : Word := BitVec.ofNat 64 new
  if ringEn old then decide (new = old) || decide (new + 2 ^ 63 = old)
  else if !ringEn new then true
  else
    let slotsz := bits w 23 16
    let nslot := bits w 30 24
    bits w 15 14 == 0 && !bitAt w 31 && bits w 39 34 == 0 && bits w 62 45 == 0 &&
    decide (1 ≤ slotsz) && decide (slotsz ≤ 128) && decide (1 ≤ nslot) && decide (nslot ≤ 64) &&
    decide (64 * bits w 13 0 + 64 * slotsz * nslot ≤ 0xEFF00)

/-- Step 5 for a cluster-store offset: the descriptor words (R268). -/
def ringClassOk (s : State) (k : Acc) (pa off : Nat) : Bool :=
  if off < 0xEFF00 ∨ 0xF0000 ≤ off then true
  else
    match k with
    | .load => true
    | .fetch => true
    | .store (some v) => decide (off < 0xEFF80) && decide (off % 16 = 0) && ringStoreOk (s.read pa 8) v
    | _ => false

/-- Step 4 for an untranslated window (R154, R84, R253). A core set reaches the store of a cluster of which it holds some core:
DESIGN CHOICE, log 65. -/
def windowRights (rt : Rights) (k : Acc) (r : Range) (off : Nat) : Bool :=
  let reach := rt.sup || match rt.set, r with
    | some set, .cluster n => setMeets set n && decide (off < 0xF0000)
    | some set, .local_ n => inSet set n
    | _, _ => false
  let window := match r with
    | .local_ _ => !k.writes || decide (off ≥ 0x800) || (rt.sup && decide (off < 0x780))
    | _ => true
  reach && window

/-- Step 5 for the class of a translated page (R214, R216). -/
def classOk (s : State) (k : Acc) (la pa : Nat) (e : Word) : Bool :=
  let avg := bitAt e 7
  let ord := bitAt e 8
  match k with
  | .load => true
  | .fetch => true
  | .store _ =>
    if avg then quiescing s la
    else if ord then !(decide (pa % 16 < 8) && isRedCell s (pa / 16 * 16))
    else true
  | .atomic => !avg && !ord
  | .frame => !avg && !ord
  | .ord => ord
  | .fred => ord
  | .avg _ => avg

/-- Step 5 for a cluster store of another module: only a single doubleword store goes to the descriptor words, whose value
the target checks (R268). -/
def farClassOk (k : Acc) (r : Range) (la : Nat) : Bool :=
  let off := (la - csBase) % 0x100000
  match r, k with
  | .cluster _, .store none => decide (off < 0xEFF00) || decide (0xF0000 ≤ off)
  | _, _ => true

/-- The checks of steps 2 to 5 of R154 for an access by an agent of core c, through a TLB, under rights. -/
def checkWith (s : State) (t : List TlbEntry) (c : Nat) (rt : Rights) (k : Acc) (va : Word) : Except Stop Place :=
  let la := localPart va
  match rangeOf la with
  | none => .error ⟨.pageFault, va, detail k 0 0⟩
  | some r =>
    if !isOwn s va then
      if s.peers.contains (modField va) && !s.removed.contains (modField va) && (rt.sup || r.translated) then
        if farClassOk k r la then .ok ⟨.there (modField va) la, false, false, none⟩ else .error ⟨.regionClass, va, 0⟩
      else .error ⟨.prot, va, detail k 0 0⟩
    else
      let window (r : Range) (base off : Nat) : Except Stop Place :=
        if !windowRights rt k r off then .error ⟨.prot, va, detail k 0 0⟩
        else if (match k with
          | .ord => true
          | .fred => true
          | _ => false) then .error ⟨.regionClass, va, 0⟩
        else .ok ⟨.here (base + off), false, false, none⟩
      match r with
      | .cluster n =>
        match window r (csAddr n 0) ((la - csBase) % 0x100000) with
        | .error e => .error e
        | .ok p =>
          if ringClassOk s k la ((la - csBase) % 0x100000) then .ok p else .error ⟨.regionClass, va, 0⟩
      | .local_ n => window r (lsAddr n 0) ((la - lsBase) % 0x8000)
      | .own => window (.local_ c) (lsAddr c 0) (la - 0x7FFFFFFF8000)
      | _ =>
        match translate s t la with
        | .fault level why => .error ⟨.pageFault, va, detail k level why⟩
        | .leaf level e _ =>
          let pa := bits e 42 10 * 1024 + la % pageSize level
          if (k.reads && !bitAt e 2) || (k.writes && !bitAt e 3) || (k.fetches && !bitAt e 4) then
            .error ⟨.prot, va, detail k level 3⟩
          else if !classOk s k la pa e then .error ⟨.regionClass, va, 0⟩
          else .ok ⟨.here pa, bitAt e 8, bitAt e 7, if bitAt e 6 then some (bits e 56 43) else none⟩

/-- Every check of R154 for an access that must lie at a multiple of align, by an agent of core c. -/
def checkAccess (s : State) (c : Nat) (rt : Rights) (k : Acc) (va : Word) (align : Nat) : Except Stop Place :=
  if va.toNat % align ≠ 0 then .error ⟨.align, va, 0⟩
  else checkWith s (s.cluster (clusterOf c)).tlb c rt k va

/-- The checks of R154 for n bytes from an address up, by blocks of 32 bytes (every range, page and window boundary is
a multiple of 32): the first failing address. DEDUCED, log 51. -/
def checkBytes (s : State) (c : Nat) (rt : Rights) (k : Acc) : Nat → Word → Nat → Option Stop
  | 0, _, _ => none
  | f + 1, va, n =>
    if n = 0 then none
    else
      match checkAccess s c rt k va 1 with
      | .error e => some e
      | .ok _ =>
        let step := 32 - va.toNat % 32
        if n ≤ step then none else checkBytes s c rt k f (va + BitVec.ofNat 64 step) (n - step)

/-- checkBytes over a whole range. -/
def checkRange (s : State) (c : Nat) (rt : Rights) (k : Acc) (va : Word) (n : Nat) : Option Stop :=
  checkBytes s c rt k (n / 32 + 2) va n

end Sys2Proof.Machine
end

