-- ==== Sys2Proof/Machine/Lines.lean ====
section
/-! DEFINITION. Averaging lines and region totals (R188-R203, R211), and a store performed in memory with the change that
it makes to them. -/

namespace Sys2Proof.Machine

/-- The fields of a region's configuration word (R190). -/
def cfgSigma (c : Word) : Nat := bits c 5 0
def cfgRate (c : Word) : Nat := bits c 11 8
def cfgMinw (c : Word) : Nat := bits c 21 16
def cfgLen (c : Word) : Nat := bits c 37 24 + 1
def cfgQuiesce (c : Word) : Bool := bitAt c 15

/-- The lines of a region (R189). -/
def regionLines (r : Region) : Nat := 4096 * cfgLen r.cfg

/-- QC becomes 1 once STATE is QUIESCE and the escrow totals are zero, and is 0 in RUN (R191, R192). -/
def settleQc (r : Region) : Region :=
  { r with qc := cfgQuiesce r.cfg && (r.qc || r.escrow.all (· == 0)) }

/-- The module with a region's entry updated and its QC settled. -/
def State.modRegion (s : State) (e : Nat) (f : Region → Region) : State :=
  match tabFind s.regions e with
  | some r => { s with regions := tabSet s.regions e (settleQc (f r)) }
  | none => s

/-- Adds a signed number to one word of a total (R199). -/
def addTotal (t : Vector (BitVec 128) 8) (j : Nat) (x : Int) : Vector (BitVec 128) 8 :=
  t.setIfInBounds j ((t[j]?.getD 0) + BitVec.ofInt 128 x)

/-- Word j of a line at a physical address: signed for j below 7, the unsigned weight for 7 (R189). -/
def lineWord (s : State) (pa j : Nat) : Int :=
  if j < 7 then sval (s.read (pa + 8 * j) 8) 64 else (s.read (pa + 8 * j) 8 : Nat)

/-- The words 0 to 7 of a line. -/
def lineWords (s : State) (pa : Nat) : List Int :=
  (List.range 8).map (lineWord s pa)

/-- The bytes of eight words, each modulo 2^64. -/
def wordsBytes (ws : List Int) : List Byte :=
  ws.flatMap fun x => leBytes 8 (wrap64 x)
where
  wrap64 (x : Int) : Nat := (BitVec.ofInt 64 x).toNat

/-- Writes a whole line in one atomic step. -/
def writeLine (pa : Nat) (ws : List Int) (s : State) : State :=
  perform pa (wordsBytes ws) s

/-- A sum leaves the range of its word (R195, R203). -/
def wordOverflows (j : Nat) (x : Int) : Bool :=
  if j < 7 then decide (x < -(2 ^ 63 : Nat)) || decide (x ≥ (2 ^ 63 : Nat)) else decide (x ≥ (2 ^ 64 : Nat))

/-- Adds words to a line, with the wrap and OVF rule of R203; changes of the applied totals are not made here. A poisoned
line stays so: only a store of the whole line clears the mark (R212, R361). -/
def addLine (e pa : Nat) (q : List Int) (s : State) : State :=
  let sums := (lineWords s pa).zipWith (· + ·) q
  let ovf := (List.range 8).any fun j => wordOverflows j (sums.getD j 0)
  { writeLine pa sums s with poison := s.poison }.modRegion e fun r => { r with ovf := r.ovf || ovf }

/-- The number of a line in its region. -/
def lineNo (r : Region) (la : Nat) : Nat := (la - r.base) / 64

/-- The physical address of a virtual address of this module, through a TLB or by a walk. -/
def physical (t : List TlbEntry) (s : State) (la : Nat) : Option Nat :=
  match translate s t la with
  | .leaf level e _ => some (bits e 42 10 * 1024 + la % pageSize level)
  | .fault _ _ => none

/-- The applied totals of a region take the differences that a store of n bytes made to the words it meets (R211). -/
def countStored (e la pa n : Nat) (before after : State) : State :=
  let first := la / 8
  let count := (la + n - 1) / 8 + 1 - first
  after.modRegion e fun r =>
    { r with applied := (List.range count).foldl (fun t i =>
        let j := (first + i) % 8
        let base := pa / 64 * 64 + 64 * ((la % 64 / 8 + i) / 8)
        addTotal t j (lineWord after base j - lineWord before base j)) r.applied }

/-- A store to a virtual address, at its physical address, is performed (R152, R211). -/
def performStore (va : Word) (pa : Nat) (bs : List Byte) (s : State) : State :=
  let s1 := perform pa bs s
  match regionAt s (localPart va) with
  | some (e, _) => if isOwn s va && !bs.isEmpty then countStored e (localPart va) pa bs.length s s1 else s1
  | none => s1

/-- The region whose lines lie at a physical address, with its entry and the address of the line's byte in its range. -/
def regionAtPhysical (s : State) (pa : Nat) : Option (Nat × Nat) :=
  s.regions.findSome? fun (e, r) =>
    (List.range (cfgLen r.cfg)).findSome? fun i =>
      match physical [] s (r.base + i * 2 ^ 18) with
      | some page => if page ≤ pa ∧ pa < page + 2 ^ 18 then some (e, r.base + i * 2 ^ 18 + (pa - page)) else none
      | none => none

/-- A store that names a physical address, of at most one line, is performed as a plain store (R211, R375, R380). -/
def performPhysical (pa : Nat) (bs : List Byte) (s : State) : State :=
  let s1 := perform pa bs s
  match regionAtPhysical s pa with
  | some (e, la) => if bs.isEmpty then s1 else countStored e la pa bs.length s s1
  | none => s1

/-- An entry of the averaging queue is applied at its home slice in one atomic step (R194, R195, R212). One whose region has been
deleted since is discarded. DESIGN CHOICE, log 22. -/
def applyAvg (c : Nat) (x : AvgEntry) (s : State) : State :=
  let s0 := s.modCore c fun k => { k with avgQ := k.avgQ.erase x }
  match regionAt s (localPart x.va) with
  | none => s0
  | some (e, r) =>
    let old := lineWords s x.line
    let d (j : Nat) : Int := x.d[j]?.getD 0
    if poisoned s x.line 64 then s0
    else if x.seed then
      let new := (List.range 7).map d ++ [(x.weight.toNat : Int)]
      (writeLine x.line new s0).modRegion e fun y =>
        { y with
          applied := (List.range 8).foldl (fun t j => addTotal t j (new.getD j 0 - old.getD j 0)) y.applied
          metric := tabDel y.metric (lineNo r (localPart x.va)) }
    else
      let add := (List.range 8).map fun j => if j < 7 && x.mask.testBit j then d j else 0
      (addLine e x.line add s0).modRegion e fun y =>
        { y with applied := (List.range 7).foldl (fun t j => addTotal t j (add.getD j 0)) y.applied }

/-- Every averaging entry of a strand is applied, in its program order. -/
def applyAllAvg (c uid : Nat) (s : State) : State :=
  ((s.core c).avgQ.filter fun x => x.uid == uid).foldl (fun s x => applyAvg c x s) s

/-- The next entry of a core's averaging queue is applied. -/
def applyNextAvg (c : Nat) (s : State) : Option State :=
  match (s.core c).avgQ with
  | x :: _ => some (applyAvg c x s)
  | [] => none

/-- A range of memory reads as zero: what creation of a region does to its lines (R191). -/
def clearRange (a n : Nat) (s : State) : State :=
  let inside (l : Nat) : Bool := decide (a ≤ 64 * l) && decide (64 * l < a + n)
  let armed := (s.cores.flatMap fun (_, k) =>
    (k.slots.toList.flatMap fun x => x.strand.mon) ++ k.arr.flatMap fun e => e.strand.mon).filter inside
  let walked := ((s.clusters.flatMap fun (_, k) => k.tlb.flatMap TlbEntry.lines) ++
    (s.dies.flatMap fun (_, d) => d.tlb.flatMap TlbEntry.lines) ++
    (s.ioTlbs.flatMap fun (_, t) => t.flatMap TlbEntry.lines)).filter inside
  dropTlb walked (latchLines armed
    { s with mem := s.mem.filter (fun (k, _) => !(decide (a ≤ k) && decide (k < a + n)))
             poison := s.poison.filter fun l => !inside l })

end Sys2Proof.Machine
end

