-- ==== Sys2Proof/Machine/Ops.lean ====
section
/-! DEFINITION. Issue, traps and their return, WAIT and PARK, fills, the store buffer, loads, and digests
(R19-R21, R64, R72, R78-R81, R149, R151, R156, R162-R164, R168, R338, R343-R353). -/

namespace Sys2Proof.Machine

/-- The cause codes of R342. -/
def causeCode : Cause → Nat
  | .illOpcode => 0x01
  | .illFn => 0x02
  | .illMbz => 0x03
  | .illOperand => 0x04
  | .priv => 0x05
  | .align => 0x06
  | .pageFault => 0x08
  | .prot => 0x09
  | .regionClass => 0x0A
  | .fpInvalid => 0x0C
  | .fpDivZero => 0x0D
  | .fpOverflow => 0x0E
  | .queueWaitLimit => 0x10
  | .ringMisuse => 0x11
  | .engineLease => 0x12
  | .migrateVector => 0x14
  | .contextClipped => 0x15
  | .rule => 0x16
  | .levelSpan => 0x17
  | .remoteTimeout => 0x18
  | .poison => 0x19
  | .trap => 0x1C
  | .digestMismatch => 0x1E
  | .machineCheck => 0x1F

/-- A cause of a floating-point trap (R352). -/
def isFpCause : Cause → Bool
  | .fpInvalid => true
  | .fpDivZero => true
  | .fpOverflow => true
  | _ => false

/-- Appends a record to the trap log, a ring of 4,096 (R362). -/
def logRecord (r : LogRecord) (s : State) : State :=
  if s.log.length < 4096 then { s with log := s.log ++ [r], logHead := (s.logHead + 1) % 4096 }
  else { s with log := s.log.drop 1 ++ [r], logHead := (s.logHead + 1) % 4096, logOvf := s.logOvf + 1 }

/-- Zeroes the four tiles of a half and frees it (R122, R123). -/
def freeHalf (k e h : Nat) (s : State) : State :=
  s.modCluster k fun x =>
    { x with leases := tabDel x.leases (2 * e + h)
             tiles := [0, 1, 2, 3].foldl (fun t j => tabDel t (8 * e + 4 * h + j)) x.tiles }

/-- Releases the lease of the strand in a slot, if it holds one (R123). -/
def releaseLease (c n : Nat) (s : State) : State :=
  match (s.strand c n).lease with
  | none => s
  | some (e, h) =>
    (freeHalf (clusterOf c) e h s).modStrand c n fun x => { x with lease := none, dirty := 0 }

/-- SID as R147 lays it out; in a handler, whose slot number does not fit the field, SLOT and IDX are 0. DESIGN CHOICE, log
56. -/
def sidOf (c n : Nat) (x : Strand) : Word :=
  BitVec.ofNat 64 (n % 8 + (x.idx % 8) * 2 ^ 8 + c % 2 ^ 14 * 2 ^ 16)

/-- A slot is left without its strand (R33, R35). The strand interval of the service slot is the slot's own (R21). -/
def leaveSlot (c n : Nat) (s : State) : State :=
  s.modSlot c n fun y =>
    { y with state := .empty, freeFrom := s.cyc + 1, lastIssue := if n = 8 then y.lastIssue else none
             strand := Strand.reset }

/-- The strand in a slot ends as by HALT: averaging entries, lease, monitors, slot, and a log record (R347, R349). -/
def endStrand (kind c n : Nat) (s0 : State) : State :=
  let x := s0.strand c n
  let s := applyAllAvg c x.uid s0
  logRecord ⟨kind, bits x.xcause 7 0, sidOf c n x, x.xpc, x.xcause, BitVec.ofNat 64 x.launch⟩
    (leaveSlot c n (releaseLease c n s))

/-- A block's entry in cluster k. -/
def State.block (s : State) (k i : Nat) : Block :=
  tabGet Block.reset (s.cluster k).blocks i

/-- The module with a block's entry updated. -/
def State.modBlock (s : State) (k i : Nat) (f : Block → Block) : State :=
  s.modCluster k fun x => { x with blocks := tabSet x.blocks i (f (tabGet Block.reset x.blocks i)) }

/-- The strand with a serial number that is not in a slot. -/
def State.away (s : State) (uid : Nat) : Option Strand :=
  let arr := s.cores.flatMap fun (_, k) => k.arr.map ArrEntry.strand
  let sv := s.saved.flatMap fun (_, x) => x.strands.map Prod.snd
  (arr ++ sv).find? fun x => x.uid == uid

/-- The write slot of a block's update (R300, R305). -/
def Block.target (b : Block) : Word :=
  if b.cur then b.slot0 else b.slot1

/-- A store to n bytes at a virtual address lies in the write slot of a block. -/
def Block.takes (b : Block) (s : State) (va : Word) : Bool :=
  isOwn s va && decide (localPart b.target ≤ localPart va) && decide (localPart va < localPart b.target + 64 * b.ssz)

/-- The strand with a serial number, in a slot or waiting for one. -/
def State.strandOf (s : State) (uid : Nat) : Option Strand :=
  match s.find uid with
  | some (c, n) => some (s.strand c n)
  | none => s.away uid

/-- A strand has stored n bytes at a virtual and a physical address: its update notes those of its write slot (R305). -/
def noteWrote (uid : Nat) (va : Word) (pa n : Nat) (s : State) : State :=
  match (s.strandOf uid).bind Strand.bound with
  | some (k, i) => if (s.block k i).takes s va then s.modBlock k i fun b => { b with wrote := b.wrote ++ [(pa, n)] } else s
  | none => s

/-- The trap record of cluster k takes a floating-point trap (R352, R353). -/
def recordFp (c n : Nat) (code : Nat) (pc xval : Word) (t : Nat) (s : State) : State :=
  let a := csAddr (clusterOf c) 0xEFF80
  let w1 := s.read (a + 8) 8
  let old := s.read (a + 16) 8
  let count := w1 / 2 ^ 32
  let oldIdx := strandIndex (w1 / 2 ^ 8 % 2 ^ 14) (w1 / 2 ^ 24 % 16)
  let put (cnt : Nat) : State :=
    perform a (leBytes 8 pc.toNat ++ leBytes 8 (code + c * 2 ^ 8 + n * 2 ^ 24 + cnt % 2 ^ 32 * 2 ^ 32) ++ leBytes 8 t ++
      leBytes 8 xval.toNat) s
  if count = 0 ∨ t / 8 > old / 8 then put 1
  else if t / 8 < old / 8 then s
  else if t < old ∨ (t = old ∧ strandIndex c n < oldIdx) then put (count + 1)
  else perform (a + 12) (leBytes 4 (count + 1)) s

/-- Trap entry of the strand in a slot (R151, R343, R349): the trap registers, the mode, the PC at TVEC; its RUNNING
block becomes HELD (R305); a late trap takes back the count of its issue (R149). DEDUCED, log 11 and log 32. It is READY
in the next cycle, or when its interval ends: DESIGN CHOICE, log 54. -/
def takeTrap (c n : Nat) (xpc : Word) (stop : Stop) (late : Bool) (s : State) : State :=
  let x := s.strand c n
  let t := (s.slot c n).lastIssue.getD s.cyc
  let s1 := if isFpCause stop.cause then recordFp c n (causeCode stop.cause) xpc stop.xval t s else s
  let tvec : Word := ((s.core c).tvec.setWidth 64) <<< 2
  let cause : Word := BitVec.ofNat 64 (causeCode stop.cause + b2n x.mode * 2 ^ 63)
  let s2 := s1.modSlot c n fun y =>
    { y with
      state := .interval (max (t + 8) (s.cyc + 1))
      strand := { y.strand with
        xpc := (y.strand.redir <|> y.strand.redirX).getD xpc, redir := none, redirX := none, xcause := cause, xval := stop.xval, xaux := stop.xaux,
        mode := true, pc := tvec, entry := true, icnt := if late then y.strand.icnt - 1 else y.strand.icnt } }
  let s3 := match x.bound with
    | some (k, i) => s2.modBlock k i fun b => if b.st = BState.running then { b with st := BState.held } else b
    | none => s2
  if (s.core c).tvec = 0 then endStrand 2 c n s3 else s3

/-- The executing strand traps at its instruction (R342, R343). -/
def trapHere (stop : Stop) (s : State) : State :=
  takeTrap s.cur.1 s.cur.2 s.me.pc stop false s

/-- A strand in WAIT traps: it leaves WAIT through trap entry (R343). -/
def trapWait (c n : Nat) (stop : Stop) (s : State) : State :=
  takeTrap c n (s.strand c n).pc stop true s

/-- What an issue does whatever the instruction: the slot's and core's cycle of issue, the rotation, INTERVAL (R21-R23). -/
def markIssue (s : State) : State :=
  let c := s.cur.1
  let n := s.cur.2
  (s.modSlot c n fun x =>
    { x with state := .interval (s.cyc + 8), lastIssue := some s.cyc, strand := { x.strand with entry := false } }).modCore c
    fun k =>
      if n < 8 then { k with lastIssue := some s.cyc, lastSlot := n, restarted := false }
      else { k with lastIssue := some s.cyc, restarted := false, svcSince := none, forceNow := false
                    svcForced := if k.forceNow then some s.cyc else k.svcForced }

/-- The issue counts (R149) and the strand goes on at an address. -/
def goOn (pc : Word) (s : State) : State :=
  s.modMe fun x => { x with pc := pc, icnt := x.icnt + 1 }

/-- The issue counts and the strand goes on at the next word. -/
def advance (s : State) : State :=
  goOn (s.me.pc + 4) s

/-- The executing strand is updated and goes on at the next word. -/
def finish (f : Strand → Strand) (s : State) : State :=
  advance (s.modMe f)

/-- The executing strand parks on empty registers (R20, R80); the issue counts (R149). -/
def park (rs : List (BitVec 4)) (s : State) : State :=
  (s.modMe fun x => { x with icnt := x.icnt + 1 }).setState s.cur.1 s.cur.2 (.park rs)

/-- The executing strand enters WAIT, its PC at the instruction; the issue counts. DEDUCED, log 11. -/
def enterWait (op : WaitOp) (s : State) : State :=
  (s.modMe fun x => { x with icnt := x.icnt + 1 }).modSlot s.cur.1 s.cur.2 fun x =>
    { x with state := .wait op, waitAt := s.cyc }

/-- The executing strand enters WAIT and leaves it at once when the operation can complete. -/
def waitOr (op : WaitOp) (resume : Nat → Nat → State → Option State) (s : State) : State :=
  let s1 := enterWait op s
  (resume s.cur.1 s.cur.2 s1).getD s1

/-- The guard holds (R64). -/
def guardHolds (x : Strand) (p : BitVec 4) : Bool :=
  if p = 0 then true else x.pred (p.setWidth 3) != bitAt p 3

/-- The instruction word, zero-extended, for XVAL (R72, R342). -/
def wordOf (i : Instr) : Word :=
  (encode i).setWidth 64

/-- The issue of an instruction: check 4, check 5, the guard, then its own effect (R64, R72). -/
def issue (i : Instr) (body : State → State) (s : State) : Out :=
  let s1 := markIssue s
  .next (
    if i.privileged && !s1.me.mode then trapHere ⟨.priv, wordOf i, 0⟩ s1
    else if !i.limits then trapHere ⟨.illOperand, wordOf i, 0⟩ s1
    else if !guardHolds s1.me i.guardField then advance s1
    else body s1)

/-- The executing instruction parks when some of its registers are empty (R80); else its body runs. -/
def parksOr (regs : List (BitVec 4)) (body : State → State) (s : State) : State :=
  match regs.filter s.me.isEmpty with
  | [] => body s
  | rs => park rs s

/-- The executing instruction traps when a register that it reads is clipped (R252); else its body runs. -/
def unclipped (reads : List (BitVec 4)) (body : State → State) (s : State) : State :=
  match reads.find? s.me.isClipped with
  | some r => trapHere ⟨.contextClipped, r.setWidth 64, 0⟩ s
  | none => body s

/-- The effect of an instruction that reads some registers and only writes others: it parks on an empty one (R80) and
raises CONTEXT_CLIPPED on a clipped one that it reads (R252). DEDUCED, log 49, for the order. -/
def needs (reads writes : List (BitVec 4)) (body : State → State) : State → State :=
  parksOr (reads ++ writes) (unclipped reads body)

/-- The executing instruction names a v or k register: it sets the in-use flag (R105). DEDUCED, log 23. -/
def useVec (s : State) : State :=
  s.modMe fun x => { x with viu := true }

/-- The same of an instruction that names a v or k register: it sets the in-use flag unless it parks, whatever follows
(R105). -/
def needsVec (reads writes : List (BitVec 4)) (body : State → State) : State → State :=
  parksOr (reads ++ writes) fun s => unclipped reads body (useVec s)

/-- The executing instruction writes a general register and goes on. -/
def setG (d : BitVec 4) (v : Word) (s : State) : State :=
  finish (fun x => x.put d v) s

/-- A fill (R79, R81): the register takes the value when it is empty, and is full; else the fill is counted. -/
def Strand.fill (x : Strand) (r : BitVec 4) (v : Word) : Strand :=
  { x with g := x.g.set r.toNat v r.isLt, full := setBit x.full r.toNat true, clip := setBit x.clip r.toNat false,
           tok := x.tok.set r.toNat 0 r.isLt }

/-- A discarded fill or late reply is counted (R81, R370). -/
def countDiscard (s : State) : State :=
  { s with latecnt := s.latecnt + 1, discards := s.discards + 1 }

/-- The state of a slot after a fill: a strand that is parked is readied once the registers it parked on are all full
(R80). -/
def parkEnds (st : SlotState) (x : Strand) (t : Nat) : SlotState :=
  match st with
  | .park rs => if rs.any x.isEmpty then st else .interval t
  | _ => st

/-- The slot of a strand takes a fill (R19, R79, R80). -/
def fillSlot (c n : Nat) (r : BitVec 4) (v : Word) (s : State) : State :=
  s.modSlot c n fun x =>
    let y := x.strand.fill r v
    { x with strand := y, state := parkEnds x.state y (wakeAt s c n) }

/-- A strand that is not in a slot takes a fill (R82, R358). -/
def fillAway (uid : Nat) (r : BitVec 4) (v : Word) (s : State) : State :=
  let f (x : Strand) : Strand := if x.uid == uid && x.isEmpty r then x.fill r v else x
  let hit (sv : Saved) : Bool := sv.strands.any fun (_, x) => x.uid == uid
  let s1 : State :=
    { s with
      cores := s.cores.map fun (c, k) => (c, { k with arr := k.arr.map fun e => { e with strand := f e.strand } })
      saved := s.saved.map fun (q, sv) => (q, { sv with strands := sv.strands.map fun (c, x) => (c, f x) }) }
  match s1.saved.find? fun (_, sv) => hit sv with
  | some (_, sv) => writeRecords sv s1
  | none => s1

/-- A fill addressed to a strand's register takes effect or is discarded and counted (R79, R81, R82). -/
def fillReg (uid : Nat) (r : BitVec 4) (v : Word) (s : State) : State :=
  match s.find uid with
  | some (c, n) => if (s.strand c n).isEmpty r then fillSlot c n r v s else countDiscard s
  | none =>
    match s.away uid with
    | some x => if x.isEmpty r then fillAway uid r v s else countDiscard s
    | none => countDiscard s

/-- Empties a register for a later fill (R78). -/
def emptyReg (r : BitVec 4) (x : Strand) : Strand :=
  if r = 0 then x else { x with full := setBit x.full r.toNat false }

/-- A register emptied at issue is full again with the value it held (R246, R262). -/
def refillReg (r : BitVec 4) (x : Strand) : Strand :=
  if r = 0 then x else { x with full := setBit x.full r.toNat true, tok := x.tok.set r.toNat 0 r.isLt }

/-- The return from a trap (R346): mode and PC from XCAUSE and XPC; a HELD block is RUNNING again (R282). -/
def returnFromTrap (s : State) : State :=
  let x := s.me
  if bits x.xpc 1 0 ≠ 0 then trapHere ⟨.align, x.xpc, 0⟩ s
  else
    let s1 := match x.bound with
      | some (k, i) => s.modBlock k i fun b => if b.st = BState.held then { b with st := BState.running } else b
      | none => s
    goOn x.xpc (s1.modMe fun y => { y with mode := bitAt x.xcause 63 })

/-- One fold of the digest function for an item's h (R338). -/
def foldDigest (d h : Word) : Word :=
  ((d.rotateLeft 7) ^^^ h) * BitVec.ofNat 64 0xD6E8FEB86659FD93

/-- The h of an item (a, s, v) (R338). -/
def itemHash (a : Word) (sz : Nat) (v : Word) : Word :=
  (a * BitVec.ofNat 64 0x9E3779B97F4A7C15) ^^^ v ^^^ (BitVec.ofNat 64 sz <<< 56)

/-- The strand in a slot, or the launch that its handler serves, is one of a checked launch that runs (R247, R327, R338).
-/
def checked (s : State) (c n : Nat) : Bool :=
  let x := s.strand c n
  match s.launch x.q with
  | some l => l.check && x.set.isSome && x.home.isNone
  | none => false

/-- Folds an item of a checked launch into the accumulator of its slot (R338). -/
def foldItem (c n : Nat) (a : Word) (sz : Nat) (v : Word) (s : State) : State :=
  if checked s c n then
    s.modCore c fun k =>
      { k with digests := k.digests.setIfInBounds n (foldDigest (k.digests[n]?.getD 0) (itemHash a sz v)) }
  else s

/-- A strand has seen the store of an entry of another (R166, R394). -/
def SbEntry.seenBy (e : SbEntry) (uid : Nat) : Bool :=
  e.readers.contains uid || e.readers.contains 0

/-- The entry is the strand's own, or one that it has seen before other cores can (R163, R166). -/
def SbEntry.binds (e : SbEntry) (uid : Nat) : Bool :=
  e.uid == uid || e.seenBy uid

/-- The store of the request is the own one of a strand of core c, or one that it has seen (R166, R394). -/
def Pending.binds (p : Pending) (c uid : Nat) : Bool :=
  p.store && (p.uid == uid || p.readers.contains uid || (p.readers.contains 0 && p.tag / 65536 == c + 1))

/-- The strand's stores, and those that its loads have forwarded, have left the store buffer (R166, R223). -/
def drained (s : State) (c : Nat) (uid : Nat) : Bool :=
  !(s.core c).sb.any (·.binds uid)

/-- A core's record of a tag number. -/
def tagRec (s : State) (c i : Nat) : TagRec :=
  tabGet TagRec.reset (s.core c).tags i

/-- The allocations of a tag number in the last 2^24 cycles (R370). -/
def recentAllocs (s : State) (c i : Nat) : List Nat :=
  (tagRec s c i).allocs.filter fun t => decide (s.cyc < t + 2 ^ 24)

/-- The tag of number i of core c with an incarnation: the core is part of a request's address. -/
def tagOf (c i inc : Nat) : Nat := 65536 * (c + 1) + 16 * i + inc

/-- Number i of a core's pool may be allocated: no request is outstanding under it, and it has not been allocated 15 times
within 2^24 cycles (R370). -/
def tagFree (s : State) (c i : Nat) : Bool :=
  !(s.pending.any fun p => p.tag / 16 == tagOf c i 0 / 16) && !(s.asks.any fun a => a.tag / 16 == tagOf c i 0 / 16) &&
    decide ((recentAllocs s c i).length < 15)

/-- The first free tag number of a core from i up, by fuel. -/
def freeTagFrom (s : State) (c : Nat) : Nat → Nat → Option Nat
  | 0, _ => none
  | f + 1, i => if tagFree s c i then some i else freeTagFrom s c f (i + 1)

/-- The lowest free tag number of the pool of 4,096 of a core (R370). DESIGN CHOICE, log 16, for the lowest. -/
def freeTag (s : State) (c : Nat) : Option Nat :=
  freeTagFrom s c 4096 0

/-- A core allocates a tag number: its next incarnation (R370). -/
def allocTag (c i : Nat) (s : State) : Nat × State :=
  let inc := ((tagRec s c i).inc + 1) % 16
  (tagOf c i inc, s.modCore c fun k => { k with tags := tabSet k.tags i ⟨inc, recentAllocs s c i ++ [s.cyc]⟩ })

/-- The request as it travels to its target core (R161). -/
def Pending.message (s : State) (p : Pending) : Msg :=
  .access (p.req.la / 64 % Config.cores) s.modId p.tag p.req

/-- Core c sends a request to another module and awaits its answer under a free tag, which its callers have made sure of
(R161, R370). -/
def sendAccess (c m : Nat) (req : RemoteReq) (uid : Nat) (va pc : Word) (store : Bool) (readers : List Nat) (s : State) :
    Nat × State :=
  let (tag, s1) := allocTag c ((freeTag s c).getD 0) s
  let p : Pending := ⟨tag, uid, m, va, store, s1.cyc, pc, readers, req⟩
  (tag, { s1 with outbox := s1.outbox ++ [(m, p.message s1)], pending := s1.pending ++ [p] })

/-- A request of a strand of core c, other than an access, goes to a module under a free tag, which its callers have made sure of:
the tag and the state (R370). -/
def State.ask (c m uid : Nat) (msg : Nat → Msg) (s : State) : Nat × State :=
  let (tag, s1) := allocTag c ((freeTag s c).getD 0) s
  let s2 : State := { s1 with asks := s1.asks ++ [⟨tag, uid, m, s1.cyc, false, msg tag⟩] }
  (tag, if m = s.modId then { s2 with flight := s2.flight ++ [msg tag] } else { s2 with outbox := s2.outbox ++ [(m, msg tag)] })

/-- A request has its answer, and its tag is free (R370). -/
def State.answered (tag : Nat) (s : State) : State :=
  { s with asks := s.asks.filter fun a => a.tag != tag }

/-- A strand's requests other than its accesses end, and their tags are free. -/
def State.endAsks (uid : Nat) (s : State) : State :=
  { s with asks := s.asks.filter fun a => a.uid != uid }

/-- The place i bytes further on. -/
def Loc.plus : Loc → Nat → Loc
  | .here a, i => .here (a + i)
  | .there m a, i => .there m (a + i)

/-- The byte that an entry holds for a place. -/
def SbEntry.byte (e : SbEntry) (p : Loc) : Option Byte :=
  match e.loc, p with
  | .here a, .here b => if a ≤ b ∧ b < a + e.size then some (byteOf e.data (b - a)) else none
  | .there m a, .there k b => if m = k ∧ a ≤ b ∧ b < a + e.size then some (byteOf e.data (b - a)) else none
  | _, _ => none

/-- The byte that the youngest buffer entry holds for a place (R164). -/
def sbByte (sb : List SbEntry) (p : Loc) : Option Byte :=
  sb.foldl (fun acc e => match e.byte p with
    | some b => some b
    | none => acc) none

/-- What a load of an element finds in this cycle (R164): it must wait, the bytes, or poison. -/
inductive LoadRes where
  | wait
  | val (x : Nat)
  | poison
  deriving DecidableEq, Repr

/-- A place lies in the local store of core c. -/
def inLocal (c : Nat) : Loc → Bool
  | .here a => decide (lsAddr c 0 ≤ a) && decide (a < lsAddr c 0x8000)
  | .there _ _ => false

/-- The bytes of an element that buffer entries hold. -/
def heldBytes (s : State) (c : Nat) (e : Elem) : List (Option Byte) :=
  (List.range e.size).map fun i => sbByte (s.core c).sb (e.loc.plus i)

/-- The page-table lines on the walk of a virtual address by an access of core c (R316, R317). -/
def walkLines (s : State) (c : Nat) (va : Word) : List Nat :=
  let la := localPart va
  if isOwn s va && (rangeOf la).any Range.translated then
    match translate s (s.cluster (clusterOf c)).tlb la with
    | .leaf _ _ ls => ls
    | .fault _ _ => []
  else []

/-- The accesses under way that a slot of core c has translated: loads in WAIT, none of whose bytes are held, atomics at
their homes, and, in full, stores that wait for buffer room; address and cycle (R317). Every other operation in WAIT
translates its address when it makes its access. -/
def slotAccesses (full : Bool) (s : State) (c n : Nat) : List (Word × Nat) :=
  let t := (s.slot c n).waitAt
  match s.waiting c n with
  | some (.load els _ _) => ((els.filter fun e => e.val.isNone && !(heldBytes s c e).any Option.isSome).map fun e => (e.va, t))
  | some (.storeRoom es _ _ _) => if full then es.map fun e => (e.va, e.walked) else []
  | some (.qst _ gs _ _) => if full then gs.flatMap fun g => g.entries.map fun e => (e.va, e.walked) else []
  | some (.amo op true _) => [(op.va, t)]
  | some (.ord op) =>
    match op.phase with
    | .draining => []
    | .applied _ => []
    | .refused _ => []
    | _ => [(op.va, t)]
  | _ => []

/-- The accesses under way of a core: its buffered stores, not in full, only stores before the
first release or SC store; its averaging entries; and those of its slots. -/
def coreAccesses (full : Bool) (s : State) (c : Nat) : List (Word × Nat) :=
  let k := s.core c
  let sb := k.sb
  ((if full then sb else sb.takeWhile fun e => e.kind == .plain).map fun e => (e.va, e.walked)) ++
    (k.avgQ.map fun e => (e.va, e.walked)) ++ (List.range 9).flatMap (slotAccesses full s c)

/-- The page of 256 KiB of an address; every walk within one reads the same lines (R315). -/
def pageOf (va : Word) : Word := (va >>> 18) <<< 18

/-- Every access that had been translated through a table entry when it was changed has been performed (R317), but for those
that wait behind the first release or SC store of some cores. -/
def staleOver (but : Nat → Bool) (s : State) (t : Nat) (pages : List (Nat × Word)) : Bool :=
  s.cores.all fun (c, _) =>
    !(pages.any fun x => x.1 == c) ||
      (coreAccesses (!but c) s c).all fun (va, i) => decide (t < i) || !pages.contains (c, pageOf va)

/-- The stores of an agent to page tables are performed at MODULE scope as far as accesses under way go, but for those that wait
in some cores (R317). DEDUCED, log 60. -/
def settledBut (but : Nat → Bool) (s : State) (agent : Nat) : Bool :=
  s.stale.all fun (u, t, pages) => u != agent || staleOver but s t pages

/-- The stores of an agent to page tables are performed at MODULE scope as far as accesses under way go (R317); not in full, as
far as these wait behind no release or SC store. -/
def settled (full : Bool) (s : State) (agent : Nat) : Bool :=
  settledBut (fun _ => !full) s agent

/-- The first release or SC store of a core's buffer, behind which later stores wait (R163). -/
def blocker (s : State) (c : Nat) : Option SbEntry :=
  (s.core c).sb.find? (·.kind != .plain)

/-- The release that blocks core c waits for accesses that the release blocking core d holds up (R163, R317). -/
def blockedBy (s : State) (c d : Nat) : Bool :=
  match blocker s c, blocker s d with
  | some e, some f => c != d && f.kind == .release && settledBut (· == d) s e.uid != settled true s e.uid
  | _, _ => false

/-- The cores that hold up some cores, directly or through others, by fuel. -/
def blockers (s : State) : Nat → List Nat → List Nat
  | 0, cs => cs
  | f + 1, cs =>
    blockers s f (cs ++ (s.cores.map Prod.fst).filter fun d => !cs.contains d && cs.any fun c => blockedBy s c d)

/-- A release of core c does not wait for the accesses that core d's release or SC store holds up: its own core's, those behind
an SC store, and those of a core that waits for core c in turn (R163, R169, R317). DEDUCED, log 60. -/
def holdsUp (s : State) (c d : Nat) : Bool :=
  (blocker s d).isSome && (c == d || (blocker s d).any (·.kind == .sc) || (blockers s s.cores.length [d]).contains c)

/-- The pages of the accesses under way of a core. -/
def accessPages (s : State) (c : Nat) : List Word :=
  ((coreAccesses true s c).map fun (va, _) => pageOf va).eraseDups

/-- The pages of accesses under way, with their cores, whose walks have read one of some lines (R317). -/
def walkedPages (s : State) (ls : List Nat) : List (Nat × Word) :=
  s.cores.flatMap fun (c, _) =>
    ((accessPages s c).filter fun va => (walkLines s c va).any (ls.contains ·)).map fun va => (c, va)

/-- An agent, a strand or an engine command by its serial number or 0 for the host, links and other modules' engines, has stored
to n bytes at a physical address: where accesses under way have walked them as a page table, the store is not performed at MODULE scope until they
are (R317). -/
def shoot (agent pa n : Nat) (s t : State) : State :=
  match (if pa < 2 ^ 40 then walkedPages s (linesOfRange pa n) else []) with
  | [] => t
  | ps => { t with stale := (agent, s.cyc, ps) :: t.stale.filter fun (_, i, qs) => !staleOver (fun _ => false) t i qs }

/-- Every earlier store of a strand, and every store that its loads have forwarded, is performed at MODULE scope or
acknowledged, and every averaging entry applied (R166, R168, R200, R231, R317). -/
def quiet (s : State) (c : Nat) (uid : Nat) : Bool :=
  let k := s.core c
  !k.sb.any (·.binds uid) && !k.avgQ.any (·.uid == uid) && !s.pending.any (·.binds c uid) && settled true s uid

/-- The entries of a core's buffer up to the last one of another strand that a strand has seen. -/
def seenPart (sb : List SbEntry) (uid : Nat) : List SbEntry :=
  sb.take (sb.zipIdx.foldl (fun k (e, i) => if e.seenBy uid then i + 1 else k) 0)

/-- A strand whose release store, still in the buffer, another has seen: what came before that store is visible to the other
(R168, R232). -/
def releasedTo (s : State) (c by_ uid : Nat) : Bool :=
  (seenPart (s.core c).sb uid).any fun e => e.kind != .plain && e.uid == by_

/-- An averaging entry of the strand for the element's line is not yet applied, or one of a strand whose release it has seen
(R168, R200, R232). -/
def avgPending (s : State) (c uid : Nat) (e : Elem) : Bool :=
  match e.loc with
  | .here a => (s.core c).avgQ.any fun x => (x.uid == uid || releasedTo s c x.uid uid) && x.line == a / 64 * 64
  | .there _ _ => false

/-- A load of one element by a strand of core c (R155, R164, R200, R361). -/
def loadElem (s : State) (c uid : Nat) (e : Elem) : LoadRes :=
  if avgPending s c uid e then .wait
  else
    let held := heldBytes s c e
    if held.all Option.isSome then .val (leNat (held.map (·.getD 0)))
    else
      match e.loc with
      | .there _ _ => .wait
      | .here a =>
        if inLocal c e.loc then
          if poisoned s a e.size then .poison
          else .val (leNat ((List.range e.size).map fun i => (held.getD i none).getD (memByte s.mem (a + i))))
        else if held.any Option.isSome then .wait
        else if poisoned s a e.size then .poison
        else .val (loadMem s e.ord a e.size)

/-- The element needs no WAIT: its bytes lie in the own local store or are all forwarded (R156, R158). -/
def elemAtOnce (s : State) (c uid : Nat) (e : Elem) : Bool :=
  !avgPending s c uid e && (inLocal c e.loc || (heldBytes s c e).all Option.isSome)

/-- The entry of one store of the executing strand. -/
def sbEntry (s : State) (kind : OrderKind) (va : Word) (loc : Loc) (size data : Nat) : SbEntry :=
  ⟨s.me.uid, kind, va, loc, size, data % 2 ^ (8 * size), s.cyc, s.cyc, s.me.pc, none, []⟩

/-- An entry enters the buffer, and its item is folded (R163, R338). -/
def pushEntry (c n : Nat) (e : SbEntry) (s : State) : State :=
  foldItem c n e.va e.size (BitVec.ofNat 64 e.data)
    (s.modCore c fun k => { k with sb := k.sb ++ [{ e with since := s.cyc }] })

/-- The strand in a slot waits for buffer room (R162). -/
def wantsRoom (s : State) (c n : Nat) : Bool :=
  match s.waiting c n with
  | some (.storeRoom es _ _ _) => !es.isEmpty
  | some (.qst _ gs _ _) => !gs.isEmpty
  | _ => false

/-- A store of the core itself, or one of a slot that waited before, takes the next entry that frees (R162). -/
def storesBefore (s : State) (c n : Nat) : Bool :=
  !(s.core c).spill.isEmpty || (List.range 9).any fun m => wantsRoom s c m && waitBefore s (c, m) (c, n)

/-- Entries enter the buffer while there is room; the rest is answered (R162). Those of BFRONT fold no item (R338). -/
def pushEntries (fold : Bool) (c n : Nat) : List SbEntry → State → List SbEntry × State
  | [], s => ([], s)
  | e :: es, s =>
    if (s.core c).sb.length < 32 then
      pushEntries fold c n es (if fold then pushEntry c n e s
        else s.modCore c fun k => { k with sb := k.sb ++ [{ e with since := s.cyc }] })
    else (e :: es, s)

/-- The meaning of an event: its effect when its conditions hold, else nothing. -/
def event (f : State → Option State) (s : State) : Out :=
  .next ((f s).getD s)

/-- The meaning of a write or read of the host: it is processed once the host's earlier posted writes are performed at MODULE
scope (R317, R380). -/
def hostEvent (f : State → Option State) (s : State) : Out :=
  event (fun s => if s.fatal || settled true s 0 then f s else none) s

/-- The trap of an execution check with nothing to report but the word (R342). -/
def illWord (i : Instr) : State → State :=
  trapHere ⟨.illOperand, wordOf i, 0⟩

/-- The trap of an execution check that reports a value (R342). -/
def illValue (v : Word) : State → State :=
  trapHere ⟨.illOperand, v, 0⟩

/-- The executing strand is a handler of the service slot (R247). -/
def inHandler (s : State) : Bool :=
  s.cur.2 == 8

/-- The held-halves bitmap of a cluster: bit 2e + h for half h of engine e (R122). -/
def heldHalves (s : State) (k : Nat) : Nat :=
  ((s.cluster k).leases.map fun (i, _) => 2 ^ i).foldl (· + ·) 0

end Sys2Proof.Machine
end

