-- ==== Sys2Proof/Machine/Operands.lean ====
section
/-! DEFINITION. The operand forms of the scalar and memory instructions (R67, R89-R99, R155). -/

namespace Sys2Proof.Machine

/-- The effect of an instruction with two register sources and a destination (R89). -/
def alu2 (d a b : BitVec 4) (f : Word → Word → Word) : State → State :=
  needs [a, b] [d] fun s => setG d (f (s.me.get a) (s.me.get b)) s

/-- The effect of an instruction with one register source and a destination (R89, R91). -/
def alu1 (d a : BitVec 4) (f : Word → Word) : State → State :=
  needs [a] [d] fun s => setG d (f (s.me.get a)) s

/-- The displacement address of format M: base + sx(off12, 12) × size, by sz (R66, R96, R155). -/
def dispAddr (x : Strand) (a : BitVec 4) (o : BitVec 12) (sz : Nat) : Word :=
  x.get a + (o.signExtend 64) * BitVec.ofNat 64 (2 ^ sz)

/-- The register-sum address of majors 1A and 1B (R155). -/
def sumAddr (x : Strand) (a b : BitVec 4) : Word :=
  x.get a + x.get b

/-- The target of a word displacement (R99, R237). -/
def branchTarget (pc : Word) (i : Word) : Word :=
  pc + i * 4

/-- A result of n bytes as a register value, zero- or sign-extended (R155). -/
def extend (signed : Bool) (n x : Nat) : Word :=
  if signed then sx x (8 * n) else zx x (8 * n)

/-- The next register of a group (R245, R261). -/
def regPlus (r : BitVec 4) (i : Nat) : BitVec 4 :=
  r + BitVec.ofNat 4 i

/-- The n registers from r on. -/
def regGroup (r : BitVec 4) (n : Nat) : List (BitVec 4) :=
  (List.range n).map (regPlus r)

end Sys2Proof.Machine
end

