-- ==== Sys2Proof/Machine/Access.lean ====
section
/-! DEFINITION. Shared parts of the loads and stores: reading the elements of a load, its completion, departure for
migration, and stores that enter the buffer (R81, R155-R164, R251, R252, R360, R370). -/

namespace Sys2Proof.Machine

/-- The check of the access of an operation in WAIT when it is made: its address is translated now, whatever its issue found
(R154, R317). DEDUCED, log 60. -/
def checkAgain (s : State) (c n : Nat) (k : Acc) (va : Word) (align : Nat) : Except Stop Place :=
  checkAccess s c (s.strand c n).rights k va align

/-- The part of an answer that is for an element: its lane of several, or a fault at its own address (R158, R161). -/
def Elem.share (e : Elem) : Answer → Answer
  | .ok x => .ok (x / 2 ^ (8 * e.size * e.part) % 2 ^ (8 * e.size))
  | .stop st => .stop { st with xval := e.va }
  | a => a

/-- What an element of a load finds: not yet there, or an answer (R155, R160, R161). -/
def elemAnswer (s : State) (c uid : Nat) (e : Elem) : Option Answer :=
  match e.val with
  | some x => some (.ok x)
  | none =>
    match loadElem s c uid e with
    | .val x => some (.ok x)
    | .poison => some (.stop ⟨.poison, e.va, 0⟩)
    | .wait =>
      match e.loc with
      | .here _ => none
      | .there _ _ =>
        if e.tag = 0 then none
        else s.flight.findSome? fun m => match m with
          | .answer t a => if t = e.tag then some (e.share a) else none
          | _ => none

/-- The values of the elements before the first that has no value, and that element's answer. -/
def gather (s : State) (c uid : Nat) : List Elem → List (Elem × Nat) × Option (Elem × Option Answer)
  | [] => ([], none)
  | e :: es =>
    match elemAnswer s c uid e with
    | some (.ok x) => let r := gather s c uid es; ((e, x) :: r.1, r.2)
    | a => ([], some (e, a))

/-- The vector register with the lanes of the elements read replaced (R158). -/
def putLanes (old : VReg) (w : Nat) (vals : List (Nat × Nat)) : VReg :=
  BitVec.ofNat 512 (joinLanes w ((List.range (512 / w)).map fun i =>
    ((vals.find? fun x => x.1 == i).map Prod.snd).getD (lane old w i)))

/-- Tile key of accumulator a of a strand that holds a lease: engine × 8 + tile (R121). -/
def tileKey (x : Strand) (a : BitVec 2) : Nat :=
  match x.lease with
  | some (e, h) => 8 * e + 4 * h + a.toNat
  | none => 0

/-- Writes the tile bound to accumulator a of the strand in a slot, and sets its dirty flag (R125). -/
def putTile (c n : Nat) (a : BitVec 2) (t : Tile) (s : State) : State :=
  (s.modCluster (clusterOf c) fun k => { k with tiles := tabSet k.tiles (tileKey (s.strand c n) a) t }).modStrand c n
    fun x => { x with dirty := setBit x.dirty a.toNat true }

/-- The tile bound to accumulator a of the strand in a slot. -/
def tileOf (s : State) (c n : Nat) (a : BitVec 2) : Tile :=
  tabGet 0 (s.cluster (clusterOf c)).tiles (tileKey (s.strand c n) a)

/-- A load writes what it read (R155, R157, R158, R138). -/
def writeLoaded (c n : Nat) (dst : LoadDst) (vals : List (Elem × Nat)) (s : State) : State :=
  match dst with
  | .scalar d signed _ =>
    match vals with
    | (e, v) :: _ => s.modStrand c n fun x => x.put d (extend signed e.size v)
    | [] => s
  | .regs _ _ => s.modStrand c n fun x =>
      { vals.foldl (fun x (e, v) => x.put (BitVec.ofNat 4 e.idx) (BitVec.ofNat 64 v)) x with ridx := 0 }
  | .vec v t => s.modStrand c n fun x =>
      x.putVec v (putLanes (x.vec v) (laneWidth t) (vals.map fun (e, y) => (e.idx, y)))
  | .desc _ _ _ _ => s
  | .quant _ => s
  | .record _ => s
  | .tile a => putTile c n a (BitVec.ofNat 32768 (joinLanes 64 (vals.map Prod.snd))) s

/-- A load stops at element e after reading the ones before it (R157, R158, R360): an LDM has loaded those registers
and keeps its progress in RIDX, every other load writes nothing. -/
def partLoaded (c n : Nat) (dst : LoadDst) (vals : List (Elem × Nat)) (idx : Nat) (s : State) : State :=
  match dst with
  | .regs j h => (writeLoaded c n (.regs j h) vals s).modStrand c n fun x => { x with ridx := BitVec.ofNat 4 idx }
  | _ => s

/-- XAUX of a failing element: the lane of a vector access (R158). -/
def elemStop (dst : LoadDst) (idx : Nat) (st : Stop) : Stop :=
  match dst with
  | .vec _ _ => { st with xaux := st.xaux ||| BitVec.ofNat 64 idx }
  | _ => st

/-- Frees transaction tags: no answer to them is awaited, and those that have come are discarded (R370). -/
def dropTags (tags : List Nat) (s : State) : State :=
  { s with
    pending := s.pending.filter fun p => !tags.contains p.tag
    flight := s.flight.filter fun m => match m with
      | .answer t _ => !tags.contains t
      | _ => true }

/-- The tags of the elements of a load. -/
def elemTags (els : List Elem) : List Nat :=
  (els.map Elem.tag).filter (· != 0)

/-- A store in the buffer holds a byte of an element. -/
def forwards (x : SbEntry) (e : Elem) : Bool :=
  (List.range e.size).any fun i => (x.byte (e.loc.plus i)).isSome

/-- A store of another strand in the buffer, not noted yet, holds a byte that a load of the strand takes. -/
def newlySeen (uid : Nat) (els : List Elem) (x : SbEntry) : Bool :=
  x.uid != uid && !x.readers.contains uid && els.any (forwards x)

/-- The buffered stores of other strands whose bytes a load of the strand has forwarded bind it from now on (R166). DEDUCED,
log 14. -/
def markSeen (c uid : Nat) (els : List Elem) (s : State) : State :=
  if (s.core c).sb.any (newlySeen uid els) then
    s.modCore c fun k =>
      { k with sb := k.sb.map fun x => if newlySeen uid els x then { x with readers := x.readers ++ [uid] } else x }
  else s

/-- The first condition of R251 that refuses a departure of a strand, with the value that it reports. -/
def departStop (s : State) (c : Nat) (x : Strand) (v : Word) : Option Stop :=
  let kinds := x.axis.any fun a => a.kind != 0
  let progress := x.axis.any fun a => a.elem != 0
  if x.viu || kinds || progress || x.enz != 0 then
    some ⟨.migrateVector, v, BitVec.ofNat 64 (b2n x.viu + 2 * b2n kinds + 4 * b2n progress + 8 * b2n (x.enz != 0))⟩
  else if x.lease.isSome then some ⟨.engineLease, BitVec.ofNat 64 (heldHalves s (clusterOf c)), 0⟩
  else none

/-- The executing strand departs for a core of a module, or traps (R251); past says whether it resumes past the
instruction (R254). -/
def depart (core module : Nat) (past : Bool) (v : Word) (s : State) : State :=
  match departStop s s.cur.1 s.me v with
  | some st => trapHere st s
  | none => enterWait (.migrate core module past false false) s

/-- A load in WAIT whose strand leaves for a home core (R160, R161). -/
def departWait (c n core module : Nat) (s : State) : State :=
  s.setState c n (.wait (.migrate core module false false false))

/-- The register at which an LDM stops. -/
def LoadDst.stopAt : LoadDst → Nat
  | .regs j _ => j
  | _ => 0

/-- The home core for which an LDM departs after the elements read. -/
def LoadDst.home : LoadDst → Option Nat
  | .regs _ h => h
  | _ => none

/-- The end of a load in WAIT whose elements have all been answered (R155-R158, R160). -/
def loadEnd (c n : Nat) (els : List Elem) (dst : LoadDst) (stop : Option Stop)
    (got : List (Elem × Nat)) (bad : Option (Elem × Option Answer)) (s : State) : Option State :=
  let seen (s : State) : State := markSeen c (s.strand c n).uid (got.map Prod.fst) (dropTags (elemTags els) s)
  match bad with
  | some (_, none) => none
  | some (e, some (.stop st)) =>
    some (trapWait c n (elemStop dst e.idx st) (partLoaded c n dst got e.idx (seen s)))
  | some (e, some (.home core)) =>
    let m := match e.loc with
      | .there m _ => m
      | .here _ => s.modId
    let s1 := seen s
    match departStop s1 c (s1.strand c n) e.va with
    | some st => some (trapWait c n st s1)
    | none => some (departWait c n core m (partLoaded c n dst got e.idx s1))
  | _ =>
    let s1 := markSeen c (s.strand c n).uid els (dropTags (elemTags els) s)
    match stop with
    | none =>
      match dst.home with
      | none => some (wake c n id (writeLoaded c n dst got s1))
      | some core => some (departWait c n core s.modId (partLoaded c n dst got dst.stopAt s1))
    | some st => some (trapWait c n st (partLoaded c n dst got dst.stopAt s1))

/-- LOAD_COMPLETE (R156): the load in WAIT in a slot has all its data. DEDUCED, log 18. -/
def loadComplete (c n : Nat) (s : State) : Option State :=
  match s.waiting c n with
  | some (.load els dst stop) =>
    let r := gather s c (s.strand c n).uid els
    loadEnd c n els dst stop r.1 r.2 s
  | _ => none

/-- An element of another module can be requested: no byte of it is held, the strand's earlier stores to that module, and
those that it has seen, have left the buffer, and a tag is free (R161, R164, R166, R370). DEDUCED, log 18. -/
def sendable (s : State) (c uid : Nat) (e : Elem) : Bool :=
  match e.loc with
  | .here _ => false
  | .there m _ =>
    e.tag == 0 && e.val.isNone && !(heldBytes s c e).any Option.isSome &&
    (freeTag s c).isSome && !(s.core c).sb.any fun x => x.binds uid && match x.loc with
      | .there k _ => k == m
      | .here _ => false

/-- The loads that migrate: plain loads of majors 18 and 1A, and LDM (R160). -/
def LoadDst.migrates : LoadDst → Bool
  | .scalar _ _ plain => plain
  | .regs _ _ => true
  | _ => false

/-- The vector loads: lanes in one line of another module are read together (R211). -/
def LoadDst.isVec : LoadDst → Bool
  | .vec _ _ => true
  | _ => false

/-- LDM reads its doublewords in ascending order (R157). -/
def LoadDst.ascends : LoadDst → Bool
  | .regs _ _ => true
  | _ => false

/-- An element's address in another module; 0 for one of this module. -/
def Elem.far (e : Elem) : Nat :=
  match e.loc with
  | .there _ la => la
  | .here _ => 0

/-- Two elements lie in one line of another module. -/
def sameLine (e x : Elem) : Bool :=
  match e.loc, x.loc with
  | .there m a, .there k b => m == k && a / 64 == b / 64
  | _, _ => false

/-- The strand in a slot sends the request of one of its elements, for a vector load with the other lanes of its line. -/
def sendElem (c n : Nat) (dst : LoadDst) (els : List Elem) (e : Elem) (s : State) : List Elem × State :=
  let x := s.strand c n
  let mine := els.filter fun y => y == e || (dst.isVec && sendable s c x.uid y && sameLine e y)
  let kind : AccessKind :=
    if dst.isVec then .lanes (mine.map Elem.far) else .load (dst.migrates && n != 8 && !(s.core c).det)
  match e.loc with
  | .there m la =>
    let r := sendAccess c m ⟨la, e.size, kind, x.q, x.uid⟩ x.uid e.va x.pc false [] s
    (els.map fun y => if mine.contains y then { y with tag := r.1, part := mine.findIdx (· == y) } else y, r.2)
  | .here _ => (els, s)

/-- The requests of a load are sent, by fuel, while an element can be requested. -/
def sendElems (c n : Nat) (dst : LoadDst) : Nat → List Elem → State → List Elem × State
  | 0, els, s => (els, s)
  | f + 1, els, s =>
    match els.find? (sendable s c (s.strand c n).uid) with
    | some e => let r := sendElem c n dst els e s; sendElems c n dst f r.1 r.2
    | none => (els, s)

/-- The elements of an LDM before the first that finds no value take theirs, in order (R157). -/
def takeValues (c uid : Nat) : List Elem → State → List Elem × State
  | [], s => ([], s)
  | e :: es, s =>
    match elemAnswer s c uid e with
    | some (.ok x) =>
      let r := takeValues c uid es (markSeen c uid [e] (if e.tag = 0 then s else dropTags [e.tag] s))
      ({ e with val := some x, tag := 0 } :: r.1, r.2)
    | _ => (e :: es, s)

/-- An element of another module that has no value yet. -/
def Elem.isOpen (e : Elem) : Bool :=
  e.val.isNone && match e.loc with
    | .there _ _ => true
    | .here _ => false

/-- An LDM with doublewords of another module goes on: it takes the values that have come, and requests its next
doubleword (R157). -/
def ascend (c n : Nat) (els : List Elem) (dst : LoadDst) (s : State) : List Elem × State :=
  let r := takeValues c (s.strand c n).uid els s
  match r.1.find? fun e => e.val.isNone with
  | some e => if sendable r.2 c (s.strand c n).uid e then sendElem c n dst r.1 e r.2 else r
  | none => r

/-- A load in WAIT sends the requests that it can send. -/
def loadResume (c n : Nat) (s : State) : Option State :=
  match s.waiting c n with
  | some (.load els dst stop) =>
    let go (r : List Elem × State) : Option State := some (r.2.setState c n (.wait (.load r.1 dst stop)))
    if dst.ascends then
      if els.any Elem.isOpen then
        let r := ascend c n els dst s
        if r.1 = els then none else go r
      else none
    else if els.any (sendable s c (s.strand c n).uid) then go (sendElems c n dst els.length els s)
    else none
  | _ => none

/-- An element with the value that it finds at issue, when it needs no WAIT. -/
def readNow (s : State) (e : Elem) : Elem :=
  if elemAtOnce s s.cur.1 s.me.uid e then
    match elemAnswer s s.cur.1 s.me.uid e with
    | some (.ok x) => { e with val := some x }
    | _ => e
  else e

/-- The executing strand's load of elements, each with its place, and the trap that follows them (R156, R158); an LDM
reads at issue only what comes before its first wait (R157). -/
def startLoad (els : List Elem) (dst : LoadDst) (stop : Option Stop) (s : State) : State :=
  let c := s.cur.1
  let n := s.cur.2
  let first := if dst.ascends then els.takeWhile (elemAtOnce s c s.me.uid) else els
  let now := first.map (readNow s) ++ els.drop first.length
  let s1 := markSeen c s.me.uid (now.filter fun e => e.val.isSome) (enterWait (.load now dst stop) s)
  if els.all (elemAtOnce s c s.me.uid) then (loadComplete c n s1).getD s1
  else (loadResume c n s1).getD s1

/-- A plain load on a page migrates: its home is another core, and neither R25 nor R247 keeps the strand (R160). -/
def migHome (s : State) (p : Place) : Option Nat :=
  match p.mig with
  | some core => if core = s.cur.1 || (s.core s.cur.1).det || inHandler s then none else some core
  | none => none

/-- A scalar load (R155): its ordering kind, size, sign and address. -/
def loadScalar (kind : OrderKind) (d : BitVec 4) (signed : Bool) (size : Nat) (va : Word) (s : State) : State :=
  if kind = .sc && !isOwn s va then illValue va s
  else
    match checkAccess s s.cur.1 s.me.rights .load va size with
    | .error st => trapHere st s
    | .ok p =>
      let e : Elem := ⟨0, va, p.loc, size, p.ord, none, 0, 0⟩
      match kind with
      | .sc => enterWait (.scLoad e d signed (s.cyc / 16)) s
      | .plain =>
        match migHome s p with
        | some core => depart core s.modId false va s
        | none => startLoad [e] (.scalar d signed true) none s
      | _ => startLoad [e] (.scalar d signed false) none s

/-- The checked elements of an access of several, and the first that fails (R157, R158). -/
def placeAll (s : State) (c : Nat) (rt : Rights) (k : Nat → Acc) (size : Nat) :
    List (Nat × Word) → List (Nat × Word × Place) × Option (Nat × Stop)
  | [] => ([], none)
  | (i, va) :: es =>
    match checkAccess s c rt (k i) va size with
    | .error st => ([], some (i, st))
    | .ok p => let r := placeAll s c rt k size es; ((i, va, p) :: r.1, r.2)

/-- The elements of an access of the executing strand. -/
def placeElems (s : State) (k : Nat → Acc) (size : Nat) (es : List (Nat × Word)) :
    List (Nat × Word × Place) × Option (Nat × Stop) :=
  placeAll s s.cur.1 s.me.rights k size es

/-- The stores of every instruction but BFRONT and SPAWN fold their items as they enter the buffer, but an SC store when it is
performed and MSAVE when it completes (R169, R338). -/
def StoreFin.folds : StoreFin → Bool
  | .front _ _ _ => false
  | .spawn _ => false
  | .sc _ => false
  | .msave _ => false
  | _ => true

/-- The items of stores are folded, in order (R338). -/
def foldEntries (c n : Nat) (es : List SbEntry) (s : State) : State :=
  es.foldl (fun s e => foldItem c n e.va e.size (BitVec.ofNat 64 e.data) s) s

/-- A store that stays in WAIT until it is performed ends, with the trap of one of its own stores at another module, with the
trap that follows its stores, or with its own effect (R138, R161, R311). -/
def performedEnd (c n : Nat) (stop : Option Stop) (f : State → State) (s : State) : Option State :=
  let x := s.strand c n
  if !quiet s c x.uid then none
  else
    match x.fault.find? (·.1 == x.pc), stop with
    | some y, _ => some (trapWait c n y.2 (s.modStrand c n fun x => { x with fault := x.fault.erase y }))
    | none, some st => some (trapWait c n st s)
    | none, none => some (f s)

/-- The last entry of a store is in: what the storing instruction does then (R157, R158, R162, R169, R138). -/
def storeEnd (c n : Nat) (fin : StoreFin) (stop : Option Stop) (s : State) : Option State :=
  match fin with
  | .front d count _ => performedEnd c n stop (wake c n fun x => x.put d (BitVec.ofNat 64 count)) s
  | .msave es => performedEnd c n stop (fun s => wake c n id (foldEntries c n es s)) s
  | .stm idx =>
    match stop with
    | some st => some (trapWait c n st (s.modStrand c n fun x => { x with ridx := BitVec.ofNat 4 idx }))
    | none => some (wake c n (fun x => { x with ridx := 0 }) s)
  | .sc w =>
    match stop with
    | some st => some (trapWait c n st s)
    | none => some (s.setState c n (.wait (.scStore w)))
  | .spawn target =>
    match stop with
    | some st => some (trapWait c n st s)
    | none => some (wakeTo c n target (fun x => { (x.put 14 (x.get 14 - 64)).put 15 1 with spl := true }) s)
  | .plain =>
    match stop with
    | some st => some (trapWait c n st s)
    | none => some (wake c n id s)

/-- A store in WAIT for buffer room takes the entries that are free once those that wait before it have theirs; with the
last one in, it ends (R162). DEDUCED, log 50. -/
def storeResume (c n : Nat) (s : State) : Option State :=
  match s.waiting c n with
  | some (.storeRoom [] fin stop _) => storeEnd c n fin stop s
  | some (.storeRoom es fin stop _) =>
    let r := pushEntries fin.folds c n es s
    if storesBefore s c n || r.1.length = es.length then none
    else
      let s1 := r.2.setState c n (.wait (.storeRoom r.1 fin stop true))
      if r.1 = [] then some ((storeEnd c n fin stop s1).getD s1) else some s1
  | _ => none

/-- The executing strand's stores, and the trap that follows them. -/
def startStore (es : List SbEntry) (fin : StoreFin) (stop : Option Stop) (s : State) : State :=
  waitOr (.storeRoom es fin stop false) storeResume s

/-- A scalar store (R155). -/
def storeScalar (kind : OrderKind) (v : Word) (size : Nat) (va : Word) (s : State) : State :=
  if kind = .sc && !isOwn s va then illValue va s
  else
    match checkAccess s s.cur.1 s.me.rights (.store (if size = 8 then some v.toNat else none)) va size with
    | .error st => trapHere st s
    | .ok p =>
      let e := sbEntry s kind va p.loc size v.toNat
      startStore [e] (if kind = .sc then .sc (s.cyc / 16) else .plain) none s

end Sys2Proof.Machine
end

