-- ==== Sys2Proof/Machine/Atomic.lean ====
section
/-! DEFINITION. Atomics, reductions at memory, monitors and fences, with their events (R213-R232). -/

namespace Sys2Proof.Machine

/-- The bytes that an AMO of n bytes writes over old, when it writes (R217). -/
def amoResult (op : BitVec 3) (n old : Nat) (b cmp : Word) : Option Nat :=
  let x := b.toNat % 2 ^ (8 * n)
  let less := sval old (8 * n) < sval x (8 * n)
  match op.toNat with
  | 0 => some ((old + x) % 2 ^ (8 * n))
  | 1 => some (if less then old else x)
  | 2 => some (if less then x else old)
  | 3 => some (old &&& x)
  | 4 => some (old ||| x)
  | 5 => some (old ^^^ x)
  | 6 => some x
  | _ => if old = cmp.toNat % 2 ^ (8 * n) then some x else none

/-- The value that an AMO of n bytes returns (R217). -/
def amoValue (n old : Nat) : Word :=
  if n = 4 then sx old 32 else zx old 64

/-- One atomic access of an AMO at a physical address; a CAS that finds a mismatch still sets pending latches (R217,
R227). -/
def amoAccess (op : BitVec 3) (n pa : Nat) (b cmp : Word) (s : State) : State :=
  match amoResult op n (s.read pa n) b cmp with
  | some x => perform pa (leBytes n x) s
  | none => latchLines (linesOfRange pa n) s

/-- An AMO of the strand in a slot is performed with the line held: its digest items and its result (R217, R338). -/
def amoPerform (c n : Nat) (op : AmoOp) (pa : Nat) (s : State) : State :=
  let old := s.read pa op.size
  let s0 := { s with amoQ := s.amoQ.filter fun x => !(x.1 == c && x.2.1 == n) }
  if poisoned s pa op.size then trapWait c n ⟨.poison, op.va, 0⟩ s0
  else
    let uid := (s.strand c n).uid
    let s1 := shoot uid pa op.size s0 (noteWrote uid op.va pa op.size (amoAccess op.op op.size pa op.b op.cmp s0))
    let s2 := match amoResult op.op op.size old op.b op.cmp with
      | some x => foldItem c n op.va op.size (BitVec.ofNat 64 x) s1
      | none => s1
    wake c n (fun x => x.put op.d (amoValue op.size old))
      (foldItem c n op.va (op.size + 128) (BitVec.ofNat 64 old) s2)

/-- The first request of the queue of a line is the one of a slot (R218). -/
def amoFirst (s : State) (c n pa : Nat) : Bool :=
  match s.amoQ.find? fun x => x.2.2 == pa / 64 with
  | some x => x.1 == c && x.2.1 == n
  | none => false

/-- A request of a slot for the line of an address takes its turn: whether the slot holds the line now, and the state with
its request queued, or taken off when it does (R218, R236). -/
def takeTurn (c n pa : Nat) (s : State) : Bool × State :=
  let mine (x : Nat × Nat × Nat) : Bool := x.1 == c && x.2.1 == n
  if amoFirst s c n pa then (true, { s with amoQ := s.amoQ.filter fun x => !mine x })
  else if !s.amoQ.any fun x => x.2.2 == pa / 64 then (true, s)
  else if s.amoQ.any mine then (false, s)
  else (false, { s with amoQ := s.amoQ ++ [(c, n, pa / 64)] })

/-- A slot no longer asks for a line. -/
def dropTurn (c n : Nat) (s : State) : State :=
  { s with amoQ := s.amoQ.filter fun x => !(x.1 == c && x.2.1 == n) }

/-- AMO_PERFORM (R218). -/
def amoNext (c n : Nat) (s : State) : Option State :=
  match s.waiting c n with
  | some (.amo op true _) =>
    match op.loc with
    | .here pa => if amoFirst s c n pa && !op.sc then some (amoPerform c n op pa s) else none
    | .there _ _ => none
  | _ => none

/-- The tag of the load or AMO of a strand that awaits its answer. -/
def loadTag (s : State) (uid : Nat) : Option Nat :=
  (s.pending.find? fun p => p.uid == uid && !p.store).map Pending.tag

/-- The answer in flight to a tag. -/
def answerTo (s : State) (tag : Nat) : Option Answer :=
  s.flight.findSome? fun m => match m with
    | .answer t a => if t = tag then some a else none
    | _ => none

/-- The answer of another module to an AMO (R217). -/
def amoAnswered (c n : Nat) (op : AmoOp) (tag : Nat) (a : Answer) (s : State) : State :=
  let s1 := dropTags [tag] s
  match a with
  | .ok old =>
    let s2 := match amoResult op.op op.size old op.b op.cmp with
      | some x => foldItem c n op.va op.size (BitVec.ofNat 64 x) s1
      | none => s1
    wake c n (fun x => x.put op.d (amoValue op.size old))
      (foldItem c n op.va (op.size + 128) (BitVec.ofNat 64 old) s2)
  | .stop st => trapWait c n st s1
  | .home _ => s1

/-- An AMO in WAIT: its request goes to the home once every earlier access of the strand is performed, and to another
module likewise; there it ends with the answer (R217, R219). -/
def amoResume (c n : Nat) (s : State) : Option State :=
  let x := s.strand c n
  match s.waiting c n with
  | some (.amo op false w) =>
    if !quiet s c x.uid || op.sc then none
    else
      match checkAgain s c n .atomic op.va op.size with
      | .error st => some (trapWait c n st s)
      | .ok p =>
        let op' := { op with loc := p.loc }
        match p.loc with
        | .here pa => some ({ s with amoQ := s.amoQ ++ [(c, n, pa / 64)] }.setState c n (.wait (.amo op' true w)))
        | .there m la =>
          if (freeTag s c).isNone then none
          else
            some ((sendAccess c m ⟨la, op.size, .amo op.op op.b op.cmp, x.q, x.uid⟩ x.uid op.va x.pc false [] s).2.setState c n
              (.wait (.amo op' true w)))
  | some (.amo op true _) =>
    match op.loc, loadTag s x.uid with
    | .there _ _, some tag => (answerTo s tag).map fun a => amoAnswered c n op tag a s
    | _, _ => none
  | _ => none

/-- The effect of an AMO (R217). -/
def amoBody (op : BitVec 3) (d a b : BitVec 4) (z sc : BitVec 1) : State → State :=
  needs (if op = 7 then [a, b, d] else [a, b]) (if op = 7 then [] else [d]) fun s =>
    let size := if z = 0 then 4 else 8
    let va := s.me.get a
    if sc = 1 && !isOwn s va then illValue va s
    else
      match checkAccess s s.cur.1 s.me.rights .atomic va size with
      | .error st => trapHere st s
      | .ok p =>
        waitOr (.amo ⟨op, size, sc = 1, d, va, p.loc, s.me.get b, s.me.get d⟩ false (s.cyc / 16)) amoResume s

/-- AMO.ADD (R217). -/
def execAmoAdd (d a b : BitVec 4) (z r : BitVec 1) (p : BitVec 4) (s : State) : Out :=
  issue (.amoAdd d a b z r p) (amoBody 0 d a b z r) s

/-- AMO.MIN (R217). -/
def execAmoMin (d a b : BitVec 4) (z r : BitVec 1) (p : BitVec 4) (s : State) : Out :=
  issue (.amoMin d a b z r p) (amoBody 1 d a b z r) s

/-- AMO.MAX (R217). -/
def execAmoMax (d a b : BitVec 4) (z r : BitVec 1) (p : BitVec 4) (s : State) : Out :=
  issue (.amoMax d a b z r p) (amoBody 2 d a b z r) s

/-- AMO.AND (R217). -/
def execAmoAnd (d a b : BitVec 4) (z r : BitVec 1) (p : BitVec 4) (s : State) : Out :=
  issue (.amoAnd d a b z r p) (amoBody 3 d a b z r) s

/-- AMO.OR (R217). -/
def execAmoOr (d a b : BitVec 4) (z r : BitVec 1) (p : BitVec 4) (s : State) : Out :=
  issue (.amoOr d a b z r p) (amoBody 4 d a b z r) s

/-- AMO.XOR (R217). -/
def execAmoXor (d a b : BitVec 4) (z r : BitVec 1) (p : BitVec 4) (s : State) : Out :=
  issue (.amoXor d a b z r p) (amoBody 5 d a b z r) s

/-- AMO.SWAP (R217). -/
def execAmoSwap (d a b : BitVec 4) (z r : BitVec 1) (p : BitVec 4) (s : State) : Out :=
  issue (.amoSwap d a b z r p) (amoBody 6 d a b z r) s

/-- AMO.CAS (R217). -/
def execAmoCas (d a b : BitVec 4) (z r : BitVec 1) (p : BitVec 4) (s : State) : Out :=
  issue (.amoCas d a b z r p) (amoBody 7 d a b z r) s

/-- AMO_PERFORM (R218). -/
def execAmoPerform (c n : Nat) (s : State) : Out :=
  event (amoNext c n) s

/-- An ordered atomic whose strand's earlier accesses are performed sends its entry (R220). -/
def ordResume (c n : Nat) (s : State) : Option State :=
  match ordOf s c n with
  | some op =>
    if op.phase = .draining && quiet s c (s.strand c n).uid then
      match checkAgain s c n .ord op.va 16 with
      | .error st => some (trapWait c n st s)
      | .ok p =>
        match p.loc with
        | .here pa => some (setOrd c n { op with cell := pa } .travelling s)
        | .there _ _ => none
    else none
  | none => none

/-- The effect of an ordered atomic (R220). -/
def ordBody (op : Nat) (d a b : BitVec 4) : State → State :=
  needs [a, b, d] [] fun s =>
    let va := s.me.get a
    if !isOwn s va then illValue va s
    else
      match checkAccess s s.cur.1 s.me.rights .ord va 16 with
      | .error st => trapHere st s
      | .ok p =>
        match p.loc with
        | .here pa =>
          waitOr (.ord ⟨op, d, va, pa, bits (s.me.get b) 31 0, s.me.get d, 0, 0, .draining⟩) ordResume s
        | .there _ _ => s

/-- AMO.ORD.ADD (R220). -/
def execAmoOrdAdd (d a b p : BitVec 4) (s : State) : Out :=
  issue (.amoOrdAdd d a b p) (ordBody 0 d a b) s

/-- AMO.ORD.FADD (R220). -/
def execAmoOrdFadd (d a b p : BitVec 4) (s : State) : Out :=
  issue (.amoOrdFadd d a b p) (ordBody 1 d a b) s

/-- AMO.ORD.SWAP (R220). -/
def execAmoOrdSwap (d a b p : BitVec 4) (s : State) : Out :=
  issue (.amoOrdSwap d a b p) (ordBody 2 d a b) s

/-- distance(e) of R221. -/
def ordDistance (s : State) (op : OrdOp) : Nat :=
  (op.key + 2 ^ 32 - cellNext s op.cell) % 2 ^ 32

/-- An entry comes before another as a victim: the larger distance, then the higher cell, then the later arrival
(R221). DEDUCED, log 47. -/
def ordWorse (s : State) (x y : Nat × Nat × OrdOp) : Bool :=
  let a := (ordDistance s x.2.2, x.2.2.cell, x.2.2.arrival)
  let b := (ordDistance s y.2.2, y.2.2.cell, y.2.2.arrival)
  decide (a.1 > b.1) || (a.1 == b.1 && (decide (a.2.1 > b.2.1) || (a.2.1 == b.2.1 && decide (a.2.2 > b.2.2))))

/-- The entry of a slot is held at its home slice. -/
def ordHold (c n : Nat) (op : OrdOp) (s : State) : State :=
  { setOrd c n op .held s with held := s.held ++ [(c, n, (Config.homeSlice (op.cell / 64)).val)] }

/-- ORD_ENTRY_ARRIVAL (R221): the entry of a slot reaches its home slice. -/
def ordArrive (c n : Nat) (s : State) : Option State :=
  match ordOf s c n with
  | some op0 =>
    if op0.phase ≠ .travelling then none
    else
      let (t, s1) := s.fresh
      let op := { op0 with arrival := t }
      if cellMode s op.cell ≠ 0 then some (setOrd c n op (.refused ⟨.regionClass, op.va, 0⟩) s1)
      else if ordDistance s op ≥ 2 ^ 31 then some (setOrd c n op (.refused (ordPassed s op)) s1)
      else if op.key = cellNext s op.cell then some (shoot (s.strand c n).uid op.cell 64 s1 (ordApply c n op s1))
      else
        let mine := s.held.filterMap fun (c', n', sl) =>
          if sl = (Config.homeSlice (op.cell / 64)).val then (ordOf s c' n').map fun o => (c', n', o) else none
        if mine.length < 16 then some (ordHold c n op s1)
        else
          let v := mine.foldl (fun w e => if ordWorse s e w then e else w) (c, n, op)
          if v.1 = c && v.2.1 = n then some (setOrd c n op .nacked s1)
          else some (ordHold c n op (unhold v.1 v.2.1 (setOrd v.1 v.2.1 v.2.2 .nacked s1)))
  | none => none

/-- ORD_ENTRY_ARRIVAL (R221). -/
def execOrdEntryArrival (c n : Nat) (s : State) : Out :=
  event (ordArrive c n) s

/-- ORD_REPLY (R221): the old value or the refusal reaches the strand. -/
def ordReply (c n : Nat) (s : State) : Option State :=
  match ordOf s c n with
  | some op =>
    match op.phase with
    | .applied old =>
      some (wake c n (fun x => x.put op.d old) (foldItem c n op.va 136 old (foldItem c n op.va 8 op.v s)))
    | .refused st => some (trapWait c n st s)
    | _ => none
  | none => none

/-- ORD_REPLY (R221). -/
def execOrdReply (c n : Nat) (s : State) : Out :=
  event (ordReply c n) s

/-- ORD_NACK (R222): the entry is to be sent again after its back-off. -/
def ordNack (c n : Nat) (s : State) : Option State :=
  match ordOf s c n with
  | some op =>
    if op.phase = .nacked then
      some (setOrd c n { op with nacks := op.nacks + 1 } (.backOff (s.cyc + 256 * min (op.nacks + 1) 16)) s)
    else none
  | none => none

/-- ORD_NACK (R222). -/
def execOrdNack (c n : Nat) (s : State) : Out :=
  event (ordNack c n) s

/-- ORD_RESEND (R222). -/
def ordResend (c n : Nat) (s : State) : Option State :=
  match ordOf s c n with
  | some op =>
    match op.phase with
    | .backOff t => if t ≤ s.cyc then some (setOrd c n op .travelling s) else none
    | _ => none
  | none => none

/-- ORD_RESEND (R222). -/
def execOrdResend (c n : Nat) (s : State) : Out :=
  event (ordResend c n) s

/-- The cycle of the last issue of a slot. -/
def issuedAt (s : State) (c n : Nat) : Nat :=
  (s.slot c n).lastIssue.getD 0

/-- The entry of an ordered atomic is neither applied nor refused. -/
def OrdPhase.open : OrdPhase → Bool
  | .applied _ => false
  | .refused _ => false
  | _ => true

/-- ORD_TIMEOUT (R222): an entry not applied 2^26 cycles after its issue is withdrawn. -/
def ordTimeout (c n : Nat) (s : State) : Option State :=
  match ordOf s c n with
  | some op =>
    if op.phase.open && decide (issuedAt s c n + 2 ^ 26 ≤ s.cyc) then
      some (trapWait c n ⟨.queueWaitLimit, op.va, BitVec.ofNat 64 (op.key + cellNext s op.cell * 2 ^ 32)⟩ (unhold c n s))
    else none
  | none => none

/-- ORD_TIMEOUT (R222). -/
def execOrdTimeout (c n : Nat) (s : State) : Out :=
  event (ordTimeout c n) s

/-- FRED (R223). -/
def execFred (d a p : BitVec 4) (s : State) : Out :=
  issue (.fred d a p) (needs [d, a] [] fun s =>
    let va := s.me.get a
    if !isOwn s va then illValue va s
    else
      match checkAccess s s.cur.1 s.me.rights .fred va 16 with
      | .error st => trapHere st s
      | .ok p =>
        match p.loc with
        | .here pa => enterWait (.fred va pa (bits (s.me.get d) 31 0)) s
        | .there _ _ => s) s

/-- No other strand of the core waits with an earlier FRED to the cell (R223). -/
def fredFirst (s : State) (c n cell : Nat) : Bool :=
  (List.range 9).all fun m => match s.waiting c m with
    | some (.fred _ cell' _) => m == n || cell' != cell || waitBefore s (c, n) (c, m)
    | _ => true

/-- FRED_UPDATE (R223): the update is applied to the core's slot, or refused. -/
def fredUpdate (c n : Nat) (s : State) : Option State :=
  match s.waiting c n with
  | some (.fred va cell x) =>
    if !drained s c (s.strand c n).uid || !fredFirst s c n cell then none
    else
      match checkAgain s c n .fred va 16 with
      | .error st => some (trapWait c n st s)
      | .ok p =>
        match p.loc with
        | .here pa =>
          if !isRedCell s pa then some (trapWait c n ⟨.regionClass, va, 0⟩ s)
          else
            let a := pa + 0x40 + 4 * c
            let sum := (rneTo .f32 (fadd 0 (codeVal .f32 (s.read a 4)) (codeVal .f32 x)).1).1
            some (wake c n id (foldItem c n va 4 (BitVec.ofNat 64 x)
              (shoot (s.strand c n).uid a 4 s (perform a (leBytes 4 sum) s))))
        | .there _ _ => none
  | _ => none

/-- FRED_UPDATE (R223). -/
def execFredUpdate (c n : Nat) (s : State) : Out :=
  event (fredUpdate c n) s

/-- MON (R225). -/
def execMon (a p : BitVec 4) (s : State) : Out :=
  issue (.mon a p) (needs [a] [] fun s =>
    let va := s.me.get a
    if !isOwn s va then illValue va s
    else
      match checkAccess s s.cur.1 s.me.rights .load va 1 with
      | .error st => trapHere st s
      | .ok p =>
        match p.loc with
        | .here pa =>
          if s.me.mon.contains (pa / 64) then advance s
          else if s.me.mon.length ≥ 4 then illValue va s
          else enterWait (.mon va) s
        | .there _ _ => s) s

/-- MONITOR_REGISTERED (R225). -/
def monRegistered (c n : Nat) (s : State) : Option State :=
  match s.waiting c n with
  | some (.mon va) =>
    match checkAgain s c n .load va 1 with
    | .error st => some (trapWait c n st s)
    | .ok p =>
      match p.loc with
      | .here pa => some (wake c n (fun x => { x with mon := (x.mon.erase (pa / 64)) ++ [pa / 64] }) s)
      | .there _ _ => none
  | _ => none

/-- MONITOR_REGISTERED (R225). -/
def execMonitorRegistered (c n : Nat) (s : State) : Out :=
  event (monRegistered c n) s

/-- MUNM (R226). -/
def execMunm (p : BitVec 4) (s : State) : Out :=
  issue (.munm p) (finish fun x => { x with mon := [], latch := false }) s

/-- The code with which an MWAIT leaves WAIT now: the lowest event that holds (R228). -/
def mwaitCode (s : State) (c n : Nat) (limit : Option Nat) (entered preempted : Bool) : Option Nat :=
  let late := match limit with
    | some t => decide (t ≤ s.cyc)
    | none => false
  if (s.strand c n).latch then some 0
  else if late then some 1
  else if entered then some 2
  else if preempted then some 3
  else none

/-- An MWAIT leaves WAIT with a code (R228). -/
def mwaitDone (c n : Nat) (d : BitVec 4) (code : Nat) (s : State) : State :=
  wake c n (fun x =>
    let y := x.put d (BitVec.ofNat 64 code)
    if code = 0 then { y with latch := false } else y) s

/-- An MWAIT in WAIT for which a wake event holds (R228). -/
def mwaitResume (c n : Nat) (s : State) : Option State :=
  match s.waiting c n with
  | some (.mwait d limit e p) => (mwaitCode s c n limit e p).map fun code => mwaitDone c n d code s
  | _ => none

/-- MWAIT (R228); in a handler it raises ILL_OPERAND (R247). The latch is sampled at the end of the cycle. -/
def execMwait (d a p : BitVec 4) (s : State) : Out :=
  issue (.mwait d a p) (needs [a] [d] fun s =>
    if inHandler s then illWord (.mwait d a p) s
    else
      let t := bits (s.me.get a) 39 0
      enterWait (.mwait d (if t = 0 then none else some (s.cyc + t)) false false) s) s

/-- MWAIT_TIMEOUT (R228): the time-out expires with no write seen. -/
def mwaitTimeout (c n : Nat) (s : State) : Option State :=
  match s.waiting c n with
  | some (.mwait d limit e p) =>
    if mwaitCode s c n limit e p = some 1 then some (mwaitDone c n d 1 s) else none
  | _ => none

/-- MWAIT_TIMEOUT (R228). -/
def execMwaitTimeout (c n : Nat) (s : State) : Out :=
  event (mwaitTimeout c n) s

/-- The serial number of the strand that issued an engine item. -/
def QItem.uid : QItem → Nat
  | .cmd c => c.uid
  | .chain c => c.uid
  | .marker _ => 0

/-- Every engine command of a strand is performed (R231). -/
def enginesDone (s : State) (uid : Nat) : Bool :=
  !(s.clusters.any fun (_, k) => k.copyQ.toList.any fun q => q.any fun i => i.uid == uid) &&
  !(s.dies.any fun (_, k) => k.pq.toList.any fun q => q.any fun i => i.uid == uid)

/-- Every earlier access and engine command of a strand is performed at a scope (R231). At CORE scope its stores are, for the
core sees them in its buffer (R163); its averaging entries are not before they are applied (R210). DEDUCED, log 31. -/
def fenceDone (scope : Nat) (s : State) (c uid : Nat) : Bool :=
  (if scope = 0 then !(s.core c).avgQ.any (·.uid == uid) else quiet s c uid) && enginesDone s uid

/-- The stores to other modules that bind a strand of core c bind every strand of that core from now on: what a fence at CORE
scope releases to them, before those modules have acknowledged it (R168, R394). DEDUCED, log 31. -/
def releaseToCore (c uid : Nat) (s : State) : State :=
  let far (e : SbEntry) : Bool := match e.loc with
    | .there _ _ => true
    | .here _ => false
  let s1 : State := { s with
    pending := s.pending.map fun p => if p.binds c uid && !p.readers.contains 0 then { p with readers := 0 :: p.readers } else p }
  if (s.core c).sb.any fun e => far e && e.binds uid then
    s1.modCore c fun k => { k with
      sb := k.sb.map fun e => if far e && e.binds uid && !e.readers.contains 0 then { e with readers := 0 :: e.readers } else e }
  else s1

/-- What a fence does as it completes: at CORE scope, it releases the stores that are not performed elsewhere. -/
def fenceEffect (scope c uid : Nat) (s : State) : State :=
  if scope = 0 then releaseToCore c uid s else s

/-- A FENCE in WAIT whose condition holds (R231). -/
def fenceResume (c n : Nat) (s : State) : Option State :=
  match s.waiting c n with
  | some (.fence scope _) =>
    let uid := (s.strand c n).uid
    if fenceDone scope s c uid then some (wake c n id (fenceEffect scope c uid s)) else none
  | _ => none

/-- The effect of a fence that waits for the strand's earlier accesses (R231); its loads have all returned. -/
def fenceBody (kind : Nat) (scope : BitVec 3) : State → State :=
  fun s =>
    if scope = 0 ∧ fenceDone 0 s s.cur.1 s.me.uid = true then advance (fenceEffect 0 s.cur.1 s.me.uid s)
    else waitOr (.fence scope.toNat kind) fenceResume s

/-- FENCE of kind ACQ: every earlier load of the strand has returned its value when it issues (R231). -/
def execFenceAcq (r : BitVec 3) (p : BitVec 4) (s : State) : Out :=
  issue (.fenceAcq r p) advance s

/-- FENCE of kind REL (R231). -/
def execFenceRel (r : BitVec 3) (p : BitVec 4) (s : State) : Out :=
  issue (.fenceRel r p) (fenceBody 1 r) s

/-- FENCE of kind FULL (R231). -/
def execFenceFull (r : BitVec 3) (p : BitVec 4) (s : State) : Out :=
  issue (.fenceFull r p) (fenceBody 2 r) s

end Sys2Proof.Machine
end

