-- ==== Sys2Proof/Machine/Flags.lean ====
section
/-! DEFINITION. Conditions, and what the exception flags of an operation do to FPS and to the strand (R55-R57, R97,
R116). -/

namespace Sys2Proof.Machine

/-- The conditions of R97 on 64-bit values. -/
def cond (cc : BitVec 3) (a b : Word) : Bool :=
  match cc.toNat with
  | 0 => a == b
  | 1 => a != b
  | 2 => a.slt b
  | 3 => a.sle b
  | 4 => a.ult b
  | 5 => a.ule b
  | _ => false

/-- The cause of an enabled exception, in the order of R57. -/
def fpCause : Nat → Cause
  | 0 => .fpInvalid
  | 1 => .fpDivZero
  | _ => .fpOverflow

/-- Merges flags into FPS (R56). -/
def mergeFps (fl : Flags) (x : Strand) : Strand :=
  { x with fps := x.fps ||| fl }

/-- A flag set holds an exception that traps under the captured enables (R57). -/
def hasEnabled (env : FpEnv) (fl : Flags) : Bool :=
  (enabledTrap env fl).isSome

/-- The end of a floating-point instruction of the executing strand (R56, R57): its flags, in element order with the
index reported for each, are merged; an enabled exception traps with no other effect; else done runs. -/
def fpEnd (env : FpEnv) (fls : List (Nat × Flags)) (done : State → State) (s : State) : State :=
  let all := fls.foldl (fun acc (_, f) => acc ||| f) 0
  let s1 := s.modMe (mergeFps all)
  match enabledTrap env all with
  | none => done s1
  | some k =>
    let i := ((fls.find? fun (_, f) => hasEnabled env f).map Prod.fst).getD 0
    trapHere ⟨fpCause k, all.setWidth 64, BitVec.ofNat 64 i⟩ s1

end Sys2Proof.Machine
end

