-- ==== Sys2Proof/Machine/Averaging.lean ====
section
/-! DEFINITION. The averaging instructions (R190-R200) and their event. -/

namespace Sys2Proof.Machine

/-- A configuration word that violates R190. -/
def cfgBad (c : Word) : Bool :=
  bits c 7 6 != 0 || bitAt c 14 || bits c 23 22 != 0 || bits c 46 38 != 0 ||
  decide (cfgSigma c > 62) || decide (bits c 13 12 > 1) || decide (cfgMinw c = 0)

/-- The region whose base is an address. -/
def regionOf (s : State) (la : Nat) : Option (Nat × Region) :=
  s.regions.find? fun (_, r) => r.base == la

/-- The first page of a range that does not translate, or has no AVG attribute (R191). -/
def pagesBad (s : State) (va : Word) : Nat → Nat → Option Stop
  | 0, _ => none
  | f + 1, i =>
    let a := va + BitVec.ofNat 64 (i * 2 ^ 18)
    match walk s (localPart a) with
    | .fault level why => some ⟨.pageFault, a, detail .load level why⟩
    | .leaf _ e _ => if bitAt e 7 then pagesBad s va f (i + 1) else some ⟨.regionClass, a, 0⟩

/-- Every line of the range becomes 0 for a strand, page by page; as a store to a page table, as in shoot (R191, R317). -/
def zeroPages (uid la : Nat) : Nat → Nat → State → State
  | 0, _, s => s
  | f + 1, i, s =>
    let s1 := match physical [] s (la + i * 2 ^ 18) with
      | some pa => shoot uid pa (2 ^ 18) s (clearRange pa (2 ^ 18) s)
      | none => s
    zeroPages uid la f (i + 1) s1

/-- A new region (R191). -/
def newRegion (base : Nat) (c : Word) : Region :=
  { base := base, cfg := c, applied := Vector.replicate 8 0, escrow := Vector.replicate 8 0,
    forfeit := Vector.replicate 8 0, ovf := false, qc := cfgQuiesce c, metric := [], count := [], last := [] }

/-- A region takes a new configuration; lines that it no longer has lose their metrics (R191, R197, R201). -/
def reconfigure (c : Word) (r : Region) : Region :=
  let same := bits c 13 12 == bits r.cfg 13 12 && bits c 63 48 == bits r.cfg 63 48
  settleQc { r with cfg := c, count := if same then r.count else []
                    metric := r.metric.filter fun x => decide (x.1 < 4096 * cfgLen c) }

/-- The effect of GCFG on the table: the old configuration word and the new state, or its trap (R191). DEDUCED, log 22,
for XVAL, and for a changed LENM1, which R191's order of effects checks no further. -/
def gcfgEffect (b c : Word) (s : State) : Except Stop (Word × State) :=
  let la := localPart b
  let bad (v : Word) (k : Nat) : Except Stop (Word × State) := .error ⟨.illOperand, v, BitVec.ofNat 64 k⟩
  let del := bitAt c 47
  let len := cfgLen c * 2 ^ 18
  if cfgBad c then bad c 1
  else if la % 2 ^ 18 ≠ 0 || !isOwn s b || rangeOf la != some .hbm then bad b 2
  else
    match regionOf s la with
    | some (e, r) =>
      if (del || cfgSigma c != cfgSigma r.cfg || cfgLen c != cfgLen r.cfg) && !r.qc then bad b 3
      else if del then .ok (r.cfg, { s with regions := tabDel s.regions e })
      else .ok (r.cfg, { s with regions := tabSet s.regions e (reconfigure c r) })
    | none =>
      if del then bad b 4
      else if s.regions.length ≥ 64 || s.regions.any (fun (_, r) =>
          decide (r.base < la + len) && decide (la < r.base + cfgLen r.cfg * 2 ^ 18)) then bad b 5
      else
        match pagesBad s b (cfgLen c) 0 with
        | some st => .error st
        | none =>
          let e := (firstBelow 64 fun i => (tabFind s.regions i).isNone).getD 0
          .ok (0, let s1 := zeroPages s.me.uid la (cfgLen c) 0 s
            { s1 with regions := tabSet s1.regions e (newRegion la c) })

/-- GCFG (R191). DEDUCED, log 8: it completes at issue. -/
def execGcfg (d a b p : BitVec 4) (s : State) : Out :=
  issue (.gcfg d a b p) (needs [a, b] [d] fun s =>
    match gcfgEffect (s.me.get a) (s.me.get b) s with
    | .error st => trapHere st s
    | .ok (old, s1) => setG d old s1) s

/-- The checks of a line address (R193, R154, R212): the entry and region, and the physical line. -/
def checkLine (s : State) (va : Word) (write : Bool) : Except Stop (Nat × Region × Nat) :=
  if va.toNat % 64 ≠ 0 then .error ⟨.align, va, 0⟩
  else if !isOwn s va then .error ⟨.illOperand, va, 0⟩
  else
    match regionAt s (localPart va) with
    | none => .error ⟨.regionClass, va, 0⟩
    | some (e, r) =>
      match checkAccess s s.cur.1 s.me.rights (.avg write) va 64 with
      | .error st => .error st
      | .ok p =>
        match p.loc with
        | .here pa => if poisoned s pa 64 then .error ⟨.poison, va, 0⟩ else .ok (e, r, pa)
        | .there _ _ => .error ⟨.illOperand, va, 0⟩

/-- The checks of a region base (R193). -/
def checkBase (s : State) (va : Word) : Except Stop (Nat × Region) :=
  if !isOwn s va then .error ⟨.illOperand, va, 0⟩
  else
    match regionOf s (localPart va) with
    | none => .error ⟨.regionClass, va, 0⟩
    | some x => .ok x

/-- An entry of the buffer stores to a line. -/
def SbEntry.meetsLine (e : SbEntry) (pa : Nat) : Bool :=
  match e.loc with
  | .here a => decide (a < pa + 64) && decide (pa < a + e.size)
  | .there _ _ => false

/-- An earlier plain store of the strand to a line is still in the buffer, one that it has seen, or one that a release which it
has seen comes after (R166, R168, R200, R232). -/
def lineHeld (s : State) (c uid pa : Nat) : Bool :=
  let sb := (s.core c).sb
  (sb.any fun e => e.binds uid && e.meetsLine pa) ||
    (sb.zipIdx.any fun (e, i) => e.meetsLine pa && (seenPart (sb.drop (i + 1)) uid).any (·.kind != .plain))

/-- An averaging entry for a line is not yet applied: one of the strand, or of a strand whose release it has seen. -/
def lineQueued (s : State) (c uid pa : Nat) : Bool :=
  avgPending s c uid ⟨0, 0, .here (pa / 64 * 64), 64, false, none, 0, 0⟩

/-- The digest items of a queue entry: the deposited words, and the weight of a GSEED (R338). -/
def foldAvg (c n : Nat) (x : AvgEntry) (s : State) : State :=
  (List.range 8).foldl (fun s j =>
    let a := x.va + BitVec.ofNat 64 (8 * j)
    if j = 7 then (if x.seed then foldItem c n a 8 x.weight s else s)
    else if x.mask.testBit j then foldItem c n a 8 (BitVec.ofInt 64 (x.d[j]?.getD 0)) s
    else s) s

/-- A GSEED or GADD takes its entry once the queue has room and the strand's stores to the line have left (R200). -/
def gstoreResume (c n : Nat) (s : State) : Option State :=
  match s.waiting c n with
  | some (.gstore x fl) =>
    if (s.core c).avgQ.length < 16 && !lineHeld s c x.uid x.line then
      match checkAgain s c n (.avg true) x.va 64 with
      | .error st => some (trapWait c n st s)
      | .ok p =>
        match p.loc with
        | .here pa =>
          let y := { x with line := pa, walked := s.cyc }
          some (wake c n (mergeFps fl) (foldAvg c n y (s.modCore c fun k => { k with avgQ := k.avgQ ++ [y] })))
        | .there _ _ => none
    else none
  | _ => none

/-- The effect of GSEED and GADD (R194, R195, R200): an enabled exception traps at once (R57); else the flags are merged
when the entry is in the queue (R56). -/
def depositBody (seed : Bool) (v : BitVec 3) (a b : BitVec 4) : State → State :=
  needsVec [a, b] [] fun s =>
    let x := s.me
    let va := x.get a
    match checkLine s va true with
    | .error st => trapHere st s
    | .ok (_, r, pa) =>
      let mask := if seed || b == 0 then 0x7F else bits (x.get b) 6 0
      let ds := (List.range 7).map fun j =>
        if mask.testBit j then deposit (cfgSigma r.cfg) (fdecode x.env.fiz .f32 (lane (x.vec v) 32 j)) else (0, 0)
      let d : Vector Int 7 := Vector.ofFn fun j => (ds.getD j.val (0, 0)).1
      let all := ds.foldl (fun f e => f ||| e.2) 0
      if (enabledTrap x.env all).isSome then
        fpEnd x.env ((List.range 7).map fun j => (j, (ds.getD j (0, 0)).2)) id s
      else if mask = 0 then advance s
      else waitOr (.gstore ⟨x.uid, s.cur.2, seed, pa, va, d, mask, x.get b, s.cyc⟩ all) gstoreResume s

/-- GSEED (R194). -/
def execGseed (v : BitVec 3) (a b p : BitVec 4) (s : State) : Out :=
  issue (.gseed v a b p) (depositBody true v a b) s

/-- GADD (R195). -/
def execGadd (v : BitVec 3) (a b p : BitVec 4) (s : State) : Out :=
  issue (.gadd v a b p) (depositBody false v a b) s

/-- The estimates of the selected words of a line, with their flags (R196). -/
def estimates (s : State) (pa sigma mask : Nat) : List (Nat × Nat × Flags) :=
  ((List.range 7).filter mask.testBit).map fun j =>
    (j, estimate (lineWord s pa j) (lineWord s pa 7).toNat sigma)

/-- The line of a GLD in WAIT, checked again when it is read (R154, R212, R317). -/
def lineAgain (s : State) (c n : Nat) (va : Word) : Except Stop Nat :=
  match checkAgain s c n (.avg false) va 64 with
  | .error st => .error st
  | .ok p =>
    match p.loc with
    | .here pa => if poisoned s pa 64 then .error ⟨.poison, va, 0⟩ else .ok pa
    | .there _ _ => .error ⟨.illOperand, va, 0⟩

/-- A GLD reads its snapshot once the strand's stores and entries for the line are performed (R196, R200). -/
def gldResume (c n : Nat) (s : State) : Option State :=
  match s.waiting c n with
  | some (.gld line va mask v env) =>
    let uid := (s.strand c n).uid
    if lineHeld s c uid line || lineQueued s c uid line then none
    else
      match lineAgain s c n va, regionAt s (localPart va) with
      | .error st, _ => some (trapWait c n st s)
      | .ok _, none => some (trapWait c n ⟨.regionClass, va, 0⟩ s)
      | .ok line, some (_, r) =>
        let es := estimates s line (cfgSigma r.cfg) mask
        let all := es.foldl (fun f e => f ||| e.2.2) 0
        let s1 := s.modStrand c n (mergeFps all)
        match enabledTrap env all with
        | some k =>
          let i := ((es.find? fun e => hasEnabled env e.2.2).map Prod.fst).getD 0
          some (trapWait c n ⟨fpCause k, all.setWidth 64, BitVec.ofNat 64 i⟩ s1)
        | none => some (wake c n (fun x => x.putVec v (putLanes (x.vec v) 32 (es.map fun e => (e.1, e.2.1)))) s1)
  | _ => none

/-- GLD (R196). -/
def execGld (v : BitVec 3) (a b p : BitVec 4) (s : State) : Out :=
  issue (.gld v a b p) (needsVec [a, b] [] fun s =>
    let x := s.me
    match checkLine s (x.get a) false with
    | .error st => trapHere st s
    | .ok (_, _, pa) =>
      waitOr (.gld pa (x.get a) (if b == 0 then 0x7F else bits (x.get b) 6 0) v x.env) gldResume s) s

/-- Every line's metric is present and at or below a threshold (R197). -/
def spreadBelow (r : Region) (t : FVal) : Bool :=
  r.metric.length == regionLines r &&
  r.metric.all fun (_, m) => flt (codeVal .f16 m) t || feq (codeVal .f16 m) t

/-- GSPRD (R197); all lines are evaluated in one step: DEDUCED, log 8. FIZ does not flush its F32 threshold: DESIGN CHOICE, log 22.
-/
def execGsprd (d : BitVec 3) (a b p : BitVec 4) (s : State) : Out :=
  issue (.gsprd d a b p) (needs [a, b] [] fun s =>
    let g := s.me.get b
    match checkBase s (s.me.get a) with
    | .error st => trapHere st s
    | .ok (e, r) =>
      let ok := spreadBelow r (codeVal .f32 (bits g 31 0))
      let s1 := if bitAt g 32 then s.modRegion e fun y => { y with metric := [] } else s
      finish (fun x => x.putPred d ok) s1) s

/-- A GFENCE in WAIT whose strand's entries are all applied (R198). -/
def gfenceResume (c n : Nat) (s : State) : Option State :=
  match s.waiting c n with
  | some .gfence =>
    if (s.core c).avgQ.any fun x => x.uid == (s.strand c n).uid then none else some (wake c n id s)
  | _ => none

/-- GFENCE (R198). -/
def execGfence (p : BitVec 4) (s : State) : Out :=
  issue (.gfence p) (waitOr .gfence gfenceResume) s

/-- Some line of a region is poisoned (R199). -/
def regionPoisoned (s : State) (r : Region) : Bool :=
  !s.poison.isEmpty && (List.range (cfgLen r.cfg)).any fun i =>
    match physical [] s (r.base + i * 2 ^ 18) with
    | some pa => s.poison.any fun l => decide (pa ≤ 64 * l) && decide (64 * l < pa + 2 ^ 18)
    | none => false

/-- GMASS (R199). DEDUCED, log 8: it completes at issue. -/
def execGmass (d a b p : BitVec 4) (s : State) : Out :=
  issue (.gmass d a b p) (needs [a, b] [d] fun s =>
    let g := s.me.get b
    match checkBase s (s.me.get a) with
    | .error st => trapHere st s
    | .ok (_, r) =>
      let kind := bits g 4 3
      if kind = 3 then
        setG d (BitVec.ofNat 64 (b2n r.ovf + 2 * b2n r.qc + 4 * b2n (regionPoisoned s r))) s
      else if bitAt g 5 then setG d s.me.gmass s
      else
        let t := if kind = 0 then r.applied else if kind = 1 then r.escrow else r.forfeit
        let x := t[bits g 2 0]?.getD 0
        finish (fun y => { y.put d (x.setWidth 64) with gmass := (x >>> 64).setWidth 64 }) s) s

/-- The oldest entry of a core's averaging queue is applied; as a store to a page table, as in shoot (R200, R317). -/
def avgApply (c : Nat) (s : State) : Option State :=
  match (s.core c).avgQ with
  | x :: _ => (applyNextAvg c s).map (shoot x.uid x.line 64 s)
  | [] => none

/-- AVG_ENTRY_APPLY (R200). -/
def execAvgEntryApply (c : Nat) (s : State) : Out :=
  event (avgApply c) s

end Sys2Proof.Machine
end

