-- ==== Sys2Proof/Machine/Drain.lean ====
section
/-! DEFINITION. Events of the memory system: the store buffer, SC windows, remote accesses, their acknowledgements and
time-outs, and fills (R79, R81, R156, R161-R163, R168-R170, R246, R370). -/

namespace Sys2Proof.Machine

/-- Removes entry i of a core's store buffer. -/
def popStore (c i : Nat) (s : State) : State :=
  s.modCore c fun k => { k with sb := k.sb.eraseIdx i }

/-- Every earlier access of a strand but its buffered stores is performed, and every store that it has seen early: the
condition on a release store at the head of the buffer (R166, R168, R170, R210); of stores to page tables, but for accesses
that it holds up itself (R317). -/
def releaseReady (s : State) (c uid : Nat) : Bool :=
  !(s.core c).avgQ.any (·.uid == uid) && !s.pending.any (fun p => p.uid == uid || p.binds c uid) &&
    settledBut (holdsUp s c) s uid

/-- Requests of other modules by kind and number: an access by its tag, another request of a strand by its tag, a multicast line
and the READY and data of a Peony step by the number of the multicast or step. -/
def accessNo (tag : Nat) : Nat := 4 * tag
def sendNo (tag : Nat) : Nat := 4 * tag + 1
def multicastNo (no : Nat) : Nat := 4 * no + 2
def readyNo (no : Nat) : Nat := 8 * no + 3
def dataNo (no : Nat) : Nat := 8 * no + 7

/-- The flow of a message of another module and the queue that it is for: class, source, and target (R368). -/
def msgFlow : Msg → Option (Nat × Nat × Nat)
  | .access core m _ _ => some (0, m, core)
  | .svcEntry core m _ _ _ _ _ _ => some (0, m, core)
  | .recvEntry core m _ _ => some (1, m, core)
  | .migrate core m _ _ _ => some (2, m, core)
  | .reply m _ _ _ => some (3, m, 0)
  | .peonyReady m d die _ _ _ => some (4, 8 * m + d, die)
  | .peonyNotice m d die _ => some (4, 8 * m + d, die)
  | .peonyData m d die _ _ _ => some (5, 8 * m + d, die)
  | .level b _ from_ _ _ _ => some (6, from_ / 2 ^ 19, b)
  | .linkInstall b _ half _ => some (6, half.nid / 2 ^ 19, b)
  | .linkClear b _ from_ _ => some (6, from_ / 2 ^ 19, b)
  | .rfree b _ from_ _ _ => some (6, from_ / 2 ^ 19, b)
  | _ => none

/-- A message goes before later ones of a flow: one of it, a sender's confirmation for the same queue, or the answer to a link
installation before the levels of the new neighbour (R288, R294). DEDUCED, log 27, for the last. -/
def goesBefore (x : Msg) (f : Nat × Nat × Nat) : Bool :=
  msgFlow x == some f || match x with
    | .sendConfirm core m _ => f == (0, m, core) || f == (1, m, core)
    | .linked _ m block _ _ _ => f == (6, m, block)
    | _ => false

/-- Two accesses of one strand of another module (R161). -/
def sameStrand : Msg → Msg → Bool
  | .access _ m _ x, .access _ k _ y => m == k && x.strand == y.strand
  | _, _ => false

/-- No message of the flow of message n for its queue, and no access of its strand, is in flight ahead of it (R161, R250,
R368). -/
def flowFirst (s : State) (n : Nat) (m : Msg) : Bool :=
  (match msgFlow m with
    | some f => !(s.flight.take n).any (goesBefore · f)
    | none => true) && !(s.flight.take n).any (sameStrand · m)

/-- Message n in flight, when it can be taken: those of one flow are taken in the order in which they have come (R368). -/
def State.msg (s : State) (n : Nat) : Option Msg :=
  match s.flight[n]? with
  | some m => if flowFirst s n m then some m else none
  | none => none

/-- The module without message n in flight. -/
def takeMsg (n : Nat) (s : State) : State :=
  { s with flight := s.flight.eraseIdx n }

/-- Sends a message to another module. DESIGN CHOICE, log 6. -/
def sendOut (m : Nat) (x : Msg) (s : State) : State :=
  { s with outbox := s.outbox ++ [(m, x)] }

/-- Sends a message to an agent of this module, or of another. -/
def sendTo (m : Nat) (x : Msg) (s : State) : State :=
  if m = s.modId then { s with flight := s.flight ++ [x] } else sendOut m x s

/-- The answer to a write of n bytes for another module leaves, or waits until the write counts as performed at MODULE scope:
accesses under way may have walked them as a page table (R168, R317). -/
def answerWrite (pa n m : Nat) (x : Msg) (s t : State) : State :=
  match (if pa < 2 ^ 40 then walkedPages s (linesOfRange pa n) else []) with
  | [] => sendTo m x t
  | _ =>
    let (agent, t1) := t.fresh
    let t2 := shoot agent pa n s t1
    { t2 with replies := t2.replies ++ [(agent, m, x)] }

/-- An answer that waits leaves once its write counts as performed at MODULE scope, or the stores whose values it holds have left
their buffer (R166, R317). -/
def replySettled (s : State) : Option State :=
  match s.replies.find? fun x => settled true s x.1 && !s.cores.any fun (_, k) => k.sb.any (·.readers.contains x.1) with
  | some x => some (sendTo x.2.1 x.2.2 { s with replies := s.replies.erase x })
  | none => none

/-- Entry i leaves the buffer: it is performed in memory, and acknowledged to the module for which it was stored, or sent
to the module it names (R161, R162, R168). DEDUCED, log 4. -/
def leaveBuffer (c i : Nat) (e : SbEntry) (s : State) : State :=
  match e.loc with
  | .here pa =>
    let s1 := shoot e.uid pa e.size s (noteWrote e.uid e.va pa e.size
      (performStore e.va pa (leBytes e.size e.data) (popStore c i s)))
    match e.ack with
    | some (m, tag, _) => answerWrite pa e.size m (.ack tag (.ok 0)) s s1
    | none => s1
  | .there m la => (sendAccess c m ⟨la, e.size, .store e.data, 0, e.uid⟩ e.uid e.va e.pc true e.readers (popStore c i s)).2

/-- An entry can leave the buffer as far as its time, its kind and, for another module, a transaction tag go (R163, R168,
R370). -/
def mayLeave (s : State) (c : Nat) (e : SbEntry) : Bool :=
  decide (e.since + 2 ≤ s.cyc) && (e.kind == .plain || releaseReady s c e.uid) &&
  match e.loc with
  | .here _ => true
  | .there _ _ => (freeTag s c).isSome

/-- STORE_BUFFER_DRAIN (R162, R163). -/
def drainStore (c : Nat) (s : State) : Option State :=
  match (s.core c).sb with
  | [] => none
  | e :: _ => if e.kind != .sc && mayLeave s c e then some (leaveBuffer c 0 e s) else none

/-- STORE_BUFFER_DRAIN (R162). -/
def execStoreBufferDrain (c : Nat) (s : State) : Out :=
  event (drainStore c) s

/-- The window of the SC operation of a slot (R169). -/
def scWindow (s : State) (c n : Nat) : Option Nat :=
  match s.waiting c n with
  | some (.scLoad _ _ _ w) => some w
  | some (.scStore w) => some w
  | some (.storeRoom _ (.sc w) _ _) => some w
  | some (.amo op _ w) => if op.sc then some w else none
  | _ => none

/-- The SC operations whose windows have closed: window, core, slot. -/
def scClosed (s : State) : List (Nat × Nat × Nat) :=
  s.places.filterMap fun (c, n) =>
    match scWindow s c n with
    | some w => if w < s.cyc / 16 then some (w, c, n) else none
    | none => none

/-- The order of R169: by window, core, slot. -/
def scBefore (x y : Nat × Nat × Nat) : Bool :=
  decide (x.1 < y.1) || (x.1 == y.1 && (decide (x.2.1 < y.2.1) || (x.2.1 == y.2.1 && decide (x.2.2 < y.2.2))))

/-- The first of the SC operations in the order of R169. -/
def scFirst : List (Nat × Nat × Nat) → Option (Nat × Nat × Nat)
  | [] => none
  | x :: xs =>
    match scFirst xs with
    | none => some x
    | some y => some (if scBefore y x then y else x)

/-- What an SC load finds when it is performed: as R164 says of a load, but that an SC store that stands after it in the
order of R169 and that its strand has not seen is not forwarded (R166, R169). DEDUCED, log 14. -/
def scFinds (s : State) (c uid : Nat) (e : Elem) : LoadRes :=
  loadElem (s.modCore c fun k => { k with sb := k.sb.filter fun x => x.kind != .sc || x.seenBy uid }) c uid e

/-- The buffered stores of other strands that an SC load takes bind its strand from now on (R166). -/
def markFound (c uid : Nat) (e : Elem) (s : State) : State :=
  let takes (x : SbEntry) : Bool := (x.kind != .sc || x.seenBy uid) && newlySeen uid [e] x
  if (s.core c).sb.any takes then
    s.modCore c fun k => { k with sb := k.sb.map fun x => if takes x then { x with readers := x.readers ++ [uid] } else x }
  else s

/-- The place in the buffer of the SC store of a strand. -/
def scPlace (s : State) (c uid : Nat) : Option Nat :=
  (s.core c).sb.findIdx? fun e => e.uid == uid && e.kind == .sc

/-- Two entries store to a byte in common. -/
def SbEntry.meets (x y : SbEntry) : Bool :=
  (List.range x.size).any fun i => (y.byte (x.loc.plus i)).isSome

/-- The address of an SC load or AMO that is performed, checked again (R154, R317). -/
def scAgain (s : State) (c n : Nat) (k : Acc) (va : Word) (size : Nat) (body : Place → Option State) : Option State :=
  match checkAgain s c n k va size with
  | .error st => some (trapWait c n st s)
  | .ok p => body p

/-- The SC operation of a slot is performed, when it can be: an SC store at the head of the buffer, or behind nothing but SC
stores, and its item is folded (R163, R169, R210, R338). -/
def scPerform (c n : Nat) (s : State) : Option State :=
  let x := s.strand c n
  match s.waiting c n with
  | some (.scLoad e d signed _) =>
    if (s.core c).avgQ.any (·.uid == x.uid) then none
    else scAgain s c n .load e.va e.size fun p =>
      let e := { e with loc := p.loc, ord := p.ord }
      match scFinds s c x.uid e with
      | .wait => none
      | .poison => some (trapWait c n ⟨.poison, e.va, 0⟩ s)
      | .val v => some (wake c n (fun y => y.put d (extend signed e.size v)) (markFound c x.uid e s))
  | some (.scStore _) =>
    match scPlace s c x.uid with
    | some i =>
      match (s.core c).sb[i]? with
      | some e =>
        if mayLeave s c e && ((s.core c).sb.take i).all fun y => y.kind == .sc then
          some (wake c n id (foldItem c n e.va e.size (BitVec.ofNat 64 e.data) (leaveBuffer c i e s)))
        else none
      | none => none
    | none => none
  | some (.amo op queued w) =>
    if !queued && !quiet s c x.uid then none
    else if queued then
      match op.loc with
      | .here pa => if amoFirst s c n pa then some (amoPerform c n op pa s) else none
      | .there _ _ => none
    else scAgain s c n .atomic op.va op.size fun p =>
      match p.loc with
      | .here pa =>
        let op' := { op with loc := p.loc }
        let s1 : State := { s with amoQ := s.amoQ ++ [(c, n, pa / 64)] }
        if amoFirst s1 c n pa then some (amoPerform c n op' pa s1)
        else some (s1.setState c n (.wait (.amo op' true w)))
      | .there _ _ => none
  | _ => none

/-- The next SC operation in the order of R169 is performed, when it can be. -/
def scNext (s : State) : Option State :=
  match scFirst (scClosed s) with
  | some (_, c, n) => scPerform c n s
  | none => none

/-- SC operations are performed one after another while the next one can be, by fuel. -/
def scRun : Nat → State → State
  | 0, s => s
  | f + 1, s =>
    match scNext s with
    | some t => scRun f t
    | none => s

/-- How many of the first entries of its core's buffer the SC operation of a slot comes after: those before its SC store,
those of its strand for an AMO, and those that a load could have only in part (R162, R163, R164, R219). -/
def scReach (s : State) (c n : Nat) : Nat :=
  let x := s.strand c n
  let upto (p : SbEntry → Bool) : Nat := ((s.core c).sb.zipIdx.foldl (fun k (e, i) => if p e then i + 1 else k) 0)
  match s.waiting c n with
  | some (.scLoad e _ _ _) =>
    if scFinds s c x.uid e = .wait then upto fun y => (y.kind != .sc || y.seenBy x.uid) && forwards y e else 0
  | some (.scStore _) => (scPlace s c x.uid).getD 0
  | some (.amo _ false _) => upto fun y => y.binds x.uid
  | _ => 0

/-- The entries from place k on among the next f of a core's buffer leave it in order, but for SC stores; none when one cannot
leave. -/
def drainPast (c : Nat) : Nat → Nat → State → Option State
  | 0, _, s => some s
  | f + 1, k, s =>
    match (s.core c).sb[k]? with
    | none => some s
    | some e =>
      if e.kind == .sc then drainPast c f (k + 1) s
      else if mayLeave s c e then drainPast c f k (leaveBuffer c k e s) else none

/-- An SC store among the first entries of a buffer must be performed before a later one of them: that one stores to bytes in
common with it, and is no SC store, or some strand has seen both (R166). -/
def scBound : List SbEntry → Bool
  | [] => false
  | x :: xs =>
    (x.kind == .sc && xs.any fun y => x.meets y && (y.kind != .sc || y.readers.any (x.readers.contains ·))) || scBound xs

/-- The SC operation of a slot, the first in the order of R169, whose core has issued an SC store of a later place in that order
before it: in one step the entries before it leave the buffer, it is performed, and then those SC stores are, each in its
turn, so that both the buffer's order and that of R169 hold (R162, R163, R167, R169). DEDUCED, log 14. -/
def scTogether (c n : Nat) (s : State) : Option State :=
  let i := scReach s c n
  let before := (s.core c).sb.take i
  let held := (before.filter fun e => e.kind == .sc).map SbEntry.uid
  if held = [] || scBound ((s.core c).sb.take (i + 1)) then none
  else
    match drainPast c i 0 s with
    | none => none
    | some s1 =>
      match scPerform c n s1 with
      | none => none
      | some s2 =>
        let t := scRun (scClosed s2).length s2
        if (t.core c).sb.any fun e => e.kind == .sc && held.contains e.uid then none else some t

/-- The slot whose SC store is at the head of a core's buffer, when its window has closed. -/
def scHeadSlot (s : State) (c : Nat) : Option Nat :=
  match (s.core c).sb with
  | e :: _ =>
    if e.kind == .sc then
      (List.range 9).find? fun n => (s.strand c n).uid == e.uid && match s.waiting c n with
        | some (.scStore w) => decide (w < s.cyc / 16)
        | _ => false
    else none
  | [] => none

/-- The order of R169 cannot hold for the SC operation of a slot: its SC store waits for room behind an SC store at the head of
the full buffer (R162, R163), or the coherence order puts an SC store at the head before what it comes after, or before an AMO
whose strand has seen it (R166, R219). -/
def scForced (s : State) (c n : Nat) : Bool :=
  let part := (s.core c).sb.take (scReach s c n + 1)
  match s.waiting c n with
  | some (.storeRoom _ _ _ _) => true
  | some (.amo _ _ _) => scBound part || part.any fun e => e.kind == .sc && e.seenBy (s.strand c n).uid
  | _ => scBound part

/-- The next SC operations are performed: the first in the order, alone or with the SC stores of its core that stand before it
in the buffer; where neither order can hold, the SC store at the head (R162, R166, R169; log 14). DEDUCED. -/
def scStep (s : State) : Option State :=
  match scFirst (scClosed s) with
  | none => none
  | some (_, c, n) =>
    match (if scReach s c n = 0 then scPerform c n s else none) with
    | some t => some t
    | none =>
      match scTogether c n s with
      | some t => some t
      | none =>
        match (if scForced s c n then scHeadSlot s c else none) with
        | some m => scPerform c m s
        | none => none

/-- SC operations are performed one after another while one can be, by fuel. -/
def scLoop : Nat → State → State
  | 0, s => s
  | f + 1, s =>
    match scStep s with
    | some t => scLoop f t
    | none => s

/-- SC_WINDOW_CLOSE (R169): the SC operations of closed windows are performed in order, up to the first that waits. -/
def scClose (s : State) : Option State :=
  match scStep s with
  | some t => some (scLoop (scClosed t).length t)
  | none => none

/-- SC_WINDOW_CLOSE (R169). -/
def execScWindowClose (s : State) : Out :=
  event scClose s

/-- A virtual address that names this module. -/
def ownVa (s : State) (la : Nat) : Word :=
  BitVec.ofNat 64 (s.modId * 2 ^ 47 + la)

/-- The rights under which a target performs a remote access: the requester has been checked for the windows (R154).
DEDUCED, log 46. -/
def remoteRights : Rights := ⟨true, none⟩

/-- What the service slot does in a turn on a remote access. -/
inductive Served where
  /-- It waits, perhaps with its request at a line's home queued. -/
  | waits (s : State)
  /-- It is done: the answer, or none for a write, which answers once it is performed. -/
  | done (a : Option Answer) (s : State)

/-- The answer to a load of another module: where it holds values of stores that are still in the core's buffer, it leaves once
they have left it, so that the other strand sees them no earlier than every other agent does (R164, R166, R168). DEDUCED,
log 14. -/
def answerRead (c from_ tag : Nat) (els : List Elem) (x : Nat) (s : State) : Served :=
  if (s.core c).sb.any fun e => els.any (forwards e) then
    let (agent, s1) := s.fresh
    let s2 := markSeen c agent els s1
    .done none { s2 with replies := s2.replies ++ [(agent, from_, .answer tag (.ok x))] }
  else .done (some (.ok x)) s

/-- The lanes of a line that a remote load asks for, read together (R158, R211). -/
def serveLanes (c from_ tag : Nat) (las : List Nat) (size pa base : Nat) (ord : Bool) (s : State) : Served :=
  let els : List Elem := las.map fun la => ⟨0, ownVa s la, .here (pa + la - base), size, ord, none, 0, 0⟩
  let rs := els.map (loadElem s c 0)
  if rs.contains .wait then .waits s
  else if rs.contains .poison then .done (some (.stop ⟨.poison, ownVa s base, 0⟩)) s
  else answerRead c from_ tag els (joinLanes (8 * size) (rs.map fun r => match r with
    | .val x => x
    | _ => 0)) s

/-- What the service slot of core c does with a remote access: a plain access of that core; an AMO comes after the stores of
earlier remote accesses that are still in the core's buffer (R161, R166, R170, R217). -/
def serveAccess (c from_ tag : Nat) (req : RemoteReq) (s : State) : Served :=
  let va := ownVa s req.la
  let t := (s.cluster (clusterOf c)).tlb
  let k : Acc := match req.kind with
    | .load _ => .load
    | .lanes _ => .load
    | .frame => .frame
    | .store x => .store (if req.size = 8 then some x else none)
    | .amo _ _ _ => .atomic
  match checkWith s t c remoteRights k va with
  | .error st => .done (some (.stop st)) s
  | .ok p =>
    match p.loc with
    | .there _ _ => .done (some (.stop ⟨.prot, va, 0⟩)) s
    | .here pa =>
      let one : Served :=
        let e : Elem := ⟨0, va, p.loc, req.size, p.ord, none, 0, 0⟩
        match loadElem s c 0 e with
        | .wait => .waits s
        | .val x => answerRead c from_ tag [e] x s
        | .poison => .done (some (.stop ⟨.poison, va, 0⟩)) s
      match req.kind with
      | .load plain =>
        match plain, p.mig with
        | true, some core => .done (some (.home core)) s
        | _, _ => one
      | .frame => one
      | .lanes las => serveLanes c from_ tag las req.size pa req.la p.ord s
      | .store x =>
        let e : SbEntry := ⟨0, .plain, va, p.loc, req.size, x, s.cyc, s.cyc, 0, some (from_, tag, req.strand), []⟩
        if !(s.core c).spill.isEmpty || (List.range 9).any (wantsRoom s c) || decide (32 ≤ (s.core c).sb.length) then .waits s
        else .done none (s.modCore c fun k => { k with sb := k.sb ++ [e] })
      | .amo op b cmp =>
        let r := takeTurn c 8 pa s
        if (s.core c).sb.any fun e => e.ack.isSome || s.replies.any fun r => e.readers.contains r.1 then .waits s
        else if !r.1 then .waits r.2
        else if poisoned s pa req.size then .done (some (.stop ⟨.poison, va, 0⟩)) r.2
        else .done none (answerWrite pa req.size from_ (.answer tag (.ok (s.read pa req.size))) r.2
          (amoAccess op req.size pa b cmp r.2))

/-- A request of another module is performed: a copy of it is discarded as long as one can come (R370). -/
def notePerformed (m x : Nat) (s : State) : State :=
  { s with performed := (s.performed.filter fun (_, _, t) => decide (s.cyc < t + 2 ^ 24)) ++ [(m, x, s.cyc)] }

/-- A request of another module has been performed within 2^24 cycles: what comes is a copy (R370). -/
def wasPerformed (s : State) (m x : Nat) : Bool :=
  s.performed.any fun (f, y, t) => f == m && y == x && decide (s.cyc < t + 2 ^ 24)

/-- REMOTE_ACCESS_PERFORM (R161): the service slot performs the remote access at the head of its queue and replies; a copy of
one already performed is discarded (R370). -/
def accessPerform (c : Nat) (s : State) : Option State :=
  if (s.slot c 8).state ≠ .empty || (s.core c).gating != .ungated then none
  else
    match (s.core c).svcQ with
    | .access m tag req :: rest =>
      let pop (s : State) : State := s.modCore c fun k => { k with svcQ := rest, svcHead := (k.svcHead + 1) % 16 }
      if wasPerformed s m (accessNo tag) then some (pop s)
      else
      match serveAccess c m tag req s with
      | .waits t => if t.amoQ = s.amoQ then none else some t
      | .done a s1 =>
        let s2 := notePerformed m (accessNo tag) (pop s1)
        match a, req.kind with
        | none, _ => some s2
        | some a, .store _ => some (sendTo m (.ack tag a) s2)
        | some a, _ => some (sendTo m (.answer tag a) s2)
    | _ => none

/-- REMOTE_ACCESS_PERFORM (R161). -/
def execRemoteAccessPerform (c : Nat) (s : State) : Out :=
  event (accessPerform c) s

/-- An operation in WAIT that has had no effect, which the trap of an earlier remote store may end (log 15). -/
def WaitOp.idleYet : WaitOp → Bool
  | .fence _ _ => true
  | .amo _ queued _ => !queued
  | .ord op => op.phase == .draining
  | .fred _ _ _ => true
  | .spawn _ _ _ inline => inline.isNone
  | .tend _ _ sent => !sent
  | .mwait _ _ _ _ => true
  | .join _ _ => true
  | .recv _ _ _ => true
  | .bnext => true
  | .bcommit => true
  | .barv _ _ _ => true
  | .barw _ _ _ _ _ => true
  | .gfence => true
  | .synci _ _ _ _ => true
  | .migrate _ _ _ _ _ => true
  | .send op _ => op.held.isNone
  | .idle => true
  | _ => false

/-- The requests of a strand other than stores await no answer any more (R370). -/
def dropRequests (uid : Nat) (s : State) : State :=
  dropTags ((s.pending.filter fun p => p.uid == uid && !p.store).map Pending.tag) s

/-- Gives up a reserved place. -/
def dropPlace (c key : Nat) (s : State) : State :=
  s.modCore c fun k => { k with places := k.places.filter fun e => e.1 != key }

/-- A place that a departing strand has reserved or asked for is given up (R356). -/
def giveUpPlace (core m uid : Nat) (asked placed : Bool) (s : State) : State :=
  if m = s.modId then (if placed then dropPlace core uid s else s)
  else if asked then sendOut m (.unreserve core s.modId uid) (s.endAsks uid)
  else s

/-- What an operation that a trap ends has begun is taken back: its place in the queue of a line, the register that a send
emptied, the read of a frame counter on another module, and the place of a departure. -/
def withdrawn (c n : Nat) (op : WaitOp) (s : State) : State :=
  match op with
  | .join _ _ => dropRequests (s.strand c n).uid s
  | .migrate core m _ asked placed => giveUpPlace core m (s.strand c n).uid asked placed s
  | .send o _ => s.modStrand c n (refillReg o.reply)
  | .spawn _ _ _ _ => dropTurn c n s
  | .tend _ _ _ => dropTurn c n s
  | _ => s

/-- The strand in a slot takes the trap of an earlier store, its XPC at that store, unless it is in WAIT for an operation
that has had an effect (R161, R231; log 15). DEDUCED. The store's own issue stays counted in ICNT (R149): DESIGN CHOICE, log 11. -/
def trapStore (c n : Nat) (pc : Word) (st : Stop) (s : State) : Option State :=
  match (s.slot c n).state with
  | .empty => none
  | .wait op => if op.idleYet then some (takeTrap c n pc st true (withdrawn c n op s)) else none
  | _ => some (takeTrap c n pc st false s)

/-- A strand that is not in a slot is updated. -/
def modAway (uid : Nat) (f : Strand → Strand) (s : State) : State :=
  let g (x : Strand) : Strand := if x.uid == uid then f x else x
  { s with
    cores := s.cores.map fun (c, k) => (c, { k with arr := k.arr.map fun e => { e with strand := g e.strand } })
    saved := s.saved.map fun (q, sv) => (q, { sv with strands := sv.strands.map fun (c, x) => (c, g x) }) }

/-- The trap of a store of BFRONT that ends at its target with a fault, or with no answer: it reports the count of images
before the faulting one (R311). -/
def frontStop (s : State) (p : Pending) (c n : Nat) (st : Stop) : Stop :=
  match s.waiting c n with
  | some (.storeRoom _ (.front _ _ base) _ _) =>
    if p.pc = (s.strand c n).pc then
      { st with xaux := (if st.cause = .remoteTimeout then 0 else st.xaux) ||| BitVec.ofNat 64 ((p.va - base).toNat / 512) }
    else st
  | _ => st

/-- A trap is held back behind those that are. -/
def Strand.holdTrap (x : Strand) (pc : Word) (st : Stop) : Strand :=
  { x with fault := x.fault ++ [(pc, st)] }

/-- A trap of a store of the instruction that the strand waits for, of which only the one for the first failing image is raised
(R311). -/
def Strand.holdFirst (x : Strand) (st : Stop) (before : Stop → Stop → Bool) : Strand :=
  match x.fault.find? (·.1 == x.pc) with
  | some (_, old) => if before st old then { x with fault := (x.fault.filter (·.1 != x.pc)) ++ [(x.pc, st)] } else x
  | none => x.holdTrap x.pc st

/-- The instruction in WAIT in a slot whose own stores at other modules end it together: the address of its first, when a store
at an address is one of them. -/
def ownStores (s : State) (c n : Nat) (pc : Word) : Option Word :=
  if pc ≠ (s.strand c n).pc then none
  else
    match s.waiting c n with
    | some (.storeRoom _ (.front _ _ base) _ _) => some base
    | some (.storeRoom _ (.msave es) _ _) => es.head?.map SbEntry.va
    | _ => none

/-- A store of a strand ends at its target with a fault, or with no answer: the strand traps, now or once its operation in
WAIT ends (R161, R231, R406; log 15). DEDUCED. -/
def storeFault (p : Pending) (st : Stop) (s : State) : State :=
  let s1 := { s with pending := s.pending.filter fun x => x.tag != p.tag }
  match s.find p.uid with
  | some (c, n) =>
    match ownStores s c n p.pc with
    | some base =>
      s1.modStrand c n fun x =>
        x.holdFirst (frontStop s p c n st) fun a b => decide ((a.xval - base).toNat < (b.xval - base).toNat)
    | none =>
      (if (s.strand c n).fault.isEmpty then trapStore c n p.pc st s1 else none).getD
        (s1.modStrand c n fun x => x.holdTrap p.pc st)
  | none => if (s.away p.uid).isSome then modAway p.uid (fun x => x.holdTrap p.pc st) s1 else countDiscard s1

/-- The trap of an earlier store that was held back first is taken. -/
def storeTrap (c n : Nat) (s : State) : Option State :=
  match (s.strand c n).fault with
  | (pc, st) :: rest => trapStore c n pc st (s.modStrand c n fun x => { x with fault := rest })
  | [] => none

/-- REMOTE_STORE_ACKNOWLEDGEMENT (R168): the acknowledgement of a store to another module. -/
def storeAcked (n : Nat) (s : State) : Option State :=
  match s.msg n with
  | some (.ack tag a) =>
    match s.pending.find? fun p => p.tag == tag && p.store, a with
    | some p, .stop st => some (takeMsg n (storeFault p { st with xval := p.va } s))
    | some _, _ => some (takeMsg n { s with pending := s.pending.filter fun x => x.tag != tag })
    | none, _ => some (countDiscard (takeMsg n s))
  | _ => none

/-- REMOTE_STORE_ACKNOWLEDGEMENT (R168). -/
def execRemoteStoreAcknowledgement (n : Nat) (s : State) : Out :=
  event (storeAcked n) s

/-- A request to another module ends with REMOTE_TIMEOUT (R156, R370). -/
def endRequest (p : Pending) (s : State) : Option State :=
  let st : Stop := ⟨.remoteTimeout, p.va, BitVec.ofNat 64 p.module⟩
  if p.store then some (storeFault p st s)
  else
    match s.find p.uid with
    | none => some { s with pending := s.pending.filter fun x => x.tag != p.tag }
    | some (c, n) =>
      match s.waiting c n with
      | some (.load els dst _) =>
        let r := gather s c p.uid els
        let idx := (r.2.map fun x => x.1.idx).getD 0
        let s1 := markSeen c p.uid (r.1.map Prod.fst) (dropTags (p.tag :: elemTags els) s)
        some (trapWait c n st (partLoaded c n dst r.1 idx s1))
      | some (.amo _ true _) => some (trapWait c n st (dropTags [p.tag] s))
      | some (.spawn _ _ _ (some _)) => some (trapWait c n st (dropTags [p.tag] s))
      | some (.tend _ _ true) => some (trapWait c n st (dropTags [p.tag] s))
      | some (.join _ _) => some (trapWait c n st (dropTags [p.tag] s))
      | _ => some { s with pending := s.pending.filter fun x => x.tag != p.tag }

/-- The message has come over the fabric: it is of another module, or an answer that only another module sends. -/
def travels (own : Nat) : Msg → Bool
  | .answer _ _ => true
  | .ack _ _ => true
  | .granted _ => true
  | .sendAccepted _ => true
  | .sendConfirm _ _ _ => true
  | .unsend _ _ => true
  | .access _ m _ _ => m != own
  | .recvEntry _ m _ _ => m != own
  | .svcEntry _ m _ _ _ _ _ _ => m != own
  | .reply m _ _ _ => m != own
  | .migrate _ m _ _ _ => m != own
  | .noted _ => true
  | .reserve _ m _ _ => m != own
  | .unreserve _ m _ => m != own
  | .multicast m _ _ _ => m != own
  | .multicastAck _ => true
  | .lupPacket _ _ _ _ => true
  | .lupAck _ _ _ => true
  | .lupRefusal _ _ _ => true
  | .reconRequest _ _ _ => true
  | .reconReply _ _ _ _ => true
  | .peonyReady m _ _ _ _ _ => m != own
  | .peonyData m _ _ _ _ _ => m != own
  | .peonyNotice m _ _ _ => m != own
  | .level _ _ from_ _ _ _ => from_ / 2 ^ 19 != own
  | .linkInstall _ _ half _ => half.nid / 2 ^ 19 != own
  | .linkClear _ _ from_ _ => from_ / 2 ^ 19 != own
  | .rfree _ _ from_ _ _ => from_ / 2 ^ 19 != own
  | .confirm _ m => m != own
  | .linked _ m _ _ _ _ => m != own
  | .linkRefused _ m _ => m != own
  | _ => false

/-- What identifies an entry of another module: its module and the number of its request there. -/
def entryKey : Msg → Option (Nat × Nat)
  | .recvEntry _ f t _ => some (f, sendNo t)
  | .svcEntry _ f t _ _ _ _ _ => some (f, sendNo t)
  | .access _ f tag _ => some (f, accessNo tag)
  | _ => none

/-- A send or a reservation of another module that waits here for room is held at its sender, and no packet (R246, R253). -/
def heldFar (s : State) (m : Msg) : Bool :=
  let key := match m with
    | .access _ _ _ _ => none
    | .reserve _ f _ tag => some (f, sendNo tag)
    | _ => entryKey m
  s.farHeld.any fun x => key == some (x.from_, x.key)

/-- PACKET_AGE_EXPIRY (R370): a packet of a transaction whose age has reached 2^24 cycles is discarded; the age is the
packet's own, so the event says which (log 16). DESIGN CHOICE. -/
def packetExpiry (n : Nat) (s : State) : Option State :=
  match s.flight[n]? with
  | some m => if travels s.modId m && !heldFar s m then some (takeMsg n s) else none
  | none => none

/-- PACKET_AGE_EXPIRY (R370). -/
def execPacketAgeExpiry (n : Nat) (s : State) : Out :=
  event (packetExpiry n) s

/-- The serial number of the strand that awaits a reply under a token in its register (R246). -/
def tokenHolder (s : State) (token : Word) : Option Nat :=
  let r := BitVec.ofNat 4 (bits token 35 32)
  let waits (x : Strand) : Bool := x.isEmpty r && x.tok[r.toNat]?.getD 0 == token
  match s.places.find? fun (c, n) => (s.slot c n).state != .empty && waits (s.strand c n) with
  | some (c, n) => some (s.strand c n).uid
  | none =>
    let arr := s.cores.flatMap fun (_, k) => k.arr.map ArrEntry.strand
    let sv := s.saved.flatMap fun (_, x) => x.strands.map Prod.snd
    ((arr ++ sv).find? waits).map Strand.uid

/-- A reply under a token fills the register that awaits it, or is discarded and counted (R246). -/
def replyFill (token v : Word) (s : State) : State :=
  match tokenHolder s token with
  | some uid => fillReg uid (BitVec.ofNat 4 (bits token 35 32)) v s
  | none => countDiscard s

/-- A strand can still issue in this cycle, so that a fill of this cycle comes after that issue (R79). -/
def fillEarly (s : State) (uid : Nat) : Bool :=
  match s.find uid with
  | some (c, n) => willIssue s c && mayIssue s (s.core c) n
  | none => false

/-- The same of a reply under a token. -/
def replyEarly (s : State) (token : Word) : Bool :=
  (tokenHolder s token).any (fillEarly s)

/-- REGISTER_FILL (R79): a completion or reply reaches its register; an answer that nothing awaits is discarded and
counted (R370). -/
def registerFill (n : Nat) (s : State) : Option State :=
  match s.msg n with
  | some (.fill uid r v) => if fillEarly s uid then none else some (fillReg uid r v (takeMsg n s))
  | some (.reply from_ send token v) =>
    if wasPerformed s from_ (sendNo send) then some (takeMsg n s)
    else if replyEarly s token then none
    else some (sendOut from_ (.sendAccepted send) (notePerformed from_ (sendNo send) (replyFill token v (takeMsg n s))))
  | some (.answer tag _) => if s.pending.any fun p => p.tag == tag then none else some (countDiscard (takeMsg n s))
  | _ => none

/-- REGISTER_FILL (R79). -/
def execRegisterFill (n : Nat) (s : State) : Out :=
  event (registerFill n) s

end Sys2Proof.Machine
end

