-- ==== Sys2Proof/Machine/Rings.lean ====
section
/-! DEFINITION. Operand rings of a cluster: their descriptors in the cluster store, publication, pops and disabling
(R267-R271). -/

namespace Sys2Proof.Machine

/-- The address of the descriptor of ring r of cluster k (R267). -/
def ringAddr (k r : Nat) : Nat := csAddr k (0xEFF00 + 16 * r)

/-- The configuration word and the state word of a ring. -/
def ringCfg (s : State) (k r : Nat) : Word := BitVec.ofNat 64 (s.read (ringAddr k r) 8)
def ringState (s : State) (k r : Nat) : Word := BitVec.ofNat 64 (s.read (ringAddr k r + 8) 8)

/-- Fields of the two words (R267). -/
def ringBase (w : Word) : Nat := 64 * bits w 13 0
def ringSlotBytes (w : Word) : Nat := 64 * bits w 23 16
def ringSlots (w : Word) : Nat := bits w 30 24
def ringCons (w : Word) : Nat := bits w 33 32 + 1
def ringWlim (w : Word) : Nat := bits w 44 40
def ringHead (w : Word) : Nat := bits w 5 0
def ringTail (w : Word) : Nat := bits w 13 8
def ringFull (w : Word) : Nat := bits w 22 16
def ringRes (w : Word) : Nat := bits w 30 24

/-- The part of a ring that memory does not hold. -/
def ringRt (s : State) (k r : Nat) : RingRt := (s.cluster k).rings[r]?.getD RingRt.reset

/-- The module with that part updated. -/
def modRing (k r : Nat) (f : RingRt → RingRt) (s : State) : State :=
  s.modCluster k fun x => { x with rings := x.rings.setIfInBounds r (f (x.rings[r]?.getD RingRt.reset)) }

/-- Sets the state word of a ring. -/
def putRingState (k r head tail full res : Nat) (s : State) : State :=
  perform (ringAddr k r + 8) (leBytes 8 (head + tail * 2 ^ 8 + full * 2 ^ 16 + res * 2 ^ 24)) s

/-- The ring is configured, or a clearing of EN has not yet taken effect (R268). -/
def ringOn (s : State) (k r : Nat) : Bool :=
  bitAt (ringCfg s k r) 63 || (ringRt s k r).disabling

/-- The ring takes reservations and starts MMAs (R268). -/
def ringLive (s : State) (k r : Nat) : Bool :=
  bitAt (ringCfg s k r) 63 && !(ringRt s k r).disabling

/-- The head slot holds a tile that an MMA may start on (R270). -/
def headReady (s : State) (k r : Nat) : Bool :=
  let x := ringRt s k r
  decide ((if x.pubAt = s.cyc then x.pubs else 0) < ringFull (ringState s k r))

/-- The address of the head slot of a ring. -/
def headAddr (s : State) (k r : Nat) : Nat :=
  let w := ringCfg s k r
  csAddr k (ringBase w + ringSlotBytes w * ringHead (ringState s k r))

/-- A pop at the retirement of an MMA that started in a cycle (R131, R270); the tile of one that started before the ring was
enabled anew is gone already (R268). DEDUCED, log 24. -/
def popRing (k r started : Nat) (s : State) : State :=
  if (ringRt s k r).since.any fun t => decide (started ≤ t) then s
  else
    let w := ringState s k r
    let n := max 1 (ringSlots (ringCfg s k r))
    modRing k r (fun x => { x with popAt := s.cyc, pops := (if x.popAt = s.cyc then x.pops else 0) + 1 })
      (putRingState k r ((ringHead w + 1) % n) (ringTail w) (ringFull w - 1) (ringRes w) s)

/-- The command with a number marks its slot as filled, with its completion (R262, R270). -/
def markFilled (cid : Nat) (fill : Option (FillTo × Word)) (xs : List RingSlot) : List RingSlot :=
  xs.map fun x => if x.cid == cid then { x with filled := true, fill := fill } else x

/-- A completion is sent to its register (R262). -/
def sendFill (f : Option FillTo) (w : Word) (s : State) : State :=
  match f with
  | some t => { s with flight := s.flight ++ [.fill t.uid t.r w] }
  | none => s

/-- The oldest reserved slot of a ring becomes a tile; one reserved before the ring was enabled anew is none (R268, R270). -/
def publish (k r : Nat) (x : RingSlot) (s : State) : State :=
  let w := ringState s k r
  let s1 := modRing k r (fun y => { y with resv := y.resv.drop 1 }) s
  if x.old then s1
  else
    modRing k r (fun y => { y with pubAt := s.cyc, pubs := (if y.pubAt = s.cyc then y.pubs else 0) + 1 })
      (putRingState k r (ringHead w) (ringTail w) (ringFull w + 1) (ringRes w - 1) s1)

/-- SLOT_PUBLISH (R260, R270): the oldest reserved slot is filled and is published, and its completion is sent. -/
def slotPublish (k r : Nat) (s : State) : Option State :=
  match (ringRt s k r).resv with
  | x :: _ =>
    if x.filled then
      some (match x.fill with
        | some (t, v) => sendFill (some t) v (publish k r x s)
        | none => publish k r x s)
    else none
  | [] => none

/-- SLOT_PUBLISH (R270). -/
def execSlotPublish (k r : Nat) (s : State) : Out :=
  event (slotPublish k r) s

/-- The MMA that a slot waits for. -/
def mmaOf (s : State) (c n : Nat) : Option MmaOp :=
  match s.waiting c n with
  | some (.mma op) => some op
  | _ => none

/-- The MMAs of a cluster with their places, engine by engine in order of arrival. -/
def clusterMmas (s : State) (k : Nat) : List (Nat × Nat × Nat × MmaOp) :=
  (List.range 4).flatMap fun e =>
    ((s.cluster k).engines[e]?.getD []).filterMap fun (c, n) => (mmaOf s c n).map fun op => (e, c, n, op)

/-- A started MMA names a ring. -/
def ringInUse (s : State) (k r : Nat) : Bool :=
  (clusterMmas s k).any fun (_, _, _, op) => op.started.isSome && (op.qa.toNat == r || op.qb.toNat == r)

/-- RING_DISABLE_EFFECT (R268): clearing EN takes effect and discards the published tiles. DEDUCED, log 24. -/
def ringDisable (k r : Nat) (s : State) : Option State :=
  if (ringRt s k r).disabling && (ringRt s k r).resv.isEmpty && !ringInUse s k r then
    let w := ringState s k r
    some (modRing k r (fun x => { x with disabling := false })
      (putRingState k r (ringHead w) (ringTail w) 0 (ringRes w) s))
  else none

/-- RING_DISABLE_EFFECT (R268). -/
def execRingDisableEffect (k r : Nat) (s : State) : Out :=
  event (ringDisable k r) s

/-- RING_MISUSE with the ring and condition (R133). -/
def ringMisuse (r cond : Nat) : Stop :=
  ⟨.ringMisuse, BitVec.ofNat 64 r, BitVec.ofNat 64 cond⟩

/-- The QUEUE_WAIT_LIMIT report of a ring (R249, R271). -/
def ringLimitStop (s : State) (k r : Nat) : Stop :=
  let w := ringState s k r
  ⟨.queueWaitLimit, BitVec.ofNat 64 (r + k * 2 ^ 4 + 3 * 2 ^ 16 + s.modId * 2 ^ 46),
    BitVec.ofNat 64 (ringHead w + ringTail w * 2 ^ 8 + ringFull w * 2 ^ 16)⟩

end Sys2Proof.Machine
end

