-- ==== Sys2Proof/Machine/Matrix.lean ====
section
/-! DEFINITION. Leases, matrix instructions, and the start and retirement of MMAs (R120-R138). -/

namespace Sys2Proof.Machine

/-- The trap of an instruction that needs a lease and has none (R124). -/
def noLease (xaux : Word) (s : State) : State :=
  trapHere ⟨.engineLease, BitVec.ofNat 64 (heldHalves s (clusterOf s.cur.1)), xaux⟩ s

/-- The effect of a matrix instruction of a strand that holds a lease (R124). -/
def needsLease (body : State → State) (s : State) : State :=
  if s.me.lease.isSome then body s else noLease 0 s

/-- Leases half h of engine e to the executing strand, its tiles zero (R122). -/
def takeLease (e h : Nat) (s : State) : State :=
  let k := clusterOf s.cur.1
  ((freeHalf k e h s).modCluster k fun x => { x with leases := tabSet x.leases (2 * e + h) s.cur }).modMe
    fun x => { x with lease := some (e, h), dirty := 0 }

/-- MCFG (R122); in a handler it raises ILL_OPERAND (R247). -/
def execMcfg (r p : BitVec 4) (s : State) : Out :=
  issue (.mcfg r p) (needs [r] [] fun s =>
    let x := s.me.get r
    let e := bits x 1 0
    let h := bits x 2 2
    if inHandler s then illWord (.mcfg r p) s
    else if bits x 63 4 != 0 || (bitAt x 3 && bits x 2 0 != 0) then illValue x s
    else if bitAt x 3 then
      if s.me.lease.isSome then advance (releaseLease s.cur.1 s.cur.2 s) else noLease x s
    else if s.me.lease.isSome || (tabFind (s.cluster (clusterOf s.cur.1)).leases (2 * e + h)).isSome then noLease x s
    else advance (takeLease e h s)) s

/-- MZERO (R136). -/
def execMzero (c : BitVec 2) (p : BitVec 4) (s : State) : Out :=
  issue (.mzero c p) (needsLease fun s =>
    let k := clusterOf s.cur.1
    finish (fun x => { x with dirty := setBit x.dirty c.toNat false })
      (s.modCluster k fun x => { x with tiles := tabDel x.tiles (tileKey s.me c) })) s

/-- The lowest bit of the half row that a value selects (R137). -/
def halfRow (g : Word) : Nat :=
  32 * (32 * bits g 4 0 + 16 * bits g 5 5)

/-- MRD (R137). -/
def execMrd (c : BitVec 2) (v : BitVec 3) (r p : BitVec 4) (s : State) : Out :=
  issue (.mrd c v r p) (needsVec [r] [] (needsLease fun s =>
    let t := tileOf s s.cur.1 s.cur.2 c
    finish (fun x => x.putVec v ((t >>> halfRow (x.get r)).setWidth 512)) s)) s

/-- MWR (R137). -/
def execMwr (c : BitVec 2) (v : BitVec 3) (r p : BitVec 4) (s : State) : Out :=
  issue (.mwr c v r p) (needsVec [r] [] (needsLease fun s =>
    let t := tileOf s s.cur.1 s.cur.2 c
    advance (putTile s.cur.1 s.cur.2 c (setField t (halfRow (s.me.get r)) 512 (s.me.vec v).toNat) s))) s

/-- The 512 doublewords of a tile with their addresses (R138). -/
def tileElems (va : Word) : List (Nat × Word) :=
  (List.range 512).map fun i => (i, va + BitVec.ofNat 64 (8 * i))

/-- MSAVE (R138). -/
def execMsave (c : BitVec 2) (r p : BitVec 4) (s : State) : Out :=
  issue (.msave c r p) (needs [r] [] (needsLease fun s =>
    let va := s.me.get r
    let t := tileOf s s.cur.1 s.cur.2 c
    if va.toNat % 64 ≠ 0 then trapHere ⟨.align, va, 0⟩ s
    else
      let x := placeElems s (fun i => .store (some (lane t 64 i))) 8 (tileElems va)
      let es := x.1.map fun (i, a, q) => sbEntry s .plain a q.loc 8 (lane t 64 i)
      startStore es (.msave es) (x.2.map Prod.snd) s)) s

/-- MLOAD (R138). -/
def execMload (c : BitVec 2) (r p : BitVec 4) (s : State) : Out :=
  issue (.mload c r p) (needs [r] [] (needsLease fun s =>
    let va := s.me.get r
    if va.toNat % 64 ≠ 0 then trapHere ⟨.align, va, 0⟩ s
    else
      let x := placeElems s (fun _ => .load) 8 (tileElems va)
      match x.2 with
      | some (_, st) => trapHere st s
      | none => startLoad (x.1.map fun (i, a, q) => ⟨i, a, q.loc, 8, q.ord, none, 0, 0⟩) (.tile c) none s)) s

/-- K of a format pair, 0 to 7 in the order of R128. -/
def pairK (pair : Nat) : Nat :=
  match pair with
  | 0 => 32
  | 1 => 32
  | 5 => 128
  | 6 => 128
  | _ => 64

/-- The least slot bytes of a format pair (R128). -/
def pairBytes (pair : Nat) : Nat :=
  match pair with
  | 5 => 2178
  | 6 => 4096
  | _ => 2048

/-- The float format of the A and of the B elements of a pair. -/
def pairFmtA (pair : Nat) : Fmt :=
  match pair with
  | 0 => .bf16
  | 1 => .f16
  | 2 => .e4m3
  | 4 => .e4m3
  | _ => .e5m2
def pairFmtB (pair : Nat) : Fmt :=
  match pair with
  | 0 => .bf16
  | 1 => .f16
  | 2 => .e4m3
  | _ => .e5m2

/-- Element e of a tile whose elements have w bits (R127). -/
def tileElem (w : Nat) (t : Nat) (e : Nat) : Nat :=
  (t >>> (w * e)) % 2 ^ w

/-- The values of the elements of an E2M1 tile in element order, escapes taking entries of the side list (R41). -/
def e2m1Elems (fiz : Bool) (t count : Nat) : List Nat → Nat → List (FVal × Flags)
  | [], _ => []
  | e :: es, k =>
    let c := tileElem 4 t e
    if c = 8 then
      let r : FVal × Flags :=
        if k < min count 64 then (fdecode fiz .bf16 (tileElem 16 (t >>> (8 * 2050)) k), 0) else (fzero, flFMT)
      r :: e2m1Elems fiz t count es (k + 1)
    else (e2m1Val c, 0) :: e2m1Elems fiz t count es k

/-- The float values of a tile's elements and the flags of reading it (R39, R41, R53). -/
def tileValues (fiz : Bool) (f : Fmt) (e2m1 : Bool) (k : Nat) (bytes : List Byte) : Array FVal × Flags :=
  let t := leNat bytes
  if e2m1 then
    let count := tileElem 16 (t >>> (8 * 2048)) 0
    let es := e2m1Elems fiz t count (List.range (32 * k)) 0
    ((es.map Prod.fst).toArray, es.foldl (fun acc x => acc ||| x.2) (if count > 64 then flFMT else 0))
  else
    let w := fmtExp f + fmtFrac f + 1
    (((List.range (32 * k)).map fun e => fdecode fiz f (tileElem w t e)).toArray, 0)

/-- One element of a float or L6 result given its K-group sum, scaled, with the NaN of a scale (R46, R58-R60). -/
def scaleNan (op : MmaOp) : Bool :=
  op.scale.toNat % 256 == 255 || op.scale.toNat / 256 % 256 == 255

/-- The power of two of the block scales (R46). -/
def scaleExp (op : MmaOp) : Int :=
  ((op.scale.toNat % 256 + op.scale.toNat / 256 % 256 : Nat) : Int) - 254

/-- An L6 element (R60). -/
def l6Result (env : FpEnv) (terms : List Int) (sc : Int) (c : FVal) : Nat × Flags :=
  let x := terms.foldl (· + ·) 0
  let v : FVal :=
    if x = 0 then .fin (env.rm = 3 && terms.any (· != 0)) 0 0 else .fin (decide (x < 0)) x.natAbs (-22)
  match c with
  | .nan => (canon .f32, 0)
  | .inf neg => rndTo env .f32 (.inf neg)
  | _ => rndTo env .f32 (fadd env.rm c (fscale sc v)).1

/-- The results of an MMA with the flags of each element, and the flags of reading the tiles (R129). -/
def mmaResult (op : MmaOp) (acc : Tile) : List (Nat × Flags) × Flags :=
  let k := pairK op.pair
  let zero := bitAt op.ctl 0
  let old (i j : Nat) : Nat := if zero then 0 else lane acc 32 (32 * i + j)
  let ks := List.range k
  let ijs := (List.range 1024).map fun e => (e / 32, e % 32)
  if op.pair = 7 then
    let a := leNat op.ta
    let b := leNat op.tb
    (ijs.map fun (i, j) =>
      (BitVec.ofInt 32 (ks.foldl (fun x q => x + sval (tileElem 8 a (k * i + q)) 8 * sval (tileElem 8 b (32 * q + j)) 8)
        (old i j : Int)) |>.toNat, 0), 0)
  else if op.pair = 6 then
    let a := leNat op.ta
    let b := leNat op.tb
    let es := List.range (32 * k)
    let fl := es.foldl (fun f e => f ||| l6Flag (tileElem 8 a e) ||| l6Flag (tileElem 8 b e)) (0 : Flags)
    (ijs.map fun (i, j) =>
      if scaleNan op then (canon .f32, flNV)
      else l6Result op.env (ks.map fun q => l6Term (tileElem 8 a (k * i + q)) (tileElem 8 b (32 * q + j)))
        (scaleExp op) (fdecode op.env.fiz .f32 (old i j)), fl)
  else
    let a := tileValues op.env.fiz (pairFmtA op.pair) (op.pair = 5) k op.ta
    let b := tileValues op.env.fiz (pairFmtB op.pair) (op.pair = 5) k op.tb
    (ijs.map fun (i, j) =>
      if scaleNan op then (canon .f32, flNV)
      else dotGroup op.env (ks.map fun q => (a.1.getD (k * i + q) fzero, b.1.getD (32 * q + j) fzero))
        (scaleExp op) (fdecode op.env.fiz .f32 (old i j)), a.2 ||| b.2)

/-- The MMA is a member of a shared-B group: .SB on a ring with more than one consumer (R132). -/
def isShared (s : State) (k : Nat) (op : MmaOp) : Bool :=
  bitAt op.ctl 1 && decide (ringCons (ringCfg s k op.qb.toNat) > 1)

/-- The .SB MMAs that name a ring, in the order in which they reached their engines, of one cycle by engine (R132). -/
def sharedOf (s : State) (k : Nat) (qb : BitVec 3) : List (Nat × Nat × Nat × MmaOp) :=
  ((clusterMmas s k).filter fun (_, _, _, op) => op.qb == qb && isShared s k op).mergeSort
    fun x y => decide (x.2.2.2.issued < y.2.2.2.issued) || (x.2.2.2.issued == y.2.2.2.issued && decide (x.1 ≤ y.1))

/-- The shared-B group of a ring of a cluster (R132). Its members stay members when another MMA pops the head. DESIGN CHOICE, log
55. -/
def sharedGroup (s : State) (k : Nat) (qb : BitVec 3) : List (Nat × Nat × Nat × MmaOp) :=
  (sharedOf s k qb).filter fun x => x.2.2.2.joined

/-- An .SB MMA on engine e joins the group of a ring: it is not complete, and has no member on that engine (R132). Of two .SB
MMAs of one engine that find a group complete without that engine, the second waits for a later group. DESIGN CHOICE, log 55. -/
def joinsGroup (s : State) (k e : Nat) (qb : BitVec 3) : Bool :=
  let g := sharedGroup s k qb
  decide (g.length < ringCons (ringCfg s k qb.toNat)) && !g.any fun x => x.1 == e

/-- The next group of a ring forms of the .SB MMAs that wait for it, in the order of their arrival (R132). -/
def regroup (k : Nat) (qb : BitVec 3) (s : State) : State :=
  ((sharedOf s k qb).filter fun x => x.2.2.2.judged && !x.2.2.2.joined).foldl (fun t (e, c, n, op) =>
    if joinsGroup t k e qb then t.setState c n (.wait (.mma { op with joined := true })) else t) s

/-- The first condition of R133 that an MMA fails at issue; the fourth against the members that came in earlier cycles. -/
def mmaMisuse (s : State) (pair : Nat) (a b : BitVec 3) (ctl : BitVec 4) : Option Stop :=
  let k := clusterOf s.cur.1
  let small (r : BitVec 3) : Bool :=
    ringOn s k r.toNat && decide (ringSlotBytes (ringCfg s k r.toNat) < pairBytes pair)
  let e := (s.me.lease.map Prod.fst).getD 0
  if a = b then some (ringMisuse a.toNat 1)
  else if small a then some (ringMisuse a.toNat 2)
  else if small b then some (ringMisuse b.toNat 2)
  else if !ringOn s k a.toNat then some (ringMisuse a.toNat 3)
  else if !ringOn s k b.toNat then some (ringMisuse b.toNat 3)
  else if bitAt ctl 1 && decide (ringCons (ringCfg s k b.toNat) > 1) &&
      (sharedGroup s k b).any (fun x => x.1 == e) then some (ringMisuse b.toNat 4)
  else none

/-- An MMA leaves its engine's queue. -/
def leaveEngine (c n : Nat) (s : State) : State :=
  s.modCluster (clusterOf c) fun x =>
    { x with engines := x.engines.map fun q => q.filter fun y => !(y.1 == c && y.2 == n) }

/-- An MMA of this cycle fails condition 4 of R133: one that joins the group before it is on its engine. Of two .SB MMAs that
reach one engine in one cycle, that of half 0 joins first. DEDUCED, log 55. -/
def mmaClash (s : State) (k e c n : Nat) (op : MmaOp) : Bool :=
  isShared s k op && (sharedGroup s k op.qb).any fun x => x.1 == e && !(x.2.1 == c && x.2.2.1 == n)

/-- The MMAs of a cluster that reached their engines in this cycle, once every core has issued, by engine: each joins the group of
its ring, waits for a later one, or fails condition 4 (R132, R133). -/
def mmaJudge (k : Nat) (s : State) : Option State :=
  let new := (clusterMmas s k).filter fun (_, _, _, op) => !op.judged
  if new = [] then none
  else
    some (new.foldl (fun t (e, c, n, op) =>
      if mmaClash t k e c n op then trapWait c n (ringMisuse op.qb.toNat 4) (leaveEngine c n t)
      else t.setState c n (.wait (.mma { op with judged := true, joined := isShared t k op && joinsGroup t k e op.qb }))) s)

/-- A waiting MMA whose ring is no longer configured traps (R268). -/
def mmaResume (c n : Nat) (s : State) : Option State :=
  let k := clusterOf c
  match mmaOf s c n with
  | some op =>
    if op.started.isSome then none
    else if !ringOn s k op.qa.toNat then some (trapWait c n (ringMisuse op.qa.toNat 3) (leaveEngine c n s))
    else if !ringOn s k op.qb.toNat then some (trapWait c n (ringMisuse op.qb.toNat 3) (leaveEngine c n s))
    else none
  | none => none

/-- An MMA of the executing strand reaches its engine: last, but before one of half 1 of the same cycle when its own half
is 0 (R130). -/
def reachEngine (s : State) (h : Nat) (q : List (Nat × Nat)) : List (Nat × Nat) :=
  let sameCycle (y : Nat × Nat) : Bool := match mmaOf s y.1 y.2 with
    | some op => op.issued == s.cyc && op.started.isNone
    | none => false
  if h = 0 then (q.filter fun y => !sameCycle y) ++ s.cur :: q.filter sameCycle else q ++ [s.cur]

/-- The effect of an MMA at issue (R129, R133); in a handler it raises ILL_OPERAND (R247). -/
def mmaBody (i : Instr) (pair : Nat) (acc : BitVec 2) (a b : BitVec 3) (g ctl : BitVec 4) : State → State :=
  needs [g] [] fun s =>
    if inHandler s then illWord i s
    else needsLease (fun s =>
      match mmaMisuse s pair a b ctl with
      | some st => trapHere st s
      | none =>
        let (e, h) := s.me.lease.getD (0, 0)
        let scale : Word := if g = 0 then 0x7F7F else s.me.get g
        let op : MmaOp := ⟨pair, acc, a, b, ctl, scale, s.me.env, s.cyc, none, [], [], false, false⟩
        (enterWait (.mma op) s).modCluster (clusterOf s.cur.1) fun x =>
          { x with engines := x.engines.setIfInBounds e (reachEngine s h (x.engines[e]?.getD [])) }) s

/-- MMA.BB (R128, R129). -/
def execMmaBb (c : BitVec 2) (a b : BitVec 3) (r l p : BitVec 4) (s : State) : Out :=
  issue (.mmaBb c a b r l p) (mmaBody (.mmaBb c a b r l p) 0 c a b r l) s

/-- MMA.HH (R128, R129). -/
def execMmaHh (c : BitVec 2) (a b : BitVec 3) (r l p : BitVec 4) (s : State) : Out :=
  issue (.mmaHh c a b r l p) (mmaBody (.mmaHh c a b r l p) 1 c a b r l) s

/-- MMA.QQ (R128, R129). -/
def execMmaQq (c : BitVec 2) (a b : BitVec 3) (r l p : BitVec 4) (s : State) : Out :=
  issue (.mmaQq c a b r l p) (mmaBody (.mmaQq c a b r l p) 2 c a b r l) s

/-- MMA.WW (R128, R129). -/
def execMmaWw (c : BitVec 2) (a b : BitVec 3) (r l p : BitVec 4) (s : State) : Out :=
  issue (.mmaWw c a b r l p) (mmaBody (.mmaWw c a b r l p) 3 c a b r l) s

/-- MMA.QW (R128, R129). -/
def execMmaQw (c : BitVec 2) (a b : BitVec 3) (r l p : BitVec 4) (s : State) : Out :=
  issue (.mmaQw c a b r l p) (mmaBody (.mmaQw c a b r l p) 4 c a b r l) s

/-- MMA.NN (R128, R129). -/
def execMmaNn (c : BitVec 2) (a b : BitVec 3) (r l p : BitVec 4) (s : State) : Out :=
  issue (.mmaNn c a b r l p) (mmaBody (.mmaNn c a b r l p) 5 c a b r l) s

/-- MMA.LL (R128, R129). -/
def execMmaLl (c : BitVec 2) (a b : BitVec 3) (r l p : BitVec 4) (s : State) : Out :=
  issue (.mmaLl c a b r l p) (mmaBody (.mmaLl c a b r l p) 6 c a b r l) s

/-- MMA.II (R128, R129). -/
def execMmaIi (c : BitVec 2) (a b : BitVec 3) (l p : BitVec 4) (s : State) : Out :=
  issue (.mmaIi c a b l p) (mmaBody (.mmaIi c a b l p) 7 c a b 0 l) s

/-- The MMA at the head of an engine's queue: the one that runs or starts next (R130). -/
def engineHead (s : State) (k e : Nat) : Option (Nat × Nat × MmaOp) :=
  match (s.cluster k).engines[e]?.getD [] with
  | (c, n) :: _ => (mmaOf s c n).map fun op => (c, n, op)
  | [] => none

/-- An MMA at the head of its engine can start by itself: its rings are live and hold tiles, and the strand's stores have
left the buffer (R130, R135, R268). -/
def mmaReady (s : State) (k : Nat) (x : Nat × Nat × MmaOp) : Bool :=
  let r (q : BitVec 3) : Bool := ringLive s k q.toNat && headReady s k q.toNat
  x.2.2.started.isNone && x.2.2.judged && r x.2.2.qa && r x.2.2.qb && drained s x.1 (s.strand x.1 x.2.1).uid

/-- An MMA starts: it reads its two head slots, or traps on poison, with the address of the first byte of the slot, whichever line
of the tile is poisoned (R129, R361); the other members of its group start without it. DESIGN CHOICE, log 55, for both. -/
def mmaBegin (k c n : Nat) (op : MmaOp) (s : State) : State :=
  let len := pairBytes op.pair
  let pa := headAddr s k op.qa.toNat
  let pb := headAddr s k op.qb.toNat
  if poisoned s pa len then trapWait c n ⟨.poison, ownVa s pa, 0⟩ (leaveEngine c n s)
  else if poisoned s pb len then trapWait c n ⟨.poison, ownVa s pb, 0⟩ (leaveEngine c n s)
  else s.setState c n (.wait (.mma { op with
    started := some s.cyc, ta := memBytes s.mem pa len, tb := memBytes s.mem pb len }))

/-- The members that start with the MMA at the head of an engine: itself, or its complete shared-B group with every
member at the head of its engine (R130, R132). -/
def startSet (s : State) (k e : Nat) : Option (List (Nat × Nat × MmaOp)) :=
  match engineHead s k e with
  | none => none
  | some (c, n, op) =>
    if isShared s k op then
      let g := sharedGroup s k op.qb
      let heads := g.filterMap fun x => (engineHead s k x.1).bind fun h =>
        if h.1 = x.2.1 && h.2.1 = x.2.2.1 then some h else none
      if g.length = ringCons (ringCfg s k op.qb.toNat) && heads.length = g.length &&
          g.any (fun x => x.2.1 == c && x.2.2.1 == n) then some heads else none
    else some [(c, n, op)]

/-- MMA_START (R130). -/
def mmaStart (k e : Nat) (s : State) : Option State :=
  match startSet s k e with
  | some xs =>
    if !s.powerHold && xs.all (mmaReady s k) then
      some (xs.foldl (fun t (c, n, op) => mmaBegin k c n op t) s)
    else none
  | none => none

/-- MMA_START (R130). -/
def execMmaStart (k e : Nat) (s : State) : Out :=
  event (mmaStart k e) s

/-- One MMA retires: its tile, flags and own pop, or its floating-point trap; the second part says that it completed
(R129, R132). -/
def mmaEnd (k c n : Nat) (op : MmaOp) (s : State) : State × Bool :=
  let r := mmaResult op (tileOf s c n op.acc)
  let all := r.1.foldl (fun f x => f ||| x.2) r.2
  let s1 := (leaveEngine c n s).modStrand c n (mergeFps all)
  match enabledTrap op.env all with
  | some j =>
    let i := (r.1.findIdx? fun x => hasEnabled op.env x.2).getD 0
    (trapWait c n ⟨fpCause j, all.setWidth 64, BitVec.ofNat 64 i⟩ s1, false)
  | none =>
    let s2 := wake c n id (putTile c n op.acc (BitVec.ofNat 32768 (joinLanes 32 (r.1.map Prod.fst))) s1)
    (if bitAt op.ctl 3 then popRing k op.qa.toNat (op.started.getD s.cyc) s2 else s2, true)

/-- The MMAs that retire with the one at the head of an engine (R132). -/
def retireSet (s : State) (k e : Nat) : List (Nat × Nat × MmaOp) :=
  match engineHead s k e with
  | none => []
  | some (c, n, op) =>
    if isShared s k op then
      (clusterMmas s k).filterMap fun (_, c', n', o) =>
        if o.qb == op.qb && isShared s k o && o.started.isSome then some (c', n', o) else none
    else [(c, n, op)]

/-- MMAs retire one after another, and say whether one that completed pops qb: a member that traps has no effect (R57), so
that qb stays when every member with .PB traps (R132). DEDUCED, log 55. -/
def retireAll (k : Nat) : List (Nat × Nat × MmaOp) → State → State × Bool
  | [], s => (s, false)
  | (c, n, op) :: xs, s =>
    let r := mmaEnd k c n op s
    let t := retireAll k xs r.1
    (t.1, (r.2 && bitAt op.ctl 2) || t.2)

/-- MMA_RETIRE (R129-R132): 32 cycles after the start, the MMA or its whole group retires. -/
def mmaRetire (k e : Nat) (s : State) : Option State :=
  match engineHead s k e with
  | some (_, _, op) =>
    match op.started with
    | some t =>
      if t + 32 ≤ s.cyc then
        let xs := retireSet s k e
        let r := retireAll k xs s
        let s1 := if r.2 then popRing k op.qb.toNat t r.1 else r.1
        let popped := (xs.filter fun x => bitAt x.2.2.ctl 3).map fun x => x.2.2.qa
        some ((popped ++ if r.2 || isShared s k op then [op.qb] else []).foldl (fun s q => regroup k q s) s1)
      else none
    | none => none
  | none => none

/-- MMA_RETIRE (R129). -/
def execMmaRetire (k e : Nat) (s : State) : Out :=
  event (mmaRetire k e) s

end Sys2Proof.Machine
end

