-- ==== Sys2Proof/Machine/Engines.lean ====
section
/-! DEFINITION. Engine queues: copies, ring pushes, collective chains, and the joins of queues (R258-R279, R329). Queue
numbers: 0-3 the copy queues of a cluster, 4-5 the Peony queues of a die, 6 the face queue of a cluster. -/

namespace Sys2Proof.Machine

/-- Queue q of cluster or die k. -/
def getQ (s : State) (k q : Nat) : EngineQ :=
  if q < 4 then (s.cluster k).copyQ[q]?.getD []
  else if q < 6 then (s.die k).pq[q - 4]?.getD []
  else (s.cluster k).faceQ

/-- The module with that queue updated. -/
def modQ (k q : Nat) (f : EngineQ → EngineQ) (s : State) : State :=
  if q < 4 then s.modCluster k fun x => { x with copyQ := x.copyQ.setIfInBounds q (f (x.copyQ[q]?.getD [])) }
  else if q < 6 then s.modDie k fun x => { x with pq := x.pq.setIfInBounds (q - 4) (f (x.pq[q - 4]?.getD [])) }
  else s.modCluster k fun x => { x with faceQ := f x.faceQ }

/-- The cluster or die of a core's queue. -/
def homeOf (c q : Nat) : Nat :=
  if q < 4 then clusterOf c else dieOf (clusterOf c)

/-- The model's number of a command or chain; none for a marker. -/
def QItem.cid : QItem → Option Nat
  | .cmd x => some x.cid
  | .chain x => some x.cid
  | .marker _ => none

/-- The numbers of the commands in a queue. -/
def cidsOf (q : EngineQ) : List Nat := q.filterMap QItem.cid

/-- The numbers of every command of the module that is neither completed nor faulted. -/
def liveCids (s : State) : List Nat :=
  (s.clusters.flatMap fun (_, x) => x.copyQ.toList.flatMap cidsOf) ++
  (s.dies.flatMap fun (_, x) => x.pq.toList.flatMap cidsOf) ++
  (s.saved.flatMap fun (_, x) => x.items.filterMap fun i => i.2.2.cid) ++ s.returning.filterMap fun i => i.2.2.cid

/-- Markers at the head of a queue go once their commands are gone (R276). DEDUCED, log 53. -/
def dropMarkers (live : List Nat) : EngineQ → EngineQ
  | .marker ids :: q => if ids.any (live.contains ·) then .marker ids :: q else dropMarkers live q
  | q => q

/-- The module without the markers whose commands are all gone. -/
def pruneMarkers (s : State) : State :=
  let live := liveCids s
  { s with
    clusters := s.clusters.map fun (k, x) => (k, { x with copyQ := x.copyQ.map (dropMarkers live) })
    dies := s.dies.map fun (d, x) => (d, { x with pq := x.pq.map (dropMarkers live) }) }

/-- The queue has a free place (R259). -/
def hasPlace (s : State) (k q : Nat) : Bool :=
  decide ((cidsOf (getQ s k q)).length < 32)

/-- The queue has room for another new command: restored ones go before it (R259, R278). DESIGN CHOICE, log 53, for those of
other launches. -/
def hasRoom (s : State) (k q : Nat) : Bool :=
  hasPlace s k q && !s.returning.any fun x => x.1 == k && x.2.1 == q

/-- A restored item enters its queue: a command when there is a place, a marker at once (R278). -/
def returnItem (x : Nat × Nat × QItem) (s : State) : Option State :=
  let s1 := modQ x.1 x.2.1 (· ++ [x.2.2]) { s with returning := s.returning.erase x }
  match x.2.2 with
  | .marker _ => some s1
  | _ => if hasPlace s x.1 x.2.1 then some s1 else none

/-- The first restored item whose queue can take it enters it: those of one queue in their order (R278). -/
def returnNext (s : State) : Option State :=
  (s.returning.findSome? fun x =>
    match s.returning.find? fun y => y.1 == x.1 && y.2.1 == x.2.1 with
    | some y => returnItem y s
    | none => none).map pruneMarkers

/-- Restored items enter their queues while there is room, by fuel. -/
def returnAll : Nat → State → State
  | 0, s => s
  | f + 1, s =>
    match returnNext s with
    | some t => returnAll f t
    | none => s

/-- The strand in a slot entered WAIT before every other strand whose operation satisfies a condition. -/
def firstWaiting (s : State) (c n : Nat) (p : Nat → Nat → WaitOp → Bool) : Bool :=
  s.places.all fun (c', n') =>
    match s.waiting c' n' with
    | some op => (c' == c && n' == n) || !p c' n' op || waitBefore s (c, n) (c', n')
    | none => true

/-- The operation is an RPUSH of ring r of cluster k. -/
def pushesTo (k : Nat) (r : BitVec 3) (c _n : Nat) : WaitOp → Bool
  | .rpush r' _ _ _ _ _ _ => r' == r && clusterOf c == k
  | _ => false

/-- The ring has no slot to reserve in this cycle (R269, R270). DEDUCED, log 24. -/
def ringIsFull (s : State) (k r : Nat) : Bool :=
  let w := ringState s k r
  let x := ringRt s k r
  decide (ringSlots (ringCfg s k r) ≤ ringRes w + ringFull w + if x.popAt = s.cyc then x.pops else 0)

/-- The RPUSH in a slot may reserve a slot of its ring (R268, R269). -/
def mayReserve (s : State) (c n : Nat) (r : BitVec 3) : Bool :=
  let k := clusterOf c
  ringLive s k r.toNat && !ringIsFull s k r.toNat && firstWaiting s c n (pushesTo k r)

/-- The cycle in which the command of a slot has reached queue q of cluster or die k, when it waits for room there and for
nothing else: a copy or chain at its issue, an RPUSH once it may reserve its slot (R259, R269). DEDUCED, log 53. -/
def reachedAt (s : State) (k q c n : Nat) : Option Nat :=
  match s.waiting c n with
  | some (.engine q' _ _ _) => if q' = q ∧ homeOf c q = k then some (s.slot c n).waitAt else none
  | some (.rpush r q' _ _ _ _ t) =>
    if q' = q ∧ clusterOf c = k ∧ mayReserve s c n r = true then some (t.getD s.cyc) else none
  | _ => none

/-- The command of a slot is the next to enter its queue: in the order in which they reach it, of one cycle by core and then
by slot (R259). -/
def firstToEnter (s : State) (k q c n : Nat) : Bool :=
  match reachedAt s k q c n with
  | none => false
  | some t => s.places.all fun (c', n') =>
      match reachedAt s k q c' n' with
      | some u => decide (t < u) ||
          (t == u && (decide (c < c') || (c == c' && decide (n ≤ n'))))
      | none => true

/-- A command enters its queue once there is room, in the order in which the strands asked, and its digest item is folded
(R259, R262, R338). -/
def engineResume (c n : Nat) (s : State) : Option State :=
  match s.waiting c n with
  | some (.engine q item d (a, sz, v)) =>
    let k := homeOf c q
    if hasRoom s k q && firstToEnter s k q c n then
      let s1 := foldItem c n a sz v (modQ k q (· ++ [item]) s)
      match item with
      | .chain x =>
        if x.wait then some (s1.setState c n (.wait (.collw x.cid d))) else some (wake c n id s1)
      | _ => some (wake c n id s1)
    else none
  | _ => none

/-- The executing strand's command is to enter queue q: gd is emptied, and the strand waits for room (R262). -/
def submit (q : Nat) (item : Nat → QItem) (d : BitVec 4) (digest : Word × Nat × Word) (s : State) : State :=
  let (cid, s1) := s.fresh
  waitOr (.engine q (item cid) d digest) engineResume s1

/-- Where the completion of the executing strand's command goes. -/
def fillTo (d : BitVec 4) (s : State) : Option FillTo :=
  if d = 0 then none else some ⟨s.me.uid, d⟩

/-- The address of a sync word of the own module, when it is one (R263, R328). -/
def syncAddr (s : State) (va : Word) : Option Nat :=
  let la := localPart va
  match rangeOf la with
  | some (.cluster _) => if isOwn s va && la % 16 = 0 then some la else none
  | _ => none

/-- The effect of CPY and CPYR (R263, R266): off is the offset at which they start. -/
def copyBody (i : Instr) (fn : Nat) (d a b : BitVec 4) (off : Word) (s : State) : State :=
  let x := s.me
  let w := x.get (regPlus a 2)
  let len := bits w 39 0
  let sync := syncAddr s (x.get b)
  if bits w 47 40 != 0 || bits w 63 50 != 0 || len = 0 then illValue w s
  else if d = 0 && b = 0 then illWord i s
  else if b != 0 && sync.isNone then illValue (x.get b) s
  else if off.toNat ≥ len then illValue off s
  else
    submit (bits w 49 48)
      (fun cid => .cmd { cid := cid, core := s.cur.1, uid := x.uid, q := x.queue, rights := x.rights, fill := fillTo d s,
                         sync := if b = 0 then none else sync, dst := x.get a, src := x.get (regPlus a 1), len := len,
                         off := off.toNat, started := false, since := 0, moved := false, status := none, ring := none,
                         face := none })
      d (x.get a, 0x40 + fn, x.get b) (s.modMe (emptyReg d))

/-- CPY (R263). -/
def execCpy (d a b p : BitVec 4) (s : State) : Out :=
  issue (.cpy d a b p) (needs (regGroup a 3 ++ [b]) [d] (copyBody (.cpy d a b p) 0 d a b 0)) s

/-- CPYR (R266). -/
def execCpyr (d a b p : BitVec 4) (s : State) : Out :=
  issue (.cpyr d a b p) (needs (regGroup a 4 ++ [b]) [d] fun s =>
    copyBody (.cpyr d a b p) 1 d a b (s.me.get (regPlus a 3)) s) s

/-- A command that has reached its queue in this cycle alone, and one of a core up to its own that can still issue in it, which
would go before it (R259). -/
def mayBeAhead (s : State) (k q c n : Nat) : Bool :=
  reachedAt s k q c n == some s.cyc &&
    s.cores.any fun (d, _) => decide (d ≤ c) && homeOf d q == k && willIssue s d

/-- RPUSH_RESERVE (R269): the first waiting RPUSH of a ring reserves its slot, and its fill enters the copy queue. -/
def rpushReserve (c n : Nat) (s : State) : Option State :=
  match s.waiting c n with
  | some (.rpush r q src d _ word _) =>
    let k := clusterOf c
    let cfg := ringCfg s k r.toNat
    let w := ringState s k r.toNat
    if mayReserve s c n r && hasRoom s k q && firstToEnter s k q c n && !mayBeAhead s k q c n then
      let slot := ringTail w
      let x := s.strand c n
      let (cid, s1) := s.fresh
      let item : Command :=
        { cid := cid, core := c, uid := x.uid, q := x.queue, rights := x.rights,
          fill := if d = 0 then none else some ⟨x.uid, d⟩, sync := none,
          dst := ownVa s (csAddr k (ringBase cfg + ringSlotBytes cfg * slot)), src := src, len := ringSlotBytes cfg,
          off := 0, started := false, since := 0, moved := false, status := none, ring := some (r.toNat, slot),
          face := none }
      let s2 := putRingState k r.toNat (ringHead w) ((slot + 1) % max 1 (ringSlots cfg)) (ringFull w) (ringRes w + 1) s1
      let s3 := modRing k r.toNat (fun y => { y with resv := y.resv ++ [⟨slot, cid, false, none, false⟩] }) s2
      some (wake c n id (foldItem c n src 0x42 word (modQ k q (· ++ [.cmd item]) s3)))
    else none
  | _ => none

/-- An RPUSH that may reserve its slot and finds no room in its queue has reached that queue (R259). -/
def rpushReach (c n : Nat) (s : State) : Option State :=
  match s.waiting c n with
  | some (.rpush r q src d limit word none) =>
    if mayReserve s c n r then some (s.setState c n (.wait (.rpush r q src d limit word (some s.cyc)))) else none
  | _ => none

/-- An RPUSH in WAIT whose ring is no longer configured traps (R268). -/
def rpushResume (c n : Nat) (s : State) : Option State :=
  match s.waiting c n with
  | some (.rpush r _ _ d _ _ _) =>
    if ringOn s (clusterOf c) r.toNat then none
    else some (trapWait c n (ringMisuse r.toNat 3) (s.modStrand c n (refillReg d)))
  | _ => none

/-- RPUSH (R269); one that can enter its queue at once does so at issue (R259). -/
def execRpush (d a b p : BitVec 4) (s : State) : Out :=
  issue (.rpush d a b p) (needs [a, b] [d] fun s =>
    let w := s.me.get b
    let r : BitVec 3 := w.setWidth 3
    let k := clusterOf s.cur.1
    if bitAt w 3 || bits w 63 6 != 0 then illValue w s
    else if !ringOn s k r.toNat then trapHere (ringMisuse r.toNat 3) s
    else
      waitOr (.rpush r (bits w 5 4) (s.me.get a) d (s.cyc + 2 ^ ringWlim (ringCfg s k r.toNat)) w none) rpushReserve
        (s.modMe (emptyReg d))) s

/-- RPUSH_RESERVE (R269). -/
def execRpushReserve (c n : Nat) (s : State) : Out :=
  event (rpushReserve c n) s

/-- The ring on whose empty head slot an MMA has waited to its limit, qa first (R271). DEDUCED, log 24. -/
def emptyHead (s : State) (k : Nat) (op : MmaOp) : Option Nat :=
  [op.qa.toNat, op.qb.toNat].find? fun r =>
    ringFull (ringState s k r) == 0 && decide (op.issued + 2 ^ ringWlim (ringCfg s k r) ≤ s.cyc)

/-- RING_WAIT_LIMIT (R271): an MMA on an empty head slot, or an RPUSH on a full ring, has waited to its limit. -/
def ringLimit (c n : Nat) (s : State) : Option State :=
  let k := clusterOf c
  match s.waiting c n with
  | some (.mma op) =>
    if op.started.isSome then none
    else (emptyHead s k op).map fun r => trapWait c n (ringLimitStop s k r) (leaveEngine c n s)
  | some (.rpush r _ _ d limit _ _) =>
    if ringIsFull s k r.toNat && decide (limit ≤ s.cyc) then
      some (trapWait c n (ringLimitStop s k r.toNat) (s.modStrand c n (refillReg d)))
    else none
  | _ => none

/-- RING_WAIT_LIMIT (R271). -/
def execRingWaitLimit (c n : Nat) (s : State) : Out :=
  event (ringLimit c n) s

/-- The queues that a QFENCE mask names (R276). -/
def fencedQueues (w : Word) : List Nat :=
  (List.range 6).filter fun q => bitAt w q

/-- A QFENCE in WAIT whose commands have all completed (R276). -/
def qfenceResume (c n : Nat) (s : State) : Option State :=
  match s.waiting c n with
  | some (.qfence ids) => if ids.any ((liveCids s).contains ·) then none else some (wake c n id s)
  | _ => none

/-- QFENCE (R276). -/
def execQfence (a p : BitVec 4) (s : State) : Out :=
  issue (.qfence a p) (needs [a] [] fun s =>
    let w := s.me.get a
    let qs := fencedQueues w
    let ids := qs.flatMap fun q => cidsOf (getQ s (homeOf s.cur.1 q) q)
    if bits w 7 6 != 0 || bits w 63 9 != 0 then illValue w s
    else
      let s1 := if ids = [] then s else qs.foldl (fun s q => modQ (homeOf s.cur.1 q) q (· ++ [.marker ids]) s) s
      let s2 := pruneMarkers s1
      if bitAt w 8 then waitOr (.qfence ids) qfenceResume s2 else advance s2) s

/-- The effect of COLL and COLLW (R261, R275). -/
def collBody (fn : Nat) (wait : Bool) (d a b : BitVec 4) (s : State) : State :=
  let x := s.me
  let w := x.get b
  if bits w 63 1 != 0 then illValue w s
  else
    submit (4 + bits w 0 0)
      (fun cid => .chain { cid := cid, core := s.cur.1, uid := x.uid, q := x.queue, rights := x.rights,
                           fill := if wait then none else fillTo d s, desc := some (x.get a), steps := 0,
                           started := false, since := 0, status := none, wait := wait })
      d (x.get a, 0x40 + fn, w) (if wait then s else s.modMe (emptyReg d))

/-- COLL (R275). -/
def execColl (d a b p : BitVec 4) (s : State) : Out :=
  issue (.coll d a b p) (needs [a, b] [d] (collBody 4 false d a b)) s

/-- COLLW (R275). -/
def execCollw (d a b p : BitVec 4) (s : State) : Out :=
  issue (.collw d a b p) (needs [a, b] [d] (collBody 5 true d a b)) s

/-- The status word of R262. -/
def statusWord (st : Option Cause) (off : Nat) (side : Bool) : Word :=
  match st with
  | none => BitVec.ofNat 64 (off % 2 ^ 40 * 2 ^ 16)
  | some c => BitVec.ofNat 64 (1 + causeCode c * 2 ^ 8 + off % 2 ^ 40 * 2 ^ 16 + b2n side * 2 ^ 56)

/-- What an engine writes beside its destination bytes: never the words of ring descriptors and the offsets above them,
which such a write leaves as they are (R258, R268). DESIGN CHOICE, log 62. -/
def engineWrite (a : Nat) (bs : List Byte) (s : State) : State :=
  if 0xEFF00 ≤ a % 0x100000 ∧ a % 0x100000 < 0xF0000 then s else perform a bs s

/-- An addition of c bytes to a sync word, one atomic step (R329). -/
def addSync (a c : Nat) (s : State) : State :=
  let w0 := s.read a 8
  let w1 := s.read (a + 8) 8
  let sum := (w0 % 2 ^ 48 + c) % 2 ^ 48
  let gen := w0 / 2 ^ 48 + w1 / 2 ^ 48 * 2 ^ 16
  let target := w1 % 2 ^ 48
  let arrived := if target = 0 then sum else sum % target
  let gen' := if target = 0 then gen else (gen + sum / target) % 2 ^ 32
  engineWrite a (leBytes 8 (arrived + gen' % 2 ^ 16 * 2 ^ 48) ++ leBytes 8 (target + gen' / 2 ^ 16 * 2 ^ 48)) s

/-- The bytes that the other modules answer, and whether they refuse the j-th as source or destination. -/
def sideByte : RemoteSide → Nat → Byte
  | .ok d, j => d.getD j 0
  | .stop d _ _ _, j => d.getD j 0
def sideRefuses : RemoteSide → Nat → Bool → Option Cause
  | .ok _, _, _ => none
  | .stop _ n c dst, j, side => if n = j && dst == side then some c else none

/-- The byte at offset i of a command's source; j is its number in the chunk (R263, R361). -/
def copyRead (x : Command) (side : RemoteSide) (j i : Nat) (s : State) : Except Cause Byte :=
  match checkAccess s x.core x.rights .load (x.src + BitVec.ofNat 64 i) 1 with
  | .error st => .error st.cause
  | .ok p =>
    match p.loc with
    | .here a => if poisoned s a 1 then .error .poison else .ok (byteOf (loadMem s p.ord a 1) 0)
    | .there _ _ =>
      match sideRefuses side j false with
      | some c => .error c
      | none => .ok (sideByte side j)

/-- Writes the byte at offset i of a command's destination (R263). -/
def copyWrite (x : Command) (side : RemoteSide) (j i : Nat) (b : Byte) (s : State) : Except Cause State :=
  let va := x.dst + BitVec.ofNat 64 i
  match checkAccess s x.core x.rights (.store none) va 1 with
  | .error st => .error st.cause
  | .ok p =>
    match p.loc with
    | .here a => .ok (shoot x.cid a 1 s (performStore va a [b] s))
    | .there m la =>
      match sideRefuses side j true with
      | some c => .error c
      | none => .ok (sendOut m (.bytes la [b]) s)

/-- n bytes of a command from offset i on: the state, and the first offset that fails with its cause and side (R263,
R265). -/
def copyBytes (x : Command) (side : RemoteSide) : Nat → Nat → Nat → State → State × Option (Nat × Cause × Bool)
  | 0, _, _, s => (s, none)
  | n + 1, j, i, s =>
    match copyRead x side j i s with
    | .error c => (s, some (i, c, false))
    | .ok b =>
      match copyWrite x side j i b s with
      | .error c => (s, some (i, c, true))
      | .ok s1 => copyBytes x side n (j + 1) (i + 1) s1

/-- The length of a command's next chunk: up to the next 256-byte boundary of its destination (R263). -/
def chunkLen (x : Command) : Nat :=
  min (x.len - x.off) (256 - (x.dst.toNat + x.off) % 256)

/-- The command at the head of a queue. -/
def headCmd (s : State) (k q : Nat) : Option Command :=
  match getQ s k q with
  | .cmd x :: _ => some x
  | _ => none

/-- The command at the head of a queue has a chunk to move. -/
def chunkReady (s : State) (k q : Nat) : Bool :=
  match headCmd s k q with
  | some x => x.started && x.status.isNone && !x.moved && decide (x.off < x.len)
  | none => false

/-- The queue at a place of the rotation face, Q0, face, Q1, face, Q2, face, Q3 (R277). -/
def rotationQ (p : Nat) : Nat :=
  if p % 2 = 0 then 6 else p / 2

/-- A command has nothing more to move. -/
def Command.ended (x : Command) : Bool :=
  x.status.isSome || (x.started && decide (x.len ≤ x.off))

/-- The rotation stops at a queue: it holds a command that has a chunk to move, or will have one once it starts or the one before
it has left. It does not at a queue that waits for a join, or for accesses under way to be performed (R260, R276, R277, R317). -/
def inRotation (s : State) (k q : Nat) : Bool :=
  match getQ s k q with
  | .cmd x :: rest =>
    !x.moved && if x.ended then settled true s x.cid && match rest with
      | .cmd _ :: _ => true
      | _ => false
    else true
  | _ => false

/-- The next place of the rotation, skipping empty queues (R277). -/
def nextTurn (s : State) (k : Nat) : Option Nat :=
  ((List.range 8).map fun i => ((s.cluster k).turn + i) % 8).find? fun p => inRotation s k (rotationQ p)

/-- It is the turn of a queue. -/
def hasTurn (s : State) (k q : Nat) : Bool :=
  (nextTurn s k).any fun p => rotationQ p == q

/-- The command at the head of a queue is replaced. -/
def putHead (k q : Nat) (i : QItem) (s : State) : State :=
  modQ k q (fun x => i :: x.drop 1) s

/-- The rotation moves past a queue whose turn it was in a state. -/
def passTurn (k q : Nat) (old s : State) : State :=
  match nextTurn old k with
  | some p => if rotationQ p = q then s.modCluster k fun x => { x with turn := (p + 1) % 8 } else s
  | none => s

/-- COMMAND_START (R260): the command at the head of a queue starts. -/
def commandStart (k q : Nat) (s : State) : Option State :=
  match getQ s k q with
  | .cmd x :: _ => if x.started then none else some (putHead k q (.cmd { x with started := true, since := s.cyc }) s)
  | .chain x :: _ => if x.started then none else some (putHead k q (.chain { x with started := true, since := s.cyc }) s)
  | _ => none

/-- COMMAND_START (R260). -/
def execCommandStart (k q : Nat) (s : State) : Out :=
  event (commandStart k q) s

/-- The first byte of a command's next chunk that lies on another module, and whether as a destination. -/
def firstFar (s : State) (x : Command) : Option (Nat × Bool) :=
  (List.range (chunkLen x)).findSome? fun j =>
    let off := BitVec.ofNat 64 (x.off + j)
    if !isOwn s (x.src + off) then some (j, false)
    else if !isOwn s (x.dst + off) then some (j, true)
    else none

/-- What a chunk meets when another module has not answered within 2^FTO cycles (R265, R370, R406). -/
def farSilence (k q : Nat) (s : State) : Option RemoteSide :=
  match headCmd s k q with
  | some x =>
    if x.since + 2 ^ s.fto ≤ s.cyc then (firstFar s x).map fun (j, dst) => .stop [] j .remoteTimeout dst else none
  | none => none

/-- The chunk of a queue whose turn it is, or of one that has waited to its limit (R406), moved as far as it goes: the command,
the state, and the failure. -/
def runChunk (k q : Nat) (side : RemoteSide) (s : State) :
    Option (Command × State × Option (Nat × Cause × Bool)) :=
  match headCmd s k q with
  | some x =>
    if chunkReady s k q && (hasTurn s k q || farSilence k q s == some side) then
      some (x, copyBytes x side (chunkLen x) 0 x.off s)
    else none
  | none => none

/-- Adds bytes to a command's sync word, when it has one (R264). -/
def countBytes (x : Command) (n : Nat) (s : State) : State :=
  match x.sync with
  | some a => addSync a n s
  | none => s

/-- The chunk of a command whose bytes are written is counted. -/
def chunkDone (k q : Nat) (x : Command) (s : State) : State :=
  putHead k q (.cmd { x with off := x.off + chunkLen x, moved := false, since := s.cyc }) (countBytes x (chunkLen x) s)

/-- COPY_CHUNK (R263, R264): a chunk all of whose bytes pass; it is counted once they are performed (R317). -/
def copyChunk (k q : Nat) (side : RemoteSide) (s : State) : Option State :=
  match runChunk k q side s with
  | some (x, s1, none) =>
    some (passTurn k q s (if settled true s1 x.cid then chunkDone k q x s1 else putHead k q (.cmd { x with moved := true }) s1))
  | _ => none

/-- COPY_CHUNK (R263). -/
def execCopyChunk (k q : Nat) (side : RemoteSide) (s : State) : Out :=
  event (copyChunk k q side) s

/-- The failing address of a command. -/
def failAddr (x : Command) (f : Nat) (dst : Bool) : Word :=
  (if dst then x.dst else x.src) + BitVec.ofNat 64 f

/-- The fault report beside a sync word (R265). -/
def reportFault (x : Command) (c : Cause) (f : Nat) (dst : Bool) (s : State) : State :=
  match x.sync with
  | some a => engineWrite (a + 24) (leBytes 8 (failAddr x f dst).toNat)
      (engineWrite (a + 16) (leBytes 8 (statusWord (some c) f dst).toNat) s)
  | none => s

/-- The part of a faulted chunk that is written is counted, and the fault is reported (R265). -/
def faultDone (k q : Nat) (x : Command) (c : Cause) (f : Nat) (dst : Bool) (s : State) : State :=
  putHead k q (.cmd { x with off := f, moved := false, status := some (c, f, dst) })
    (reportFault x c f dst (countBytes x (f - x.off) s))

/-- COPY_FAULT (R265): a byte of the chunk fails; the bytes before it are counted once they are performed (R260, R317). -/
def copyFault (k q : Nat) (side : RemoteSide) (s : State) : Option State :=
  match runChunk k q side s with
  | some (x, s1, some (f, c, dst)) =>
    if q = 6 then none
    else
      some (passTurn k q s (if settled true s1 x.cid then faultDone k q x c f dst s1
        else putHead k q (.cmd { x with moved := true, status := some (c, f, dst) }) s1))
  | _ => none

/-- The chunk whose bytes are written is counted once the stores to page tables among them are performed (R317). -/
def chunkSettle (k q : Nat) (s : State) : Option State :=
  match headCmd s k q with
  | some x =>
    if x.moved && settled true s x.cid then
      some (match x.status with
        | none => chunkDone k q x s
        | some (c, f, dst) => faultDone k q x c f dst s)
    else none
  | none => none

/-- COPY_FAULT (R265). -/
def execCopyFault (k q : Nat) (side : RemoteSide) (s : State) : Out :=
  event (copyFault k q side) s

/-- The strand whose COLLW waits for a chain, with its register. -/
def collwWaiter (s : State) (cid : Nat) : Option (Nat × Nat × BitVec 4) :=
  s.places.findSome? fun (c, n) =>
    match s.waiting c n with
    | some (.collw i d) => if i = cid then some (c, n, d) else none
    | _ => none

/-- A strand restored in WAIT under a COLLW, and not yet placed or not yet back on its core, takes its status word (R275). -/
def collwAway (cid : Nat) (w : Word) (s : State) : State :=
  let f (x : Strand) : Strand :=
    match x.collw with
    | some (i, d) => if i = cid then { (x.put d w).goTo (x.pc + 4) with collw := none } else x
    | none => x
  { s with
    cores := s.cores.map fun (c, k) => (c, { k with arr := k.arr.map fun e => { e with strand := f e.strand } })
    saved := s.saved.map fun (n, sv) => (n, { sv with strands := sv.strands.map fun (c, x) => (c, f x) }) }

/-- The chain at the head of a Peony queue has ended: its status word. -/
def chainStatus (x : Chain) : Option Word :=
  match x.status with
  | some (c, n) => some (statusWord (some c) n false)
  | none => if x.started && x.desc.isNone then some (statusWord none x.steps false) else none

/-- The command at the head of a copy queue has ended: its status word. -/
def commandStatus (x : Command) : Option Word :=
  match x.status with
  | some (c, f, dst) => some (statusWord (some c) f dst)
  | none => if x.started && decide (x.len ≤ x.off) then some (statusWord none x.len false) else none

/-- COMMAND_COMPLETE (R260, R262, R270, R275): the command at the head of a queue leaves it, and its completion is sent; that
of an RPUSH follows the publication of its slot. -/
def commandComplete (k q : Nat) (s : State) : Option State :=
  match getQ s k q with
  | .cmd x :: _ =>
    if q = 6 || x.moved || !settled true s x.cid then none
    else (commandStatus x).map fun w =>
      let s1 := modQ k q (·.drop 1) s
      pruneMarkers (match x.ring with
        | some (r, _) => modRing k r (fun y => { y with resv := markFilled x.cid (x.fill.map fun t => (t, w)) y.resv }) s1
        | none => sendFill x.fill w s1)
  | .chain x :: _ => (chainStatus x).map fun w =>
      let s1 := pruneMarkers (sendFill x.fill w (modQ k q (·.drop 1) s))
      match collwWaiter s1 x.cid with
      | some (c, n, d) => wake c n (fun y => y.put d w) s1
      | none => collwAway x.cid w s1
  | _ => none

/-- COMMAND_COMPLETE (R260). -/
def execCommandComplete (k q : Nat) (s : State) : Out :=
  event (commandComplete k q) s

end Sys2Proof.Machine
end

