-- ==== Sys2Proof/Machine/Peony.lean ====
section
/-! DEFINITION. The steps of a Peony chain (R272-R275). -/

namespace Sys2Proof.Machine

/-- The chain at the head of Peony queue q of die d. -/
def headChain (s : State) (d q : Nat) : Option Chain :=
  match getQ s d (4 + q) with
  | .chain x :: _ => some x
  | _ => none

/-- The running step of a Peony queue. -/
def stepOf (s : State) (d q : Nat) : Option PStep :=
  (s.die d).step[q]?.getD none

/-- Sets the running step of a Peony queue. -/
def setStep (d q : Nat) (st : Option PStep) (s : State) : State :=
  s.modDie d fun x => { x with step := x.step.setIfInBounds q st }

/-- The chain at the head of a Peony queue waits anew for other modules. -/
def chainSince (d q : Nat) (s : State) : State :=
  match headChain s d q with
  | some x => putHead d (4 + q) (.chain { x with since := s.cyc }) s
  | none => s

/-- The step of a chain faults, and the chain ends (R265, R275). -/
def chainFault (d q : Nat) (c : Cause) (s : State) : State :=
  match headChain s d q with
  | some x => putHead d (4 + q) (.chain { x with status := some (c, x.steps) }) (setStep d q none s)
  | none => s

/-- The addresses and sizes of element i of a step: read, and written (R272, R273). -/
def stepReadVa (t : PStep) (i : Nat) : Word :=
  if t.op = 0 then t.fa + BitVec.ofNat 64 (2 * i) else t.buf + 4 * (t.fa + BitVec.ofNat 64 i)
def stepReadSize (t : PStep) : Nat := if t.op = 0 then 2 else 4
def stepWriteVa (t : PStep) (i : Nat) : Word :=
  if t.op = 2 then t.fb + BitVec.ofNat 64 (2 * i) else t.buf + 4 * (t.fb + BitVec.ofNat 64 i)
def stepWriteSize (t : PStep) : Nat := if t.op = 2 then 2 else 4

/-- The checks of R154 for n bytes by a chain, through the TLB of its die (R316), with their alignment. -/
def peonyCheck (s : State) (d : Nat) (x : Chain) (k : Acc) (va : Word) (n : Nat) : Except Stop Place :=
  if va.toNat % n ≠ 0 then .error ⟨.align, va, 0⟩ else checkWith s (s.die d).tlb x.core x.rights k va

/-- A checked place of a step's element: why it fails, with poison for what is read (R361), or whether it is remote. -/
def peonyPlace (s : State) (d : Nat) (x : Chain) (k : Acc) (va : Word) (n : Nat) : Except Cause Bool :=
  match peonyCheck s d x k va n with
  | .error st => .error st.cause
  | .ok p =>
    match p.loc with
    | .here a => if k.reads && poisoned s a n then .error .poison else .ok false
    | .there _ _ => .ok true

/-- The checks of the place that a step writes; an XADD also reads its own operand there (R273). -/
def stepTarget (s : State) (d : Nat) (x : Chain) (t : PStep) (i : Nat) : Except Cause Bool :=
  let write := peonyPlace s d x (.store none) (stepWriteVa t i) (stepWriteSize t)
  if t.op = 1 then
    match peonyPlace s d x .load (stepWriteVa t i) 4 with
    | .error c => .error c
    | .ok _ => write
  else write

/-- The first failing byte of a step, and whether a byte lies on another module (R273). DEDUCED, log 25. -/
def checkStep (s : State) (d : Nat) (x : Chain) (t : PStep) : Nat → Nat → Except Cause Bool
  | 0, _ => .ok false
  | n + 1, i =>
    match peonyPlace s d x .load (stepReadVa t i) (stepReadSize t) with
    | .error c => .error c
    | .ok a =>
      match stepTarget s d x t i with
      | .error c => .error c
      | .ok b =>
        match checkStep s d x t n (i + 1) with
        | .error c => .error c
        | .ok r => .ok (a || b || r)

/-- What the other modules of a step refuse. -/
def sideStop : RemoteSide → Option Cause
  | .ok _ => none
  | .stop _ _ c _ => some c

/-- The checks of a whole step, with what its remote side refuses. -/
def stepStop (s : State) (d : Nat) (x : Chain) (t : PStep) (side : RemoteSide) : Option Cause :=
  match checkStep s d x t t.count 0 with
  | .error c => some c
  | .ok remote => if remote then sideStop side else none

/-- The code of n bytes that a step reads; bytes of another module stand at an offset of the side's data. -/
def codeAt (s : State) (d : Nat) (x : Chain) (side : RemoteSide) (off : Nat) (va : Word) (n : Nat) : Nat :=
  match peonyCheck s d x .load va n with
  | .error _ => 0
  | .ok p =>
    match p.loc with
    | .here a => loadMem s p.ord a n
    | .there _ _ => leNat ((List.range n).map fun j => sideByte side (off + j))

/-- The code of element i that a step reads. -/
def stepGet (s : State) (d : Nat) (x : Chain) (t : PStep) (side : RemoteSide) (i : Nat) : Nat :=
  codeAt s d x side (stepReadSize t * i) (stepReadVa t i) (stepReadSize t)

/-- The own operand of element i of an XADD step, where its sum is written (R273). DEDUCED, log 25. -/
def stepOwn (s : State) (d : Nat) (x : Chain) (t : PStep) (side : RemoteSide) (i : Nat) : Nat :=
  codeAt s d x side (4 * (t.count + i)) (stepWriteVa t i) 4

/-- Writes the code of element i of a step. -/
def stepPut (d : Nat) (x : Chain) (t : PStep) (i v : Nat) (s : State) : State :=
  let va := stepWriteVa t i
  match peonyCheck s d x (.store none) va (stepWriteSize t) with
  | .error _ => s
  | .ok p =>
    match p.loc with
    | .here a => shoot x.cid a (stepWriteSize t) s (performStore va a (leBytes (stepWriteSize t) v) s)
    | .there m la => sendOut m (.bytes la (leBytes (stepWriteSize t) v)) s

/-- The partner module of a step, 0x1FFFF meaning the own one (R272). -/
def partnerOf (s : State) (pmod : Nat) : Nat :=
  if pmod = 0x1FFFF then s.modId else pmod

/-- A module of the fabric domain: the own one, or a peer. -/
def inDomain (s : State) (m : Nat) : Bool :=
  m == s.modId || (s.peers.contains m && !s.removed.contains m)

/-- The fields of the descriptor at a physical address, and whether it breaks a rule of R272. -/
def readStep (s : State) (a : Nat) : PStep × Bool :=
  let w0 : Word := BitVec.ofNat 64 (s.read a 8)
  let w (i : Nat) : Word := BitVec.ofNat 64 (s.read (a + 8 * i) 8)
  let sync := w 4
  let t : PStep :=
    { op := bits w0 3 0, count := bits w0 31 8, pmod := bits w0 48 32, pdie := bits w0 51 49, buf := w 1, fa := w 2,
      fb := w 3, sync := if sync = 0 then 0 else (syncAddr s sync).getD 0, next := w 5, tag := bits (w 6) 31 0,
      since := s.cyc, no := 0, ready := false, data := none, mine := [], own := [], moved := false }
  (t, bits w0 7 4 != 0 || bits w0 63 52 != 0 || bits (w 6) 63 32 != 0 || w 7 != 0 || t.count == 0 ||
    (sync != 0 && (syncAddr s sync).isNone))

/-- The physical address of a descriptor, or why it cannot be read (R272). -/
def descAt (s : State) (d : Nat) (x : Chain) (va : Word) : Except Cause Nat :=
  if va.toNat % 64 ≠ 0 || !isOwn s va then .error .illOperand
  else
    match checkWith s (s.die d).tlb x.core x.rights .load va with
    | .error st => .error st.cause
    | .ok p =>
      match p.loc with
      | .here a => if poisoned s a 64 then .error .poison else .ok a
      | .there _ _ => .error .illOperand

/-- A message of die d to the partner of a step. -/
def toPartner (t : PStep) (m : Msg) (s : State) : State :=
  sendTo (partnerOf s t.pmod) m s

/-- The READY and the data of an XADD step of die d (R274). -/
def readyMessage (s : State) (d : Nat) (t : PStep) : Msg := .peonyReady s.modId d t.pdie t.tag t.count t.no
def dataMessage (s : State) (d : Nat) (t : PStep) : Msg := .peonyData s.modId d t.pdie t.tag t.mine t.no

/-- A running XADD step sends its data (R274). -/
def sendData (d : Nat) (t : PStep) (s : State) : State :=
  toPartner t (dataMessage s d t) s

/-- What the running XADD steps have sent to other modules that may not have come there: READY until the partner's data are here,
and the data (R370, R373). -/
def openSteps (s : State) : List (Nat × Nat × Msg) :=
  s.dies.flatMap fun (d, _) => [0, 1].flatMap fun q =>
    match stepOf s d q with
    | some t =>
      let m := partnerOf s t.pmod
      if t.op ≠ 1 ∨ m = s.modId then []
      else (if t.data.isNone then [(m, readyNo t.no, readyMessage s d t)] else []) ++
        if t.ready then [(m, dataNo t.no, dataMessage s d t)] else []
    | none => []

/-- A READY or data of another module is a copy of one that has come (R370). -/
def isCopy (s : State) (m key : Nat) : Bool :=
  m != s.modId && wasPerformed s m key

/-- The READY or data of another module is known from now on. -/
def seenOnce (m key : Nat) (s : State) : State :=
  if m = s.modId then s else notePerformed m key s

/-- An XADD step starts: READY is sent, and a READY or fault notice held for it takes effect (R274). -/
def xaddStart (d q : Nat) (t0 : PStep) (s0 : State) : State :=
  let (no, s) := s0.fresh
  let t := { t0 with no := no }
  let m := partnerOf s t.pmod
  let s1 := setStep d q (some t) (toPartner t (readyMessage s d t) s)
  let die := s1.die d
  if die.notices.contains (m, t.pdie, t.tag) then
    chainFault d q .illOperand (s1.modDie d fun y => { y with notices := y.notices.erase (m, t.pdie, t.tag) })
  else
    match die.readies.find? fun r => r.1 == m && r.2.1 == t.pdie && r.2.2.1 == t.tag with
    | none => s1
    | some r =>
      let s2 := s1.modDie d fun y => { y with readies := y.readies.erase r }
      if r.2.2.2 ≠ t.count then chainFault d q .illOperand s2
      else sendData d t (setStep d q (some { t with ready := true }) s2)

/-- A step starts with its descriptor read (R273-R275). -/
def beginStep (d q : Nat) (x : Chain) (r : PStep × Bool) (side : RemoteSide) (s : State) : State :=
  let t := r.1
  let own := partnerOf s t.pmod == s.modId && t.pdie == d
  if t.op > 2 then
    chainFault d q .illOperand
      (if own || !inDomain s (partnerOf s t.pmod) then s else toPartner t (.peonyNotice s.modId d t.pdie t.tag) s)
  else if r.2 || (t.op == 1 && own) then chainFault d q .illOperand s
  else
    match stepStop s d x t (if t.op = 1 then side else .ok []) with
    | some c => chainFault d q c s
    | none =>
      if t.op = 1 then
        xaddStart d q
          { t with mine := (List.range t.count).map (stepGet s d x t side)
                   own := (List.range t.count).map (stepOwn s d x t side) } s
      else setStep d q (some t) s

/-- PEONY_STEP_START (R275): the chain at the head of a queue starts its next step. -/
def stepStart (d q : Nat) (side : RemoteSide) (s : State) : Option State :=
  match headChain s d q, stepOf s d q with
  | some x, none =>
    match x.desc with
    | some va =>
      if !x.started || x.status.isSome then none
      else if x.steps ≥ 65536 then some (chainFault d q .illOperand s)
      else
        match descAt s d x va with
        | .error c => some (chainFault d q c s)
        | .ok a => some (beginStep d q x (readStep s a) side s)
    | none => none
  | _, _ => none

/-- PEONY_STEP_START (R275). -/
def execPeonyStepStart (d q : Nat) (side : RemoteSide) (s : State) : Out :=
  event (stepStart d q side) s

/-- The queue of die d whose running XADD step has a partner and tag and satisfies a condition. -/
def xaddOf (s : State) (d m pdie tag : Nat) (p : PStep → Bool) : Option (Nat × PStep) :=
  [0, 1].findSome? fun q =>
    match stepOf s d q with
    | some t =>
      if t.op == 1 && partnerOf s t.pmod == m && t.pdie == pdie && t.tag == tag && p t then some (q, t) else none
    | none => none

/-- PEONY_READY (R274): message n, the READY of a partner, matches a running step or is held; a copy is discarded. -/
def readyArrives (n : Nat) (s : State) : Option State :=
  match s.msg n with
  | some (.peonyReady m fd d tag count no) =>
    let s1 := seenOnce m (readyNo no) (takeMsg n s)
    if Config.dies ≤ d then none else
    if isCopy s m (readyNo no) then some (takeMsg n s) else
    match xaddOf s d m fd tag fun t => !t.ready with
    | none => some (s1.modDie d fun y => { y with readies := y.readies ++ [(m, fd, tag, count)] })
    | some (q, t) =>
      if count ≠ t.count then some (chainFault d q .illOperand s1)
      else some (sendData d t (setStep d q (some { t with ready := true }) s1))
  | _ => none

/-- PEONY_READY (R274). -/
def execPeonyReady (n : Nat) (s : State) : Out :=
  event (readyArrives n) s

/-- PEONY_DATA (R273): message n holds the partner's operands; those of a step that has faulted, and copies, are dropped. -/
def dataArrives (n : Nat) (s : State) : Option State :=
  match s.msg n with
  | some (.peonyData m fd d tag vals no) =>
    let s1 := seenOnce m (dataNo no) (takeMsg n s)
    if isCopy s m (dataNo no) then some (takeMsg n s) else
    match xaddOf s d m fd tag fun t => t.data.isNone with
    | none => some s1
    | some (q, t) => some (chainSince d q (setStep d q (some { t with data := some vals }) s1))
  | _ => none

/-- PEONY_DATA (R273). -/
def execPeonyData (n : Nat) (s : State) : Out :=
  event (dataArrives n) s

/-- The sum of an XADD element: the operand of the end with the lower module and die first (R273). -/
def xaddSum (first : Bool) (own other : Nat) : Nat :=
  let a := codeVal .f32 (if first then own else other)
  let b := codeVal .f32 (if first then other else own)
  (rneTo .f32 (fadd 0 a b).1).1

/-- The code that a step writes for element i (R273). -/
def stepValue (s : State) (d : Nat) (x : Chain) (t : PStep) (side : RemoteSide) (i : Nat) : Nat :=
  if t.op = 1 then
    let m := partnerOf s t.pmod
    xaddSum (decide (s.modId < m) || (s.modId == m && decide (d < t.pdie))) (t.own.getD i 0) ((t.data.getD []).getD i 0)
  else if t.op = 0 then (rneTo .f32 (codeVal .bf16 (stepGet s d x t side i))).1
  else (rneTo .bf16 (codeVal .f32 (stepGet s d x t side i))).1

/-- The n elements of a step from i on are written in order. -/
def stepWrites (d : Nat) (x : Chain) (t : PStep) (side : RemoteSide) : Nat → Nat → State → State
  | 0, _, s => s
  | n + 1, i, s => stepWrites d x t side n (i + 1) (stepPut d x t i (stepValue s d x t side i) s)

/-- The bytes of a step are added to SYNC, and the step ends (R273). -/
def stepDone (d q : Nat) (x : Chain) (t : PStep) (s : State) : State :=
  let s1 := if t.sync = 0 then s else addSync t.sync (stepWriteSize t * t.count) s
  putHead d (4 + q)
    (.chain { x with steps := x.steps + 1, since := s.cyc, desc := if t.next = 0 then none else some t.next })
    (setStep d q none s1)

/-- PEONY_STEP_COMPLETE (R273): the writes of a step are performed and its bytes are added to SYNC, once stores to page tables
among them are performed too (R317); an XADD has exchanged READY and data with its partner (R274). -/
def stepComplete (d q : Nat) (side : RemoteSide) (s : State) : Option State :=
  match headChain s d q, stepOf s d q with
  | some x, some t =>
    if t.moved then (if settled true s x.cid then some (stepDone d q x t s) else none)
    else if t.op == 1 && !(t.ready && t.data.isSome) then none
    else
      match stepStop s d x t side with
      | some c => some (chainFault d q c s)
      | none =>
        let s1 := stepWrites d x t side t.count 0 s
        some (if settled true s1 x.cid then stepDone d q x t s1 else setStep d q (some { t with moved := true }) s1)
  | _, _ => none

/-- PEONY_STEP_COMPLETE (R273). -/
def execPeonyStepComplete (d q : Nat) (side : RemoteSide) (s : State) : Out :=
  event (stepComplete d q side) s

/-- PEONY_FAULT_NOTICE (R274): message n faults the matching XADD step, or is held for it. -/
def noticeArrives (n : Nat) (s : State) : Option State :=
  match s.msg n with
  | some (.peonyNotice m fd d tag) =>
    let s1 := takeMsg n s
    if Config.dies ≤ d then none else
    match xaddOf s d m fd tag fun t => !t.moved with
    | none => some (s1.modDie d fun y => { y with notices := y.notices ++ [(m, fd, tag)] })
    | some (q, _) => some (chainFault d q .illOperand s1)
  | _ => none

/-- PEONY_FAULT_NOTICE (R274). -/
def execPeonyFaultNotice (n : Nat) (s : State) : Out :=
  event (noticeArrives n) s

/-- PEONY_PARTNER_TIMEOUT (R274). -/
def partnerTimeout (d q : Nat) (s : State) : Option State :=
  match stepOf s d q with
  | some t =>
    if t.op == 1 && !t.ready && decide (t.since + 2 ^ 26 ≤ s.cyc) then some (chainFault d q .remoteTimeout s) else none
  | none => none

/-- PEONY_PARTNER_TIMEOUT (R274). -/
def execPeonyPartnerTimeout (d q : Nat) (s : State) : Out :=
  event (partnerTimeout d q) s

/-- The running step of a Peony queue, or the next one, has a byte on another module. -/
def stepRemote (s : State) (d q : Nat) : Bool :=
  match headChain s d q with
  | none => false
  | some x =>
    let far (t : PStep) : Bool := match checkStep s d x t t.count 0 with
      | .ok r => r
      | .error _ => false
    match stepOf s d q, x.desc with
    | some t, _ => far t
    | none, some va =>
      match descAt s d x va with
      | .ok a => (readStep s a).1.op == 1 && far (readStep s a).1
      | .error _ => false
    | none, none => false

/-- A step that waits for bytes of another module has had no answer within 2^FTO cycles (R370, R406): it starts, or ends,
with that refusal. -/
def stepSilence (d q : Nat) (s : State) : Option State :=
  match headChain s d q with
  | none => none
  | some x =>
    let since := match stepOf s d q with
      | some t => max x.since t.since
      | none => x.since
    let side : RemoteSide := .stop [] 0 .remoteTimeout true
    if stepRemote s d q && decide (since + 2 ^ s.fto ≤ s.cyc) then
      match stepStart d q side s with
      | some t => some t
      | none => stepComplete d q side s
    else none

end Sys2Proof.Machine
end

