-- ==== Sys2Proof/Machine/LoadStore.lean ====
section
/-! DEFINITION. The loads, stores, vector accesses and prefetch (R155-R160). -/

namespace Sys2Proof.Machine

/-- A load of format M (R155). -/
def loadDisp (d a : BitVec 4) (o : BitVec 12) (sz : Nat) : State → State :=
  needs [a] [d] fun s => loadScalar .plain d false (2 ^ sz) (dispAddr s.me a o sz) s

/-- A store of format M (R155). -/
def storeDisp (r a : BitVec 4) (o : BitVec 12) (sz : Nat) : State → State :=
  needs [r, a] [] fun s => storeScalar .plain (s.me.get r) (2 ^ sz) (dispAddr s.me a o sz) s

/-- A scalar load of major 1A (R155). -/
def loadSum (kind : OrderKind) (d a b : BitVec 4) (signed : Bool) (sz : Nat) : State → State :=
  needs [a, b] [d] fun s => loadScalar kind d signed (2 ^ sz) (sumAddr s.me a b) s

/-- A scalar store of major 1A (R155). -/
def storeSum (kind : OrderKind) (r a b : BitVec 4) (sz : Nat) : State → State :=
  needs [r, a, b] [] fun s => storeScalar kind (s.me.get r) (2 ^ sz) (sumAddr s.me a b) s

/-- LDBU (R155). -/
def execLdbu (d a : BitVec 4) (o : BitVec 12) (p : BitVec 4) (s : State) : Out :=
  issue (.ldbu d a o p) (loadDisp d a o 0) s

/-- LDHU (R155). -/
def execLdhu (d a : BitVec 4) (o : BitVec 12) (p : BitVec 4) (s : State) : Out :=
  issue (.ldhu d a o p) (loadDisp d a o 1) s

/-- LDWU (R155). -/
def execLdwu (d a : BitVec 4) (o : BitVec 12) (p : BitVec 4) (s : State) : Out :=
  issue (.ldwu d a o p) (loadDisp d a o 2) s

/-- LDD (R155). -/
def execLdd (d a : BitVec 4) (o : BitVec 12) (p : BitVec 4) (s : State) : Out :=
  issue (.ldd d a o p) (loadDisp d a o 3) s

/-- STB (R155). -/
def execStb (r a : BitVec 4) (o : BitVec 12) (p : BitVec 4) (s : State) : Out :=
  issue (.stb r a o p) (storeDisp r a o 0) s

/-- STH (R155). -/
def execSth (r a : BitVec 4) (o : BitVec 12) (p : BitVec 4) (s : State) : Out :=
  issue (.sth r a o p) (storeDisp r a o 1) s

/-- STW (R155). -/
def execStw (r a : BitVec 4) (o : BitVec 12) (p : BitVec 4) (s : State) : Out :=
  issue (.stw r a o p) (storeDisp r a o 2) s

/-- STD (R155). -/
def execStd (r a : BitVec 4) (o : BitVec 12) (p : BitVec 4) (s : State) : Out :=
  issue (.std r a o p) (storeDisp r a o 3) s

/-- The registers that an LDM or STM still transfers, with their addresses (R157). -/
def multiElems (x : Strand) (d b : BitVec 4) (a : Word) : List (Nat × Word) :=
  let first := max d.toNat x.ridx.toNat
  (List.range (b.toNat + 1 - first)).map fun i => (first + i, a + BitVec.ofNat 64 (8 * (first + i - d.toNat)))

/-- The elements of an LDM up to the first whose page is homed elsewhere, with that register and core (R160). -/
def uptoMigrate (s : State) : List (Nat × Word × Place) → List Elem × Option (Nat × Nat)
  | [] => ([], none)
  | (i, va, p) :: es =>
    match migHome s p with
    | some core => ([], some (i, core))
    | none => let r := uptoMigrate s es; (⟨i, va, p.loc, 8, p.ord, none, 0, 0⟩ :: r.1, r.2)

/-- The effect of LDM (R157, R160). -/
def loadMulti (d b a : BitVec 4) : State → State := fun s =>
  needs [a] ((multiElems s.me d b 0).map fun (i, _) => BitVec.ofNat 4 i) (fun s =>
    let base := s.me.get a
    let r := placeElems s (fun _ => .load) 8 (multiElems s.me d b base)
    let m := uptoMigrate s r.1
    match m.2, r.2 with
    | some (i, core), _ =>
      let va := base + BitVec.ofNat 64 (8 * (i - d.toNat))
      match m.1, departStop s s.cur.1 s.me va with
      | [], _ => depart core s.modId false va s
      | _, some st => trapHere st s
      | es, none => startLoad es (.regs i (some core)) none s
    | none, some (j, st) => startLoad m.1 (.regs j none) (some st) s
    | none, none => startLoad m.1 (.regs 0 none) none s) s

/-- LDM (R157). -/
def execLdm (d a b p : BitVec 4) (s : State) : Out :=
  issue (.ldm d a b p) (loadMulti d b a) s

/-- The effect of STM (R157). -/
def storeMulti (d b a : BitVec 4) : State → State := fun s =>
  needs (a :: (multiElems s.me d b 0).map fun (i, _) => BitVec.ofNat 4 i) [] (fun s =>
    let val (i : Nat) : Nat := (s.me.get (BitVec.ofNat 4 i)).toNat
    let r := placeElems s (fun i => .store (some (val i))) 8 (multiElems s.me d b (s.me.get a))
    let es := r.1.map fun (i, va, p) => sbEntry s .plain va p.loc 8 (val i)
    startStore es (.stm ((r.2.map Prod.fst).getD (b.toNat + 1))) (r.2.map Prod.snd) s) s

/-- STM (R157). -/
def execStm (d a b p : BitVec 4) (s : State) : Out :=
  issue (.stm d a b p) (storeMulti d b a) s

/-- LDB of major 1A (R155). -/
def execLdb (d a b p : BitVec 4) (s : State) : Out :=
  issue (.ldb d a b p) (loadSum .plain d a b true 0) s

/-- LDH of major 1A (R155). -/
def execLdh (d a b p : BitVec 4) (s : State) : Out :=
  issue (.ldh d a b p) (loadSum .plain d a b true 1) s

/-- LDW of major 1A (R155). -/
def execLdw (d a b p : BitVec 4) (s : State) : Out :=
  issue (.ldw d a b p) (loadSum .plain d a b true 2) s

/-- LDB.ACQ (R155, R168). -/
def execLdbAcq (d a b p : BitVec 4) (s : State) : Out :=
  issue (.ldbAcq d a b p) (loadSum .acquire d a b true 0) s

/-- LDH.ACQ (R155, R168). -/
def execLdhAcq (d a b p : BitVec 4) (s : State) : Out :=
  issue (.ldhAcq d a b p) (loadSum .acquire d a b true 1) s

/-- LDW.ACQ (R155, R168). -/
def execLdwAcq (d a b p : BitVec 4) (s : State) : Out :=
  issue (.ldwAcq d a b p) (loadSum .acquire d a b true 2) s

/-- LDD.ACQ (R155, R168). -/
def execLddAcq (d a b p : BitVec 4) (s : State) : Out :=
  issue (.lddAcq d a b p) (loadSum .acquire d a b true 3) s

/-- LDBU.ACQ (R155, R168). -/
def execLdbuAcq (d a b p : BitVec 4) (s : State) : Out :=
  issue (.ldbuAcq d a b p) (loadSum .acquire d a b false 0) s

/-- LDHU.ACQ (R155, R168). -/
def execLdhuAcq (d a b p : BitVec 4) (s : State) : Out :=
  issue (.ldhuAcq d a b p) (loadSum .acquire d a b false 1) s

/-- LDWU.ACQ (R155, R168). -/
def execLdwuAcq (d a b p : BitVec 4) (s : State) : Out :=
  issue (.ldwuAcq d a b p) (loadSum .acquire d a b false 2) s

/-- LDB.SC (R155, R169). -/
def execLdbSc (d a b p : BitVec 4) (s : State) : Out :=
  issue (.ldbSc d a b p) (loadSum .sc d a b true 0) s

/-- LDH.SC (R155, R169). -/
def execLdhSc (d a b p : BitVec 4) (s : State) : Out :=
  issue (.ldhSc d a b p) (loadSum .sc d a b true 1) s

/-- LDW.SC (R155, R169). -/
def execLdwSc (d a b p : BitVec 4) (s : State) : Out :=
  issue (.ldwSc d a b p) (loadSum .sc d a b true 2) s

/-- LDD.SC (R155, R169). -/
def execLddSc (d a b p : BitVec 4) (s : State) : Out :=
  issue (.lddSc d a b p) (loadSum .sc d a b true 3) s

/-- LDBU.SC (R155, R169). -/
def execLdbuSc (d a b p : BitVec 4) (s : State) : Out :=
  issue (.ldbuSc d a b p) (loadSum .sc d a b false 0) s

/-- LDHU.SC (R155, R169). -/
def execLdhuSc (d a b p : BitVec 4) (s : State) : Out :=
  issue (.ldhuSc d a b p) (loadSum .sc d a b false 1) s

/-- LDWU.SC (R155, R169). -/
def execLdwuSc (d a b p : BitVec 4) (s : State) : Out :=
  issue (.ldwuSc d a b p) (loadSum .sc d a b false 2) s

/-- STB.REL (R155, R168). -/
def execStbRel (r a b p : BitVec 4) (s : State) : Out :=
  issue (.stbRel r a b p) (storeSum .release r a b 0) s

/-- STH.REL (R155, R168). -/
def execSthRel (r a b p : BitVec 4) (s : State) : Out :=
  issue (.sthRel r a b p) (storeSum .release r a b 1) s

/-- STW.REL (R155, R168). -/
def execStwRel (r a b p : BitVec 4) (s : State) : Out :=
  issue (.stwRel r a b p) (storeSum .release r a b 2) s

/-- STD.REL (R155, R168). -/
def execStdRel (r a b p : BitVec 4) (s : State) : Out :=
  issue (.stdRel r a b p) (storeSum .release r a b 3) s

/-- STB.SC (R155, R169). -/
def execStbSc (r a b p : BitVec 4) (s : State) : Out :=
  issue (.stbSc r a b p) (storeSum .sc r a b 0) s

/-- STH.SC (R155, R169). -/
def execSthSc (r a b p : BitVec 4) (s : State) : Out :=
  issue (.sthSc r a b p) (storeSum .sc r a b 1) s

/-- STW.SC (R155, R169). -/
def execStwSc (r a b p : BitVec 4) (s : State) : Out :=
  issue (.stwSc r a b p) (storeSum .sc r a b 2) s

/-- STD.SC (R155, R169). -/
def execStdSc (r a b p : BitVec 4) (s : State) : Out :=
  issue (.stdSc r a b p) (storeSum .sc r a b 3) s

/-- The active lanes of a mask for n lanes (R104). -/
def activeLanes (mask : Word) (n : Nat) : List Nat :=
  (List.range n).filter fun i => bitAt mask i

/-- Lane i's address in VLD and VST, VLDS and VSTS, VGATH and VSCAT (R158). -/
def addrUnit (a b : Word) (w i : Nat) : Word := a + b + BitVec.ofNat 64 (i * (w / 8))
def addrStride (a b : Word) (i : Nat) : Word := a + BitVec.ofNat 64 i * b
def addrIndex (a : Word) (v : VReg) (w i : Nat) : Word := a + sx (lane v w i) w * BitVec.ofNat 64 (w / 8)

/-- A vector load of the active lanes at given addresses (R158). -/
def loadLanes (v t : BitVec 3) (k : BitVec 2) (addr : Nat → Word) (s : State) : State :=
  let w := laneWidth t
  let r := placeElems s (fun _ => .load) (w / 8) ((activeLanes (s.me.mask k) (512 / w)).map fun i => (i, addr i))
  let els : List Elem := r.1.map fun (i, va, p) => ⟨i, va, p.loc, w / 8, p.ord, none, 0, 0⟩
  match els, r.2 with
  | [], some (i, st) => trapHere (elemStop (.vec v t) i st) s
  | _, bad => startLoad els (.vec v t) (bad.map fun (i, st) => elemStop (.vec v t) i st) s

/-- A vector store of the active lanes at given addresses (R158). -/
def storeLanes (v t : BitVec 3) (k : BitVec 2) (addr : Nat → Word) (s : State) : State :=
  let w := laneWidth t
  let r := placeElems s (fun _ => .store none) (w / 8) ((activeLanes (s.me.mask k) (512 / w)).map fun i => (i, addr i))
  let es := r.1.map fun (i, va, p) => sbEntry s .plain va p.loc (w / 8) (lane (s.me.vec v) w i)
  startStore es .plain (r.2.map fun (i, st) => elemStop (.vec v t) i st) s

/-- VLD (R158). -/
def execVld (v : BitVec 3) (a b : BitVec 4) (t : BitVec 3) (k : BitVec 2) (p : BitVec 4) (s : State) : Out :=
  issue (.vld v a b t k p) (needsVec [a, b] [] fun s =>
    loadLanes v t k (addrUnit (s.me.get a) (s.me.get b) (laneWidth t)) s) s

/-- VST (R158). -/
def execVst (v : BitVec 3) (a b : BitVec 4) (t : BitVec 3) (k : BitVec 2) (p : BitVec 4) (s : State) : Out :=
  issue (.vst v a b t k p) (needsVec [a, b] [] fun s =>
    storeLanes v t k (addrUnit (s.me.get a) (s.me.get b) (laneWidth t)) s) s

/-- VLDS (R158). -/
def execVlds (v : BitVec 3) (a b : BitVec 4) (t : BitVec 3) (k : BitVec 2) (p : BitVec 4) (s : State) : Out :=
  issue (.vlds v a b t k p) (needsVec [a, b] [] fun s =>
    loadLanes v t k (addrStride (s.me.get a) (s.me.get b)) s) s

/-- VSTS (R158). -/
def execVsts (v : BitVec 3) (a b : BitVec 4) (t : BitVec 3) (k : BitVec 2) (p : BitVec 4) (s : State) : Out :=
  issue (.vsts v a b t k p) (needsVec [a, b] [] fun s =>
    storeLanes v t k (addrStride (s.me.get a) (s.me.get b)) s) s

/-- VGATH (R158). -/
def execVgath (v : BitVec 3) (a : BitVec 4) (i : BitVec 3) (t : BitVec 3) (k : BitVec 2) (p : BitVec 4) (s : State) : Out :=
  issue (.vgath v a i t k p) (needsVec [a] [] fun s =>
    loadLanes v t k (addrIndex (s.me.get a) (s.me.vec i) (laneWidth t)) s) s

/-- VSCAT (R158). -/
def execVscat (v : BitVec 3) (a : BitVec 4) (i : BitVec 3) (t : BitVec 3) (k : BitVec 2) (p : BitVec 4) (s : State) : Out :=
  issue (.vscat v a i t k p) (needsVec [a] [] fun s =>
    storeLanes v t k (addrIndex (s.me.get a) (s.me.vec i) (laneWidth t)) s) s

/-- PREF (R159). -/
def execPref (a : BitVec 4) (b : BitVec 3) (p : BitVec 4) (s : State) : Out :=
  issue (.pref a b p) (parksOr [a, b.setWidth 4] advance) s

end Sys2Proof.Machine
end

