-- ==== Sys2Proof/Machine/Vector.lean ====
section
/-! DEFINITION. The vector instructions (R102-R119). -/

namespace Sys2Proof.Machine

/-- The binary format of a float lane type (R66). -/
def fmtOf (t : BitVec 3) : Fmt :=
  match t.toNat with
  | 0 => .f32
  | 1 => .f16
  | 2 => .bf16
  | 6 => .e4m3
  | _ => .e5m2

/-- A float lane type: F32, F16, BF16, E4M3 or E5M2. -/
def isFloatType (t : BitVec 3) : Bool :=
  !typeInt t

/-- The low w bits of an integer. -/
def wrapInt (w : Nat) (x : Int) : Nat :=
  (BitVec.ofInt w x).toNat

/-- A computed value rounded once to a lane type, with the flags of its operation (R108). -/
def rndLane (env : FpEnv) (f : Fmt) (r : FVal × Flags) : Nat × Flags :=
  let x := rndTo env f r.1
  (x.1, r.2 ||| x.2)

/-- A lane of VADD, VSUB, VMUL, VFMA, VMIN, VMAX for a float type, by fn7 (R107-R109). -/
def floatLane (fn : Nat) (env : FpEnv) (f : Fmt) (a b d : Nat) : Nat × Flags :=
  let x := fdecode env.fiz f a
  let y := fdecode env.fiz f b
  match fn with
  | 0 => rndLane env f (fadd env.rm x y)
  | 1 => rndLane env f (fadd env.rm x (fneg y))
  | 2 => rndLane env f (fmul x y)
  | 3 =>
    let m := fmul x y
    let r := fadd env.rm m.1 (fdecode env.fiz f d)
    rndLane env f (r.1, m.2 ||| r.2)
  | 4 => (rneTo f (fminmax false x y)).map id fun _ => 0
  | _ => (rneTo f (fminmax true x y)).map id fun _ => 0

/-- A lane of VADD, VSUB, VMUL, VFMA, VMIN, VMAX for an integer type of w bits, by fn7 (R107). -/
def intLane (fn w a b d : Nat) : Nat :=
  let x := sval a w
  let y := sval b w
  match fn with
  | 0 => (a + b) % 2 ^ w
  | 1 => (a + 2 ^ w - b) % 2 ^ w
  | 2 => (a * b) % 2 ^ w
  | 3 => (a * b + d) % 2 ^ w
  | 4 => if x ≤ y then a else b
  | _ => if x ≤ y then b else a

/-- A lane of the arithmetic forms of major 20. -/
def arithLane (fn : Nat) (t : BitVec 3) (env : FpEnv) (a b d : Nat) : Nat × Flags :=
  if isFloatType t then floatLane fn env (fmtOf t) a b d else (intLane fn (laneWidth t) a b d, 0)

/-- A lane of VABS, and of VNEG: on bits for a float type (R107, R109). -/
def absLane (t : BitVec 3) (a : Nat) : Nat :=
  let w := laneWidth t
  if isFloatType t then a % 2 ^ (w - 1) else wrapInt w (sval a w).natAbs
def negLane (t : BitVec 3) (a : Nat) : Nat :=
  let w := laneWidth t
  if isFloatType t then a ^^^ 2 ^ (w - 1) else wrapInt w (-(sval a w))

/-- A lane of VSHL, and of VSHR (R110). -/
def shlLane (w a b : Nat) : Nat :=
  a * 2 ^ (b % w) % 2 ^ w
def shrLane (w a b : Nat) : Nat :=
  if b / w % 2 = 1 then wrapInt w (sval a w / (2 ^ (b % w) : Nat)) else a / 2 ^ (b % w)

/-- A vector of lanes of w bits. -/
def packLanes (w : Nat) (xs : List Nat) : VReg :=
  BitVec.ofNat 512 (joinLanes w xs)

/-- The end of a masked lanewise instruction: the active lanes' results and flags (R104, R107). -/
def laneEnd (d : BitVec 3) (w : Nat) (mask : Word) (f : Nat → Nat × Flags) (s : State) : State :=
  let rs := (List.range (512 / w)).map fun i => (i, if bitAt mask i then f i else (lane (s.me.vec d) w i, 0))
  fpEnd s.me.env (rs.map fun (i, r) => (i, r.2)) (finish fun x => x.putVec d (packLanes w (rs.map fun (_, r) => r.1))) s

/-- A masked lanewise instruction of three register operands (R107). -/
def lanewise (d a b : BitVec 3) (k : BitVec 2) (t : BitVec 3) (f : FpEnv → Nat → Nat → Nat → Nat × Flags) :
    State → State := fun s =>
  let w := laneWidth t
  let x := s.me
  laneEnd d w (x.mask k) (fun i => f x.env (lane (x.vec a) w i) (lane (x.vec b) w i) (lane (x.vec d) w i)) (useVec s)

/-- VADD (R107-R109). -/
def execVadd (d a b : BitVec 3) (k : BitVec 2) (t : BitVec 3) (p : BitVec 4) (s : State) : Out :=
  issue (.vadd d a b k t p) (lanewise d a b k t (arithLane 0 t)) s

/-- VSUB (R107-R109). -/
def execVsub (d a b : BitVec 3) (k : BitVec 2) (t : BitVec 3) (p : BitVec 4) (s : State) : Out :=
  issue (.vsub d a b k t p) (lanewise d a b k t (arithLane 1 t)) s

/-- VMUL (R107-R109). -/
def execVmul (d a b : BitVec 3) (k : BitVec 2) (t : BitVec 3) (p : BitVec 4) (s : State) : Out :=
  issue (.vmul d a b k t p) (lanewise d a b k t (arithLane 2 t)) s

/-- VFMA (R107-R109). -/
def execVfma (d a b : BitVec 3) (k : BitVec 2) (t : BitVec 3) (p : BitVec 4) (s : State) : Out :=
  issue (.vfma d a b k t p) (lanewise d a b k t (arithLane 3 t)) s

/-- VMIN (R107-R109). -/
def execVmin (d a b : BitVec 3) (k : BitVec 2) (t : BitVec 3) (p : BitVec 4) (s : State) : Out :=
  issue (.vmin d a b k t p) (lanewise d a b k t (arithLane 4 t)) s

/-- VMAX (R107-R109). -/
def execVmax (d a b : BitVec 3) (k : BitVec 2) (t : BitVec 3) (p : BitVec 4) (s : State) : Out :=
  issue (.vmax d a b k t p) (lanewise d a b k t (arithLane 5 t)) s

/-- VABS (R107, R109). -/
def execVabs (d a : BitVec 3) (k : BitVec 2) (t : BitVec 3) (p : BitVec 4) (s : State) : Out :=
  issue (.vabs d a k t p) (lanewise d a 0 k t fun _ x _ _ => (absLane t x, 0)) s

/-- VNEG (R107, R109). -/
def execVneg (d a : BitVec 3) (k : BitVec 2) (t : BitVec 3) (p : BitVec 4) (s : State) : Out :=
  issue (.vneg d a k t p) (lanewise d a 0 k t fun _ x _ _ => (negLane t x, 0)) s

/-- VAND (R107). -/
def execVand (d a b : BitVec 3) (k : BitVec 2) (t : BitVec 3) (p : BitVec 4) (s : State) : Out :=
  issue (.vand d a b k t p) (lanewise d a b k t fun _ x y _ => (x &&& y, 0)) s

/-- VOR (R107). -/
def execVor (d a b : BitVec 3) (k : BitVec 2) (t : BitVec 3) (p : BitVec 4) (s : State) : Out :=
  issue (.vor d a b k t p) (lanewise d a b k t fun _ x y _ => (x ||| y, 0)) s

/-- VXOR (R107). -/
def execVxor (d a b : BitVec 3) (k : BitVec 2) (t : BitVec 3) (p : BitVec 4) (s : State) : Out :=
  issue (.vxor d a b k t p) (lanewise d a b k t fun _ x y _ => (x ^^^ y, 0)) s

/-- VSHL (R110). -/
def execVshl (d a b : BitVec 3) (k : BitVec 2) (t : BitVec 3) (p : BitVec 4) (s : State) : Out :=
  issue (.vshl d a b k t p) (lanewise d a b k t fun _ x y _ => (shlLane (laneWidth t) x y, 0)) s

/-- VSHR (R110). -/
def execVshr (d a b : BitVec 3) (k : BitVec 2) (t : BitVec 3) (p : BitVec 4) (s : State) : Out :=
  issue (.vshr d a b k t p) (lanewise d a b k t fun _ x y _ => (shrLane (laneWidth t) x y, 0)) s

/-- cvt of R112 from a lane type to another. -/
def cvtLane (env : FpEnv) (ts td : BitVec 3) (x : Nat) : Nat × Flags :=
  let ws := laneWidth ts
  let wd := laneWidth td
  if isFloatType ts then
    let v := fdecode env.fiz (fmtOf ts) x
    if isFloatType td then rndTo env (fmtOf td) v else rndInt env.rm wd v
  else if isFloatType td then rndTo env (fmtOf td) (ofInt (sval x ws))
  else
    let y := sval x ws
    let hi : Int := (2 ^ (wd - 1) : Nat) - 1
    let lo : Int := -(2 ^ (wd - 1) : Nat)
    (wrapInt wd (if y > hi then hi else if y < lo then lo else y), 0)

/-- The effect of VCVT (R111). -/
def cvtBody (d a : BitVec 3) (r : BitVec 2) (ts td : BitVec 3) : State → State := fun s =>
  let ws := laneWidth ts
  let wd := laneWidth td
  let m := 512 / max ws wd
  let x := s.me
  let src (i : Nat) : Nat := if wd > ws then r.toNat * m + i else i
  let rs := (List.range m).map fun i => (i, cvtLane x.env ts td (lane (x.vec a) ws (src i)))
  let base := if wd < ws then r.toNat * m else 0
  let new := putLanes (x.vec d) wd (rs.map fun (i, y) => (base + i, y.1))
  fpEnd x.env (rs.map fun (i, y) => (i, y.2)) (finish fun y => y.putVec d new) (useVec s)

/-- VCVT (R111, R112). -/
def execVcvt (d a : BitVec 3) (r : BitVec 2) (t o : BitVec 3) (p : BitVec 4) (s : State) : Out :=
  issue (.vcvt d a r t o p) (cvtBody d a r t o) s

/-- VPERM (R113). -/
def execVperm (d a b : BitVec 3) (k : BitVec 2) (t : BitVec 3) (p : BitVec 4) (s : State) : Out :=
  issue (.vperm d a b k t p) (fun s =>
    let w := laneWidth t
    let x := s.me
    laneEnd d w (x.mask k) (fun i => (lane (x.vec a) w (lane (x.vec b) w i % (512 / w)), 0)) (useVec s)) s

/-- VSEL (R113). -/
def execVsel (d a b : BitVec 3) (k : BitVec 2) (t : BitVec 3) (p : BitVec 4) (s : State) : Out :=
  issue (.vsel d a b k t p) (fun s =>
    let w := laneWidth t
    let x := s.me
    laneEnd d w (BitVec.allOnes 64) (fun i => (lane (x.vec (if bitAt (x.mask k) i then a else b)) w i, 0)) (useVec s)) s

/-- VBCAST (R114). -/
def execVbcast (g : BitVec 4) (v t : BitVec 3) (p : BitVec 4) (s : State) : Out :=
  issue (.vbcast g v t p) (needsVec [g] [] fun s =>
    let w := laneWidth t
    finish (fun x => x.putVec v (packLanes w (List.replicate (512 / w) (x.get g).toNat))) s) s

/-- VEXT (R114). -/
def execVext (g i : BitVec 4) (v t : BitVec 3) (p : BitVec 4) (s : State) : Out :=
  issue (.vext g i v t p) (needsVec [i] [g] fun s =>
    let w := laneWidth t
    setG g (extend (typeInt t) (w / 8) (lane (s.me.vec v) w ((s.me.get i).toNat % (512 / w)))) s) s

/-- VINS (R114). -/
def execVins (g i : BitVec 4) (v t : BitVec 3) (p : BitVec 4) (s : State) : Out :=
  issue (.vins g i v t p) (needsVec [g, i] [] fun s =>
    let w := laneWidth t
    finish (fun x => x.putVec v (putLanes (x.vec v) w [((x.get i).toNat % (512 / w), (x.get g).toNat)])) s) s

/-- VRCP (R115). -/
def execVrcp (d a : BitVec 3) (k : BitVec 2) (t : BitVec 3) (p : BitVec 4) (s : State) : Out :=
  issue (.vrcp d a k t p) (lanewise d a 0 k t fun env x _ _ =>
    special 0 env (fmtOf t) (fdecode env.fiz (fmtOf t) x)) s

/-- VRSQ (R115). -/
def execVrsq (d a : BitVec 3) (k : BitVec 2) (t : BitVec 3) (p : BitVec 4) (s : State) : Out :=
  issue (.vrsq d a k t p) (lanewise d a 0 k t fun env x _ _ =>
    special 1 env (fmtOf t) (fdecode env.fiz (fmtOf t) x)) s

/-- VEXP2 (R115). -/
def execVexp2 (d a : BitVec 3) (k : BitVec 2) (t : BitVec 3) (p : BitVec 4) (s : State) : Out :=
  issue (.vexp2 d a k t p) (lanewise d a 0 k t fun env x _ _ =>
    special 2 env (fmtOf t) (fdecode env.fiz (fmtOf t) x)) s

/-- VLOG2 (R115). -/
def execVlog2 (d a : BitVec 3) (k : BitVec 2) (t : BitVec 3) (p : BitVec 4) (s : State) : Out :=
  issue (.vlog2 d a k t p) (lanewise d a 0 k t fun env x _ _ =>
    special 3 env (fmtOf t) (fdecode env.fiz (fmtOf t) x)) s

/-- A comparison of two lanes (R116). -/
def cmpLane (env : FpEnv) (t c : BitVec 3) (a b : Nat) : Bool :=
  if isFloatType t then
    let x := fdecode env.fiz (fmtOf t) a
    let y := fdecode env.fiz (fmtOf t) b
    match c.toNat with
    | 0 => feq x y
    | 1 => !feq x y
    | 2 => flt x y
    | 3 => flt x y || feq x y
    | _ => false
  else cond c (sx a (laneWidth t)) (sx b (laneWidth t))

/-- A mask of the first n lanes that satisfy f. -/
def maskOf (n : Nat) (f : Nat → Bool) : Word :=
  BitVec.ofNat 64 (joinLanes 1 ((List.range n).map fun i => b2n (f i)))

/-- VCMP (R116). -/
def execVcmp (m : BitVec 2) (a b : BitVec 3) (k : BitVec 2) (t c : BitVec 3) (p : BitVec 4) (s : State) : Out :=
  issue (.vcmp m a b k t c p) (fun s =>
    let w := laneWidth t
    let x := s.me
    finish (fun y => y.putMask m (maskOf (512 / w) fun i =>
      bitAt (x.mask k) i && cmpLane x.env t c (lane (x.vec a) w i) (lane (x.vec b) w i))) (useVec s)) s

/-- The float node of VRED by fn7: 0 SUM, 1 MIN, 2 MAX (R117). -/
def redFloat (fn : Nat) (env : FpEnv) (x y : FVal) : FVal × Flags :=
  if fn = 0 then
    let r := rndLane env .f32 (fadd env.rm x y)
    (codeVal .f32 r.1, r.2)
  else (fminmax (fn = 2) x y, 0)

/-- The integer node of VRED (R117). -/
def redInt (fn : Nat) (x y : Int) : Int :=
  if fn = 0 then x + y else if fn = 1 then min x y else max x y

/-- One stage of the tree: the nodes above pairs, and the flags of each with its lowest lane, lanes apart by step. -/
def redStage {α : Type} (node : α → α → α × Flags) (step : Nat) : Nat → List (Option α) → List (Option α) × List (Nat × Flags)
  | i, a :: b :: rest =>
    let r := redStage node step (i + 1) rest
    match a, b with
    | some x, some y => let z := node x y; (some z.1 :: r.1, (2 * i * step, z.2) :: r.2)
    | some x, none => (some x :: r.1, r.2)
    | none, y => (y :: r.1, r.2)
  | _, xs => (xs, [])

/-- The stages of the tree until one node is left, by fuel (R117). -/
def redTree {α : Type} (node : α → α → α × Flags) : Nat → Nat → List (Option α) → Option α × List (Nat × Flags)
  | 0, _, xs => ((xs.head?).getD none, [])
  | f + 1, step, xs =>
    let r := redStage node step 0 xs
    let t := redTree node f (2 * step) r.1
    (t.1, r.2 ++ t.2)

/-- The result of a float reduction with no active lane (R117). -/
def redFloatId (fn : Nat) : FVal :=
  if fn = 0 then fzero else .inf (fn = 2)

/-- The result of an integer reduction with no active lane (R117). -/
def redIntId (fn w : Nat) : Int :=
  if fn = 0 then 0 else if fn = 1 then (2 ^ (w - 1) : Nat) - 1 else -(2 ^ (w - 1) : Nat)

/-- The effect of VRED (R117): the value for gd and the flags of the nodes in order. -/
def redValue (fn : Nat) (t : BitVec 3) (env : FpEnv) (mask : Word) (v : VReg) : Word × List (Nat × Flags) :=
  let w := laneWidth t
  let ls := List.range (512 / w)
  if isFloatType t then
    let r := redTree (redFloat fn env) 6 1 (ls.map fun i =>
      if bitAt mask i then some (fdecode env.fiz (fmtOf t) (lane v w i)) else none)
    (BitVec.ofNat 64 (rneTo .f32 (r.1.getD (redFloatId fn))).1, r.2)
  else
    let r := redTree (fun x y => (redInt fn x y, 0)) 6 1 (ls.map fun i =>
      if bitAt mask i then some (sval (lane v w i) w) else none)
    (BitVec.ofInt 64 (r.1.getD (redIntId fn w)), r.2)

/-- VRED of an operation (R117). -/
def redBody (fn : Nat) (g : BitVec 4) (k : BitVec 2) (v t : BitVec 3) : State → State :=
  needsVec [] [g] fun s =>
    let r := redValue fn t s.me.env (s.me.mask k) (s.me.vec v)
    fpEnd s.me.env r.2 (setG g r.1) s

/-- VRED.SUM (R117). -/
def execVredSum (g : BitVec 4) (k : BitVec 2) (v t : BitVec 3) (p : BitVec 4) (s : State) : Out :=
  issue (.vredSum g k v t p) (redBody 0 g k v t) s

/-- VRED.MIN (R117). -/
def execVredMin (g : BitVec 4) (k : BitVec 2) (v t : BitVec 3) (p : BitVec 4) (s : State) : Out :=
  issue (.vredMin g k v t p) (redBody 1 g k v t) s

/-- VRED.MAX (R117). -/
def execVredMax (g : BitVec 4) (k : BitVec 2) (v t : BitVec 3) (p : BitVec 4) (s : State) : Out :=
  issue (.vredMax g k v t p) (redBody 2 g k v t) s

/-- The lanes of VSCAN (R118): acc is the value written to the last active lane. -/
def scanLanes (t : BitVec 3) (env : FpEnv) (mask : Word) (a d : VReg) : List Nat → Option Nat → List (Nat × Nat × Flags)
  | [], _ => []
  | i :: is, acc =>
    let w := laneWidth t
    let x := lane a w i
    if bitAt mask i then
      let r : Nat × Flags :=
        if isFloatType t then
          let v := fdecode env.fiz (fmtOf t) x
          match acc with
          | none => rndTo env (fmtOf t) v
          | some y => rndLane env (fmtOf t) (fadd env.rm (codeVal (fmtOf t) y) v)
        else ((acc.getD 0 + x) % 2 ^ w, 0)
      (i, r) :: scanLanes t env mask a d is (some r.1)
    else (i, lane d w i, 0) :: scanLanes t env mask a d is acc

/-- VSCAN (R118). -/
def execVscan (d a : BitVec 3) (k : BitVec 2) (t : BitVec 3) (p : BitVec 4) (s : State) : Out :=
  issue (.vscan d a k t p) (fun s =>
    let w := laneWidth t
    let x := s.me
    let rs := scanLanes t x.env (x.mask k) (x.vec a) (x.vec d) (List.range (512 / w)) none
    fpEnd x.env (rs.map fun (i, _, f) => (i, f))
      (finish fun y => y.putVec d (packLanes w (rs.map fun (_, z, _) => z))) (useVec s)) s

/-- A lane of VDOT (R119). -/
def dotLane (t : BitVec 3) (env : FpEnv) (a b : VReg) (i d : Nat) : Nat × Flags :=
  let w := laneWidth t
  let js := (List.range (32 / w)).map fun j => 32 / w * i + j
  if isFloatType t then
    let v (x : VReg) (j : Nat) : FVal := fdecode env.fiz (fmtOf t) (lane x w j)
    dotGroup env (js.map fun j => (v a j, v b j)) 0 (fdecode env.fiz .f32 d)
  else
    (wrapInt 32 (js.foldl (fun acc j => acc + sval (lane a w j) w * sval (lane b w j) w) (d : Int)), 0)

/-- VDOT (R119). -/
def execVdot (d a b : BitVec 3) (k : BitVec 2) (t : BitVec 3) (p : BitVec 4) (s : State) : Out :=
  issue (.vdot d a b k t p) (fun s =>
    let x := s.me
    laneEnd d 32 (x.mask k) (fun i => dotLane t x.env (x.vec a) (x.vec b) i (lane (x.vec d) 32 i)) (useVec s)) s

end Sys2Proof.Machine
end

