-- ==== Sys2Proof/Machine/Quant.lean ====
section
/-! DEFINITION. The quantising store and its axes (R172-R185). -/

namespace Sys2Proof.Machine

/-- The offset of an address in the own local store, when it lies there. -/
def ownOffset (s : State) (c : Nat) (va : Word) : Option Nat :=
  match rangeOf (localPart va) with
  | some .own => if isOwn s va then some (localPart va - 0x7FFFFFFF8000) else none
  | some (.local_ n) => if isOwn s va && n == c then some ((localPart va - lsBase) % 0x8000) else none
  | _ => none

/-- QAXIS (R175). -/
def execQaxis (e : BitVec 2) (a b p : BitVec 4) (s : State) : Out :=
  issue (.qaxis e a b p) (needs [a, b] [] fun s =>
    let w := s.me.get a
    let g := s.me.get b
    let slotted := bits w 3 2 == 2 || bitAt w 4
    let off := ownOffset s s.cur.1 g
    let slotBad := match off with
      | some o => decide (o < 0x800) || o % 64 != 0
      | none => true
    if bits w 63 24 != 0 || bits w 7 5 != 0 || bits w 1 0 == 3 || bits w 3 2 == 3 then illValue w s
    else if slotted && slotBad then illValue g s
    else
      let d : Axis :=
        { kind := bits w 1 0, onEnd := bits w 3 2, load := bitAt w 4, lenm1 := bits w 23 8,
          slot := if slotted then BitVec.ofNat 64 (off.getD 0) else 0, pos := 0, elem := 0 }
      finish (fun x => (x.putAxis e d).putRes e 0) s) s

/-- QRES.R (R184). -/
def execQresR (e : BitVec 2) (v : BitVec 3) (p : BitVec 4) (s : State) : Out :=
  issue (.qresR e v p) (fun s => finish (fun x => x.putVec v (x.res e)) (useVec s)) s

/-- QRES.W (R184). -/
def execQresW (e : BitVec 2) (v : BitVec 3) (p : BitVec 4) (s : State) : Out :=
  issue (.qresW e v p) (fun s => finish (fun x => x.putRes e (x.vec v)) (useVec s)) s

/-- The float format of a target (R67). -/
def targetFmt (qt : BitVec 3) : Fmt :=
  match qt.toNat with
  | 0 => .e4m3
  | 1 => .e5m2
  | 3 => .bf16
  | _ => .f16

/-- round_target of R62: the code, the entry appended to a side list of n entries, and the flags. -/
def roundTarget (qt : BitVec 3) (side : Option Nat) (t : FVal) : Nat × Option Nat × Flags :=
  match qt.toNat with
  | 2 => toE2m1 side t
  | 5 => let r := toL6 t; (r.1, none, r.2)
  | 6 => let r := rndInt 0 8 t; (r.1, none, r.2)
  | _ => let r := rneTo (targetFmt qt) t; (r.1, none, r.2)

/-- val(q) for every target but L6 (R177). -/
def targetVal (qt : BitVec 3) (code : Nat) (entry : Option Nat) : FVal :=
  match qt.toNat, entry with
  | 2, some e => codeVal .bf16 e
  | 2, none => e2m1Val code
  | 6, _ => ofInt (sval code 8)
  | _, _ => codeVal (targetFmt qt) code

/-- sat(v, −M, M) on an F32 code (R177). -/
def clampF32 (x : Nat) : Nat :=
  if x % 2 ^ 31 ≥ 0x7F800000 then x / 2 ^ 31 * 2 ^ 31 + 0x7F7FFFFF else x

/-- F32_RNE(t − val(q)) for an L6 code whose value is irrational: the value is r × 2^d and a little more (R43, R177;
log 9). DEDUCED. -/
def l6Resid (t : FVal) (code : Nat) : Nat :=
  let k := code % 32
  let neg := decide (code / 32 % 2 = 1)
  let (r, d, sticky) := exp2Val (decide (k < 16)) (if k < 16 then 16 - k else k - 16) (-2)
  match t with
  | .nan => 0
  | .inf n => (rneTo .f32 (.inf n)).1
  | .fin tn m e =>
    let q := min e d
    -- the difference seen with the sign of the code: t' − |val|
    let t' := finScaled tn m e q
    let x := (if neg then -t' else t') - (r * 2 ^ (d - q).toNat : Nat)
    let mag (n : Bool) (y : Nat) (st : Bool) : Nat := (roundMag rneEnv .f32 (n != neg) y q st).1
    if x > 0 then mag false (if sticky then x.toNat - 1 else x.toNat) sticky
    else if x < 0 || sticky then mag true x.natAbs sticky
    else 0

/-- resid(t, q) as an F32 code (R177). -/
def resid (qt : BitVec 3) (t : FVal) (code : Nat) (entry : Option Nat) : Nat :=
  if fisNan t then 0
  else if qt = 5 then
    let k := code % 32
    if k = 0 then (if feq t fzero then 0 else clampF32 (rneTo .f32 t).1)
    else
      match l6Exact k with
      | some y =>
        let v := if code / 32 % 2 = 1 then fneg y else y
        if feq t v then 0 else clampF32 (rneTo .f32 (fadd 0 t (fneg v)).1).1
      | none => clampF32 (l6Resid t code)
  else
    let v := targetVal qt code entry
    if feq t v then 0 else clampF32 (rneTo .f32 (fadd 0 t (fneg v)).1).1

/-- What the loop of R179 carries from element to element: ej, P, the slot, the entries of the side list, and the code of
the element before. -/
structure QSt where
  ej : VReg
  pos : Nat
  slot : VReg
  count : Option Nat
  prev : Nat
  deriving DecidableEq, Repr

/-- One element of the loop: its code, the entry that it appends, the residue that a SAVE writes, its flags, and what it
leaves (R179). -/
structure QElem where
  k : Nat
  prev : Nat
  /-- It starts an axis with the load of its slot. -/
  start : Bool
  code : Nat
  entry : Option Nat
  saved : Option VReg
  flags : Flags
  after : QSt
  deriving DecidableEq, Repr

/-- One pass of the loop of R179 for element k of n. Where x and the lane of ej are of opposite signs and their sum is zero, t is +0:
R179 says only that it is exact. DESIGN CHOICE, log 29. -/
def quantElem (ax : Axis) (qt : BitVec 3) (n k : Nat) (x : FVal) (st : QSt) : QElem :=
  let lane_ := if ax.kind = 2 then k else 0
  let start := ax.kind != 0 && ax.load && st.pos == 0 && (ax.kind == 1 || k == 0)
  let e0 := if start then st.slot else st.ej
  let t := if ax.kind = 0 then x else (fadd 0 x (codeVal .f32 (lane e0 32 lane_))).1
  let (code, entry, fl) := roundTarget qt st.count t
  let e1 := if ax.kind = 0 then e0 else setField e0 (32 * lane_) 32 (resid qt t code entry)
  let step := ax.kind == 1 || (ax.kind == 2 && k + 1 == n)
  let atEnd := step && st.pos == ax.lenm1
  let saved := if atEnd && ax.onEnd == 2 then some e1 else none
  let e2 := if atEnd && ax.onEnd != 0 then 0 else e1
  { k := k, prev := st.prev, start := start, code := code, entry := entry, saved := saved, flags := fl,
    after := { ej := e2, pos := if atEnd then 0 else if step then st.pos + 1 else st.pos, slot := saved.getD st.slot,
               count := st.count.map (· + b2n entry.isSome), prev := code } }

/-- The elements of the loop from the list of those left (R179); wr is what the stores of an element write in the slot,
which a later axis start reads (R183). -/
def quantElems (wr : QElem → VReg → VReg) (ax : Axis) (qt : BitVec 3) (n : Nat) : List (Nat × FVal) → QSt → List QElem
  | [], _ => []
  | (k, x) :: xs, st =>
    let e := quantElem ax qt n k x st
    e :: quantElems wr ax qt n xs { e.after with slot := e.saved.getD (wr e e.after.slot) }

/-- Bytes of an element of a target; 0 for E2M1, two elements of which share a byte (R176). -/
def targetBytes (qt : BitVec 3) : Nat :=
  match qt.toNat with
  | 2 => 0
  | 3 => 2
  | 4 => 2
  | _ => 1

/-- The destination address, size and bytes of an element (R176). -/
def elemVa (op : QOp) (k : Nat) : Word :=
  op.va + BitVec.ofNat 64 (if op.qt = 2 then k / 2 else targetBytes op.qt * k)
def elemSize (op : QOp) : Nat := max 1 (targetBytes op.qt)
def elemData (op : QOp) (e : QElem) : Nat :=
  if op.qt = 2 && e.k % 2 = 1 then e.prev % 16 + 16 * e.code else e.code

/-- The side-list stores that an element makes: its entry, then the count (R178). -/
def sideStores (op : QOp) (e : QElem) : List (Word × Nat) :=
  match op.side, e.entry, e.after.count with
  | some b, some x, some n => [(b + 2 + BitVec.ofNat 64 (2 * (n - 1)), x), (b, n)]
  | _, _, _ => []

/-- The 64 bytes at a slot of the own local store after a store of n bytes. -/
def slotWrite (s : State) (c : Nat) (slot va : Word) (n data : Nat) (v : VReg) : VReg :=
  match ownOffset s c va with
  | some o => (List.range n).foldl (fun v i =>
      if slot.toNat ≤ o + i ∧ o + i < slot.toNat + 64 then setField v (8 * (o + i - slot.toNat)) 8 (byteOf data i).toNat
      else v) v
  | none => v

/-- What the destination and side-list stores of an element write in the slot (R183). -/
def slotWrites (s : State) (c : Nat) (op : QOp) (slot : Word) (e : QElem) (v : VReg) : VReg :=
  (sideStores op e).foldl (fun v (va, x) => slotWrite s c slot va 2 x v)
    (slotWrite s c slot (elemVa op e.k) (elemSize op) (elemData op e) v)

/-- The eight doubleword stores of a SAVE (R183). DEDUCED, log 29. -/
def saveStores (c : Nat) (slot : Word) (e : VReg) (mk : Word → Loc → Nat → Nat → SbEntry) : List SbEntry :=
  (List.range 8).map fun i =>
    mk (BitVec.ofNat 64 0xFFFFFFFFFFFF8000 + slot + BitVec.ofNat 64 (8 * i)) (.here (lsAddr c (slot.toNat + 8 * i))) 8
      (lane e 64 i)

/-- An element whose accesses all pass: its destination store and the stores after it. -/
structure QStores where
  e : QElem
  dest : SbEntry
  others : List SbEntry
  deriving DecidableEq, Repr

/-- The entry of a store of the strand in a slot. -/
def entryOf (s : State) (x : Strand) (va : Word) (loc : Loc) (size data : Nat) : SbEntry :=
  ⟨x.uid, .plain, va, loc, size, data % 2 ^ (8 * size), s.cyc, s.cyc, x.pc, none, []⟩

/-- The checked stores of an element, or its fault (R181). -/
def elemStores (s : State) (c : Nat) (x : Strand) (op : QOp) (slot : Word) (e : QElem) : Except Stop QStores :=
  let chk (va : Word) (n : Nat) := checkAccess s c x.rights (.store none) va n
  match chk (elemVa op e.k) (elemSize op) with
  | .error st => .error st
  | .ok p =>
    let side := (sideStores op e).map fun (va, v) => (va, v, chk va 2)
    match side.findSome? fun (_, _, r) => match r with
        | .error st => some st
        | .ok _ => none with
    | some st => .error st
    | none =>
      let es := side.filterMap fun (va, v, r) => match r with
        | .ok q => some (entryOf s x va q.loc 2 v)
        | .error _ => none
      let sv := match e.saved with
        | some r => saveStores c slot r (entryOf s x)
        | none => []
      .ok ⟨e, entryOf s x (elemVa op e.k) p.loc (elemSize op) (elemData op e), es ++ sv⟩

/-- The stores of the elements before the first that faults, and that fault (R181). -/
def allStores (s : State) (c : Nat) (x : Strand) (op : QOp) (slot : Word) :
    List QElem → List QStores × Option (Nat × Stop)
  | [] => ([], none)
  | e :: es =>
    match elemStores s c x op slot e with
    | .error st => ([], some (e.k, st))
    | .ok q => let r := allStores s c x op slot es; (q :: r.1, r.2)

/-- A destination store joins the one before it when both lie in one aligned doubleword (R183). DEDUCED, log 29. -/
def joinDest (a b : SbEntry) : Option SbEntry :=
  let off := b.va.toNat - a.va.toNat
  if a.va.toNat / 8 = b.va.toNat / 8 && decide (a.va.toNat ≤ b.va.toNat) && decide (off ≤ a.size) then
    some { a with size := max a.size (off + b.size), data := a.data % 2 ^ (8 * off) + b.data * 2 ^ (8 * off) }
  else none

/-- The groups of R183: dest is the store that is being joined, and g the elements that it holds. -/
def groupStores : SbEntry → QGroup → List QStores → List QGroup
  | d, g, [] => [{ g with entries := d :: g.entries }]
  | d, g, q :: qs =>
    let new : QGroup := ⟨q.others, q.e.k + 1, q.e.after.ej, q.e.after.pos, q.e.flags⟩
    match if g.entries = [] then joinDest d q.dest else none with
    | some d' => groupStores d' { new with flags := g.flags ||| q.e.flags } qs
    | none => { g with entries := d :: g.entries } :: groupStores q.dest new qs

/-- The groups of a list of elements. -/
def groupsOf : List QStores → List QGroup
  | [] => []
  | q :: qs => groupStores q.dest ⟨q.others, q.e.k + 1, q.e.after.ej, q.e.after.pos, q.e.flags⟩ qs

/-- The report of a fault or exception at an element (R180, R181). -/
def quantStop (j : BitVec 2) (k : Nat) (st : Stop) : Stop :=
  { st with xaux := st.xaux ||| BitVec.ofNat 64 (k + j.toNat * 2 ^ 16) }

/-- The end of a group: the residue, position and flags that it leaves. -/
def endGroup (c n : Nat) (j : BitVec 2) (g : QGroup) (s : State) : State :=
  s.modStrand c n fun x =>
    mergeFps g.flags ((x.putAxis j { x.axisOf j with pos := g.pos }).putRes j g.ej)

/-- Groups enter the buffer while there is room: those left, and the state (R162, R183). -/
def pushGroups (c n : Nat) (j : BitVec 2) : List QGroup → State → List QGroup × State
  | [], s => ([], s)
  | g :: gs, s =>
    let r := pushEntries true c n g.entries s
    if r.1 = [] then pushGroups c n j gs (endGroup c n j g r.2) else ({ g with entries := r.1 } :: gs, r.2)

/-- Sets PE of a descriptor. -/
def setPe (c n : Nat) (j : BitVec 2) (k : Nat) (s : State) : State :=
  s.modStrand c n fun x => x.putAxis j { x.axisOf j with elem := k }

/-- A QST or QSTA in WAIT for buffer room goes on; it ends with its last store, or at the element that faults
(R181, R182). -/
def qstResume (c n : Nat) (s : State) : Option State :=
  match s.waiting c n with
  | some (.qst j gs stop cut) =>
    let r := if storesBefore s c n then (gs, s) else pushGroups c n j gs s
    if r.1 = [] then
      some (match cut, stop with
        | some k, _ => (setPe c n j k r.2).modSlot c n fun x =>
            { x with state := .ready, strand := x.strand.goTo x.strand.pc }
        | none, some (k, st) => trapWait c n (quantStop j k st) (setPe c n j k r.2)
        | none, none => wake c n id (setPe c n j 0 r.2))
    else if (s.core c).sb.length = (r.2.core c).sb.length then none
    else some (r.2.setState c n (.wait (.qst j r.1 stop cut)))
  | _ => none

/-- What pre-emption leaves of a QST or QSTA: the element in progress, the fault after the elements, and the element at which it
stops (R182). -/
def cutGroups (gs : List QGroup) (stop : Option (Nat × Stop)) : List QGroup × Option (Nat × Stop) × Option Nat :=
  match gs with
  | g :: _ :: _ => ([g], none, some g.next)
  | [g] => if stop.isSome then ([g], none, some g.next) else ([g], none, none)
  | [] => ([], stop, none)

/-- A pre-emption of the strand's launch has reached the core (R36). -/
def isPreempted (s : State) (c : Nat) (x : Strand) : Bool :=
  (s.core c).preempted.any x.isOf

/-- The execution of a QST or QSTA whose reads are made: count is the side list's, byte the one at an odd start element
(R176, R178-R181). -/
def quantRun (c n : Nat) (op : QOp) (count : Option Nat) (byte : Nat) (s : State) : State :=
  let x := s.strand c n
  let ax := x.axisOf op.j
  let start := ax.elem
  let slot := BitVec.ofNat 512 (leNat ((List.range 64).map fun i =>
    (sbByte (s.core c).sb (.here (lsAddr c (ax.slot.toNat + i)))).getD (memByte s.mem (lsAddr c (ax.slot.toNat + i)))))
  let xs := (op.src.zipIdx.map fun (v, k) => (k, fdecode op.env.fiz .f32 v)).drop start
  let st : QSt := ⟨x.res op.j, ax.pos, slot, count.map (min 64), byte % 16⟩
  let es := match quantElems (slotWrites s c op ax.slot) ax op.qt op.src.length xs st, count with
    | e :: es, some m => (if m > 64 then { e with flags := e.flags ||| flFMT } else e) :: es
    | es, _ => es
  let all := es.foldl (fun f e => f ||| e.flags) (0 : Flags)
  let s0 := if es.any QElem.start then markSeen c x.uid [⟨0, 0, .here (lsAddr c ax.slot.toNat), 64, false, none, 0, 0⟩] s else s
  match enabledTrap op.env all with
  | some i =>
    let k := ((es.find? fun e => hasEnabled op.env e.flags).map QElem.k).getD 0
    trapWait c n (quantStop op.j k ⟨fpCause i, all.setWidth 64, 0⟩) (s0.modStrand c n (mergeFps all))
  | none =>
    let r := allStores s c x op ax.slot es
    let q := if isPreempted s c x then cutGroups (groupsOf r.1) r.2 else (groupsOf r.1, r.2, none)
    let s1 := s0.setState c n (.wait (.qst op.j q.1 q.2.1 q.2.2))
    (qstResume c n s1).getD s1

/-- The reads of a QST or QSTA in WAIT have their data, or fail (R178, R180). -/
def quantComplete (c n : Nat) (s : State) : Option State :=
  match s.waiting c n with
  | some (.load els (.quant op) _) =>
    let x := s.strand c n
    let r := gather s c x.uid els
    match r.2 with
    | none =>
      let val (i : Nat) : Option Nat := (r.1.find? fun y => y.1.idx == i).map Prod.snd
      some (quantRun c n op (val 0) ((val 1).getD 0) (markSeen c x.uid els s))
    | some (_, some (.stop st)) => some (trapWait c n (quantStop op.j (x.axisOf op.j).elem st) (setPe c n op.j (x.axisOf op.j).elem s))
    | some _ => none
  | _ => none

/-- The reads that the conversions depend on: the count of the side list, and the byte at an odd start element. Where both fail,
the count's fault is the one that is reported: R178 and R180 name no order. DESIGN CHOICE, log 29. -/
def quantReads (op : QOp) (start : Nat) : List (Nat × Word × Nat) :=
  if start ≥ op.src.length then []
  else
    (match op.side with
      | some b => [(0, b, 2)]
      | none => []) ++
    (if op.qt = 2 && start % 2 = 1 then [(1, elemVa op start, 1)] else [])

/-- The elements of those reads, or the first that fails. -/
def quantLoads (s : State) : List (Nat × Word × Nat) → Except Stop (List Elem)
  | [] => .ok []
  | (i, va, n) :: rs =>
    match checkAccess s s.cur.1 s.me.rights .load va n with
    | .error st => .error st
    | .ok p =>
      match quantLoads s rs with
      | .error st => .error st
      | .ok es => .ok (⟨i, va, p.loc, n, p.ord, none, 0, 0⟩ :: es)

/-- The first destination or side-list address that names another module (R176). -/
def farAddr (s : State) (op : QOp) : Option Word :=
  (((List.range op.src.length).map (elemVa op)) ++
    (match op.side with
      | some b => (List.range 65).map fun i => b + BitVec.ofNat 64 (2 * i)
      | none => [])).find? fun va => !isOwn s va

/-- The effect of QST and QSTA with their operands (R176, R178-R182). -/
def quantBody (op : QOp) (s : State) : State :=
  let start := (s.me.axisOf op.j).elem
  if targetBytes op.qt = 2 && op.va.toNat % 2 = 1 then trapHere ⟨.align, op.va, 0⟩ s
  else
    match farAddr s op, (op.side.filter fun b => b.toNat % 2 == 1) with
    | some va, _ => illValue va s
    | none, some b => trapHere ⟨.align, b, 0⟩ s
    | none, none =>
      match quantLoads s (quantReads op start) with
      | .error st => trapHere (quantStop op.j start st) (setPe s.cur.1 s.cur.2 op.j start s)
      | .ok els =>
        let s1 := enterWait (.load els (.quant op) none) s
        if els.all (elemAtOnce s s.cur.1 s.me.uid) then (quantComplete s.cur.1 s.cur.2 s1).getD s1 else s1

/-- The side list of an E2M1 store, none for g0 (R178). -/
def sideOf (q : BitVec 3) (b : BitVec 4) (x : Strand) : Option Word :=
  if q = 2 && b != 0 then some (x.get b) else none

/-- QST (R179). -/
def execQst (e : BitVec 2) (v : BitVec 3) (a b : BitVec 4) (q : BitVec 3) (p : BitVec 4) (s : State) : Out :=
  issue (.qst e v a b q p) (needsVec [a, b] [] fun s =>
    let x := s.me
    quantBody ⟨e, q, (List.range 16).map (lane (x.vec v) 32), x.get a, sideOf q b x, x.env⟩ s) s

/-- QSTA (R179). -/
def execQsta (e c : BitVec 2) (a b : BitVec 4) (q : BitVec 3) (p : BitVec 4) (s : State) : Out :=
  issue (.qsta e c a b q p) (needs [a, b] [] fun s =>
    if (s.me.axisOf e).kind = 2 then illWord (.qsta e c a b q p) s
    else needsLease (fun s =>
      let x := s.me
      quantBody ⟨e, q, (List.range 1024).map (lane (tileOf s s.cur.1 s.cur.2 c) 32), x.get a, sideOf q b x, x.env⟩ s) s) s

end Sys2Proof.Machine
end

