-- ==== Sys2Proof/Machine/Front.lean ====
section
/-! DEFINITION. The time-front table: definition and links of blocks, the causality rule, dispatch, commits, face pushes
and notifications (R280-R303). -/

namespace Sys2Proof.Machine

/-- The block ID of entry i of cluster k (R281). -/
def blockId (s : State) (k i : Nat) : Nat :=
  s.modId * 2 ^ 19 + k * 2 ^ 9 + i

/-- The module, cluster and entry of a block ID (R281). -/
def idModule (v : Nat) : Nat := v / 2 ^ 19
def idCluster (v : Nat) : Nat := v / 2 ^ 9 % 2 ^ 10
def idEntry (v : Nat) : Nat := v % 2 ^ 9

/-- The cluster and entry that a block ID names on this module, when the entry is not FREE (R281). -/
def blockAt (s : State) (v : Nat) : Option (Nat × Nat) :=
  if idModule v = s.modId && decide (idCluster v < Config.clusters) &&
      (s.block (idCluster v) (idEntry v)).st != .free then
    some (idCluster v, idEntry v)
  else none

/-- The domain of a strand's launch, identity word 250; of a launch of another module it is not known here. DESIGN CHOICE,
log 12. -/
def domainOf (s : State) (x : Strand) : Option Nat :=
  (x.queue.bind s.launch).map Launch.domain

/-- The executing strand may name a domain (R284). -/
def mayName (s : State) (dom : Nat) : Bool :=
  s.me.mode || domainOf s s.me == some dom

/-- The block that an operand of the executing strand names on this module (R281, R284). -/
def blockOperand (s : State) (v : Word) : Option (Nat × Nat) :=
  match blockAt s v.toNat with
  | some (k, i) => if mayName s (s.block k i).dom then some (k, i) else none
  | none => none

/-- The edge slot e of an entry. -/
def Block.edge (b : Block) (e : Nat) : Edge := b.edges[e]?.getD Edge.reset

/-- An entry with edge slot e updated. -/
def Block.modEdge (b : Block) (e : Nat) (f : Edge → Edge) : Block :=
  { b with edges := b.edges.setIfInBounds e (f (b.edge e)) }

/-- The step S of a block (R283). -/
def Block.step (b : Block) : Nat := 2 ^ b.logs

/-- The address of a state slot. -/
def Block.slot (b : Block) (cur : Bool) : Word := if cur then b.slot1 else b.slot0

/-- The address of the halo pair of edge slot e (R283). -/
def Block.halo (b : Block) (e : Nat) : Word := b.hb + BitVec.ofNat 64 (128 * b.hsz * e)

/-- diff of R291. -/
def levelDiff (x y : Nat) : Int :=
  (BitVec.ofNat 32 x - BitVec.ofNat 32 y).toInt

/-- A comparison reaches the span limit (R291). -/
def spanHit (d : Int) : Bool := decide (d.natAbs ≥ 2 ^ 30)

/-- The Aster of cluster k records the size of comparisons in SPAN.MAX (R149, R291). -/
def noteMax (k : Nat) (ds : List Int) (s : State) : State :=
  s.modCluster k fun x =>
    { x with spanMax := ds.foldl (fun m d => max m (min d.natAbs (2 ^ 30 - 1))) x.spanMax }

/-- The Aster of cluster k records comparisons in SPAN (R149, R291). -/
def noteSpan (k : Nat) (ds : List Int) (s : State) : State :=
  (noteMax k ds s).modCluster k fun x => { x with spanHit := x.spanHit || ds.any spanHit }

/-- Fields of a rule word (R289). -/
def ruleNeed (r : Nat) : Nat := r % 2 ^ 16
def ruleOvr (r : Nat) : Bool := r / 2 ^ 16 % 2 = 1
def ruleFree (r : Nat) : Bool := r / 2 ^ 17 % 2 = 1

/-- The default need of a link on which a block of step sb reads one of step sn (R290). -/
def defaultNeed (sb sn : Nat) : Nat := if sn > sb then sb else 0

/-- The effective need of an edge slot (R290). -/
def need (b : Block) (e : Edge) : Nat :=
  if ruleOvr e.rule then ruleNeed e.rule else defaultNeed b.step (2 ^ e.nlogs)

/-- The trap of a rule word that is stricter than the default (R290). -/
def ruleStop (w sb sn : Nat) : Option Stop :=
  if ruleOvr w && decide (ruleNeed w > defaultNeed sb sn) then
    some ⟨.rule, BitVec.ofNat 64 w, BitVec.ofNat 64 (defaultNeed sb sn)⟩
  else none

/-- The comparisons of R292 for a list of requirements, in order up to the first that fails, and the verdict. DEDUCED,
log 27. -/
def requireAll : List (Int × Bool) → List Int × Bool
  | [] => ([], true)
  | (d, ok) :: xs => if ok then let r := requireAll xs; (d :: r.1, r.2) else ([d], false)

/-- The requirements of one edge slot; none when n has not been started (R292). -/
def edgeRule (b : Block) (e : Edge) : Option (List (Int × Bool)) :=
  if !e.used || e.ndone then some []
  else if !e.nv then none
  else
    let c1 := levelDiff e.nl (b.l + need b e)
    let c2 := levelDiff e.nlp b.l
    let c3 := levelDiff b.l e.nl
    some ((if e.rd && !ruleFree e.rule then [(c1, decide (0 ≤ c1)), (c2, decide (c2 ≤ 0))] else []) ++
      (if e.wr && !e.rfree then [(c3, decide (c3 ≤ 0))] else []))

/-- The rule over edge slots in order (R292). -/
def rulesOf (b : Block) : List Edge → List Int × Bool
  | [] => ([], true)
  | e :: es =>
    match edgeRule b e with
    | none => ([], false)
    | some rs =>
      let r := requireAll rs
      if r.2 then let t := rulesOf b es; (r.1 ++ t.1, t.2) else r

/-- An IDLE block is evaluated (R291, R292). -/
def evalBlock (k i : Nat) (s : State) : State :=
  let b := s.block k i
  if b.st = .idle && !b.spanf && b.pushes == 0 && !s.frozenDoms.contains b.dom then
    let r := rulesOf b b.edges.toList
    let hit := r.1.any spanHit
    (noteSpan k r.1 s).modBlock k i fun b =>
      { b with spanf := b.spanf || hit, st := if r.2 && !hit then .runnable else b.st }
  else s

/-- Every block of cluster k is evaluated (R292). -/
def settle (k : Nat) (s : State) : State :=
  (s.cluster k).blocks.foldl (fun s (i, _) => evalBlock k i s) s

/-- A level notification of a block to the neighbour of an edge slot (R294, R300). -/
def notify (k i : Nat) (e : Edge) (l lp : Nat) (done : Bool) (s : State) : State :=
  sendTo (idModule e.nid) (.level e.nid e.peer (blockId s k i) l lp done) s

/-- The strand with a serial number, wherever it is, is updated. -/
def modUid (uid : Nat) (f : Strand → Strand) (s : State) : State :=
  let g (x : Strand) : Strand := if x.uid == uid then f x else x
  { s with
    cores := s.cores.map fun (c, k) =>
      (c, { k with slots := k.slots.map fun x => if x.state == .empty then x else { x with strand := g x.strand }
                   arr := k.arr.map fun e => { e with strand := g e.strand } })
    saved := s.saved.map fun (q, v) => (q, { v with strands := v.strands.map fun (c, x) => (c, g x) }) }

/-- The strand bound to a block: its serial number, and its slot when it is in one (R280). -/
def boundTo (s : State) (k i : Nat) : Option (Nat × Option (Nat × Nat)) :=
  let inSlot := s.places.find? fun (c, n) =>
    (s.slot c n).state != .empty && (s.strand c n).bound == some (k, i)
  match inSlot with
  | some (c, n) => some ((s.strand c n).uid, some (c, n))
  | none =>
    let waiting := s.cores.findSome? fun (_, x) =>
      (x.arr.find? fun e => e.strand.bound == some (k, i)).map fun e => e.strand.uid
    let moving := s.flight.findSome? fun m => match m with
      | .migrate _ _ uid y _ => if y.bound = some (k, i) then some uid else none
      | _ => none
    (waiting <|> moving).map fun u => (u, none)

/-- The write slot of an abandoned update is undefined: the bytes of it that the update has stored, and the strand's stores to
it that are still buffered, take free values (R305). DESIGN CHOICE, log 28: the other bytes stay as they were. -/
def spoilSlot (uid core : Nat) (b : Block) (s : State) : State :=
  let (t, s1) := s.fresh
  let byte (a i : Nat) : Byte := Config.abandonedByte t (a + i)
  let mem := b.wrote.foldl (fun m (a, n) => memPutAll m a ((List.range n).map (byte a))) s1.mem
  let spoil (e : SbEntry) : SbEntry :=
    if e.uid == uid && b.takes s e.va then
      { e with data := leNat ((List.range e.size).map (byte (2 ^ 64 + e.va.toNat))) }
    else e
  { s1 with mem := mem }.modCore core fun k => { k with sb := k.sb.map spoil }

/-- The strand of an abandoned update is redirected to its BNEXT, through XPC in a handler; in WAIT, once its operation ends
(R305, R307). -/
def redirect (held waits : Bool) (x : Strand) : Strand :=
  match held, waits with
  | true, true => { x with redirX := some x.bnext, bound := none }
  | true, false => { x with xpc := x.bnext, bound := none }
  | false, true => { x with redir := some x.bnext, bound := none }
  | false, false => { x with pc := x.bnext, bound := none }

/-- The entry of an abandoned update, and its write slot (R305). -/
def abandonEntry (k i uid core : Nat) (s : State) : State :=
  spoilSlot uid core (s.block k i)
    (s.modBlock k i fun b =>
      { b with phase := false, wrote := [], st := if s.frozenDoms.contains b.dom then .frozen else .idle })

/-- The strand of an abandoned update is redirected on its way between cores (R305). -/
def redirectMoving (uid : Nat) (held : Bool) (s : State) : State :=
  { s with flight := s.flight.map fun m => match m with
      | .migrate core from_ u y bs =>
        .migrate core from_ u (if u = uid && y.bound.isSome then { y with bound := none, gone := some held } else y) bs
      | _ => m }

/-- An update is abandoned by a freeze (R305-R307). -/
def abandon (k i : Nat) (s : State) : State :=
  let held := (s.block k i).st == .held
  match boundTo s k i with
  | some (uid, place) =>
    let waits := match place with
      | some (c, n) => (s.waiting c n).isSome
      | none => false
    let core := (place.map Prod.fst).getD (16 * k)
    modUid uid (redirect held waits) (redirectMoving uid held (abandonEntry k i uid core s))
  | none => abandonEntry k i 0 (16 * k) s

/-- The effect of BDEF that frees an entry (R286); links toward a removed module end with the entry (R374). -/
def freeBlock (d : BitVec 4) (i : Nat) (s : State) : State :=
  let k := clusterOf s.cur.1
  let b := s.block k i
  let id := blockId s k i
  let es := b.edges.toList.filter fun e => e.used
  let near (e : Edge) : Bool := idModule e.nid == s.modId && idCluster e.nid == k
  let s1 := (es.filter near).foldl (fun s e =>
    s.modBlock k (idEntry e.nid) fun n => n.modEdge e.peer fun y => if y.nid == id then { y with used := false } else y) s
  let far := es.filter fun e => !near e && inDomain s (idModule e.nid)
  if far = [] then setG d 0 (settle k (s1.modBlock k i fun _ => Block.reset))
  else
    enterWait (.confirm (far.map fun e => (idModule e.nid, .linkClear e.nid e.peer id 0)) [] (some d) (some i)) (settle k s1)

/-- The elements of the descriptor of BDEF or BNBR, or their trap (R285, R287). -/
def descElems (s : State) (va : Word) : Except Stop (List Elem) :=
  if va.toNat % 64 ≠ 0 then .error ⟨.illOperand, va, 0⟩
  else
    match placeElems s (fun _ => .load) 8 ((List.range 8).map fun i => (i, va + BitVec.ofNat 64 (8 * i))) with
    | (_, some (_, st)) => .error st
    | (xs, none) => .ok (xs.map fun (i, a, q) => ⟨i, a, q.loc, 8, q.ord, none, 0, 0⟩)

/-- The first descriptor word of BDEF that breaks a limit of R285. -/
def defBad (w : Nat → Word) : Option Word :=
  let logs := bits (w 5) 35 32
  let bads : List (Word × Bool) :=
    [(w 0, bits (w 0) 1 0 != 0), (w 1, bits (w 1) 1 0 != 0), (w 2, bits (w 2) 5 0 != 0), (w 3, bits (w 3) 5 0 != 0),
     (w 4, bits (w 4) 5 0 != 0), (w 5, bits (w 5) 47 36 != 0 || bits (w 5) 31 0 % 2 ^ logs != 0),
     (w 6, bits (w 6) 63 28 != 0 || bits (w 6) 15 0 == 0), (w 7, w 7 != 0)]
  (bads.find? Prod.snd).map Prod.fst

/-- The check of a range as a store, every byte of which must lie on the own module: those before the top of its space, then
those after it (R286). -/
def ownRange (s : State) (c : Nat) (rt : Rights) (va : Word) (n : Nat) : Option Stop :=
  let m := min n (2 ^ 47 - localPart va)
  let part (a : Word) (n : Nat) : Option Stop :=
    if n = 0 then none
    else if !isOwn s a then some ⟨.illOperand, a, 0⟩
    else checkRange s c rt (.store none) a n
  part va m <|> part (va + BitVec.ofNat 64 m) (n - m)

/-- The entry that BDEF defines from its descriptor (R286). -/
def newBlock (w : Nat → Word) (rt : Rights) : Block :=
  { Block.reset with
    st := .defined, endL := bits (w 5) 31 0, logs := bits (w 5) 35 32, dom := bits (w 5) 63 48, upc := w 0, ipc := w 1,
    slot0 := w 2, slot1 := w 3, hb := w 4, ssz := bits (w 6) 15 0, hsz := bits (w 6) 27 16, rights := rt }

/-- A BDEF whose descriptor has been read: its trap, or the new entry (R286). -/
def defineBlock (c n i : Nat) (d : BitVec 4) (w : Nat → Word) (s : State) : State :=
  let k := clusterOf c
  let x := s.strand c n
  let dom := bits (w 5) 63 48
  let bad (v : Word) : State := trapWait c n ⟨.illOperand, v, 0⟩ s
  let b := newBlock w x.rights
  if (s.block k i).st != .free then bad (BitVec.ofNat 64 i)
  else
    match defBad w with
    | some v => bad v
    | none =>
      if !(x.mode || domainOf s x == some dom) then bad (BitVec.ofNat 64 dom)
      else
        match [(b.slot0, 64 * b.ssz), (b.slot1, 64 * b.ssz), (b.hb, 768 * b.hsz)].findSome? fun (va, len) =>
            ownRange s c x.rights va len with
        | some st => trapWait c n st s
        | none =>
          let (t, s1) := s.fresh
          wake c n (fun y => y.put d (BitVec.ofNat 64 (blockId s k i))) (s1.modBlock k i fun _ => { b with defn := t })

/-- What a neighbour's Aster checks before it takes half of a link, in entry i of cluster k (R288). -/
def halfStop (s : State) (k i e : Nat) (h : HalfLink) : Option Stop :=
  let n := s.block k i
  let ill (v : Word) : Option Stop := some ⟨.illOperand, v, 0⟩
  if n.st = .free then ill (BitVec.ofNat 64 (blockId s k i))
  else if n.st != .defined || n.dom != h.dom || (n.edge e).used then ill h.xb
  else if decide (h.flenOther > 64 * n.hsz) || decide (h.soff + h.flen > 64 * n.ssz) then ill h.xd
  else
    match if h.wr then ruleStop h.ruleOther (2 ^ h.nlogs) n.step else none with
    | some st => some st
    | none => if h.rd then ruleStop h.rule n.step (2 ^ h.nlogs) else none

/-- The edge slot that a half link installs (R288). -/
def halfEdge (h : HalfLink) : Edge :=
  { nid := h.nid, peer := h.peer, rd := h.rd, wr := h.wr, used := true, nv := false, ndone := false, rfree := h.rfree,
    nlogs := h.nlogs, nhsz := h.nhsz, rule := h.rule, nl := 0, nlp := 0, soff := h.soff, flen := h.flen, dst := h.dst,
    pfc := 0, pfa := 0 }

/-- Installs an edge slot. -/
def putEdge (k i e : Nat) (h : HalfLink) (s : State) : State :=
  s.modBlock k i fun b => b.modEdge e fun _ => halfEdge h

/-- A descriptor of BNBR breaks a limit of R287 or R289. -/
def linkBad (w : Nat → Word) : Bool :=
  let rd := bitAt (w 0) 56
  let wr := bitAt (w 0) 57
  bits (w 0) 39 36 != 0 || bits (w 0) 47 43 != 0 || bits (w 0) 55 51 != 0 || bits (w 0) 63 58 != 0 ||
  decide (bits (w 0) 42 40 > 5) || decide (bits (w 0) 50 48 > 5) || !(rd || wr) ||
  bits (w 1) 63 32 != 0 || bits (w 2) 63 32 != 0 || bits (w 3) 63 48 != 0 || bits (w 4) 63 48 != 0 ||
  (!rd && (w 1 != 0 || w 4 != 0)) || (!wr && (w 2 != 0 || w 3 != 0)) || w 5 != 0 || w 6 != 0 || w 7 != 0

/-- The rule words of a descriptor that break R289. -/
def ruleBad (w : Word) : Bool := bits w 31 18 != 0

/-- A BNBR whose descriptor has been read: its trap, or the installation of both halves (R288). DEDUCED, log 27. -/
def linkBlocks (c n : Nat) (xb xd : Word) (w : Nat → Word) (s : State) : State :=
  let k := clusterOf c
  let i := idEntry xb.toNat
  let b := s.block k i
  let nid := bits (w 0) 35 0
  let eb := bits (w 0) 42 40
  let en := bits (w 0) 50 48
  let rd := bitAt (w 0) 56
  let wr := bitAt (w 0) 57
  let ruleB := bits (w 1) 31 0
  let ruleN := bits (w 2) 31 0
  let soffB := bits (w 3) 31 0
  let flenB := bits (w 3) 47 32
  let soffN := bits (w 4) 31 0
  let flenN := bits (w 4) 47 32
  let id := blockId s k i
  let bad (v : Word) : State := trapWait c n ⟨.illOperand, v, 0⟩ s
  let mine : HalfLink :=
    { nid := nid, peer := en, rd := rd, wr := wr, rule := ruleB, soff := soffB, flen := flenB, nlogs := 0, nhsz := 0,
      dst := 0, rfree := ruleFree ruleN, dom := b.dom, flenOther := 0, ruleOther := 0, xb := xb, xd := xd }
  let theirs : HalfLink :=
    { nid := id, peer := eb, rd := wr, wr := rd, rule := ruleN, soff := soffN, flen := flenN, nlogs := b.logs,
      nhsz := b.hsz, dst := b.halo eb, rfree := ruleFree ruleB, dom := b.dom, flenOther := flenB, ruleOther := ruleB,
      xb := xb, xd := xd }
  if linkBad w then bad xd
  else if ruleBad (w 1) then bad (w 1)
  else if ruleBad (w 2) then bad (w 2)
  else if !inDomain s (idModule nid) || decide (idCluster nid ≥ Config.clusters) then bad (BitVec.ofNat 64 nid)
  else if b.st != .defined || nid == id || (b.edge eb).used || b.edges.any (fun e => e.used && e.nid == nid) then bad xb
  else if decide (flenN > 64 * b.hsz) || decide (soffB + flenB > 64 * b.ssz) then bad xd
  else if idModule nid == s.modId && idCluster nid == k then
    match halfStop s k (idEntry nid) en theirs with
    | some st => trapWait c n st s
    | none =>
      let o := s.block k (idEntry nid)
      wake c n id' (putEdge k (idEntry nid) en theirs
        (putEdge k i eb { mine with nlogs := o.logs, nhsz := o.hsz, dst := o.halo en } s))
  else
    let (t, s1) := s.ask c (idModule nid) (s.strand c n).uid (.linkInstall nid en theirs)
    s1.setState c n (.wait (.link t i eb (halfEdge mine) b.defn))
where
  id' (x : Strand) : Strand := x

/-- A BNBR of cluster k waits for another Aster's answer for entry i, in an edge slot and for a half that satisfy a condition. -/
def linkPending (s : State) (k i : Nat) (p : Nat → Edge → Bool) : Bool :=
  s.places.any fun (c, n) => clusterOf c == k && match s.waiting c n with
    | some (.link _ b e half _) => b == i && p e half
    | _ => false

/-- The neighbour of a descriptor is not in the strand's own cluster, and is asked (R288). -/
def linkFar (s : State) (c : Nat) (w : Nat → Word) : Bool :=
  let nid := bits (w 0) 35 0
  !(idModule nid == s.modId && idCluster nid == clusterOf c)

/-- The link of a descriptor has to wait for that of another BNBR for one of its blocks (R288). DEDUCED, log 27. -/
def linkHeld (s : State) (c : Nat) (xb : Word) (w : Nat → Word) : Bool :=
  let pending (v : Nat) : Bool := linkPending s (clusterOf c) (idEntry v) fun _ _ => true
  pending xb.toNat || (!linkFar s c w && pending (bits (w 0) 35 0))

/-- The load of a descriptor in WAIT has all its data (R286, R288). -/
def descComplete (c n : Nat) (s : State) : Option State :=
  match s.waiting c n with
  | some (.load els (.desc link d a b) stop) =>
    let r := gather s c (s.strand c n).uid els
    match r.2 with
    | none =>
      let w (i : Nat) : Word := BitVec.ofNat 64 ((r.1.map Prod.snd).getD i 0)
      let s1 := markSeen c (s.strand c n).uid els (dropTags (elemTags els) s)
      if link && (linkHeld s c a w || (linkFar s c w && (freeTag s c).isNone)) then none
      else some (if link then linkBlocks c n a b w s1 else defineBlock c n (bits b 8 0) d w s1)
    | some _ => loadEnd c n els (.desc link d a b) stop r.1 r.2 s
  | _ => none

/-- The executing strand reads a descriptor as a plain load (R286). DEDUCED, log 27. -/
def startDesc (link : Bool) (d : BitVec 4) (a b va : Word) (s : State) : State :=
  match descElems s va with
  | .error st => trapHere st s
  | .ok els => waitOr (.load els (.desc link d a b) none) loadResume s

/-- BDEF (R286). -/
def execBdef (d a b p : BitVec 4) (s : State) : Out :=
  issue (.bdef d a b p) (needs [a, b] [d] fun s =>
    let x := s.me.get a
    let i := s.me.get b
    let e := s.block (clusterOf s.cur.1) i.toNat
    if i.toNat > 511 then illValue i s
    else if x = 0 then
      if (e.st = .defined || e.st = .done) && mayName s e.dom then freeBlock d i.toNat s else illValue i s
    else if e.st != .free then illValue i s
    else startDesc false d x i x s) s

/-- BNBR (R288). -/
def execBnbr (a b p : BitVec 4) (s : State) : Out :=
  issue (.bnbr a b p) (needs [a, b] [] fun s =>
    let v := s.me.get a
    match blockOperand s v with
    | none => illValue v s
    | some (k, _) =>
      if k ≠ clusterOf s.cur.1 then illValue v s else startDesc true 0 v (s.me.get b) (s.me.get b) s) s

/-- BRULE (R293). -/
def execBrule (a b p : BitVec 4) (s : State) : Out :=
  issue (.brule a b p) (needs [a, b] [] fun s =>
    let v := s.me.get a
    let w := s.me.get b
    match blockOperand s v with
    | none => illValue v s
    | some (k, i) =>
      let x := s.block k i
      let j := bits w 22 20
      let e := x.edge j
      let r := bits w 17 0
      if bits w 19 18 != 0 || bits w 63 23 != 0 || j > 5 || !(e.used && e.rd) then illValue w s
      else
        match ruleStop r x.step (2 ^ e.nlogs) with
        | some st => trapHere { st with xval := w } s
        | none =>
          if ruleFree e.rule && !ruleFree r && x.st != .defined then
            trapHere ⟨.rule, w, BitVec.ofNat 64 (defaultNeed x.step (2 ^ e.nlogs))⟩ s
          else
            let s1 := s.modBlock k i fun y => y.modEdge j fun z => { z with rule := r }
            if idModule e.nid = s.modId && idCluster e.nid = k then
              advance (settle k (s1.modBlock k (idEntry e.nid) fun y => y.modEdge e.peer fun z =>
                if z.nid == blockId s k i then { z with rfree := ruleFree r } else z))
            else
              enterWait (.confirm [(idModule e.nid, .rfree e.nid e.peer (blockId s k i) (ruleFree r) 0)] [] none none)
                (settle k s1)) s

/-- A message to another Aster under the tag of its request (R370). -/
def tagged (m : Msg) (tag : Nat) : Msg :=
  match m with
  | .linkClear block e from_ _ => .linkClear block e from_ tag
  | .rfree block e from_ free _ => .rfree block e from_ free tag
  | _ => m

/-- A BDEF or BRULE in WAIT sends its next message to another Aster, once a tag is free (R286, R293, R370). -/
def asterResume (c n : Nat) (s : State) : Option State :=
  match s.waiting c n with
  | some (.confirm ((m, x) :: rest) left d free) =>
    if (freeTag s c).isNone then none
    else
      let (t, s1) := s.ask c m (s.strand c n).uid (tagged x)
      some (s1.setState c n (.wait (.confirm rest (left ++ [(t, m)]) d free)))
  | _ => none

/-- LEVEL_SPAN with the two levels compared (R291). DEDUCED, log 27. -/
def levelSpan (x y : Nat) : Stop :=
  ⟨.levelSpan, BitVec.ofNat 64 (x % 2 ^ 32 + y % 2 ^ 32 * 2 ^ 32), 0⟩

/-- A started block sends its levels to every linked neighbour (R294). -/
def notifyAll (k i l lp : Nat) (done : Bool) (s : State) : State :=
  ((s.block k i).edges.toList.filter fun e => e.used).foldl (fun s e => notify k i e l lp done s) s

/-- BSTART (R294). -/
def execBstart (a b p : BitVec 4) (s : State) : Out :=
  issue (.bstart a b p) (needs [a, b] [] fun s =>
    let v := s.me.get a
    let w := s.me.get b
    match blockOperand s v with
    | none => illValue v s
    | some (k, i) =>
      let x := s.block k i
      let d := levelDiff x.endL w.toNat
      if x.st != .defined then illValue v s
      else if bits w 63 32 != 0 || w.toNat % x.step != 0 then illValue w s
      else
        let s1 := noteSpan k [d] s
        if spanHit d then trapHere (levelSpan x.endL w.toNat) s1
        else if d < 0 then illValue w s1
        else
          let done := w.toNat == x.endL
          let s2 := s1.modBlock k i fun y =>
            { y with l := w.toNat, lp := w.toNat, cur := false, st := if done then .done else .idle }
          advance (settle k (notifyAll k i w.toNat w.toNat done s2))) s

/-- The states of an unfinished block (R282). -/
def unfinished : BState → Bool
  | .idle => true
  | .runnable => true
  | .running => true
  | .held => true
  | .frozen => true
  | _ => false

/-- A BNEXT in WAIT whose cluster holds no unfinished block of its domain (R297). -/
def bnextResume (c n : Nat) (s : State) : Option State :=
  match s.waiting c n with
  | some .bnext =>
    let dom := domainOf s (s.strand c n)
    if (s.cluster (clusterOf c)).blocks.any fun (_, b) => some b.dom == dom && unfinished b.st then none
    else some (wake c n (fun x => x.put 1 (BitVec.allOnes 64)) s)
  | _ => none

/-- BNEXT (R297); in a handler it raises ILL_OPERAND (R247). -/
def execBnext (p : BitVec 4) (s : State) : Out :=
  issue (.bnext p) (needs [] (regGroup 1 7) fun s =>
    if inHandler s || s.me.bound.isSome || s.me.far.isSome then illWord (.bnext p) s
    else waitOr .bnext bnextResume (s.modMe fun x => { x with bnext := x.pc })) s

/-- The dispatch value of g7 (R297). -/
def bracketMask (b : Block) : Nat :=
  ((List.range 6).filter fun j => let e := b.edge j; e.used && e.rd && b.l != e.nl && b.l != e.nlp).foldl
    (fun m j => m + 2 ^ j) 0

/-- The registers that a dispatch writes (R297). -/
def dispatchRegs (id : Nat) (b : Block) (x : Strand) : Strand :=
  [BitVec.ofNat 64 id, BitVec.ofNat 64 b.l, BitVec.ofNat 64 b.step, b.slot b.cur, b.slot (!b.cur), b.hb, b.g7].zipIdx.foldl
    (fun x (v, j) => x.put (BitVec.ofNat 4 (j + 1)) v) x

/-- A block comes before another in dispatch (R291, R296). -/
def dispatchBefore (x y : Nat × Block) : Bool :=
  let d := levelDiff x.2.l y.2.l
  if spanHit d then decide (x.1 < y.1)
  else if d != 0 then decide (d < 0)
  else if x.2.logs != y.2.logs then decide (x.2.logs > y.2.logs)
  else decide (x.1 < y.1)

/-- The worker of a domain in cluster k that has waited longest in BNEXT (R296). -/
def workerOf (s : State) (k dom : Nat) : Option (Nat × Nat) :=
  let ws := s.places.filter fun (c, n) =>
    clusterOf c == k && s.waiting c n == some .bnext && domainOf s (s.strand c n) == some dom
  ws.foldl (fun w x =>
    match w with
    | none => some x
    | some y => if waitBefore s x y then some x else some y) none

/-- The RUNNABLE blocks of cluster k that have a worker. -/
def dispatchable (s : State) (k : Nat) : List (Nat × Block) :=
  (s.cluster k).blocks.filter fun (_, b) =>
    b.st == .runnable && !b.spanf && !s.frozenDoms.contains b.dom && (workerOf s k b.dom).isSome

/-- The best of some blocks, with the comparisons of levels that finding it makes (R291, R296). -/
def bestBlock : List (Nat × Block) → Option (Nat × Block) → List Int → Option (Nat × Block) × List Int
  | [], w, ds => (w, ds)
  | x :: xs, none, ds => bestBlock xs (some x) ds
  | x :: xs, some y, ds => bestBlock xs (some (if dispatchBefore x y then x else y)) (ds ++ [levelDiff x.2.l y.2.l])

/-- The best RUNNABLE block of cluster k that has a worker, with the worker, and the comparisons made (R296). -/
def nextDispatch (s : State) (k : Nat) : Option (Nat × Nat × Nat) × List Int :=
  let r := bestBlock (dispatchable s k) none []
  (match r.1 with
   | some (i, b) => (workerOf s k b.dom).map fun (c, n) => (i, c, n)
   | none => none, r.2)

/-- ASTER_DISPATCH (R296, R297). -/
def asterDispatch (k : Nat) (s : State) : Option State :=
  let r := nextDispatch s k
  match r.1 with
  | some (i, c, n) =>
    let mask := bracketMask (s.block k i)
    let interp := mask != 0 && (s.block k i).ipc != 0
    let s1 := (noteMax k r.2 s).modBlock k i fun b =>
      { b with st := .running, phase := !interp, g7 := BitVec.ofNat 64 mask, wrote := [] }
    let b := s1.block k i
    some (s1.modSlot c n fun y =>
      { y with state := .interval (wakeAt s c n)
               strand := { dispatchRegs (blockId s k i) b y.strand with
                 bound := some (k, i), pc := if interp then b.ipc else b.upc } })
  | none => none

/-- ASTER_DISPATCH (R296). -/
def execAsterDispatch (k : Nat) (s : State) : Out :=
  event (asterDispatch k) s

/-- The block to which the executing strand is bound, in a phase. -/
def boundIn (s : State) (phase : Bool) : Option (Nat × Nat) :=
  match s.me.bound with
  | some (k, i) => if (s.block k i).phase == phase then some (k, i) else none
  | none => none

/-- BCOMMIT.C (R299). -/
def execBcommitC (p : BitVec 4) (s : State) : Out :=
  issue (.bcommitC p) (needs [] (regGroup 1 7) fun s =>
    match boundIn s false with
    | none => illWord (.bcommitC p) s
    | some (k, i) =>
      let b := s.block k i
      goOn b.upc ((s.modBlock k i fun y => { y with phase := true }).modMe (dispatchRegs (blockId s k i) b))) s

/-- The face push of a commit by a strand of active queue slot q for edge slot j (R302). DEDUCED, log 28, for its rights. -/
def facePush (q : Option Nat) (k i j : Nat) (b : Block) (s : State) : State :=
  let e := b.edge j
  let bit := b.l / 2 ^ b.logs % 2
  let (cid, s1) := s.fresh
  let x : Command :=
    { cid := cid, core := 16 * k, uid := 0, q := q, rights := b.rights, fill := none, sync := none, moved := false,
      dst := e.dst + BitVec.ofNat 64 (64 * e.nhsz * bit), src := b.slot b.cur + BitVec.ofNat 64 e.soff, len := e.flen,
      off := 0, started := false, since := 0, status := none, ring := none,
      face := some ⟨i, j, e.nid, e.peer, b.l, b.lp, b.st == .done, b.defn, b.dom⟩ }
  (modQ k 6 (· ++ [.cmd x]) s1).modBlock k i fun y => { y with pushes := y.pushes + 1 }

/-- The atomic step of a commit by a strand of active queue slot q (R300). -/
def commitBlock (q : Option Nat) (k i : Nat) (s : State) : State :=
  let s1 := s.modBlock k i fun b =>
    let l := (b.l + b.step) % 2 ^ 32
    { b with cur := !b.cur, lp := b.l, l := l, phase := false, wrote := [],
             st := if l = b.endL then .done else if s.frozenDoms.contains b.dom then .frozen else .idle }
  let b := s1.block k i
  settle k ((List.range 6).foldl (fun s j =>
    let e := b.edge j
    if !e.used then s
    else if e.wr then facePush q k i j b s
    else notify k i e b.l b.lp (b.st == .done) s) s1)

/-- The first comparison of a commit that reaches the span limit (R300). -/
def commitSpan (b : Block) : Option Nat :=
  (b.edges.toList.filter fun e => e.used && e.nv).findSome? fun e =>
    if spanHit (levelDiff (b.l + b.step) e.nl) then some e.nl else none

/-- A BCOMMIT in WAIT whose strand's earlier accesses are performed (R300). -/
def bcommitResume (c n : Nat) (s : State) : Option State :=
  match s.waiting c n, (s.strand c n).bound with
  | some .bcommit, some (k, i) =>
    if !quiet s c (s.strand c n).uid then none
    else
      let b := s.block k i
      let s1 := noteSpan k ((b.edges.toList.filter fun e => e.used && e.nv).map fun e => levelDiff (b.l + b.step) e.nl) s
      match commitSpan b with
      | some nl => some (trapWait c n (levelSpan (b.l + b.step) nl) s1)
      | none =>
        some ((commitBlock (s.strand c n).queue k i s1).modSlot c n fun y =>
          { y with state := .interval (wakeAt s c n)
                   strand := { y.strand with bound := none, pc := y.strand.bnext + 4 } })
  | _, _ => none

/-- BCOMMIT (R300). -/
def execBcommit (p : BitVec 4) (s : State) : Out :=
  issue (.bcommit p) (fun s =>
    match boundIn s true with
    | none => illWord (.bcommit p) s
    | some _ => waitOr .bcommit bcommitResume s) s

/-- An earlier notification of the same link is still on its way. -/
def levelAhead (n block j from_ : Nat) (s : State) : Bool :=
  (s.flight.take n).any fun m => match m with
    | .level b e f _ _ _ => b == block && e == j && f == from_
    | _ => false

/-- LEVEL_NOTIFICATION (R301): message n reaches its edge slot, in the order of the commits. -/
def levelArrives (n : Nat) (s : State) : Option State :=
  match s.msg n with
  | some (.level block j from_ l lp done) =>
    if levelAhead n block j from_ s then none else
    let s1 := takeMsg n s
    match blockAt s block with
    | some (k, i) =>
      let b := s.block k i
      let e := b.edge j
      if e.used && e.nid == from_ then
        let d := levelDiff l b.l
        some (settle k ((noteSpan k [d] s1).modBlock k i fun y =>
          { y.modEdge j (fun z => { z with nl := l, nlp := lp, nv := true, ndone := done }) with
            spanf := y.spanf || spanHit d }))
      else some s1
    | none => some s1
  | _ => none

/-- LEVEL_NOTIFICATION (R301). -/
def execLevelNotification (n : Nat) (s : State) : Out :=
  event (levelArrives n) s

/-- The block of a face push, when it has not been freed since, is updated (R292). -/
def modPusher (k : Nat) (f : FacePush) (g : Block → Block) (s : State) : State :=
  if (s.block k f.entry).defn = f.defn then s.modBlock k f.entry g else s

/-- A face push leaves the face queue and no longer reads its block's state slot (R292, R303). -/
def endPush (k : Nat) (f : FacePush) (s : State) : State :=
  modPusher k f (fun b => { b with pushes := b.pushes - 1 }) (modQ k 6 (·.drop 1) s)

/-- FACE_PUSH_COMPLETE (R302): the reader is notified. -/
def pushComplete (k : Nat) (s : State) : Option State :=
  match headCmd s k 6 with
  | some x =>
    match x.face with
    | some f =>
      if x.started && decide (x.len ≤ x.off) && settled true s x.cid then
        some (settle k (sendTo (idModule f.nid) (.level f.nid f.peer (blockId s k f.entry) f.l f.lp f.done)
          (endPush k f s)))
      else none
    | none => none
  | none => none

/-- FACE_PUSH_COMPLETE (R302). -/
def execFacePushComplete (k : Nat) (s : State) : Out :=
  event (pushComplete k) s

/-- FACE_PUSH_FAULT (R303): a byte of the push fails; its notification is withheld. -/
def pushFault (k : Nat) (side : RemoteSide) (s : State) : Option State :=
  match runChunk k 6 side s with
  | some (x, s1, some (at_, c, dst)) =>
    match x.face with
    | some f =>
      some (settle k (modPusher k f (fun b =>
        { b.modEdge f.edge (fun e =>
            if e.used && e.nid == f.nid then { e with pfc := causeCode c, pfa := failAddr x at_ dst } else e) with
          pushf := true }) (endPush k f (passTurn k 6 s s1))))
    | none => none
  | _ => none

/-- FACE_PUSH_FAULT (R303). -/
def execFacePushFault (k : Nat) (side : RemoteSide) (s : State) : Out :=
  event (pushFault k side) s

/-- A slot of an entry names a block (R288). -/
def namesBlock (x : Block) (id : Nat) : Bool :=
  x.edges.any fun e => e.used && e.nid == id

/-- Half of a link of an entry waits for a BNBR of that entry which is for the same slot or the same block and whose own block has
the lower ID: of two BNBRs that cross, that one goes first (R288). DEDUCED, log 27. -/
def linkCrosses (s : State) (k i e : Nat) (h : HalfLink) : Bool :=
  decide (blockId s k i < h.nid) && linkPending s k i fun e' half => e' == e || half.nid == h.nid

/-- ASTER_LINK_INSTALL (R288): message n installs half of a link, or is refused; a copy is discarded (R370). -/
def linkArrives (n : Nat) (s : State) : Option State :=
  match s.msg n with
  | some (.linkInstall block e h w) =>
    let s1 := takeMsg n s
    let k := idCluster block
    let i := idEntry block
    let m := idModule h.nid
    let back (x : Msg) (s : State) : State := sendTo m x (notePerformed m (sendNo w) s)
    if wasPerformed s m (sendNo w) then some s1
    else if linkCrosses s k i e h then none
    else
      match (if namesBlock (s.block k i) h.nid then some ⟨.illOperand, h.xb, 0⟩ else halfStop s k i e h : Option Stop) with
      | some st => some (back (.linkRefused w s.modId st) s1)
      | none =>
        let o := s.block k i
        some (back (.linked w s.modId h.nid o.logs o.hsz (o.halo e)) (putEdge k i e h s1))
  | _ => none

/-- ASTER_LINK_INSTALL (R288). -/
def execAsterLinkInstall (n : Nat) (s : State) : Out :=
  event (linkArrives n) s

/-- What a message of the Aster of a block under a tag does is confirmed to it, where it asks for that; a copy of one has no effect
(R286, R293, R370). -/
def confirmTo (s : State) (from_ tag : Nat) (dropped done : State) : State :=
  let m := idModule from_
  if tag = 0 then done
  else if wasPerformed s m (sendNo tag) then dropped
  else sendTo m (.confirm tag s.modId) (notePerformed m (sendNo tag) done)

/-- ASTER_LINK_CLEAR (R286): message n clears USED in the slot that names the freed block. -/
def clearArrives (n : Nat) (s : State) : Option State :=
  match s.msg n with
  | some (.linkClear block e from_ w) =>
    let k := idCluster block
    let s1 := (takeMsg n s).modBlock k (idEntry block) fun b => b.modEdge e fun y =>
      if y.nid == from_ then { y with used := false } else y
    some (confirmTo s from_ w (takeMsg n s) (settle k s1))
  | _ => none

/-- ASTER_LINK_CLEAR (R286). -/
def execAsterLinkClear (n : Nat) (s : State) : Out :=
  event (clearArrives n) s

/-- ASTER_RFREE_UPDATE (R293): message n gives a slot its new RFREE. -/
def rfreeArrives (n : Nat) (s : State) : Option State :=
  match s.msg n with
  | some (.rfree block e from_ free w) =>
    let k := idCluster block
    let s1 := (takeMsg n s).modBlock k (idEntry block) fun b => b.modEdge e fun y =>
      if y.used && y.nid == from_ then { y with rfree := free } else y
    some (confirmTo s from_ w (takeMsg n s) (settle k s1))
  | _ => none

/-- ASTER_RFREE_UPDATE (R293). -/
def execAsterRfreeUpdate (n : Nat) (s : State) : Out :=
  event (rfreeArrives n) s

/-- The slot whose operation waits for the answer under a tag. -/
def waiterOf (s : State) (w : Nat) : Option (Nat × Nat × WaitOp) :=
  s.places.findSome? fun (c, n) =>
    match s.waiting c n with
    | some (.confirm t l d f) => if l.any (·.1 == w) then some (c, n, .confirm t l d f) else none
    | some (.link w' b e x f) => if w' = w then some (c, n, .link w' b e x f) else none
    | _ => none

/-- The confirmation under a tag reaches a BDEF or BRULE (R286, R293). -/
def confirmed (c n w : Nat) (todo : List (Nat × Msg)) (left : List (Nat × Nat)) (d : Option (BitVec 4)) (free : Option Nat)
    (s : State) : State :=
  let k := clusterOf c
  let rest := left.filter (·.1 != w)
  if todo ≠ [] ∨ rest ≠ [] then s.setState c n (.wait (.confirm todo rest d free))
  else
    let s1 := match free with
      | some i => settle k (s.modBlock k i fun _ => Block.reset)
      | none => s
    wake c n (fun x => match d with
      | some r => x.put r 0
      | none => x) s1

/-- The other half of a link that BNBR asked for stands: the own half is installed beside it, and a block that has been started
since sends its levels. One that has been freed, perhaps defined anew, or linked there or to that block, since is not linked: the other
half is cleared (R288, R294). DEDUCED, log 27. -/
def linkStands (c n f b e : Nat) (half : Edge) (s : State) : State :=
  let k := clusterOf c
  let x := s.block k b
  let id := blockId s k b
  if x.st = .free ∨ x.defn ≠ f ∨ (x.edge e).used = true ∨ namesBlock x half.nid = true then
    trapWait c n ⟨.illOperand, BitVec.ofNat 64 id, 0⟩ (sendTo (idModule half.nid) (.linkClear half.nid half.peer id 0) s)
  else
    let s1 := s.modBlock k b fun y => y.modEdge e fun _ => half
    wake c n (fun y => y) (if x.st = .defined then s1 else settle k (notify k b half x.l x.lp (x.st == .done) s1))

/-- ASTER_CONFIRM (R286): message n is the answer of another Aster to a waiting instruction; a late one is discarded and counted
(R370). -/
def confirmArrives (n : Nat) (s : State) : Option State :=
  let s1 (w : Nat) : State := (takeMsg n s).answered w
  let late : State := countDiscard (takeMsg n s)
  match s.msg n with
  | some (.confirm w _) =>
    match waiterOf s w with
    | some (c, m, .confirm todo left d free) => some (confirmed c m w todo left d free (s1 w))
    | _ => some late
  | some (.linked w _ _ nlogs nhsz dst) =>
    match waiterOf s w with
    | some (c, m, .link _ b e half f) => some (linkStands c m f b e { half with nlogs := nlogs, nhsz := nhsz, dst := dst } (s1 w))
    | _ => some late
  | some (.linkRefused w _ st) =>
    match waiterOf s w with
    | some (c, m, _) => some (trapWait c m st (s1 w))
    | none => some late
  | _ => none

/-- ASTER_CONFIRM (R286). -/
def execAsterConfirm (n : Nat) (s : State) : Out :=
  event (confirmArrives n) s

end Sys2Proof.Machine
end

