-- ==== Sys2Proof/Machine/Freeze.lean ====
section
/-! DEFINITION. The time-front table: reading it, abandoning updates, freezing and thawing domains (R283, R305-R311). -/

namespace Sys2Proof.Machine

/-- The code of a state (R282). -/
def stateCode : BState → Nat
  | .free => 0
  | .defined => 1
  | .idle => 2
  | .runnable => 3
  | .running => 4
  | .held => 5
  | .frozen => 6
  | .done => 7

/-- The level word of BLVL (R310). -/
def levelWord (b : Block) : Word :=
  BitVec.ofNat 64 (b.l + b.logs * 2 ^ 32 + stateCode b.st * 2 ^ 40 + b2n b.spanf * 2 ^ 45 + b2n b.pushf * 2 ^ 46)

/-- BLVL (R310). DEDUCED, log 8: it completes at issue. -/
def execBlvl (d a p : BitVec 4) (s : State) : Out :=
  issue (.blvl d a p) (needs [a] [d] fun s =>
    let v := s.me.get a
    match blockOperand s v with
    | none => illValue v s
    | some (k, i) => setG d (levelWord (s.block k i)) s) s

/-- BFRZ.B (R305). -/
def execBfrzB (p : BitVec 4) (s : State) : Out :=
  issue (.bfrzB p) (fun s =>
    match s.me.bound with
    | none => illWord (.bfrzB p) s
    | some (k, i) =>
      let held := (s.block k i).st == .held
      let x := s.me
      let s1 := (abandonEntry k i x.uid s.cur.1 s).modMe (redirect held false)
      settle k (if held then advance s1 else goOn x.bnext s1)) s

/-- A domain operand (R284). -/
def domainOperand (s : State) (v : Word) : Option Nat :=
  if bits v 63 16 = 0 && mayName s (bits v 15 0) then some (bits v 15 0) else none

/-- A freeze of a domain begins (R306). -/
def startFreeze (dom : Nat) (s : State) : State :=
  let stop (b : Block) : Block :=
    if b.dom == dom && (b.st == .idle || b.st == .runnable) then { b with st := .frozen } else b
  { s with
    clusters := s.clusters.map fun (k, x) => (k, { x with blocks := x.blocks.map fun (i, b) => (i, stop b) })
    frozenDoms := s.frozenDoms ++ [dom]
    freezes := s.freezes ++ [⟨dom, s.cyc, [], 0⟩] }

/-- The freeze of a domain that is in progress. -/
def freezeOf (s : State) (dom : Nat) : Option Freeze :=
  s.freezes.find? fun f => f.dom == dom

/-- BFRZ.D (R309). -/
def execBfrzD (d a p : BitVec 4) (s : State) : Out :=
  issue (.bfrzD d a p) (needs [a] [d] fun s =>
    let v := s.me.get a
    match domainOperand s v with
    | none => illValue v s
    | some dom =>
      if (freezeOf s dom).isSome then enterWait (.bfrzD dom d) s
      else if s.frozenDoms.contains dom then setG d 0 s
      else enterWait (.bfrzD dom d) (startFreeze dom s)) s

/-- A domain thaws (R309). -/
def thaw (dom : Nat) (s : State) : State :=
  let go (b : Block) : Block := if b.dom == dom && b.st == .frozen then { b with st := .idle } else b
  let s1 : State :=
    { s with
      clusters := s.clusters.map fun (k, x) => (k, { x with blocks := x.blocks.map fun (i, b) => (i, go b) })
      frozenDoms := s.frozenDoms.filter fun d => d != dom }
  s1.clusters.foldl (fun s (k, _) => settle k s) s1

/-- BTHAW (R309). DEDUCED, log 8: it completes at issue. -/
def execBthaw (a p : BitVec 4) (s : State) : Out :=
  issue (.bthaw a p) (needs [a] [] fun s =>
    let v := s.me.get a
    match domainOperand s v with
    | none => illValue v s
    | some dom => advance (thaw dom s)) s

/-- The eight doublewords of an edge slot (R283). -/
def edgeImage (e : Edge) : List Nat :=
  [e.nid + e.peer * 2 ^ 36 + b2n e.rd * 2 ^ 40 + b2n e.wr * 2 ^ 41 + b2n e.used * 2 ^ 42 + b2n e.nv * 2 ^ 43 +
     b2n e.ndone * 2 ^ 44 + b2n e.rfree * 2 ^ 45 + e.nlogs * 2 ^ 48,
   e.rule, e.nl + e.nlp * 2 ^ 32, e.soff + e.flen * 2 ^ 32, e.dst.toNat, e.pfc, e.pfa.toNat, 0]

/-- The 64 doublewords of an entry's image, padded with zeros (R283). -/
def blockImage (id : Nat) (b : Block) : List Nat :=
  let run := b.st == .running || b.st == .held
  [b.l + b.lp * 2 ^ 32,
   b.endL + b.logs * 2 ^ 32 + stateCode b.st * 2 ^ 40 + b2n b.cur * 2 ^ 44 + b2n b.spanf * 2 ^ 45 +
     b2n b.pushf * 2 ^ 46 + b2n (run && b.phase) * 2 ^ 47 + b.dom * 2 ^ 48,
   b.upc.toNat, b.ipc.toNat, b.slot0.toNat, b.slot1.toNat, b.hb.toNat, id + b.ssz * 2 ^ 36 + b.hsz * 2 ^ 52] ++
  b.edges.toList.flatMap edgeImage ++ List.replicate 8 0

/-- The images of every block of a domain, in ascending block ID (R311). -/
def domainImages (s : State) (dom : Nat) : List (List Nat) :=
  s.clusters.flatMap fun (k, x) =>
    (x.blocks.filter fun (_, b) => b.st != .free && b.dom == dom).map fun (i, b) => blockImage (blockId s k i) b

/-- The store entries of images from the m-th on, up to the first that fails a check; its trap holds the count (R311). -/
def imageStores (s : State) (va : Word) : Nat → List (List Nat) → List SbEntry × Option Stop
  | _, [] => ([], none)
  | m, ws :: rest =>
    let a := va + BitVec.ofNat 64 (512 * m)
    match placeElems s (fun _ => .store none) 8 ((List.range 64).map fun i => (i, a + BitVec.ofNat 64 (8 * i))) with
    | (_, some (_, st)) => ([], some { st with xaux := st.xaux ||| BitVec.ofNat 64 m })
    | (xs, none) =>
      let r := imageStores s va (m + 1) rest
      (xs.map (fun (i, b, q) => sbEntry s .plain b q.loc 8 (ws.getD i 0)) ++ r.1, r.2)

/-- BFRONT (R311). -/
def execBfront (d a b p : BitVec 4) (s : State) : Out :=
  issue (.bfront d a b p) (needs [a, b] [d] fun s =>
    let va := s.me.get a
    let v := s.me.get b
    match domainOperand s v with
    | none => illValue v s
    | some dom =>
      if va.toNat % 64 ≠ 0 then trapHere ⟨.align, va, 0⟩ s
      else
        let images := domainImages s dom
        let r := imageStores s va 0 images
        startStore r.1 (.front d images.length va) r.2 s) s

/-- The strand bound to a block has issued its BCOMMIT (R306). -/
def committing (s : State) (k i : Nat) : Bool :=
  match boundTo s k i with
  | some (_, some (c, n)) => s.waiting c n == some .bcommit
  | _ => false

/-- The updates of a domain in cluster k that are abandoned when its drain expires (R306). -/
def toAbandon (s : State) (k dom : Nat) : List Nat :=
  ((s.cluster k).blocks.filter fun (i, b) =>
    b.dom == dom && (b.st == .running || b.st == .held) && !committing s k i).map Prod.fst

/-- FREEZE_DRAIN_EXPIRY (R306): FDRAIN cycles of a freeze have passed in cluster k. The blocks of a domain that has thawed since are
IDLE, and R292 is evaluated. -/
def drainExpiry (dom k : Nat) (s : State) : Option State :=
  match freezeOf s dom with
  | some f =>
    if f.expired.contains k || decide (s.cyc < f.since + (s.cluster k).fdrain) then none
    else
      let gone := toAbandon s k dom
      let s1 := settle k (gone.foldl (fun s i => abandon k i s) s)
      some { s1 with freezes := s1.freezes.map fun g =>
        if g.dom = dom then { g with expired := g.expired ++ [k], abandoned := g.abandoned + gone.length } else g }
  | none => none

/-- FREEZE_DRAIN_EXPIRY (R306). -/
def execFreezeDrainExpiry (dom k : Nat) (s : State) : Out :=
  event (drainExpiry dom k) s

/-- The clusters that hold a block of a domain. -/
def domainClusters (s : State) (dom : Nat) : List Nat :=
  (s.clusters.filter fun (_, x) => x.blocks.any fun (_, b) => b.st != .free && b.dom == dom).map Prod.fst

/-- Every update, push and notification of a domain in a cluster is done (R306). -/
def domainQuiet (s : State) (k dom : Nat) : Bool :=
  (s.cluster k).blocks.all fun (_, b) => b.dom != dom || (b.pushes == 0 && b.st != .running && b.st != .held)

/-- A push of a domain's commits stands in a face queue (R306). -/
def pushQueued (s : State) (dom : Nat) : Bool :=
  s.clusters.any fun (_, x) => x.faceQ.any fun i => match i with
    | .cmd y => match y.face with
      | some f => f.dom == dom
      | none => false
    | _ => false

/-- The strands whose BFRZ.D waits for a domain, with their registers. -/
def freezeWaiters (s : State) (dom : Nat) : List (Nat × Nat × BitVec 4) :=
  s.places.filterMap fun (c, n) =>
    match s.waiting c n with
    | some (.bfrzD e d) => if e = dom then some (c, n, d) else none
    | _ => none

/-- FREEZE_COMPLETE (R306, R309). -/
def freezeComplete (dom : Nat) (s : State) : Option State :=
  match freezeOf s dom with
  | some f =>
    if !pushQueued s dom && (domainClusters s dom).all fun k => f.expired.contains k && domainQuiet s k dom then
      some ((freezeWaiters s dom).foldl
        (fun s (c, n, d) => wake c n (fun x => x.put d (BitVec.ofNat 64 f.abandoned)) s)
        { s with freezes := s.freezes.filter fun g => g.dom != dom })
    else none
  | none => none

/-- FREEZE_COMPLETE (R306). -/
def execFreezeComplete (dom : Nat) (s : State) : Out :=
  event (freezeComplete dom) s

end Sys2Proof.Machine
end

