-- ==== Sys2Proof/Machine/Counters.lean ====
section
/-! DEFINITION. Sync words, barrier counters and digests (R327-R338). -/

namespace Sys2Proof.Machine

/-- The fields of a counter designator (R331). -/
def barIndex (w : Word) : Nat := bits w 5 0
def barModule (w : Word) : Bool := bitAt w 8
def barWlim (w : Word) : Nat := bits w 20 16

/-- A designator that breaks R331; wlim says that WLIM may be set. -/
def barBad (wlim : Bool) (w : Word) : Bool :=
  bits w 7 6 != 0 || bits w 15 9 != 0 || bits w 63 21 != 0 || (!wlim && barWlim w != 0) ||
  (barModule w && decide (barIndex w > 15))

/-- A barrier counter of the module, or of cluster k. -/
def barOf (s : State) (k : Nat) (module : Bool) (i : Nat) : Barrier :=
  if module then tabGet Barrier.reset s.bars i else tabGet Barrier.reset (s.cluster k).bars i

/-- Sets that counter. -/
def putBar (k : Nat) (module : Bool) (i : Nat) (b : Barrier) (s : State) : State :=
  if module then { s with bars := tabSet s.bars i b } else s.modCluster k fun x => { x with bars := tabSet x.bars i b }

/-- BARI (R333). DEDUCED, log 8: it completes at issue. -/
def execBari (a b p : BitVec 4) (s : State) : Out :=
  issue (.bari a b p) (needs [a, b] [] fun s =>
    let w := s.me.get a
    let n := s.me.get b
    let k := clusterOf s.cur.1
    if barBad false w then illValue w s
    else if n.toNat = 0 || n.toNat > 131071 then illValue n s
    else
      let old := barOf s k (barModule w) (barIndex w)
      advance (putBar k (barModule w) (barIndex w) ⟨n.toNat, 0, old.gen⟩ s)) s

/-- An arrival at a counter (R334). -/
def arrive (b : Barrier) : Barrier :=
  if b.arrived + 1 = b.count then { b with arrived := 0, gen := (b.gen + 1) % 2 ^ 32 }
  else { b with arrived := (b.arrived + 1) % 2 ^ 17 }

/-- A BARV in WAIT whose strand's earlier accesses are performed (R334): at the end of a cycle, by core and then by slot. -/
def barvResume (c n : Nat) (s : State) : Option State :=
  match s.waiting c n with
  | some (.barv d i module) =>
    if quiet s c (s.strand c n).uid then
      let k := clusterOf c
      let b := barOf s k module i
      some (wake c n (fun x => x.put d (BitVec.ofNat 64 b.gen)) (putBar k module i (arrive b) s))
    else none
  | _ => none

/-- BARV (R334): it arrives at the end of a cycle, with the others of that cycle. -/
def execBarv (d a p : BitVec 4) (s : State) : Out :=
  issue (.barv d a p) (needs [a] [d] fun s =>
    let w := s.me.get a
    if barBad false w || (barOf s (clusterOf s.cur.1) (barModule w) (barIndex w)).count = 0 then illValue w s
    else enterWait (.barv d (barIndex w) (barModule w)) s) s

/-- The generation of a counter passes g (R335). -/
def genPasses (b : Barrier) (g : Nat) : Bool :=
  decide (0 < levelDiff b.gen g)

/-- A BARW in WAIT whose generation has passed (R335). -/
def barwResume (c n : Nat) (s : State) : Option State :=
  match s.waiting c n with
  | some (.barw i module g _ _) =>
    if genPasses (barOf s (clusterOf c) module i) g then some (wake c n id s) else none
  | _ => none

/-- BARW (R335); in a handler it raises ILL_OPERAND (R247). -/
def execBarw (a b p : BitVec 4) (s : State) : Out :=
  issue (.barw a b p) (needs [a, b] [] fun s =>
    let w := s.me.get a
    let g := bits (s.me.get b) 31 0
    let x := barOf s (clusterOf s.cur.1) (barModule w) (barIndex w)
    if inHandler s then illWord (.barw a b p) s
    else if barBad true w || x.count = 0 then illValue w s
    else if genPasses x g then advance s
    else
      enterWait (.barw (barIndex w) (barModule w) g
        (if barWlim w = 0 then none else some (s.cyc + 2 ^ barWlim w)) w) s) s

/-- A BARV that can arrive at a counter in this cycle has not yet (R334). -/
def arrivesYet (s : State) (k : Nat) (module : Bool) (i : Nat) : Bool :=
  s.places.any fun (c, n) =>
    match s.waiting c n with
    | some (.barv _ j m) => j == i && m == module && (m || clusterOf c == k) && quiet s c (s.strand c n).uid
    | _ => false

/-- BARW_WAIT_LIMIT (R335): the limit expires and the generation has not passed, nor will it in this cycle. -/
def barwLimit (c n : Nat) (s : State) : Option State :=
  match s.waiting c n with
  | some (.barw i module g (some t) w) =>
    let x := barOf s (clusterOf c) module i
    if t ≤ s.cyc && !genPasses x g && !arrivesYet s (clusterOf c) module i then
      some (trapWait c n ⟨.queueWaitLimit, w, BitVec.ofNat 64 (x.gen + x.arrived * 2 ^ 32)⟩ s)
    else none
  | _ => none

/-- BARW_WAIT_LIMIT (R335). -/
def execBarwWaitLimit (c n : Nat) (s : State) : Out :=
  event (barwLimit c n) s

/-- A SYNCI in WAIT whose strand's stores have left the buffer (R330). -/
def synciResume (c n : Nat) (s : State) : Option State :=
  match s.waiting c n with
  | some (.synci va pa target b) =>
    if drained s c (s.strand c n).uid then
      match checkRange s c (s.strand c n).rights (.store none) va 32 with
      | some st => some (trapWait c n st s)
      | none =>
        let lo := s.read pa 8 / 2 ^ 48
        let hi := s.read (pa + 8) 8 / 2 ^ 48
        some (wake c n id (foldItem c n va 0x78 b
          (perform pa (leBytes 8 (lo * 2 ^ 48) ++ leBytes 8 (target + hi * 2 ^ 48) ++ leBytes 16 0) s)))
    else none
  | _ => none

/-- SYNCI (R330). -/
def execSynci (a b p : BitVec 4) (s : State) : Out :=
  issue (.synci a b p) (needs [a, b] [] fun s =>
    let va := s.me.get a
    let t := s.me.get b
    match syncAddr s va with
    | none => illValue va s
    | some pa =>
      if bits t 63 48 != 0 then illValue t s
      else
        match checkRange s s.cur.1 s.me.rights (.store none) va 32 with
        | some st => trapHere st s
        | none => waitOr (.synci va pa (bits t 47 0) t) synciResume s) s

/-- DIGEST (R338). -/
def execDigest (d p : BitVec 4) (s : State) : Out :=
  issue (.digest d p) (needs [] [d] fun s =>
    setG d ((s.core s.cur.1).digests[s.cur.2]?.getD 0) s) s

end Sys2Proof.Machine
end

