-- ==== Sys2Proof/Machine/Csr.lean ====
section
/-! DEFINITION. The status and control registers and their four instructions (R139-R149). Every earlier floating-point
operation of a strand has completed when its next instruction issues, so the wait of R56 always ends at once. -/

namespace Sys2Proof.Machine

/-- SST (R146). -/
def sstOf (x : Strand) : Word :=
  BitVec.ofNat 64 (x.ridx.toNat + b2n x.viu * 2 ^ 4 + b2n x.spl * 2 ^ 5 + x.enz * 2 ^ 8 + b2n x.mode * 2 ^ 16)

/-- TURN of DMODE: the turn counter modulo 9, 0 in normal mode (R24, R148). -/
def turnOf (s : State) (k : Core) : Nat :=
  if k.det then (s.cyc - k.turnZero.getD s.cyc) % 9 else 0

/-- The value of a CSR as the strand in slot n of core c reads it (R139, R144-R149). -/
def csrRead (s : State) (c n : Nat) (num : Nat) : Word :=
  let x := s.strand c n
  let k := s.core c
  let cl := s.cluster (clusterOf c)
  match num with
  | 0x001 => x.fpc.setWidth 64
  | 0x002 => x.fps.setWidth 64
  | 0x010 => sstOf x
  | 0x011 => sidOf c n x
  | 0x012 => x.ctxw.setWidth 64
  | 0x013 => x.stdom.setWidth 64
  | 0x014 => x.icnt
  | 0x020 => x.xpc
  | 0x021 => x.xcause
  | 0x022 => x.xval
  | 0x023 => x.xaux
  | 0x030 => k.tvec.setWidth 64 <<< 2
  | 0x031 => k.splim.setWidth 64
  | 0x032 => (k.weights[x.q]?.getD 0).setWidth 64
  | 0x033 => BitVec.ofNat 64 (b2n k.det + turnOf s k * 2 ^ 8)
  | 0x040 => BitVec.ofNat 64 cl.fdrain
  | 0x041 => BitVec.ofNat 64 (cl.spanMax + b2n cl.spanHit * 2 ^ 31)
  | 0x050 => BitVec.ofNat 64 (s.seedA.toNat + s.seedB.toNat * 2 ^ 16 + b2n s.run * 2 ^ 32 + b2n s.mism * 2 ^ 33)
  | 0xC00 => BitVec.ofNat 64 s.cyc
  | _ => 0

/-- The values that R142 refuses. -/
def csrRefused (num : Nat) (v : Word) : Bool :=
  match num with
  | 0x001 => decide (bits v 2 0 ≥ 5)
  | 0x012 => !(bits v 4 0 == 8 || bits v 4 0 == 16)
  | 0x031 => decide (bits v 8 0 > 288)
  | 0x050 => bits v 15 0 == bits v 31 16
  | _ => false

/-- A write to SST: RIDX, VIU and SPL; a VIU of 0 zeroes v0–v7 and k1–k3 (R105, R146). -/
def writeSst (v : Word) (x : Strand) : Strand :=
  let y := { x with ridx := v.setWidth 4, viu := bitAt v 4, spl := bitAt v 5 }
  if bitAt v 4 then y
  else { y with v := Vector.replicate 8 0, k := Strand.reset.k }

/-- Writes a CSR: its named, writable bits take the value (R140), which every agent sees from then on, where R143 lets it see
the old one for some cycles. DEDUCED, log 32, for XCAUSE; DESIGN CHOICE, log 57. -/
def csrWrite (num : Nat) (v : Word) (s : State) : State :=
  let c := s.cur.1
  match num with
  | 0x001 => s.modMe fun x => { x with fpc := v.setWidth 11 &&& 0x737 }
  | 0x002 => s.modMe fun x => { x with fps := v.setWidth 6 }
  | 0x010 => s.modMe (writeSst v)
  | 0x012 => s.modMe fun x => { x with ctxw := v.setWidth 5 }
  | 0x013 => s.modMe fun x => { x with stdom := v.setWidth 2 }
  | 0x014 => s.modMe fun x => { x with icnt := v }
  | 0x020 => s.modMe fun x => { x with xpc := v }
  | 0x021 => s.modMe fun x => { x with xcause := v &&& BitVec.ofNat 64 0x80000000000000FF }
  | 0x022 => s.modMe fun x => { x with xval := v }
  | 0x023 => s.modMe fun x => { x with xaux := v }
  | 0x030 => s.modCore c fun k => { k with tvec := (v >>> 2).setWidth 62 }
  | 0x031 => s.modCore c fun k => { k with splim := v.setWidth 9 }
  | 0x032 => s.modCore c fun k => { k with weights := k.weights.setIfInBounds s.me.q (v.setWidth 8) }
  | 0x040 => s.modCluster (clusterOf c) fun k => { k with fdrain := bits v 31 0 }
  | 0x041 => s.modCluster (clusterOf c) fun k => { k with spanMax := bits v 29 0, spanHit := bitAt v 31 }
  | 0x050 => { s with seedA := v.setWidth 16, seedB := (v >>> 16).setWidth 16 }
  | _ => s

/-- The end of a CSR write: gd takes the old value; the issue is not counted when ICNT itself is written (R149). -/
def csrDone (num : Nat) (d : BitVec 4) (old : Word) (s : State) : State :=
  if num = 0x014 then s.modMe fun x => { x.put d old with pc := x.pc + 4 } else setG d old s

/-- CSRW, CSRS and CSRC, with the new value as a function of the old one and the source (R141). XVAL of a trap of R142 is the whole
new value: DESIGN CHOICE, log 64. -/
def csrUpdate (d a : BitVec 4) (c : BitVec 12) (f : Word → Word → Word) : State → State :=
  needs [a] [d] fun s =>
    let num := c.toNat
    let old := csrRead s s.cur.1 s.cur.2 num
    let new := f old (s.me.get a)
    if csrRefused num new then trapHere ⟨.illOperand, new, 0⟩ s
    else csrDone num d old (csrWrite num new s)

/-- CSRR (R141). -/
def execCsrr (d : BitVec 4) (c : BitVec 12) (p : BitVec 4) (s : State) : Out :=
  issue (.csrr d c p) (needs [] [d] fun s => setG d (csrRead s s.cur.1 s.cur.2 c.toNat) s) s

/-- CSRW (R141). -/
def execCsrw (d a : BitVec 4) (c : BitVec 12) (p : BitVec 4) (s : State) : Out :=
  issue (.csrw d a c p) (csrUpdate d a c fun _ x => x) s

/-- CSRS (R141). -/
def execCsrs (d a : BitVec 4) (c : BitVec 12) (p : BitVec 4) (s : State) : Out :=
  issue (.csrs d a c p) (csrUpdate d a c fun old x => old ||| x) s

/-- CSRC (R141). -/
def execCsrc (d a : BitVec 4) (c : BitVec 12) (p : BitVec 4) (s : State) : Out :=
  issue (.csrc d a c p) (csrUpdate d a c fun old x => old &&& ~~~x) s

end Sys2Proof.Machine
end

