-- ==== Sys2Proof/Machine/Tasks.lean ====
section
/-! DEFINITION. Task deques: SPAWN, JOIN, TEND, inline records and steals (R234-R242). -/

namespace Sys2Proof.Machine

/-- The address of overflow entry j of a core's deque (R234). -/
def overflowAt (c j : Nat) : Nat := lsAddr c (0x800 + 64 * j)

/-- A task record as its 64 bytes, and back (R234). -/
def taskWords (r : TaskRec) : List Word := r.pc :: r.g.toList ++ [r.frame]
def wordsTask (w : Nat → Word) : TaskRec :=
  { pc := w 0, g := Vector.ofFn fun i => w (i.val + 1), frame := w 7 }

/-- n bytes of its local store as core c reads them: its own stores that wait, its store buffer, and memory (R163, R164). -/
def ownRead (s : State) (c a n : Nat) : Nat :=
  let k := s.core c
  leNat ((List.range n).map fun i => (sbByte (k.sb ++ k.spill) (.here (a + i))).getD (memByte s.mem (a + i)))

/-- The record that stands in a core's local store at an address. -/
def taskAt (s : State) (c a : Nat) : TaskRec :=
  wordsTask fun i => BitVec.ofNat 64 (ownRead s c (a + 8 * i) 8)

/-- A core's deque, oldest entry first; the entries older than the 32 youngest stand in the overflow area (R234). -/
def loadDeque (s : State) (c : Nat) : List DequeEntry :=
  let d := (s.core c).deque
  d.zipIdx.map fun (e, j) => if j + 32 < d.length then { e with task := taskAt s c (overflowAt c j) } else e

/-- The plain stores of the core that write an overflow record (R235). -/
def recordStores (s : State) (c j : Nat) (r : TaskRec) : List SbEntry :=
  (taskWords r).zipIdx.map fun (w, i) =>
    let a := overflowAt c j + 8 * i
    ⟨0, .plain, BitVec.ofNat 64 (s.modId * 2 ^ 47 + a), .here a, 8, w.toNat, s.cyc, s.cyc, 0, none, []⟩

/-- Stores of the core itself enter its buffer while there is room (R162). -/
def spillIn (c : Nat) (s : State) : State :=
  s.modCore c fun k =>
    let n := 32 - k.sb.length
    { k with sb := k.sb ++ (k.spill.take n).map (fun e => { e with since := s.cyc }), spill := k.spill.drop n }

/-- Stores of the core itself that wait take the entries that have freed. -/
def spillNext (c : Nat) (s : State) : Option State :=
  let k := s.core c
  if k.spill.isEmpty || decide (32 ≤ k.sb.length) then none else some (spillIn c s)

/-- Overflow entries are written where they have changed (R234, R235). -/
def spillFrom (c : Nat) : List (DequeEntry × Nat) → State → State
  | [], s => s
  | (e, j) :: xs, s =>
    spillFrom c xs (if taskAt s c (overflowAt c j) = e.task then s
      else s.modCore c fun k => { k with spill := k.spill ++ recordStores s c j e.task })

/-- Sets a core's deque. -/
def storeDeque (c : Nat) (d : List DequeEntry) (s : State) : State :=
  spillIn c (spillFrom c (d.zipIdx.take (d.length - 32)) (s.modCore c fun k => { k with deque := d }))

/-- Pushes a record at the bottom of a core's deque. -/
def pushTask (c : Nat) (r : TaskRec) (s : State) : State :=
  storeDeque c (loadDeque s c ++ [⟨r, none⟩]) s

/-- Takes the bottom entry that is not LENT. -/
def popBottom (d : List DequeEntry) : Option (TaskRec × List DequeEntry) :=
  match d.reverse.findIdx? fun e => e.lent.isNone with
  | some i => d.reverse[i]?.map fun e => (e.task, (d.reverse.eraseIdx i).reverse)
  | none => none

/-- The strand in a slot resumes a record; inline says that it lay on its stack (R238). -/
def resumeTask (c n : Nat) (r : TaskRec) (inline : Bool) (s : State) : State :=
  wakeTo c n r.pc (fun x =>
    let x1 := r.g.toList.zipIdx.foldl (fun x (v, i) => x.put (BitVec.ofNat 4 (i + 1)) v) x
    let x2 := (x1.put 7 r.frame).put 15 0
    if inline then x2.put 14 (x2.get 14 + 64) else x2) s

/-- The frame counter changes by delta (R236). -/
def addFrame (pa delta : Nat) (s : State) : State :=
  perform pa (leBytes 8 ((s.read pa 8 + delta) % 2 ^ 64)) s

/-- The frame counter at pa changes by delta for the strand in a slot, in its turn at the line, and then f happens (R218,
R236). DEDUCED, log 50. -/
def frameTurn (c n pa delta : Nat) (f : State → State) (s : State) : Option State :=
  let r := takeTurn c n pa s
  if r.1 then some (f (shoot (s.strand c n).uid pa 8 r.2 (addFrame pa delta r.2))) else if r.2.amoQ = s.amoQ then none else some r.2

/-- −1 as a 64-bit number. -/
def minusOne : Nat := 2 ^ 64 - 1

/-- The addresses of the doublewords of an inline record. -/
def recordElems (a : Word) : List (Nat × Word) :=
  (List.range 8).map fun i => (i, a + BitVec.ofNat 64 (8 * i))

/-- The record that a SPAWN of the strand leaves (R237). -/
def spawnRecord (x : Strand) (f : Word) : TaskRec :=
  { pc := x.pc + 4, g := Vector.ofFn fun i => x.get (BitVec.ofNat 4 (i.val + 1)), frame := f }

/-- The stores of an inline record, or the first fault (R237). -/
def inlineStores (s : State) (c : Nat) (x : Strand) (f : Word) : List SbEntry × Option Stop :=
  let ws := taskWords (spawnRecord x f)
  let r := placeAll s c x.rights (fun _ => .store none) 8 (recordElems (x.get 14 - 56))
  (r.1.map fun (i, va, q) => entryOf s x va q.loc 8 (ws.getD i 0).toNat, r.2.map Prod.snd)

/-- A SPAWN whose frame has been incremented (R237). -/
def spawnDone (c n : Nat) (f target : Word) (inline : Bool) (s : State) : State :=
  let x := s.strand c n
  if inline then
    let s1 := s.setState c n (.wait (.storeRoom (inlineStores s c x f).1 (.spawn target) none false))
    (storeResume c n s1).getD s1
  else wakeTo c n target (fun y => y.put 15 0) (pushTask c (spawnRecord x f) s)

/-- The place of a frame counter, checked again when it is accessed (R154, R236, R317, R361). -/
def frameAgain (s : State) (c n : Nat) (f : Word) : Except Stop Loc :=
  match checkAgain s c n .frame f 8 with
  | .error st => .error st
  | .ok p =>
    match p.loc with
    | .here pa => if poisoned s pa 8 then .error ⟨.poison, f, 0⟩ else .ok p.loc
    | .there _ _ => .ok p.loc

/-- The request for a frame counter of another module, once a tag is free (R236, R370). -/
def askFrame (c m : Nat) (req : RemoteReq) (f : Word) (x : Strand) (g : State → State) (s : State) : Option State :=
  if (freeTag s c).isNone then none else some (g (sendAccess c m req x.uid f x.pc false [] s).2)

/-- A SPAWN in WAIT: its frame access follows every earlier access of the strand (R236, R237). -/
def spawnResume (c n : Nat) (s : State) : Option State :=
  let x := s.strand c n
  match s.waiting c n with
  | some (.spawn f _ target none) =>
    if !quiet s c x.uid then none
    else
      let inline := decide ((s.core c).splim.toNat ≤ (s.core c).deque.length)
      if inline && x.isClipped 14 then some (trapWait c n ⟨.contextClipped, 14, 0⟩ (dropTurn c n s))
      else
        match (if inline then (inlineStores s c x f).2 else none), frameAgain s c n f with
        | some st, _ => some (trapWait c n st (dropTurn c n s))
        | none, .error st => some (trapWait c n st (dropTurn c n s))
        | none, .ok (.here pa) => frameTurn c n pa 1 (spawnDone c n f target inline) s
        | none, .ok (.there m la) =>
          askFrame c m ⟨la, 8, .amo 0 1 0, x.q, x.uid⟩ f x (fun t => t.setState c n (.wait (.spawn f (.there m la) target (some inline)))) s
  | some (.spawn f _ target (some inline)) =>
    match loadTag s x.uid with
    | some tag =>
      match answerTo s tag with
      | some (.ok _) => some (spawnDone c n f target inline (dropTags [tag] s))
      | some (.stop st) => some (trapWait c n st (dropTags [tag] s))
      | _ => none
    | none => none
  | _ => none

/-- SPAWN (R237); in a handler it raises ILL_OPERAND (R247). -/
def execSpawn (a : BitVec 4) (i : BitVec 12) (p : BitVec 4) (s : State) : Out :=
  issue (.spawn a i p) (needs (a :: regGroup 1 6) [14, 15] fun s =>
    if inHandler s then illWord (.spawn a i p) s
    else
      let f := s.me.get a
      match checkAccess s s.cur.1 s.me.rights .frame f 8 with
      | .error st => trapHere st s
      | .ok q => waitOr (.spawn f q.loc (branchTarget s.me.pc (i.signExtend 64)) none) spawnResume s) s

/-- A JOIN in WAIT whose frame counter reads 0 (R239). -/
def joinResume (c n : Nat) (s : State) : Option State :=
  let x := s.strand c n
  match s.waiting c n with
  | some (.join f _) =>
    match loadTag s x.uid with
    | some tag =>
      match answerTo s tag with
      | some (.ok v) => some (let s1 := dropTags [tag] s; if v = 0 then wake c n id s1 else s1)
      | some (.stop st) => some (trapWait c n st (dropTags [tag] s))
      | _ => none
    | none =>
      match checkAgain s c n .frame f 8 with
      | .error st => some (trapWait c n st s)
      | .ok p =>
        match p.loc with
        | .here _ =>
          let e : Elem := ⟨0, f, p.loc, 8, false, none, 0, 0⟩
          match loadElem s c x.uid e with
          | .wait => none
          | .val v => if v = 0 then some (wake c n id (markSeen c x.uid [e] s)) else none
          | .poison => some (trapWait c n ⟨.poison, f, 0⟩ s)
        | .there m la => if drained s c x.uid then askFrame c m ⟨la, 8, .frame, x.q, x.uid⟩ f x (fun t => t) s else none
  | _ => none

/-- JOIN (R239); in a handler it raises ILL_OPERAND (R247). -/
def execJoin (a p : BitVec 4) (s : State) : Out :=
  issue (.join a p) (needs [a] [] fun s =>
    if inHandler s then illWord (.join a p) s
    else
      let f := s.me.get a
      match checkAccess s s.cur.1 s.me.rights .frame f 8 with
      | .error st => trapHere st s
      | .ok q => waitOr (.join f q.loc) joinResume s) s

/-- The idle strands of a core, of the launches whose pre-emption has not reached it (R240, R242). -/
def idleStrands (s : State) (c : Nat) : List Nat :=
  (List.range 8).filter fun n => s.waiting c n == some .idle && !(s.core c).preempted.any (s.strand c n).isOf

/-- A strand of a core becomes idle; where no other is, a search for a task begins after the last victim that yielded one
(R240). -/
def beginSearch (c : Nat) (s : State) : State :=
  if idleStrands s c = [] then s.modCore c fun k => { k with stealCursor := none } else s

/-- A strand that finds no task becomes idle and releases its lease (R123, R238). DEDUCED, log 30. -/
def becomeIdle (c n : Nat) (s : State) : State :=
  (releaseLease c n (beginSearch c s)).modSlot c n fun x => { x with state := .wait .idle, waitAt := s.cyc }

/-- The record that a strand would take from the bottom of its core's deque has a PC that no strand can hold (R63, R238).
-/
def badBottom (s : State) (c : Nat) : Option Word :=
  match popBottom (loadDeque s c) with
  | some (r, _) => if bits r.pc 1 0 ≠ 0 then some r.pc else none
  | none => none

/-- The strand in a slot takes the bottom record of its core's deque that is not LENT, when there is one; a record with a
PC that no strand can hold stays, and the strand traps (R63, R238). DEDUCED, log 30. -/
def takeTask (c n : Nat) (s : State) : Option State :=
  match badBottom s c with
  | some pc => some (trapWait c n ⟨.align, pc, 0⟩ s)
  | none => (popBottom (loadDeque s c)).map fun (r, d) => resumeTask c n r false (storeDeque c d s)

/-- The inline record of a TEND in WAIT has been read: the frame is next, if it is not yet decremented (R238). -/
def recordComplete (c n : Nat) (s : State) : Option State :=
  match s.waiting c n with
  | some (.load els (.record f) stop) =>
    let r := gather s c (s.strand c n).uid els
    match r.2 with
    | none =>
      let t := wordsTask fun i => BitVec.ofNat 64 ((r.1.map Prod.snd).getD i 0)
      let s1 := markSeen c (s.strand c n).uid els (dropTags (elemTags els) s)
      if bits t.pc 1 0 ≠ 0 then some (trapWait c n ⟨.align, t.pc, 0⟩ s1)
      else
        match f with
        | none => some (resumeTask c n t true s1)
        | some _ => some (s1.setState c n (.wait (.tend f (some els) false)))
    | some _ => loadEnd c n els (.record f) stop r.1 r.2 s
  | _ => none

/-- A TEND whose frame has been decremented reads its inline record, takes a task or becomes idle (R238). -/
def tendDone (c n : Nat) (record : Option (List Elem)) (s : State) : State :=
  match record with
  | some els =>
    let again := els.map fun e => { e with val := none, tag := 0 }
    let s1 := s.setState c n (.wait (.load again (.record none) none))
    if again.all (elemAtOnce s c (s.strand c n).uid) then (recordComplete c n s1).getD s1 else (loadResume c n s1).getD s1
  | none => (takeTask c n s).getD (becomeIdle c n s)

/-- A TEND in WAIT: its frame access follows every earlier access of the strand (R236, R238). -/
def tendResume (c n : Nat) (s : State) : Option State :=
  let x := s.strand c n
  match s.waiting c n with
  | some (.tend none task _) => some (tendDone c n task s)
  | some (.tend (some (f, _)) task false) =>
    if !quiet s c x.uid then none
    else
      match (if task.isNone then badBottom s c else none), frameAgain s c n f with
      | some pc, _ => some (trapWait c n ⟨.align, pc, 0⟩ (dropTurn c n s))
      | none, .error st => some (trapWait c n st (dropTurn c n s))
      | none, .ok (.here pa) => frameTurn c n pa minusOne (tendDone c n task) s
      | none, .ok (.there m la) =>
        askFrame c m ⟨la, 8, .amo 0 (BitVec.ofNat 64 minusOne) 0, x.q, x.uid⟩ f x
          (fun t => t.setState c n (.wait (.tend (some (f, .there m la)) task true))) s
  | some (.tend (some _) task true) =>
    match loadTag s x.uid with
    | some tag =>
      match answerTo s tag with
      | some (.ok _) => some (tendDone c n task (dropTags [tag] s))
      | some (.stop st) => some (trapWait c n st (dropTags [tag] s))
      | _ => none
    | none => none
  | _ => none

/-- A handler of the service slot ends (R247). -/
def endHandler (s : State) : State :=
  leaveSlot s.cur.1 s.cur.2 s

/-- The effect of a TEND whose frame has passed its checks (R238). -/
def tendBody (f : Option (Word × Loc)) (s : State) : State :=
  let c := s.cur.1
  let n := s.cur.2
  let x := s.me
  if x.get 15 = 1 then
    match (if x.isClipped 14 then .error ⟨.contextClipped, 14, 0⟩ else
        match placeElems s (fun _ => .load) 8 (recordElems (x.get 14 + 8)) with
        | (_, some (_, st)) => .error st
        | (xs, none) => .ok xs : Except Stop (List (Nat × Word × Place))) with
    | .error st => trapHere st s
    | .ok xs =>
      let els := xs.map fun (i, a, q) => (⟨i, a, q.loc, 8, q.ord, none, 0, 0⟩ : Elem)
      let s1 := enterWait (.load els (.record f) none) s
      if els.all (elemAtOnce s c x.uid) then
        let s2 := (recordComplete c n s1).getD s1
        (tendResume c n s2).getD s2
      else (loadResume c n s1).getD s1
  else waitOr (.tend f none false) tendResume s

/-- TEND (R238); in the service slot it ends the handler (R247). -/
def execTend (a p : BitVec 4) (s : State) : Out :=
  issue (.tend a p) (fun s =>
    if inHandler s then (if a = 0 then endHandler s else illWord (.tend a p) s)
    else
      needs [a, 15] (regGroup 1 7 ++ [14]) (fun s =>
        if a = 0 then tendBody none s
        else
          let f := s.me.get a
          match checkAccess s s.cur.1 s.me.rights .frame f 8 with
          | .error st => trapHere st s
          | .ok q => tendBody (some (f, q.loc)) s) s) s

/-- The strand of a core that became idle first, of those that can take a task (R240). -/
def firstIdle (s : State) (c : Nat) : Option Nat :=
  (idleStrands s c).foldl (fun w n =>
    match w with
    | none => some n
    | some m => if waitBefore s (c, n) (c, m) then some n else some m) none

/-- A core lies in the steal domain of a strand of another (R240). -/
def inStealDomain (dom : BitVec 2) (c v : Nat) : Bool :=
  v != c && (if dom = 0 then false
    else if dom = 1 then clusterOf v == clusterOf c
    else if dom = 2 then dieOf (clusterOf v) == dieOf (clusterOf c)
    else true)

/-- The victims of a strand of core c: the cores of its core set in its steal domain (R240). -/
def victimsOf (c : Nat) (x : Strand) : List Nat :=
  let set := x.set.getD (0, 0)
  ((List.range set.2).map (set.1 + ·)).filter (inStealDomain x.stdom c)

/-- The next victim of any idle strand of core c, ascending and wrapping round: after the last one tried, at first after the
last that yielded a record, or after the core itself (R240). -/
def nextVictim (s : State) (c : Nat) : Option Nat :=
  let k := s.core c
  let vs := (idleStrands s c).flatMap fun n => victimsOf c (s.strand c n)
  let at_ := k.stealCursor.getD (k.lastVictim.getD c)
  (vs.filter fun v => decide (at_ < v)).min? <|> vs.min?

/-- The first idle strand of a core takes the bottom entry of the own deque, or the core asks a victim (R240). DEDUCED,
log 30. -/
def idleResume (c n : Nat) (s : State) : Option State :=
  let k := s.core c
  if s.waiting c n ≠ some .idle || firstIdle s c ≠ some n then none
  else
    match takeTask c n s with
    | some t => some t
    | none =>
      if k.det || k.steal.isSome || decide (s.cyc ≤ k.stealAt) then none
      else
        match nextVictim s c with
        | some v =>
          let (t, s1) := s.fresh
          some (sendTo s.modId (.stealRequest c v)
            (s1.modCore c fun k => { k with steal := some (v, t), stealAt := s.cyc }))
        | none => none

/-- A victim lends its topmost entry that is not LENT (R241, R242). -/
def lend (v : Nat) (tag : Nat) (s : State) : Option (TaskRec × State) :=
  let k := s.core v
  if k.det || !k.preempted.isEmpty then none
  else
    let d := loadDeque s v
    match d.findIdx? fun e => e.lent.isNone with
    | some i =>
      d[i]?.map fun e => (e.task, storeDeque v (d.set i { e with lent := some (tag, s.cyc) }) s)
    | none => none

/-- STEAL_REQUEST (R241): message n reaches its victim. -/
def stealRequested (n : Nat) (s : State) : Option State :=
  match s.msg n with
  | some (.stealRequest c v) =>
    let (tag, s0) := (takeMsg n s).fresh
    let s1 := match (s.core v).gating with
      | .gating _ _ _ => s0.modCore v (·.woken s.cyc)
      | _ => s0
    match lend v tag s1 with
    | some (r, s2) => some (sendTo s.modId (.stealRecord c v tag r) s2)
    | none => some (sendTo s.modId (.stealEmpty c v) s1)
  | _ => none

/-- STEAL_REQUEST (R241). -/
def execStealRequest (n : Nat) (s : State) : Out :=
  event (stealRequested n) s

/-- The steal of a core ends without a record; the next victim is tried (R241). -/
def stealFailed (c v : Nat) (s : State) : State :=
  s.modCore c fun k => { k with steal := none, stolen := none, stealCursor := some v }

/-- STEAL_RECORD (R241, R242): message n reaches the thief, which keeps the record and answers ACK, or VOID when the strand that awaited the
record has been pre-empted. -/
def stealRecordArrives (n : Nat) (s : State) : Option State :=
  match s.msg n with
  | some (.stealRecord c v tag r) =>
    let s1 := takeMsg n s
    if (firstIdle s c).isNone && !(s.core c).preempted.isEmpty then
      some (sendTo s.modId (.stealReject c v tag) (stealFailed c v s1))
    else some (sendTo s.modId (.stealAck c v tag) (s1.modCore c fun k => { k with stolen := some r }))
  | _ => none

/-- STEAL_RECORD (R241). -/
def execStealRecord (n : Nat) (s : State) : Out :=
  event (stealRecordArrives n) s

/-- STEAL_EMPTY (R241). -/
def stealEmptyArrives (n : Nat) (s : State) : Option State :=
  match s.msg n with
  | some (.stealEmpty c v) => some (stealFailed c v (takeMsg n s))
  | _ => none

/-- STEAL_EMPTY (R241). -/
def execStealEmpty (n : Nat) (s : State) : Out :=
  event (stealEmptyArrives n) s

/-- STEAL_ACK (R241): message n reaches the victim. -/
def stealAcked (n : Nat) (s : State) : Option State :=
  match s.msg n with
  | some (.stealAck c v tag) =>
    let s1 := takeMsg n s
    let d := loadDeque s1 v
    match d.findIdx? fun e => e.lent.map Prod.fst == some tag with
    | some i => some (sendTo s.modId (.stealConfirm c v) (storeDeque v (d.eraseIdx i) s1))
    | none => some (sendTo s.modId (.stealVoid c v) s1)
  | _ => none

/-- STEAL_ACK (R241). -/
def execStealAck (n : Nat) (s : State) : Out :=
  event (stealAcked n) s

/-- A confirmed record goes to the first idle strand, or to the own deque (R242). -/
def takeStolen (c : Nat) (r : TaskRec) (s : State) : State :=
  match firstIdle s c with
  | some m =>
    if bits r.pc 1 0 = 0 then resumeTask c m r false s else trapWait c m ⟨.align, r.pc, 0⟩ (pushTask c r s)
  | none => pushTask c r s

/-- STEAL_CONFIRM (R241, R242): message n confirms the record that the thief has been sent. -/
def stealConfirmed (n : Nat) (s : State) : Option State :=
  match s.msg n with
  | some (.stealConfirm c v) =>
    let s1 := (takeMsg n s).modCore c fun k =>
      { k with steal := none, stolen := none, lastVictim := some v, stealCursor := none }
    some (match (s.core c).stolen with
      | some r => takeStolen c r s1
      | none => s1)
  | _ => none

/-- STEAL_CONFIRM (R242). -/
def execStealConfirm (n : Nat) (s : State) : Out :=
  event (stealConfirmed n) s

/-- STEAL_VOID (R241, R242): of a victim, to the thief; of a thief, whose record is an ordinary entry of the victim again. -/
def stealVoided (n : Nat) (s : State) : Option State :=
  match s.msg n with
  | some (.stealVoid c v) => some (stealFailed c v (takeMsg n s))
  | some (.stealReject _ v tag) =>
    some ((takeMsg n s).modCore v fun k =>
      { k with deque := k.deque.map fun e => if e.lent.map Prod.fst == some tag then { e with lent := none } else e })
  | _ => none

/-- STEAL_VOID (R241). -/
def execStealVoid (n : Nat) (s : State) : Out :=
  event (stealVoided n) s

/-- An entry has been LENT for 4,096 cycles (R241). -/
def lentTooLong (s : State) (e : DequeEntry) : Bool :=
  match e.lent with
  | some (_, t) => decide (t + 4096 ≤ s.cyc)
  | none => false

/-- LENT_TIMEOUT (R241): entries of a core lose their mark. -/
def lentTimeout (c : Nat) (s : State) : Option State :=
  if (s.core c).deque.any (lentTooLong s) then
    some (s.modCore c fun k =>
      { k with deque := k.deque.map fun e => if lentTooLong s e then { e with lent := none } else e })
  else none

/-- LENT_TIMEOUT (R241). -/
def execLentTimeout (c : Nat) (s : State) : Out :=
  event (lentTimeout c) s

/-- LOAD_COMPLETE (R156): the data of a load in WAIT have arrived. -/
def loadArrives (c n : Nat) (s : State) : Option State :=
  match s.waiting c n with
  | some (.load _ (.desc _ _ _ _) _) => descComplete c n s
  | some (.load _ (.quant _) _) => quantComplete c n s
  | some (.load _ (.record _) _) => recordComplete c n s
  | _ => loadComplete c n s

/-- LOAD_COMPLETE (R156). -/
def execLoadComplete (c n : Nat) (s : State) : Out :=
  event (loadArrives c n) s

end Sys2Proof.Machine
end

