-- ==== Sys2Proof/Machine/Sends.lean ====
section
/-! DEFINITION. Messages between strands: SEND, SEND.SVC, RECV, the receive and service queues, and handlers
(R243-R250). -/

namespace Sys2Proof.Machine

/-- Fields of a destination word (R243). -/
def destCore (w : Word) : Nat := bits w 13 0
def destRreg (w : Word) : BitVec 4 := (w >>> 32).setWidth 4
def destModule (s : State) (w : Word) : Nat :=
  if bits w 62 46 = 0x1FFFF then s.modId else bits w 62 46
def destTok (w : Word) : Bool := bitAt w 63

/-- The trap of a destination word that names no core, or one that the executing strand may not name (R243, R244). -/
def destStop (s : State) (rreg : Bool) (w : Word) : Option Stop :=
  let c := destCore w
  if bits w 31 14 != 0 || bits w 45 36 != 0 || destTok w || (!rreg && destRreg w != 0) || decide (c ≥ Config.cores) then
    some ⟨.illOperand, w, 0⟩
  else
    let may :=
      if destModule s w = s.modId then
        s.me.mode || match s.me.set with
          | some set => inSet set c
          | none => false
      else inDomain s (destModule s w)
    if may then none else some ⟨.prot, w, 0⟩

/-- The words of an entry: the values of n registers from d on, and zeros (R246). -/
def entryWords (x : Strand) (d : BitVec 4) (n : Nat) : Vector Word 4 :=
  Vector.ofFn fun i => if i.val < n then x.get (regPlus d i.val) else 0

/-- The register that a send refills when it places nothing (R246). -/
def unsend (op : SendOp) (x : Strand) : Strand := refillReg op.reply x

/-- The message of a send of a strand of core c to another module, under its tag (R246, R370). -/
def sendMessage (s : State) (c : Nat) (op : SendOp) (t : Nat) : Msg :=
  let sender : Word := BitVec.ofNat 64 (c + s.modId * 2 ^ 46)
  if destTok op.dest then .reply s.modId t op.dest op.words[0]
  else if op.svc then .svcEntry (destCore op.dest) s.modId t op.words op.handler op.token sender op.q
  else .recvEntry (destCore op.dest) s.modId t op.words

/-- A send in WAIT to another module goes there once the strand's accesses are performed (R246); one to a module removed since
its issue raises PROT (R374). -/
def sendResume (c n : Nat) (s : State) : Option State :=
  let x := s.strand c n
  match s.waiting c n with
  | some (.send op d) =>
    let m := destModule s op.dest
    if op.held.isSome || !quiet s c x.uid || m = s.modId || (destTok op.dest && !inDomain s m) then none
    else if !inDomain s m then some (trapWait c n ⟨.prot, op.dest, 0⟩ (s.modStrand c n (unsend op)))
    else if (freeTag s c).isNone then none
    else
      let (t, s1) := s.ask c m x.uid (sendMessage s c op)
      some (s1.setState c n (.wait (.send { op with held := some t } d)))
  | _ => none

/-- SEND (R246). -/
def execSend (d a : BitVec 4) (n : BitVec 2) (p : BitVec 4) (s : State) : Out :=
  let k := n.toNat + 1
  issue (.send d a n p) (needs (a :: regGroup d k) [] fun s =>
    let x := s.me
    let w := x.get a
    let op : SendOp :=
      { svc := false, dest := w, words := entryWords x d k, handler := 0, reply := 0, token := 0, rights := x.set,
        sup := x.mode, q := x.q, held := none }
    if destTok w then
      if k ≠ 1 || bits w 45 36 != 0 then illValue w s else waitOr (.send op 0) sendResume s
    else
      match destStop s false w with
      | some st => trapHere st s
      | none => waitOr (.send op 0) sendResume s) s

/-- A fresh token for a register of this module's strand (R246). -/
def makeToken (s : State) (r : BitVec 4) : Word × State :=
  let (t, s1) := s.fresh
  (BitVec.ofNat 64 ((Config.strandTag t).toNat + r.toNat * 2 ^ 32 + s.modId * 2 ^ 46 + 2 ^ 63), s1)

/-- SEND.SVC (R246). -/
def execSendSvc (d a b : BitVec 4) (n : BitVec 2) (p : BitVec 4) (s : State) : Out :=
  let k := n.toNat + 1
  issue (.sendSvc d a b n p) (needs (a :: b :: regGroup d k) [] fun s =>
    let x := s.me
    let w := x.get a
    let pc := x.get b
    let r := destRreg w
    match destStop s true w with
    | some st => trapHere st s
    | none =>
      if bits pc 1 0 ≠ 0 then trapHere ⟨.align, pc, 0⟩ s
      else if x.isEmpty r then park [r] s
      else
        let (token, s1) := if r = 0 then ((0 : Word), s) else makeToken s r
        let op : SendOp :=
          { svc := true, dest := w, words := entryWords x d k, handler := pc, reply := r, token := token,
            rights := x.set, sup := x.mode, q := x.q, held := none }
        waitOr (.send op r) sendResume (s1.modMe fun y =>
          if r = 0 then y else { emptyReg r y with tok := y.tok.set r.toNat token r.isLt })) s

/-- An entry of another module for a service queue. -/
def isSvcEntry : Msg → Bool
  | .svcEntry _ _ _ _ _ _ _ _ => true
  | _ => false

/-- The entry of a send with a serial number of another module. -/
def isEntryOf (from_ send : Nat) : Msg → Bool
  | .recvEntry _ f t _ => f == from_ && t == send
  | .svcEntry _ f t _ _ _ _ _ => f == from_ && t == send
  | _ => false

/-- The places of a queue that are taken, those kept for entries of other modules among them (R246, R247). -/
def queueLoad (k : Core) (svc : Bool) : Nat :=
  (if svc then k.svcQ.length else k.recvQ.length) + (k.claims.filter fun m => isSvcEntry m == svc).length

/-- The queue of a core has room (R246, R247). -/
def queueRoom (s : State) (svc : Bool) (c : Nat) : Bool :=
  decide (queueLoad (s.core c) svc < 16)

/-- An MWAIT of a core to whose receive queue an entry comes (R228). -/
def seesEntry (x : SlotState) : SlotState :=
  match x with
  | .wait (.mwait d limit _ p) => .wait (.mwait d limit true p)
  | _ => x

/-- An entry enters the receive queue of a core (R246, R228). -/
def enterReceive (core : Nat) (words : Vector Word 4) (s : State) : State :=
  s.modCore core fun k =>
    { k with recvQ := k.recvQ ++ [words], slots := k.slots.map fun x => { x with state := seesEntry x.state } }

/-- The entry of a send on this module (R247). -/
def placeEntry (from_ : Nat) (op : SendOp) (s : State) : State :=
  if op.svc then
    s.modCore (destCore op.dest) fun k =>
      { k with svcQ := k.svcQ ++ [.message op.words op.handler op.token (BitVec.ofNat 64 (from_ + s.modId * 2 ^ 46)) op.sup
          op.rights op.q] }
  else enterReceive (destCore op.dest) op.words s

/-- The sends held for a queue of this module, with their places and the order in which they were held (R246). -/
def heldSends (s : State) (svc : Bool) (core : Nat) : List (Nat × Nat × Nat) :=
  s.places.filterMap fun (c, n) =>
    match s.waiting c n with
    | some (.send op _) =>
      if op.svc == svc && !destTok op.dest && destModule s op.dest == s.modId && destCore op.dest == core then
        op.held.map fun t => (c, n, t)
      else none
    | _ => none

/-- The orders of the entries of other modules that are held for a queue (R246). -/
def farOrders (s : State) (svc : Bool) (core : Nat) : List Nat :=
  (s.farHeld.filter fun x => x.svc == svc && x.core == core &&
    s.flight.any fun m => entryKey m == some (x.from_, x.key)).map FarHeld.order

/-- No entry is held for a queue. -/
def nobodyHeld (s : State) (svc : Bool) (core : Nat) : Bool :=
  (heldSends s svc core).isEmpty && (farOrders s svc core).isEmpty

/-- The entry held under an order is the first of those held for a queue (R246). -/
def firstHeld (s : State) (svc : Bool) (core t : Nat) : Bool :=
  (heldSends s svc core).all (fun x => decide (t ≤ x.2.2)) && (farOrders s svc core).all fun u => decide (t ≤ u)

/-- A request of another module finds no room and is held, in order, under a number of that module for a queue of a core; the
module of a send or reservation is told so, under the tag (R246, R253). DESIGN CHOICE, log 16. -/
def holdFar (svc : Bool) (core from_ key : Nat) (tag : Option Nat) (s : State) : State :=
  let (t, s1) := s.fresh
  let s2 : State := { s1 with farHeld := s1.farHeld ++ [⟨t, from_, key, svc, core⟩] }
  match tag with
  | some x => sendOut from_ (.noted x) s2
  | none => s2

/-- The tag of a send of another module. -/
def sendTag : Msg → Option Nat
  | .recvEntry _ _ t _ => some t
  | .svcEntry _ _ t _ _ _ _ _ => some t
  | _ => none

/-- An entry of another module enters its queue, by f, when there is room and none is held before it; else it is held itself
(R246). -/
def enterFar (svc : Bool) (core : Nat) (m : Msg) (f : State → State) (s : State) : Option State :=
  match entryKey m with
  | none => none
  | some (from_, key) =>
    match s.farHeld.find? fun x => x.from_ == from_ && x.key == key with
    | some x =>
      if queueRoom s svc core && firstHeld s svc core x.order then some (f { s with farHeld := s.farHeld.erase x }) else none
    | none =>
      if queueRoom s svc core && nobodyHeld s svc core then some (f s)
      else some (holdFar svc core from_ key (sendTag m) s)

/-- The entry of a send in WAIT reaches the queue that it names: it is accepted, or held while the queue is full
(R246). -/
def entryArrives (svc : Bool) (c n : Nat) (s : State) : Option State :=
  match s.waiting c n with
  | some (.send op d) =>
    let t := destCore op.dest
    if op.svc != svc || op.held.isSome || destTok op.dest || destModule s op.dest != s.modId ||
        !quiet s c (s.strand c n).uid then none
    else if queueRoom s svc t && nobodyHeld s svc t then some (wake c n id (placeEntry c op s))
    else
      let (o, s1) := s.fresh
      some (s1.setState c n (.wait (.send { op with held := some o } d)))
  | _ => none

/-- Another module withdraws a send: an entry of it that still waits here is dropped, or the place kept for it (R246). -/
def unsendArrives (from_ send : Nat) (s : State) : State :=
  { s with
    flight := s.flight.filter fun m => !isEntryOf from_ send m
    farHeld := s.farHeld.filter fun x => !(x.from_ == from_ && x.key == sendNo send)
    cores := s.cores.map fun (c, k) => (c, { k with claims := k.claims.filter fun m => !isEntryOf from_ send m }) }

/-- Message n, an entry of another module: a place is kept for it once its queue has room, and its sender is told so; the entry
takes the place once that module confirms the send (R246; DESIGN CHOICE, log 31). A copy is discarded (R370). -/
def claimPlace (svc : Bool) (core from_ send n : Nat) (m : Msg) (s : State) : Option State :=
  if wasPerformed s from_ (sendNo send) then some (takeMsg n s)
  else if core < Config.cores then
    enterFar svc core m (fun s => sendOut from_ (.sendAccepted send) (notePerformed from_ (sendNo send)
      ((takeMsg n s).modCore core fun k => { k with claims := k.claims ++ [m] }))) s
  else none

/-- An entry of another module takes the place kept for it (R246, R247). -/
def takeClaim (m : Msg) (s : State) : State :=
  match m with
  | .recvEntry core _ _ words => enterReceive core words s
  | .svcEntry core _ _ words handler token sender q =>
    s.modCore core fun k => { k with svcQ := k.svcQ ++ [.message words handler token sender false none q] }
  | _ => s

/-- Message n, the confirmation of a send by its module (R246). -/
def sendConfirmed (n : Nat) (s : State) : Option State :=
  match s.msg n with
  | some (.sendConfirm core from_ send) =>
    let s1 := takeMsg n s
    some (match (s.core core).claims.find? (isEntryOf from_ send) with
      | some m => takeClaim m (s1.modCore core fun k => { k with claims := k.claims.erase m })
      | none => s1)
  | _ => none

/-- RECEIVE_QUEUE_ENTRY (R246): the entry of a sender of this module, or of a message of another. -/
def receiveEntry (src : Source) (s : State) : Option State :=
  match src with
  | .slot c n => entryArrives false c n s
  | .flight n =>
    match s.msg n with
    | some (.recvEntry core from_ send words) =>
      claimPlace false core from_ send n (.recvEntry core from_ send words) s
    | some (.unsend from_ send) => some (unsendArrives from_ send (takeMsg n s))
    | some (.sendConfirm _ _ _) => sendConfirmed n s
    | _ => none

/-- RECEIVE_QUEUE_ENTRY (R246). -/
def execReceiveQueueEntry (src : Source) (s : State) : Out :=
  event (receiveEntry src) s

/-- The core set of the launch of an active queue slot that contains a core (R247). -/
def launchSet (s : State) (q core : Nat) : Option (Nat × Nat) :=
  match s.launch q with
  | some l => if inSet (l.first, l.ncores) core then some (l.first, l.ncores) else none
  | none => none

/-- An earlier access of a strand of another module has not been performed at another core (R161, R395). -/
def accessOpen (s : State) (core m strand : Nat) : Bool :=
  s.cores.any fun (d, k) => d != core &&
    ((k.svcQ.any fun e => match e with
      | .access f _ r => f == m && r.strand == strand
      | .message _ _ _ _ _ _ _ => false) ||
    k.sb.any fun e => match e.ack with
      | some (f, _, u) => f == m && u == strand
      | none => false)

/-- SERVICE_QUEUE_ENTRY (R247): an active message or a remote access; the accesses of one strand are performed in the order in
which it has issued them (R161, R395). -/
def serviceEntry (src : Source) (s : State) : Option State :=
  match src with
  | .slot c n => entryArrives true c n s
  | .flight n =>
    match s.msg n with
    | some (.svcEntry core from_ send words handler token sender q) =>
      claimPlace true core from_ send n (.svcEntry core from_ send words handler token sender q) s
    | some (.access core from_ tag req) =>
      if decide (core < Config.cores) && !accessOpen s core from_ req.strand then
        enterFar true core (.access core from_ tag req) (fun s =>
          (takeMsg n s).modCore core fun k => { k with svcQ := k.svcQ ++ [.access from_ tag req] }) s
      else none
    | _ => none

/-- SERVICE_QUEUE_ENTRY (R247). -/
def execServiceQueueEntry (src : Source) (s : State) : Out :=
  event (serviceEntry src) s

/-- The acceptance that another module sends for a send. -/
def acceptance (s : State) (send : Nat) : Option Nat :=
  s.flight.findIdx? fun m => m == .sendAccepted send

/-- An accepted send to a queue of another module is confirmed there, and its tag is free (R246, R370). -/
def confirmSend (op : SendOp) (t : Nat) (s : State) : State :=
  if destTok op.dest then s.answered t
  else sendOut (destModule s op.dest) (.sendConfirm (destCore op.dest) s.modId t) (s.answered t)

/-- SEND_ACCEPT (R246): a held send is accepted, in order, once there is room; one to another module once that module
says so; a reply is delivered to this module's register, or discarded. DEDUCED, log 31. -/
def sendAccept (c n : Nat) (s : State) : Option State :=
  match s.waiting c n with
  | some (.send op _) =>
    let here := destModule s op.dest = s.modId
    match op.held with
    | none =>
      if !destTok op.dest || !quiet s c (s.strand c n).uid || replyEarly s op.dest then none
      else if here then some (wake c n id (replyFill op.dest op.words[0] s))
      else if inDomain s (destModule s op.dest) then none
      else some (wake c n id (countDiscard s))
    | some t =>
      if here then
        let q := destCore op.dest
        if queueRoom s op.svc q && firstHeld s op.svc q t then
          some (wake c n id (placeEntry c op s))
        else none
      else (acceptance s t).map fun i => wake c n id (confirmSend op t (takeMsg i s))
  | _ => none

/-- A send to another module that has not been accepted is withdrawn: it leaves the outbox, and that module is told
(R246, R356). -/
def takeBack (op : SendOp) (s : State) : State :=
  match op.held with
  | none => s
  | some t =>
    if destModule s op.dest = s.modId then s
    else sendOut (destModule s op.dest) (.unsend s.modId t)
      { s.answered t with outbox := s.outbox.filter fun (_, m) => match m with
        | .recvEntry _ _ u _ => u != t
        | .svcEntry _ _ u _ _ _ _ _ => u != t
        | .reply _ u _ _ => u != t
        | _ => true }

/-- An acceptance or a grant in message n whose tag is no longer outstanding is discarded and counted (R370). -/
def lateAnswer (n : Nat) (s : State) : Option State :=
  let late (t : Nat) : Option State :=
    if s.asks.any (·.tag == t) then none else some (countDiscard (takeMsg n s))
  match s.msg n with
  | some (.sendAccepted t) => late t
  | some (.granted t) => late t
  | _ => none

/-- Message n tells that the request under a tag waits at its target for room (R246, R253); a late one is discarded and counted
(R370). -/
def notedArrives (n : Nat) (s : State) : Option State :=
  match s.msg n with
  | some (.noted t) =>
    some (if s.asks.any (·.tag == t) then
      { takeMsg n s with asks := s.asks.map fun a => if a.tag = t then { a with noted := true } else a }
    else countDiscard (takeMsg n s))
  | _ => none

/-- SEND_ACCEPT (R246). -/
def execSendAccept (c n : Nat) (s : State) : Out :=
  event (sendAccept c n) s

/-- The QUEUE_WAIT_LIMIT report of a queue of this module (R249): kind 0 receive, 1 service. -/
def queueStop (s : State) (kind core : Nat) : Stop :=
  let k := s.core core
  let (head, count) := if kind = 0 then (k.recvHead, k.recvQ.length) else (k.svcHead, k.svcQ.length)
  ⟨.queueWaitLimit, BitVec.ofNat 64 (core + kind * 2 ^ 16 + s.modId * 2 ^ 46),
    BitVec.ofNat 64 (head + (head + count) % 16 * 2 ^ 8 + count * 2 ^ 16)⟩

/-- The report of a queue of another module: its head index and count are free values (R249). -/
def farStop (s : State) (op : SendOp) : Stop :=
  let head := (Config.farQueue s.serial).1.toNat
  let count := (Config.farQueue s.serial).2.toNat
  ⟨.queueWaitLimit, BitVec.ofNat 64 (destCore op.dest + b2n op.svc * 2 ^ 16 + destModule s op.dest * 2 ^ 46),
    BitVec.ofNat 64 (head + (head + count) % 16 * 2 ^ 8 + count * 2 ^ 16)⟩

/-- SEND_ACCEPT_TIMEOUT (R246): a send has not been accepted within 2^26 cycles of its issue. A reply whose delivery
another module has not confirmed by then counts as discarded: DESIGN CHOICE, log 31. -/
def sendTimeout (c n : Nat) (s : State) : Option State :=
  match s.waiting c n with
  | some (.send op _) =>
    if issuedAt s c n + 2 ^ 26 ≤ s.cyc then
      if destTok op.dest then some (wake c n id (if op.held.isNone then countDiscard s else takeBack op s))
      else
        let st := if destModule s op.dest = s.modId then queueStop s (b2n op.svc) (destCore op.dest) else farStop s op
        some (trapWait c n st ((takeBack op s).fresh.2.modStrand c n (unsend op)))
    else none
  | _ => none

/-- SEND_ACCEPT_TIMEOUT (R246). -/
def execSendAcceptTimeout (c n : Nat) (s : State) : Out :=
  event (sendTimeout c n) s

/-- The registers that a RECV writes (R248). -/
def receive (d : BitVec 4) (n : Nat) (words : Vector Word 4) (x : Strand) : Strand :=
  (List.range n).foldl (fun x i => x.put (regPlus d i) (words[i]?.getD 0)) x

/-- The head of a core's receive queue leaves it. -/
def popRecv (c : Nat) (s : State) : State :=
  s.modCore c fun k => { k with recvQ := k.recvQ.drop 1, recvHead := (k.recvHead + 1) % 16 }

/-- No other strand of the core waits in RECV before the one in a slot (R248). -/
def firstRecv (s : State) (c n : Nat) : Bool :=
  (List.range 9).all fun m =>
    match s.waiting c m with
    | some (.recv _ _ _) => m == n || waitBefore s (c, n) (c, m)
    | _ => true

/-- A RECV in WAIT to which the head entry is assigned (R248). -/
def recvResume (c n : Nat) (s : State) : Option State :=
  match s.waiting c n with
  | some (.recv d k _) =>
    match (s.core c).recvQ with
    | e :: _ => if firstRecv s c n then some (wake c n (receive d k e) (popRecv c s)) else none
    | [] => none
  | _ => none

/-- RECV (R248); in a handler it raises ILL_OPERAND (R247). -/
def execRecv (d a : BitVec 4) (n : BitVec 2) (p : BitVec 4) (s : State) : Out :=
  let k := n.toNat + 1
  issue (.recv d a n p) (needs [a] (regGroup d k) fun s =>
    let c := s.cur.1
    let t := bits (s.me.get a) 31 0
    let waits := (List.range 9).any fun m => match s.waiting c m with
      | some (.recv _ _ _) => true
      | _ => false
    if inHandler s then illWord (.recv d a n p) s
    else
      match (s.core c).recvQ with
      | e :: _ =>
        if !waits then finish (receive d k e) (popRecv c s)
        else if t = 0 then trapHere (queueStop s 0 c) s
        else enterWait (.recv d k (s.cyc + t)) s
      | [] => if t = 0 then trapHere (queueStop s 0 c) s else enterWait (.recv d k (s.cyc + t)) s) s

/-- How many strands of the core wait in RECV before the one in a slot (R248). -/
def recvsBefore (s : State) (c n : Nat) : Nat :=
  ((List.range 9).filter fun m =>
    match s.waiting c m with
    | some (.recv _ _ _) => m != n && waitBefore s (c, m) (c, n)
    | _ => false).length

/-- RECV_WAIT_LIMIT (R248): no entry has been assigned within the limit, and none of those in the queue will be. -/
def recvLimit (c n : Nat) (s : State) : Option State :=
  match s.waiting c n with
  | some (.recv _ _ limit) =>
    if limit ≤ s.cyc && decide ((s.core c).recvQ.length ≤ recvsBefore s c n) then some (trapWait c n (queueStop s 0 c) s) else none
  | _ => none

/-- RECV_WAIT_LIMIT (R248). -/
def execRecvWaitLimit (c n : Nat) (s : State) : Out :=
  event (recvLimit c n) s

/-- The strand of a handler (R247). Its other registers are at their reset values. DESIGN CHOICE, log 56. -/
def handlerStrand (uid : Nat) (words : Vector Word 4) (handler token sender : Word) (sup : Bool)
    (set : Option (Nat × Nat)) (q : Nat) : Strand :=
  { Strand.reset with
    uid := uid, pc := handler, mode := sup, set := set, q := q
    g := ⟨#[0, words[0], words[1], words[2], words[3], token, sender, 0, 0, 0, 0, 0, 0, 0, 0, 0], rfl⟩ }

/-- SERVICE_HANDLER_START (R247): the service slot starts the handler of the entry at the head of its queue, its rights
fixed now, READY in the next cycle or when the slot's interval ends (R21). -/
def handlerStart (c : Nat) (s : State) : Option State :=
  if (s.slot c 8).state ≠ .empty || (s.core c).gating != .ungated then none
  else
    match (s.core c).svcQ with
    | .message words handler token sender sup set q :: rest =>
      let (uid, s1) := s.fresh
      let rights := if destModule s sender = s.modId then set else launchSet s q c
      some ((s1.modCore c fun k => { k with svcQ := rest, svcHead := (k.svcHead + 1) % 16 }).modSlot c 8 fun x =>
        { x with state := .interval (max (s.cyc + 1) ((x.lastIssue.map (· + 8)).getD 0))
                 strand := handlerStrand uid words handler token sender sup rights q })
    | _ => none

/-- SERVICE_HANDLER_START (R247). -/
def execServiceHandlerStart (c : Nat) (s : State) : Out :=
  event (handlerStart c) s

end Sys2Proof.Machine
end

