-- ==== Sys2Proof/Machine/Migrate.lean ====
section
/-! DEFINITION. Migration: MIG, reservations, departures, packets and arrivals (R230, R251-R254). -/

namespace Sys2Proof.Machine

/-- MIG (R254); in a handler and under R25 it raises ILL_OPERAND (R247). -/
def execMig (a p : BitVec 4) (s : State) : Out :=
  issue (.mig a p) (needs [a] [] fun s =>
    let w := s.me.get a
    if inHandler s || (s.core s.cur.1).det then illWord (.mig a p) s
    else
      match destStop s false w with
      | some st => trapHere st s
      | none =>
        if destModule s w = s.modId ∧ destCore w = s.cur.1 then advance s
        else depart (destCore w) (destModule s w) true w s) s

/-- The strands and reserved places of core c in a tier. -/
def tierLoad (s : State) (t : Tier) (c : Nat) : Nat :=
  let k := s.core c
  (k.arr.filter fun e => e.tier == t).length + (k.places.filter fun e => e.2 == t).length

/-- The strands and reserved places of a cluster's cores in a tier. -/
def clusterLoad (s : State) (t : Tier) (k : Nat) : Nat :=
  ((List.range 16).map fun i => tierLoad s t (16 * k + i)).sum

/-- The first tier with a free place at core c (R253). DEDUCED, log 33. -/
def freeTier (s : State) (c : Nat) : Option Tier :=
  if tierLoad s .queue c < 16 then some .queue
  else if clusterLoad s .cluster (clusterOf c) < 256 then some .cluster
  else if clusterLoad s .hbm (clusterOf c) < 4096 then some .hbm
  else none

/-- The key under which a place is reserved: a strand of this module by its serial number, one of another module by
both. DESIGN CHOICE, log 12. -/
def placeKey (s : State) (from_ uid : Nat) : Nat :=
  if from_ = s.modId then uid else 2 ^ 64 * (from_ + 1) + uid

/-- Reserves a place at core c when one is free (R253). -/
def reservePlace (c key : Nat) (s : State) : Option State :=
  if Config.cores ≤ c then none
  else (freeTier s c).map fun t => s.modCore c fun k => { k with places := k.places ++ [(key, t)] }

/-- The request of a strand of another module for a place is withdrawn (R356). -/
def dropReserve (from_ uid : Nat) (s : State) : State :=
  let mine (m : Msg) : Option Nat := match m with
    | .reserve _ f u tag => if f = from_ ∧ u = uid then some tag else none
    | _ => none
  let tags := s.flight.filterMap mine
  { s with
    flight := s.flight.filter fun m => (mine m).isNone
    farHeld := s.farHeld.filter fun x => !(x.from_ == from_ && tags.any fun t => x.key == sendNo t) }

/-- A reservation request reaches the home core (R253): of a departing strand of this module, or message n. While every tier is
full, the strand is told that its request waits; a copy of one is discarded (R370). -/
def arrivalReserve (src : Source) (s : State) : Option State :=
  match src with
  | .slot c n =>
    match s.waiting c n with
    | some (.migrate core m past false false) =>
      if m = s.modId then
        (reservePlace core (s.strand c n).uid s).map fun s1 => s1.setState c n (.wait (.migrate core m past true true))
      else none
    | _ => none
  | .flight n =>
    match s.msg n with
    | some (.reserve core from_ uid tag) =>
      let key := sendNo tag
      if wasPerformed s from_ key then some (takeMsg n s)
      else
        match reservePlace core (placeKey s from_ uid) (takeMsg n s) with
        | some s1 =>
          some (sendOut from_ (.granted tag) (notePerformed from_ key
            { s1 with farHeld := s1.farHeld.filter fun x => !(x.from_ == from_ && x.key == key) }))
        | none =>
          if core < Config.cores ∧ (s.farHeld.any fun x => x.from_ == from_ && x.key == key) = false then
            some (holdFar false (Config.cores + core) from_ key (some tag) s)
          else none
    | some (.unreserve core from_ uid) => some (dropPlace core (placeKey s from_ uid) (dropReserve from_ uid (takeMsg n s)))
    | _ => none

/-- ARRIVAL_RESERVATION_REQUEST (R253). -/
def execArrivalReservationRequest (src : Source) (s : State) : Out :=
  event (arrivalReserve src) s

/-- The destination word of a departure, which a trap that ends it reports. DESIGN CHOICE, log 33. -/
def departureWord (core m : Nat) : Word := BitVec.ofNat 64 (core + m * 2 ^ 46)

/-- A departing strand asks another module for a place, and takes the grant (R253); toward a module removed since its issue it
raises PROT (R374). -/
def migrateResume (c n : Nat) (s : State) : Option State :=
  let uid := (s.strand c n).uid
  match s.waiting c n with
  | some (.migrate core m past asked false) =>
    if m = s.modId then none
    else if asked then
      (s.asks.find? (·.uid == uid)).bind fun a => (s.flight.findIdx? fun x => x == .granted a.tag).map fun i =>
        ((takeMsg i s).answered a.tag).setState c n (.wait (.migrate core m past true true))
    else if !inDomain s m then some (trapWait c n ⟨.prot, departureWord core m, 0⟩ s)
    else if (freeTag s c).isNone then none
    else some ((s.ask c m uid (.reserve core s.modId uid)).2.setState c n (.wait (.migrate core m past true false)))
  | _ => none

/-- The doublewords of a migration packet (R252). -/
def packetWords (pc : Word) (x : Strand) : List Nat :=
  [pc.toNat, x.icnt.toNat, identityWord x, flagsWord x, x.xpc.toNat, x.xcause.toNat, x.xval.toNat, x.xaux.toNat] ++
    monWords x ++ [x.gmass.toNat] ++ gWords x (x.ctxw.toNat - 1)

/-- The packet of a strand: 160 bytes for CTXW 8, 224 for CTXW 16, with zeros at its end (R252). -/
def packetOf (pc : Word) (x : Strand) : List Byte :=
  let ws := packetWords pc x
  let total := if x.ctxw = 8 then 20 else 28
  (ws ++ List.replicate (total - ws.length) 0).flatMap (leBytes 8)

/-- The active queue slot of the strand that a packet carries (R252). -/
def packetQueue (bs : List Byte) : Nat :=
  bits (BitVec.ofNat 64 (leNat ((bs.drop 16).take 8))) 49 45

/-- A strand that travels is one of a launch of this module. -/
def homeHere (s : State) (from_ : Nat) (y : Carried) : Bool :=
  if from_ = s.modId then y.home.isNone else y.home == some s.modId

/-- A strand of the launch of active queue slot n is on its way between cores (R31). -/
def movesFor (s : State) (n : Nat) : Bool :=
  s.flight.any fun m => match m with
    | .migrate _ from_ _ y bs => packetQueue bs == n && homeHere s from_ y
    | _ => false

/-- The context that a packet carries, on this module (R230, R252). DESIGN CHOICE, log 13 and log 42. -/
def unpack (uid : Nat) (y : Carried) (bs : List Byte) (s : State) : Strand :=
  let w (i : Nat) : Word := BitVec.ofNat 64 (leNat ((bs.drop (8 * i)).take 8))
  let f := w 3
  let wide := bitAt f 30
  let q := bits (w 2) 49 45
  let x : Strand :=
   { Strand.reset with
    uid := uid, issued := y.issued, bound := y.bound, bnext := y.bnext, home := y.home, far := y.far,
    pc := w 0, icnt := w 1, launch := bits (w 2) 41 0, idx := bits (w 2) 44 42, q := q
    set := (s.launch q).map fun l => (l.first, l.ncores)
    fpc := f.setWidth 11, fps := (f >>> 16).setWidth 6, ridx := (f >>> 24).setWidth 4, spl := bitAt f 28
    mode := bitAt f 29, ctxw := if wide then 16 else 8, stdom := (f >>> 32).setWidth 2
    p := BitVec.ofNat 8 (1 + 2 * bits f 46 40)
    clip := if wide then BitVec.ofNat 16 (bits f 63 56 * 2 ^ 8) else BitVec.ofNat 16 0xFF00
    xpc := w 4, xcause := w 5, xval := w 6, xaux := w 7
    mon := ((List.range 4).map fun i => (w (8 + i)).toNat / 64).filter (· != 0), latch := true
    gmass := w 12
    g := Vector.ofFn fun r => if r.val = 0 ∨ (8 ≤ r.val ∧ !wide) then 0 else w (12 + r.val) }
  match y.gone with
  | some held => redirect held false x
  | none => x

/-- Every register of the strand within its context width is full (R251). -/
def fullWithin (x : Strand) : Bool :=
  (regGroup 1 (x.ctxw.toNat - 1)).all fun r => !x.isEmpty r

/-- The launch of a strand of this module that leaves for another counts it (R31). -/
def leavesFor (m : Nat) (x : Strand) (s : State) : State :=
  match s.launch x.q with
  | some l =>
    if m = s.modId ∨ x.home.isSome = true then s
    else { s with launches := tabSet s.launches x.q { l with away := l.away + 1 } }
  | none => s

/-- The launch of a strand of this module that comes back from another counts it (R31). -/
def comesBack (x : Strand) (s : State) : State :=
  match s.launch x.q with
  | some l =>
    if l.ident = x.launch ∧ x.home = none then { s with launches := tabSet s.launches x.q { l with away := l.away - 1 } } else s
  | none => s

/-- What a strand keeps beside its packet when it departs for a module: its binding too, to a block of this module or of another
(R280). -/
def carriedBy (own m : Nat) (issued : Option Nat) (x : Strand) : Carried :=
  if m = own then ⟨issued, x.bound, x.bnext, none, x.home, x.far⟩
  else ⟨issued, none, x.bnext, none, some (x.home.getD own), (x.bound.map fun (k, i) => (own, k, i)) <|> x.far⟩

/-- MIGRATION_DEPARTURE (R251, R253): the slot becomes EMPTY and the context travels as one packet. -/
def departure (c n : Nat) (s : State) : Option State :=
  match s.waiting c n with
  | some (.migrate core m past _ true) =>
    let x := s.strand c n
    if fullWithin x && quiet s c x.uid && x.fault.isEmpty then
      let z := x.goTo (if past then x.pc + 4 else x.pc)
      some (leavesFor m x (sendTo m
        (.migrate core s.modId x.uid (carriedBy s.modId m (s.slot c n).lastIssue x) (packetOf z.pc z)) (leaveSlot c n s)))
    else none
  | _ => none

/-- MIGRATION_DEPARTURE (R251). -/
def execMigrationDeparture (c n : Nat) (s : State) : Out :=
  event (departure c n) s

/-- The first free context of a cluster's spill area (R253). -/
def freeContext (s : State) (k : Nat) : Nat :=
  let used := (List.range 16).flatMap fun i =>
    ((s.core (16 * k + i)).arr.filter fun e => e.tier == .cluster).map ArrEntry.place
  (firstBelow 256 fun i => !used.contains i).getD 0

/-- A strand enters a core's arrival queue or a spill tier; in the cluster's tier its packet stands in the spill area
(R253). DEDUCED, log 33. -/
def enterArrivals (launched : Bool) (c : Nat) (x : Strand) (t : Tier) (s : State) : State :=
  match t with
  | .cluster =>
    let i := freeContext s (clusterOf c)
    perform (csAddr (clusterOf c) (0xF0000 + 256 * i)) (packetOf x.pc x)
      (s.modCore c fun k => { k with arr := k.arr ++ [⟨x, t, launched, i⟩] })
  | _ => s.modCore c fun k => { k with arr := k.arr ++ [⟨x, t, launched, 0⟩] }

/-- What a strand keeps that comes from another module: its home, and its binding (R33, R280). -/
def acrossModules (from_ here : Nat) (y : Carried) : Carried :=
  { y with bound := none, gone := none, home := if y.home = some here then none else some (y.home.getD from_) }

/-- A strand that comes back to the module of its block is bound to it here again; when its update has been abandoned since, it
goes to its BNEXT, through XPC in a handler (R280, R305). DESIGN CHOICE, log 13. -/
def rebind (x : Strand) (s : State) : Strand × State :=
  match x.far with
  | some (m, k, i) =>
    if m ≠ s.modId then (x, s)
    else
      let st := (s.block k i).st
      let y := { x with far := none }
      if (st == .running || st == .held) && (boundTo s k i).isNone then
        ({ y with bound := some (k, i) }, s.modBlock k i fun b => { b with st := if x.mode then .held else .running })
      else (redirect x.mode false y, s)
  | none => (x, s)

/-- MIGRATION_ARRIVAL (R252, R253): message n takes the place reserved for it. A strand of another module takes a serial
number of this one. -/
def migrationArrival (n : Nat) (s : State) : Option State :=
  match s.msg n with
  | some (.migrate core from_ uid y bs) =>
    let key := placeKey s from_ uid
    (tabFind (s.core core).places key).map fun t =>
      let s1 := dropPlace core key (takeMsg n s)
      if from_ = s.modId then enterArrivals false core (unpack uid y bs s1) t s1
      else
        let r := rebind (unpack s1.serial (acrossModules from_ s.modId y) bs s1) s1.fresh.2
        enterArrivals false core r.1 t (comesBack r.1 r.2)
  | _ => none

/-- MIGRATION_ARRIVAL (R252). -/
def execMigrationArrival (n : Nat) (s : State) : Out :=
  event (migrationArrival n) s

end Sys2Proof.Machine
end

