-- ==== Sys2Proof/Machine/Placement.lean ====
section
/-! DEFINITION. Slot states in time, the rotation boundary, and the placement of strands (R19, R22-R27, R29-R35,
R126, R230, R319-R321). -/

namespace Sys2Proof.Machine

/-- STRAND_INTERVAL_END (R19, R21, R23): a slot in INTERVAL whose cycle has come is READY. -/
def intervalEnd (c n : Nat) (s : State) : Option State :=
  match (s.slot c n).state with
  | .interval t =>
    if t ≤ s.cyc then
      let s1 := s.setState c n .ready
      some (if n = 8 then s1.modCore c fun k => { k with svcSince := some s.cyc } else s1)
    else none
  | _ => none

/-- STRAND_INTERVAL_END (R21). -/
def execStrandIntervalEnd (c n : Nat) (s : State) : Out :=
  event (intervalEnd c n) s

/-- A service slot has been ready for 64 cycles, and its last forced issue is 64 cycles old (R23). -/
def svcDue (s : State) (c : Nat) : Bool :=
  let k := s.core c
  (k.slot 8).state == .ready && !k.det &&
  (match k.svcSince with
   | some t => decide (t + 64 ≤ s.cyc)
   | none => false) &&
  (match k.svcForced with
   | some t => decide (t + 64 ≤ s.cyc)
   | none => true)

/-- SERVICE_FORCED_ISSUE (R23): the service slot takes the next issue of the core. -/
def forcedIssue (c : Nat) (s : State) : Option State :=
  if svcDue s c && !(s.core c).forceNow then some (s.modCore c fun k => { k with forceNow := true }) else none

/-- SERVICE_FORCED_ISSUE (R23). -/
def execServiceForcedIssue (c : Nat) (s : State) : Out :=
  event (forcedIssue c) s

/-- Active queue slot q has demand on a core (R320). -/
def demand (k : Core) (q : Nat) : Bool :=
  k.arr.any fun e => e.strand.q == q

/-- own[q] of R320. -/
def ownCount (k : Core) (q : Nat) : Nat :=
  ((List.range 8).filter fun n => (k.slot n).owner == some q).length

/-- W[q] (R319). -/
def weightOf (k : Core) (q : Nat) : Nat :=
  (k.weights[q]?.getD 0).toNat

/-- t[q] of R321 over the queues of D: the floor of the share, and one more by descending remainder, then queue. -/
def share (k : Core) (D : List Nat) (q : Nat) : Nat :=
  let T := (D.map (weightOf k)).sum
  let rest (x : Nat) : Nat := 8 * weightOf k x % T
  let left := 8 - (D.map fun x => 8 * weightOf k x / T).sum
  let before := (D.filter fun x => decide (rest q < rest x) || (rest x == rest q && decide (x < q))).length
  if D.contains q then 8 * weightOf k q / T + b2n (decide (before < left)) else 0

/-- The first number of a list at which f is largest. -/
def largest (f : Nat → Nat) : List Nat → Option Nat
  | [] => none
  | x :: xs =>
    match largest f xs with
    | some y => if f x < f y then some y else some x
    | none => some x

/-- The new owner of an EMPTY slot whose owner is o (R321). -/
def newOwner (k : Core) (D Z : List Nat) (o : Option Nat) : Option Nat :=
  let short := D.filter fun q => decide (ownCount k q < share k D q)
  let keeps := match o with
    | some q => D.contains q && decide (ownCount k q ≤ share k D q)
    | none => false
  let demanded := match o with
    | some q => demand k q
    | none => false
  match (if keeps then none else largest (fun q => share k D q - ownCount k q) short) with
  | some q => some q
  | none =>
    if demanded then o
    else
      match largest (weightOf k) D, Z with
      | some q, _ => some q
      | none, q :: _ => some q
      | none, [] => o

/-- The owner fields of the EMPTY slots of a core are rewritten (R321). -/
def rotateCore (k : Core) : Core :=
  let D := (List.range 32).filter fun q => demand k q && decide (0 < weightOf k q)
  let Z := (List.range 32).filter fun q => demand k q && weightOf k q == 0
  (List.range 8).foldl (fun k n =>
    if (k.slot n).state = .empty then k.modSlot n fun x => { x with owner := newOwner k D Z x.owner } else k) k

/-- ROTATION_BOUNDARY (R27, R321): placement follows the new owners from the next cycle on. -/
def rotation (s : State) : Option State :=
  if s.cyc % 1024 = 0 ∧ s.rotated ≠ some s.cyc then
    some { s with
      rotated := some s.cyc
      cores := s.cores.map fun (c, k) => (c, if k.det then k else { rotateCore k with placeFrom := s.cyc + 1 }) }
  else none

/-- ROTATION_BOUNDARY (R27). -/
def execRotationBoundary (s : State) : Out :=
  event rotation s

/-- The first free half of a cluster's engines: engine and half (R126). -/
def freeLease (s : State) (k : Nat) : Option (Nat × Nat) :=
  (firstBelow 8 fun i => (tabFind (s.cluster k).leases i).isNone).map fun i => (i / 2, i % 2)

/-- A waiting strand fits slot n of core c (R26, R33). Of several deterministic launches on a core, the first to start
holds it: DEDUCED, log 34. -/
def fits (s : State) (c n : Nat) (x : Strand) : Bool :=
  let k := s.core c
  !k.preempted.any x.isOf && (!x.relet || (freeLease s (clusterOf c)).isSome) &&
  match k.reserved with
  | q :: _ =>
    x.isOf q && x.idx == n &&
    (if k.det then (k.slot n).owner == some q
     else (List.range 8).all fun m => (k.slot m).state == .empty && decide ((k.slot m).freeFrom ≤ s.cyc))
  | [] => (k.slot n).owner == some x.q

/-- The slots' owners when the first strand of a deterministic launch is placed on the core (R26). -/
def ownDet (q n : Nat) (k : Core) : Core :=
  if k.det then k
  else (List.range 8).foldl (fun k m =>
    k.modSlot m fun x => { x with owner := if m < n then some q else none }) { k with det := true, turnZero := none }

/-- A placed strand takes a half of the cluster again when it was saved with a lease, and its lease follows it to the
slot (R126). -/
def relet (c n : Nat) (s : State) : State :=
  let x := s.strand c n
  let k := clusterOf c
  let bind (e h : Nat) (s : State) : State :=
    s.modCluster k fun y =>
      { y with leases := tabSet y.leases (2 * e + h) (c, n)
               tiles := x.tiles.foldl (fun t (j, v) => tabSet t (8 * e + 4 * h + j) v) y.tiles }
  if x.relet then
    match freeLease s k with
    | some (e, h) => (bind e h s).modStrand c n fun y => { y with lease := some (e, h), tiles := [], relet := false }
    | none => s
  else
    match x.lease with
    | some (e, h) => bind e h s
    | none => s

/-- The strand at index i of a core's arrivals is placed in a slot (R33, R35), READY in the next cycle or when its
interval ends (R21; DESIGN CHOICE, log 54); after the last strand of a deterministic launch the turn counter starts (R24).
A strand that a launch or a restore places on eight EMPTY slots restarts the rotation (R22). DEDUCED, log 34. -/
def placeStrand (c n i : Nat) (y : ArrEntry) (s : State) : State :=
  let x := y.strand
  let lanes := match s.launch x.q with
    | some l => l.n
    | none => 8
  let restart := y.launched && (List.range 8).all fun m => (s.slot c m).state == .empty && decide ((s.slot c m).freeFrom ≤ s.cyc)
  let s1 := s.modCore c fun k =>
    let k1 := { k with arr := k.arr.eraseIdx i, placeFrom := s.cyc + 1, restarted := restart || k.restarted }
    if k.reserved.head?.any x.isOf then
      let k2 := ownDet x.q lanes k1
      if k2.arr.any fun e => e.strand.isOf x.q then k2 else { k2 with turnZero := some (s.cyc + 1) }
    else k1
  let st : SlotState := if x.idle then .wait .idle else
    match x.collw with
    | some (cid, d) => .wait (.collw cid d)
    | none => .interval (max (s.cyc + 1) ((x.issued.map (· + 8)).getD 0))
  relet c n ((if x.idle then beginSearch c s1 else s1).modSlot c n fun y =>
    { y with state := st, waitAt := s.cyc, lastIssue := x.issued
             strand := { x with idle := false, collw := none, issued := none } })

/-- STRAND_PLACEMENT (R29, R33, R35): slot n of core c takes the oldest waiting strand that fits it. -/
def placement (c n : Nat) (s : State) : Option State :=
  let k := s.core c
  let y := k.slot n
  if n < 8 ∧ y.state = .empty ∧ y.freeFrom ≤ s.cyc ∧ k.placeFrom ≤ s.cyc ∧ k.gating = .ungated then
    match k.arr.findIdx? fun e => fits s c n e.strand with
    | some i => k.arr[i]?.map fun e => placeStrand c n i e s
    | none => none
  else none

/-- STRAND_PLACEMENT (R33). -/
def execStrandPlacement (c n : Nat) (s : State) : Out :=
  event (placement c n) s

end Sys2Proof.Machine
end

