-- ==== Sys2Proof/Machine/System.lean ====
section
/-! DEFINITION. TRAP, RFT, HALT, YIELD, and the words and fetches that trap at issue (R63, R72, R100, R344-R349). -/

namespace Sys2Proof.Machine

/-- TRAP (R345). -/
def execTrap (i : BitVec 12) (p : BitVec 4) (s : State) : Out :=
  issue (.trap i p) (fun s =>
    takeTrap s.cur.1 s.cur.2 (s.me.pc + 4) ⟨.trap, i.setWidth 64, 0⟩ false s) s

/-- RFT (R346). -/
def execRft (p : BitVec 4) (s : State) : Out :=
  issue (.rft p) returnFromTrap s

/-- HALT (R347). -/
def execHalt (p : BitVec 4) (s : State) : Out :=
  issue (.halt p) (fun s =>
    let c := s.cur.1
    if s.me.bound.isSome || s.me.far.isSome then illWord (.halt p) s
    else endStrand 1 c s.cur.2 (advance s)) s

/-- A strand of an active queue slot waits in a core's arrival queue itself (R348). -/
def queued (k : Core) (q : Nat) : Bool :=
  k.arr.any fun e => e.tier == .queue && e.strand.q == q

/-- YIELD (R348): the strand keeps its whole context, and the cycle of its last issue (R21). -/
def execYield (p : BitVec 4) (s : State) : Out :=
  issue (.yield p) (fun s =>
    let c := s.cur.1
    let s1 := advance s
    let k := s.core c
    if inHandler s || k.det || !queued k s.me.q then s1
    else enterArrivals false c { s1.me with issued := some s.cyc } .queue (leaveSlot c s.cur.2 s1)) s

/-- The cause of a word that is no instruction (R72). -/
def decodeCause : DecodeError → Cause
  | .illOpcode => .illOpcode
  | .illFn => .illFn
  | .illMbz => .illMbz
  | .illOperand => .illOperand

/-- WORD_NOT_AN_INSTRUCTION (R72): the executing strand issues a word that fails a check. -/
def notAnInstruction (w : IWord) (s : State) : Option State :=
  match decode w with
  | .ok _ => none
  | .error e => some (trapHere ⟨decodeCause e, w.setWidth 64, 0⟩ (markIssue s))

/-- WORD_NOT_AN_INSTRUCTION (R72). -/
def execWordNotAnInstruction (w : IWord) (s : State) : Out :=
  event (notAnInstruction w) s

/-- The instruction word at the executing strand's PC, with the bytes that the core's store buffer holds, or the fault
of its fetch (R63, R74, R154). Of the old and the new word of a location stored to without the fence of R74 it takes the new one.
DEDUCED and DESIGN CHOICE, log 10. -/
def fetchWord (s : State) : Except Stop IWord :=
  let c := s.cur.1
  let pc := s.me.pc
  match checkAccess s c s.me.rights .fetch pc 4 with
  | .error st => .error st
  | .ok q =>
    match q.loc with
    | .here a =>
      let held := heldBytes s c ⟨0, pc, q.loc, 4, false, none, 0, 0⟩
      if poisoned s a 4 then .error ⟨.poison, pc, 0⟩
      else .ok (BitVec.ofNat 32 (leNat ((List.range 4).map fun i => (held.getD i none).getD (memByte s.mem (a + i)))))
    | .there _ _ => .error ⟨.pageFault, pc, BitVec.ofNat 64 (2 ^ 57)⟩

/-- INSTRUCTION_FETCH_FAULT (R100, R349): the fetch of the executing strand faults; at the first instruction of a trap
handler that is a double fault. -/
def fetchFault (s : State) : Option State :=
  match fetchWord s with
  | .ok _ => none
  | .error st =>
    let s1 := markIssue s
    some (if s.me.entry then endStrand 2 s.cur.1 s.cur.2 s1 else trapHere st s1)

/-- INSTRUCTION_FETCH_FAULT (R100). -/
def execInstructionFetchFault (s : State) : Out :=
  event fetchFault s

/-- Once every member of a multicast has answered or failed, MCSTAT takes the bitmap, and DONE is set (R375). -/
def multicastSettle (s : State) : State :=
  if bitAt s.mcctl 9 && s.mcOwn == 0 && s.mcWait == 0 then
    { s with mcstat := s.mcFailed, mcctl := setBit (setBit s.mcctl 9 false) 10 true }
  else s

end Sys2Proof.Machine
end

