-- ==== Sys2Proof/Machine/Lupin.lean ====
section
/-! DEFINITION. Lupin: exchange over the links, answers, retries and reconciliation (R188, R197, R199-R209, R373). -/

namespace Sys2Proof.Machine

/-- The multiplier u of the seeded pattern over n lines (R201). -/
def seedStep (pseed n : Nat) : Nat :=
  let odd (i : Nat) : Nat := 2 * (pseed + i) + 1
  odd ((firstBelow 64 fun i => Nat.gcd (odd i) n == 1).getD 0)

/-- L(c) of port p (R201). -/
def lineOfCounter (r : Region) (p c : Nat) : Nat :=
  let n := regionLines r
  let s0 := p * n / Config.ports
  let pseed := bits r.cfg 63 48
  if bits r.cfg 13 12 = 0 then (s0 + c) % n else (s0 + (pseed + c) * seedStep pseed n) % n

/-- The number of the region's interval in which a cycle lies, under its present RATE; intervals are counted from cycle 0 (R190). DESIGN
CHOICE, log 43, for the origin. -/
def intervalNo (r : Region) (cyc : Nat) : Nat :=
  cyc / (64 * 2 ^ cfgRate r.cfg)

/-- The engine of port p may start an exchange of a region now (R190, R192, R201). DEDUCED, log 43. -/
def regionReady (s : State) (p : Nat) (r : Region) : Bool :=
  !cfgQuiesce r.cfg && cfgRate r.cfg != 15 && (tabFind r.last p).map (intervalNo r) != some (intervalNo r s.cyc)

/-- The TLB of the I/O die of a port, which its Lupin engine uses (R9, R316). -/
def State.portTlb (s : State) (p : Nat) : List TlbEntry :=
  tabGet [] s.ioTlbs (p / 18)

/-- The line at counter c may be sent: its physical address (R201, R212). -/
def lineToSend (s : State) (r : Region) (p c : Nat) : Option Nat :=
  match physical (s.portTlb p) s (r.base + 64 * lineOfCounter r p c) with
  | some pa => if !poisoned s pa 64 && decide (2 ^ cfgMinw r.cfg ≤ s.read (pa + 56) 8) then some pa else none
  | none => none

/-- The first line that may be sent, from counter c on, by fuel: the counter and its physical address (R201). -/
def findLine (s : State) (r : Region) (p : Nat) : Nat → Nat → Option (Nat × Nat)
  | 0, _ => none
  | f + 1, c =>
    match lineToSend s r p c with
    | some pa => some (c, pa)
    | none => findLine s r p f (c + 1)

/-- Adds a packet's halves, times k, to a total of a region. -/
def addHalves (k : Int) (q : List Int) (t : Vector (BitVec 128) 8) : Vector (BitVec 128) 8 :=
  (List.range 8).foldl (fun t j => addTotal t j (k * q.getD j 0)) t

/-- The halves of a packet as numbers: seven signed words and the weight. -/
def halves (pkt : LupPkt) : List Int :=
  (List.range 8).map fun j =>
    let x : Word := pkt.q[j]?.getD 0
    if j < 7 then x.toInt else (x.toNat : Int)

/-- A link on which exchange runs (R201, R205). -/
def exchanges (s : State) (l : Link) : Bool :=
  l.up && l.dom == s.domain && !l.recon && !s.removed.contains l.far && decide (l.unacked.length < 64)

/-- Sends line pa of region entry e, at counter c, over port p; its half leaves the line as a store (R202, R317). -/
def sendLine (p e : Nat) (r : Region) (c pa : Nat) (s : State) : State :=
  let l := s.link p
  let old := lineWords s pa
  let q := old.map fun x => x / 2
  let pkt : LupPkt :=
    ⟨l.txSeq, l.epoch, r.base + 64 * lineOfCounter r p c, Vector.ofFn fun j => BitVec.ofInt 64 (q.getD j.val 0)⟩
  let s1 := (shoot 0 pa 64 s (writeLine pa (old.zipWith (· - ·) q) s)).modRegion e fun y =>
    { y with escrow := addHalves 1 q y.escrow, count := tabSet y.count p (c + 1)
             last := tabSet y.last p s.cyc }
  sendOut l.far (.lupPacket p pkt r.base r.cfg) (s1.modLink p fun x =>
    { x with txSeq := (x.txSeq + 1) % 2 ^ 32, unacked := x.unacked ++ [(pkt, s.cyc)], turn := e + 1 })

/-- LUPIN_EXCHANGE (R201, R202): the engine of a port sends the next line, taking regions in rotation. -/
def lupinExchange (p : Nat) (s : State) : Option State :=
  let l := s.link p
  if !exchanges s l then none
  else
    let later := s.regions.filter fun (e, _) => decide (l.turn ≤ e)
    let order := later ++ s.regions.filter fun (e, _) => decide (e < l.turn)
    order.findSome? fun (e, r) =>
      if regionReady s p r then
        (findLine s r p (regionLines r) (tabGet 0 r.count p)).map fun (c, pa) => sendLine p e r c pa s
      else none

/-- LUPIN_EXCHANGE (R201). -/
def execLupinExchange (port : Nat) (s : State) : Out :=
  event (lupinExchange port) s

/-- k is earlier than x, by serial 32-bit difference (R203). -/
def seqBefore (k x : Nat) : Bool :=
  decide (2 ^ 31 ≤ (k + 2 ^ 32 - x) % 2 ^ 32)

/-- D of R197 rounded up to F16, as its code: the largest difference of the estimates before and of a packet. -/
def spreadOf (sigma : Nat) (old q : List Int) : Nat :=
  let w := (old.getD 7 0).natAbs
  let wq := (q.getD 7 0).natAbs
  if w = 0 ∨ wq = 0 then 0x7C00
  else
    let num := ((List.range 7).map fun j => (old.getD j 0 * wq - q.getD j 0 * w).natAbs).foldl max 0
    if num = 0 then 0
    else
      let k := bitLen (w * wq) + 80
      let n := num * 2 ^ k
      (roundMag { rneEnv with rm := 2 } .f16 false (n / (w * wq)) (32 - (sigma : Int) - k) (n % (w * wq) != 0)).1

/-- The region that a packet meets: its entry, in RUN, with the same base, scale and length, and a line that is not
poisoned (R188, R192, R203, R212). -/
def packetRegion (s : State) (port : Nat) (pkt : LupPkt) (base : Nat) (cfg : Word) : Option (Nat × Region × Nat) :=
  match regionOf s base with
  | some (e, r) =>
    if cfgQuiesce r.cfg || cfgSigma r.cfg != cfgSigma cfg || cfgLen r.cfg != cfgLen cfg then none
    else
      match physical (s.portTlb port) s pkt.va with
      | some pa => if poisoned s pa 64 then none else some (e, r, pa)
      | none => none
  | none => none

/-- The halves of a packet are applied to its line, and the metric is updated (R197, R203). -/
def applyPacket (e : Nat) (r : Region) (pa : Nat) (pkt : LupPkt) (s : State) : State :=
  let q := halves pkt
  let d := spreadOf (cfgSigma r.cfg) (lineWords s pa) q
  let i := lineNo r pkt.va
  (addLine e pa q s).modRegion e fun y =>
    { y with metric := tabSet y.metric i (max d (tabGet 0 y.metric i)) }

/-- The answer to a packet. -/
def lupAnswer (port epoch seq : Nat) (ok : Bool) : Msg :=
  if ok then .lupAck port epoch seq else .lupRefusal port epoch seq

/-- The receiving side of a link as a packet of an epoch finds it: the first of the epoch after a reconciliation begins
that epoch at number 0 (R205). -/
def openEpoch (port epoch : Nat) (s : State) : State :=
  if (s.link port).rxClosed && epoch == (s.link port).rxEpoch + 1 then
    s.modLink port fun l => { l with rxEpoch := l.rxEpoch + 1, rxSeq := 0, answers := [], rxClosed := false }
  else s

/-- LUPIN_PACKET_ARRIVAL (R203): message n is applied, refused, or handled as a duplicate. The line that it is applied to counts as
performed before the answer leaves (R317). -/
def lupinArrival (n : Nat) (s0 : State) : Option State :=
  match s0.msg n with
  | some (.lupPacket port pkt base cfg) =>
    let s := openEpoch port pkt.epoch s0
    let l := s.link port
    let s1 := takeMsg n s
    if pkt.epoch ≠ l.rxEpoch || l.rxClosed then some s1
    else if seqBefore pkt.seq l.rxSeq then
      match l.answers.find? fun x => x.1 == pkt.seq with
      | some (_, ok) => some (sendOut l.far (lupAnswer port pkt.epoch pkt.seq ok) s1)
      | none => some s1
    else if pkt.seq ≠ l.rxSeq then some s1
    else
      let note (ok : Bool) (t : State) : State := t.modLink port fun x =>
        { x with rxSeq := (x.rxSeq + 1) % 2 ^ 32
                 answers := let a := x.answers ++ [(pkt.seq, ok)]; a.drop (a.length - 64) }
      some (match packetRegion s port pkt base cfg with
        | some (e, r, pa) => answerWrite pa 64 l.far (lupAnswer port pkt.epoch pkt.seq true) s1 (note true (applyPacket e r pa pkt s1))
        | none => sendOut l.far (lupAnswer port pkt.epoch pkt.seq false) (note false s1))
  | _ => none

/-- LUPIN_PACKET_ARRIVAL (R203). -/
def execLupinPacketArrival (n : Nat) (s : State) : Out :=
  event (lupinArrival n) s

/-- The halves of a packet leave the escrow of its region. -/
def leaveEscrow (pkt : LupPkt) (s : State) : State :=
  match regionAt s pkt.va with
  | some (e, _) => s.modRegion e fun r => { r with escrow := addHalves (-1) (halves pkt) r.escrow }
  | none => s

/-- The halves of a packet of a port return to its line, as a store, and leave escrow (R204, R317). -/
def returnHalves (port : Nat) (pkt : LupPkt) (s : State) : State :=
  match regionAt s pkt.va, physical (s.portTlb port) s pkt.va with
  | some (e, _), some pa => leaveEscrow pkt (shoot 0 pa 64 s (addLine e pa (halves pkt) s))
  | _, _ => s

/-- The halves of a packet are written off: from escrow to the forfeited total (R206, R207). -/
def forfeitHalves (pkt : LupPkt) (s : State) : State :=
  match regionAt s pkt.va with
  | some (e, _) =>
    (leaveEscrow pkt s).modRegion e fun r => { r with forfeit := addHalves 1 (halves pkt) r.forfeit }
  | none => s

/-- A link direction's unacknowledged packets are written off. -/
def forfeitLink (port : Nat) (s : State) : State :=
  ((s.link port).unacked.foldl (fun s x => forfeitHalves x.1 s) s).modLink port fun x => { x with unacked := [] }

/-- An answer to an outstanding packet of the current epoch. -/
def lupinAnswered (port epoch seq : Nat) (ok : Bool) (s : State) : State :=
  let l := s.link port
  if epoch ≠ l.epoch then s
  else
    match l.unacked.find? fun x => x.1.seq == seq with
    | some (pkt, _) =>
      (if ok then leaveEscrow pkt s else returnHalves port pkt s).modLink port fun x =>
        { x with unacked := x.unacked.filter fun y => y.1.seq != seq }
    | none => s

/-- LUPIN_ACK (R204): message n. -/
def lupinAck (n : Nat) (s : State) : Option State :=
  match s.msg n with
  | some (.lupAck port epoch seq) => some (lupinAnswered port epoch seq true (takeMsg n s))
  | _ => none

/-- LUPIN_ACK (R204). -/
def execLupinAck (n : Nat) (s : State) : Out :=
  event (lupinAck n) s

/-- LUPIN_REFUSAL (R204): message n. -/
def lupinRefusal (n : Nat) (s : State) : Option State :=
  match s.msg n with
  | some (.lupRefusal port epoch seq) => some (lupinAnswered port epoch seq false (takeMsg n s))
  | _ => none

/-- LUPIN_REFUSAL (R204). -/
def execLupinRefusal (n : Nat) (s : State) : Out :=
  event (lupinRefusal n) s

/-- The packet has waited for the link retry interval (R202, R373). -/
def retryDue (s : State) (x : LupPkt × Nat) : Bool :=
  decide (x.2 + Config.linkRetry ≤ s.cyc)

/-- A packet is sent again, unchanged (R202). -/
def resend (port far : Nat) (s : State) (x : LupPkt × Nat) : State :=
  match regionAt s x.1.va with
  | some (_, r) => sendOut far (.lupPacket port x.1 r.base r.cfg) s
  | none => s

/-- LUPIN_RETRY (R202): the packets that have waited for the retry interval are sent again. -/
def lupinRetry (port : Nat) (s : State) : Option State :=
  let l := s.link port
  if l.up && !l.recon && l.unacked.any (retryDue s) then
    some (((l.unacked.filter (retryDue s)).foldl (resend port l.far) s).modLink port fun x =>
      { x with unacked := x.unacked.map fun y => if retryDue s y then (y.1, s.cyc) else y })
  else none

/-- LUPIN_RETRY (R202). -/
def execLupinRetry (port : Nat) (s : State) : Out :=
  event (lupinRetry port) s

/-- RECONCILIATION_REQUEST (R205): message n; the receiver answers X and what it applied, and discards the packets of that
epoch from then on. A request that comes again is answered the same; one of an epoch of which no packet has come begins that
epoch, as its first packet would. -/
def reconRequested (n : Nat) (s0 : State) : Option State :=
  match s0.msg n with
  | some (.reconRequest port epoch seqs) =>
    let s := openEpoch port epoch s0
    let l := s.link port
    let applied := seqs.filter fun k => l.answers.any fun x => x.1 == k && x.2
    if epoch ≠ l.rxEpoch then some (takeMsg n s)
    else some (sendOut l.far (.reconReply port epoch l.rxSeq applied) ((takeMsg n s).modLink port fun x =>
      { x with rxClosed := true }))
  | _ => none

/-- RECONCILIATION_REQUEST (R205). -/
def execReconciliationRequest (n : Nat) (s : State) : Out :=
  event (reconRequested n) s

/-- RECONCILIATION_REPLY (R205): message n; the sender settles its outstanding packets and starts a new epoch. -/
def reconReplied (n : Nat) (s : State) : Option State :=
  match s.msg n with
  | some (.reconReply port epoch _ applied) =>
    let l := s.link port
    let s1 := takeMsg n s
    if !l.recon || epoch ≠ l.epoch then some s1
    else
      some ((l.unacked.foldl (fun s x =>
        if applied.contains x.1.seq then leaveEscrow x.1 s else returnHalves port x.1 s) s1).modLink port fun x =>
          { x with unacked := [], txSeq := 0, epoch := x.epoch + 1, recon := false })
  | _ => none

/-- RECONCILIATION_REPLY (R205). -/
def execReconciliationReply (n : Nat) (s : State) : Out :=
  event (reconReplied n) s

end Sys2Proof.Machine
end

