-- ==== Sys2Proof/Machine/Launches.lean ====
section
/-! DEFINITION. Launch queues, the queue mapper, the start and completion of launches, TROOT, and page walks (R25-R31,
R84, R85, R255-R257, R313, R316, R319, R322, R323, R338, R339, R379). -/

namespace Sys2Proof.Machine

/-- A launch queue. -/
def State.queue (s : State) (q : Nat) : Queue :=
  tabGet Queue.reset s.queues q

/-- The module with a launch queue updated. -/
def State.modQueue (s : State) (q : Nat) (f : Queue → Queue) : State :=
  { s with queues := tabSet s.queues q (f (s.queue q)) }

/-- QUEUE, PIN and BOUND of a MAP register (R322). -/
def mapQueue (w : Word) : Nat := bits w 9 0
def mapPin (w : Word) : Bool := bitAt w 14
def mapBound (w : Word) : Bool := bitAt w 15

/-- MAPn. -/
def State.map_ (s : State) (n : Nat) : Word :=
  s.maps[n]?.getD 0

/-- The active queue slot to which a queue is bound. -/
def boundSlot (s : State) (q : Nat) : Option Nat :=
  firstBelow 32 fun n => mapBound (s.map_ n) && mapQueue (s.map_ n) == q

/-- The launch of a slot runs, or is being pre-empted or restored (R322, R354). -/
def runs (s : State) (n : Nat) : Bool :=
  (s.launch n).isSome

/-- The ring of a queue is empty. -/
def ringEmpty (q : Queue) : Bool := q.head == q.tail

/-- The mapper binds the waiting queues while a slot is free (R323), by fuel. -/
def mapNext : Nat → State → State
  | 0, s => s
  | f + 1, s =>
    match s.mapWait, firstBelow 32 fun n => !mapBound (s.map_ n) && !runs s n with
    | q :: rest, some n =>
      let s1 : State := { s with mapWait := rest }
      mapNext f (if (boundSlot s q).isSome || ringEmpty (s.queue q) then s1
        else { s1 with maps := s1.maps.setIfInBounds n (BitVec.ofNat 64 (q + 2 ^ 15)) })
    | _, _ => s

/-- A launch from the queue runs, or is saved. DEDUCED, log 36. -/
def queueBusy (s : State) (q : Nat) : Bool :=
  (s.launches.any fun (_, l) => l.queue == q) || s.saved.any fun (_, v) => v.launch.queue == q

/-- A binding of slot n is to be cleared: PIN is 0, its ring is empty, and its last launch is over (R323). -/
def runDry (s : State) (n : Nat) : Bool :=
  let w := s.map_ n
  let q := mapQueue w
  mapBound w && !mapPin w && ringEmpty (s.queue q) && (s.queue q).taken != 0 && !queueBusy s q

/-- The mapper clears the bindings whose queues have run dry. -/
def unbindDry (s : State) : State :=
  { s with maps := Vector.ofFn fun n => if runDry s n.val then setBit (s.map_ n.val) 15 false else s.map_ n.val }

/-- The mapper's work after any change. -/
def mapper (s : State) : State :=
  mapNext s.mapWait.length (unbindDry s)

/-- A write of a MAP register takes effect (R322). -/
def setMap (n : Nat) (w : Word) (s : State) : State :=
  match (if mapBound w then boundSlot s (mapQueue w) else none) with
  | some m => if m = n then mapper { s with maps := s.maps.setIfInBounds n w } else s
  | none => mapper { s with maps := s.maps.setIfInBounds n w }

/-- MAP_WRITE (R322): held while a launch of the slot runs and the binding would change. DEDUCED, log 36. -/
def mapWrite (n : Nat) (w : Word) (s : State) : Option State :=
  if n ≥ 32 then none
  else if bits w 63 16 != 0 || bits w 13 10 != 0 then some s
  else
    let old := s.map_ n
    if runs s n && (mapBound old != mapBound w || mapQueue old != mapQueue w) then
      some { s with mapHeld := tabSet s.mapHeld n w }
    else some (setMap n w s)

/-- MAP_WRITE (R322). -/
def execMapWrite (n : Nat) (w : Word) (s : State) : Out :=
  hostEvent (mapWrite n w) s

/-- Until BOOTST.DONE the module answers only the first 4 KiB of BAR0 (R382). -/
def booted (s : State) : Bool := bitAt s.bootst 8

/-- QUEUE_NOTIFY (R379): the tail moves, or the queue stops on an overfull tail; an unbound queue with packets is bound
(R323), whatever EN and ERR hold. DEDUCED, log 36. -/
def queueNotify (q : Nat) (w : Word) (s : State) : Option State :=
  let x := s.queue q
  if q ≥ 1024 || !booted s then none
  else
    let t := bits w 15 0
    let overfull := decide ((t + 2 ^ 16 - x.head) % 2 ^ 16 > 2 ^ x.log2)
    let s1 := s.modQueue q fun y => if overfull then { y with err := true } else { y with tail := t }
    some (mapper (if ringEmpty (s1.queue q) || (boundSlot s q).isSome || s.mapWait.contains q then s1
      else { s1 with mapWait := s1.mapWait ++ [q] }))

/-- QUEUE_NOTIFY (R379). -/
def execQueueNotify (q : Nat) (w : Word) (s : State) : Out :=
  hostEvent (queueNotify q w) s

/-- Doubleword 0 of a descriptor is written; setting EN sets HEAD to 0 and clears ERR (R379). -/
def setDescriptor (w : Word) (x : Queue) : Queue :=
  let y := { x with log2 := bits w 4 0, irq := bitAt w 5, base := bits w 42 6, en := bitAt w 63, disabling := none }
  if bitAt w 63 then { y with head := 0, err := false } else y

/-- QUEUE_DESCRIPTOR_WRITE (R379). -/
def descriptorWrite (q : Nat) (w : Word) (s : State) : Option State :=
  let x := s.queue q
  if q ≥ 1024 || !booted s then none
  else if bits w 4 0 > 16 then some s
  else if !x.en then some (mapper (s.modQueue q (setDescriptor w)))
  else if bitAt w 63 then some s
  else if s.launches.any fun (_, l) => l.queue == q then some (s.modQueue q fun y => { y with disabling := some w })
  else some (mapper (s.modQueue q (setDescriptor w)))

/-- QUEUE_DESCRIPTOR_WRITE (R379). -/
def execQueueDescriptorWrite (q : Nat) (w : Word) (s : State) : Out :=
  hostEvent (descriptorWrite q w) s

/-- TROOT takes a value, and every TLB is emptied (R313). -/
def setTroot (w : Word) (s : State) : State :=
  { s with
    troot := w, trootHeld := none
    clusters := s.clusters.map fun (k, x) => (k, { x with tlb := [] })
    dies := s.dies.map fun (d, x) => (d, { x with tlb := [] })
    ioTlbs := [] }

/-- A TROOT write that waits takes effect once no launch runs (R313). -/
def trootRelease (s : State) : State :=
  match s.trootHeld with
  | some t => if s.launches.isEmpty then setTroot t s else s
  | none => s

/-- TROOT_WRITE (R313). -/
def trootWrite (w : Word) (s : State) : Option State :=
  if bits w 63 43 != 0 || bits w 17 0 != 0 then some s
  else if s.launches.isEmpty then some (setTroot w s)
  else some { s with trootHeld := some w }

/-- TROOT_WRITE (R313). -/
def execTrootWrite (w : Word) (s : State) : Out :=
  hostEvent (trootWrite w) s

/-- A TLB takes an entry for an address; a full one drops its oldest (R316; log 7). DESIGN CHOICE. -/
def fillTlb (size : Nat) (e : TlbEntry) (t : List TlbEntry) : List TlbEntry :=
  let t1 := t.filter fun x => x.base != e.base
  t1.drop (t1.length + 1 - size) ++ [e]

/-- WALK_COMPLETE (R316): a walk ends for cluster k, for the Peony engine of die k − 768, or for I/O die k − 776; only a valid
leaf fills the TLB. -/
def walkComplete (k : Nat) (va : Word) (s : State) : Option State :=
  let la := localPart va
  match rangeOf la with
  | none => none
  | some r =>
    if !r.translated || !isOwn s va then none
    else
      match walk s la with
      | .fault _ _ => some s
      | .leaf level e lines =>
        let x := tlbEntry level la e lines
        if k < Config.clusters then some (s.modCluster k fun y => { y with tlb := fillTlb 512 x y.tlb })
        else if k < Config.clusters + Config.dies then
          some (s.modDie (k - Config.clusters) fun y => { y with tlb := fillTlb 64 x y.tlb })
        else if k < Config.clusters + Config.dies + 2 then
          let d := k - Config.clusters - Config.dies
          some { s with ioTlbs := tabSet s.ioTlbs d (fillTlb 64 x (tabGet [] s.ioTlbs d)) }
        else none

/-- WALK_COMPLETE (R316). -/
def execWalkComplete (k : Nat) (va : Word) (s : State) : Out :=
  event (walkComplete k va) s

/-- The identity words of core c in a launch (R85). -/
def identityWords (s : State) (q : Nat) (l : Launch) (c : Nat) : List Nat :=
  [c, clusterOf c, dieOf (clusterOf c), s.modId, (c - l.first) * l.n, l.ident, l.n, c % 16, l.ncores, q, l.domain,
   b2n l.det + 2 * b2n l.check, l.image.toNat, 0xFFFFF00000000000 + c * 0x8000, 0, 0]

/-- Byte i of the constant-window image, read as a supervisor load (R29; log 26). DESIGN CHOICE. -/
def imageByte (s : State) (l : Launch) (i : Nat) : Byte :=
  match checkAccess s l.first ⟨true, none⟩ .load (l.image + BitVec.ofNat 64 i) 1 with
  | .ok p =>
    match p.loc with
    | .here a => if poisoned s a 1 then Config.unreadImage l.ident i else memByte s.mem a
    | .there _ _ => Config.unreadImage l.ident i
  | .error _ => Config.unreadImage l.ident i

/-- The strand with index i of core c (R17, R30). Its PC is the packet's Entry PC, which R256 does not check: one that is no
multiple of 4 makes its first fetch raise ALIGN (R63). DESIGN CHOICE, log 59. -/
def launchStrand (q : Nat) (l : Launch) (c i uid : Nat) : Strand :=
  let size := 0x7800 / l.n / 64 * 64
  let sp : Word := BitVec.ofNat 64 (0xFFFFFFFFFFFF8000 + 0x800 + (i + 1) * size - 8)
  { Strand.reset with
    uid := uid, pc := l.entry, launch := l.ident, idx := i, q := q, set := some (l.first, l.ncores)
    g := ((Strand.reset.g.set 1 (BitVec.ofNat 64 i)).set 2 (BitVec.ofNat 64 ((c - l.first) * l.n + i))).set 14 sp }

/-- The strands of core c enter its arrivals, in strand order, by fuel (R29). -/
def arriveStrands (q : Nat) (l : Launch) (c : Nat) : Nat → Nat → State → State
  | 0, _, s => s
  | f + 1, i, s =>
    let (uid, s1) := s.fresh
    arriveStrands q l c f (i + 1) (enterArrivals true c (launchStrand q l c i uid) ((freeTier s1 c).getD .hbm) s1)

/-- The cores of a launch, ascending. -/
def launchCores (l : Launch) : List Nat :=
  (List.range l.ncores).map (l.first + ·)

/-- A launch is placed on one core: window, weight, reservation, digests, strands (R25, R26, R29, R319, R338). On a core that
another launch runs on, its window and identity words replace that launch's (R29 against R85): DESIGN CHOICE, log 66. -/
def launchCore (q : Nat) (l : Launch) (image : List Byte) (s : State) (c : Nat) : State :=
  let window := image ++ (identityWords s q l c).flatMap (leBytes 8)
  let s1 := (perform (lsAddr c 0) window s).modCore c fun k =>
    { k with
      weights := k.weights.setIfInBounds q (BitVec.ofNat 8 l.weight)
      reserved := if l.det && !k.reserved.contains q then k.reserved ++ [q] else k.reserved
      }
  arriveStrands q l c l.n 0 s1

/-- The accumulators are zero at the placement of a run of a checked launch (R338): those of its core set, and of every
core that no other checked launch covers. -/
def zeroDigests (q : Nat) (l : Launch) (s : State) : State :=
  let other (c : Nat) : Bool := s.launches.any fun (n, x) => n != q && x.check && inSet (x.first, x.ncores) c
  if l.check then
    { s with cores := s.cores.map fun (c, k) =>
        (c, if inSet (l.first, l.ncores) c || !other c then { k with digests := Vector.replicate 9 0 } else k) }
  else s

/-- A launch is placed on its cores (R29). -/
def placeLaunch (q : Nat) (l : Launch) (s : State) : State :=
  let image := (List.range 1920).map (imageByte s l)
  (launchCores l).foldl (launchCore q l image) (zeroDigests q l s)

/-- The doublewords of the packet at the head of a queue (R255, R256). -/
def packetWord (s : State) (x : Queue) (i : Nat) : Word :=
  BitVec.ofNat 64 (s.read (64 * x.base + 64 * (x.head % 2 ^ x.log2) + 8 * i) 8)

/-- The lowest reason for which a packet is rejected, 0 for none (R256, R257). -/
def rejectReason (w : Nat → Word) : Nat :=
  let first := bits (w 2) 13 0
  let count := bits (w 2) 29 16
  let n := bits (w 3) 3 0
  if n = 0 ∨ 8 < n then 1
  else if count = 0 then 2
  else if first + count > Config.cores then 3
  else if bits (w 2) 15 14 != 0 || bits (w 2) 63 30 != 0 || bits (w 3) 7 4 != 0 || bits (w 3) 15 10 != 0 ||
      bits (w 3) 31 24 != 0 || bits (w 3) 63 48 != 0 || w 5 != 0 || w 6 != 0 || w 7 != 0 then 4
  else 0

/-- The launch of a packet (R28, R256). -/
def packetLaunch (q count : Nat) (w : Nat → Word) : Launch :=
  { queue := q, count := count, entry := w 0, image := w 1, first := bits (w 2) 13 0, ncores := bits (w 2) 29 16,
    n := bits (w 3) 3 0, det := bitAt (w 3) 8, check := bitAt (w 3) 9, weight := bits (w 3) 23 16,
    domain := bits (w 3) 47 32, compl := w 4, second := false, digestA := 0, away := 0 }

/-- A doubleword is stored at an offset of the completion address, when there is one, or its failure is logged (R257).
DEDUCED, log 35. -/
def storeStatus (l : Launch) (off : Nat) (v : Word) (s : State) : State :=
  if l.compl = 0 then s
  else
    let va := l.compl + BitVec.ofNat 64 off
    let refused (c : Cause) : State := logRecord ⟨7, causeCode c, va, v, BitVec.ofNat 64 l.ident, 0⟩ s
    match checkAccess s 0 ⟨true, none⟩ (.store none) va 8 with
    | .ok p =>
      match p.loc with
      | .here a => shoot 0 a 8 s (performStore va a (leBytes 8 v.toNat) s)
      | .there _ _ => refused .prot
    | .error e => refused e.cause

/-- The status doubleword of R257. -/
def launchStatus (l : Launch) (code reason : Nat) : Word :=
  BitVec.ofNat 64 (code + reason * 2 ^ 8 + l.count % 2 ^ 32 * 2 ^ 16)

/-- What follows the end of a launch in slot n: the MSI-X message, held host writes, and the mapper (R313, R322, R323,
R379). -/
def launchEnded (n : Nat) (l : Launch) (s : State) : State :=
  let x := s.queue l.queue
  let s1 : State := if x.irq then { s with msix := s.msix ++ [l.queue] } else s
  let s2 := match x.disabling with
    | some w => s1.modQueue l.queue (setDescriptor w)
    | none => s1
  let s3 := match tabFind s2.mapHeld n with
    | some w => setMap n w { s2 with mapHeld := tabDel s2.mapHeld n }
    | none => s2
  mapper (trootRelease s3)

/-- LAUNCH_START (R29, R255, R256): slot n takes the next packet of its queue, which starts or is rejected. -/
def launchStart (n : Nat) (s : State) : Option State :=
  let m := s.map_ n
  let q := mapQueue m
  let x := s.queue q
  if n ≥ 32 || !booted s || s.fatal || !mapBound m || runs s n || queueBusy s q || !x.en || x.err ||
      x.disabling.isSome || ringEmpty x then none
  else
    let w := packetWord s x
    let l := packetLaunch q ((x.taken + 1) % 2 ^ 32) w
    let s1 := s.modQueue q fun y => { y with head := (y.head + 1) % 2 ^ 16, taken := y.taken + 1 }
    let reason := rejectReason w
    if reason ≠ 0 then some (launchEnded n l (storeStatus l 0 (launchStatus l 2 reason) s1))
    else
      let s2 : State :=
        { s1 with
          launches := tabSet s1.launches n l, run := if l.check then false else s1.run
          pctl := tabSet s1.pctl n { tabGet Pctl.reset s1.pctl n with need := (Config.saveNeed l.first l.ncores l.n).toNat } }
      some (placeLaunch n l s2)

/-- LAUNCH_START (R29). -/
def execLaunchStart (n : Nat) (s : State) : Out :=
  event (launchStart n) s

/-- The strands of the launch of active queue slot n that are in issue slots. -/
def slotStrands (s : State) (n : Nat) : List (Nat × Nat) :=
  s.places.filter fun (c, i) => decide (i < 8) && (s.slot c i).state != .empty && (s.strand c i).isOf n

/-- A serial number belongs to a strand of another launch. -/
def foreign (s : State) (n uid : Nat) : Bool :=
  match s.find uid with
  | some (c, i) => i == 8 || !(s.strand c i).isOf n
  | none =>
    match s.away uid with
    | some x => !x.isOf n
    | none => false

/-- A buffered store of core c is none of the launch of slot n: it is another launch's, or stored for another module (R161),
or an overflow record of a core outside the launch's set. -/
def foreignStore (s : State) (n c : Nat) (e : SbEntry) : Bool :=
  if e.uid = 0 then
    e.ack.isSome || match s.launch n with
      | some l => !inSet (l.first, l.ncores) c
      | none => true
  else foreign s n e.uid

/-- Every store of the launch is performed, those to page tables at MODULE scope, and every averaging entry applied (R31, R257,
R317). -/
def storesDone (s : State) (n : Nat) : Bool :=
  (s.cores.all fun (c, k) => (k.sb ++ k.spill).all (foreignStore s n c) && k.avgQ.all fun e => foreign s n e.uid) &&
  (s.pending.all fun p => !p.store || foreign s n p.uid) &&
  s.stale.all fun (u, _, _) => u == 0 || foreign s n u || settled true s u

/-- Every engine command, chain and face push of the launch has ended (R31, R278). -/
def commandsDone (s : State) (n : Nat) : Bool :=
  let mine (i : QItem) : Bool := match i with
    | .cmd x => x.q == some n
    | .chain x => x.q == some n
    | .marker _ => false
  !(s.clusters.any fun (_, k) => k.faceQ.any mine || k.copyQ.toList.any fun q => q.any mine) &&
  !(s.dies.any fun (_, k) => k.pq.toList.any fun q => q.any mine)

/-- A record of a steal is on its way to or from a core. -/
def stealMoves (s : State) (l : Launch) : Bool :=
  s.flight.any fun m => match m with
    | .stealRecord c v _ _ => inSet (l.first, l.ncores) c || inSet (l.first, l.ncores) v
    | .stealAck c v _ => inSet (l.first, l.ncores) c || inSet (l.first, l.ncores) v
    | .stealConfirm c v => inSet (l.first, l.ncores) c || inSet (l.first, l.ncores) v
    | .stealVoid c v => inSet (l.first, l.ncores) c || inSet (l.first, l.ncores) v
    | _ => false

/-- An idle strand can still find a task: in its own deque or in that of a victim (R240). -/
def findsTask (s : State) (l : Launch) (c i : Nat) : Bool :=
  let has (v : Nat) : Bool := !(s.core v).deque.isEmpty
  has c || (!(s.core c).det && (launchCores l).any fun v => inStealDomain (s.strand c i).stdom c v && has v)

/-- The launch meets R31 in all but the comparison. DEDUCED, log 35. -/
def kernelDone (s : State) (n : Nat) (l : Launch) : Bool :=
  (slotStrands s n).all (fun (c, i) => s.waiting c i == some .idle && !findsTask s l c i) &&
  (s.cores.all fun (_, k) => k.arr.all fun e => !e.strand.isOf n) &&
  !movesFor s n &&
  (l.away == 0 || Config.endedAway l.ident s.cyc) &&
  !stealMoves s l && storesDone s n && commandsDone s n

/-- The halves that the waiting strands of a launch hold since a YIELD: core, engine, half (R348). -/
def waitingLeases (s : State) (n : Nat) : List (Nat × Nat × Nat) :=
  s.cores.flatMap fun (c, k) => k.arr.filterMap fun e =>
    if e.strand.isOf n then e.strand.lease.map fun (a, h) => (c, a, h) else none

/-- The strands of a launch leave their slots with their leases, and its cores their reservation (R25, R31, R123). -/
def clearLaunch (n : Nat) (s : State) : State :=
  let s0 := (slotStrands s n).foldl (fun s (c, i) => leaveSlot c i (releaseLease c i s)) s
  let s1 := (waitingLeases s n).foldl (fun s (c, e, h) => freeHalf (clusterOf c) e h s) s0
  { s1 with
    cores := s1.cores.map fun (c, k) =>
      (c,
        let k1 := { k with reserved := k.reserved.filter (· != n) }
        if k.reserved.head? = some n then { k1 with det := false, turnZero := none } else k1) }

/-- The digest of a run: core digests over D0-D8, folded in core order (R339). -/
def runDigest (s : State) (l : Launch) : Word :=
  (launchCores l).foldl (fun acc c => foldDigest acc ((s.core c).digests.toList.foldl foldDigest 0)) 0

/-- The end of a launch with a status code (R257). -/
def finishLaunch (n : Nat) (l : Launch) (code : Nat) (s : State) : State :=
  let s1 := storeStatus l 0 (launchStatus l code 0) s
  launchEnded n l { s1 with launches := tabDel s1.launches n
                            pctl := tabSet s1.pctl n { tabGet Pctl.reset s1.pctl n with need := 0 } }

/-- KERNEL_COMPLETION (R31, R257, R339): the launch of slot n completes, or a checked one runs again. DEDUCED, log 48,
for the second run; and for CHK.RUN, one bit for the module, while two checked launches run: it shows the run that was placed
last. -/
def kernelCompletion (n : Nat) (s : State) : Option State :=
  match s.launch n with
  | none => none
  | some l =>
    if (tabGet Pctl.reset s.pctl n).busy || !kernelDone s n l then none
    else
      let s1 := clearLaunch n s
      if !l.check then some (finishLaunch n l 1 s1)
      else
        let d := runDigest s l
        if !l.second then
          let l2 := { l with second := true, digestA := d }
          some (placeLaunch n l2 { s1 with run := true, launches := tabSet s1.launches n l2 })
        else
          let s2 := storeStatus l 16 d (storeStatus l 8 l.digestA s1)
          if l.digestA = d then some (finishLaunch n l 1 { s2 with mism := false })
          else some (finishLaunch n l 3 (logRecord ⟨5, causeCode .digestMismatch, BitVec.ofNat 64 l.ident, l.digestA, d, 0⟩ { s2 with mism := true }))

/-- KERNEL_COMPLETION (R31). -/
def execKernelCompletion (n : Nat) (s : State) : Out :=
  event (kernelCompletion n) s

end Sys2Proof.Machine
end

