-- ==== Sys2Proof/Machine/Preempt.lean ====
section
/-! DEFINITION. Pre-emption and resumption of a launch (R36, R125, R126, R134, R182, R222, R228, R242, R275, R278, R308,
R354-R359). -/

namespace Sys2Proof.Machine

/-- PCTL of an active queue slot. -/
def State.pctlOf (s : State) (n : Nat) : Pctl :=
  tabGet Pctl.reset s.pctl n

/-- The module with PCTL of an active queue slot updated. -/
def State.modPctl (s : State) (n : Nat) (f : Pctl → Pctl) : State :=
  { s with pctl := tabSet s.pctl n (f (s.pctlOf n)) }

/-- PREEMPT (R354, R308): a write of OP = 1 begins the freeze of the launch's domain. -/
def preempt (n : Nat) (s : State) : Option State :=
  let x := s.pctlOf n
  match s.launch n with
  | none => none
  | some l =>
    if x.busy || (tabFind s.saved n).isSome then none
    else
      let fresh := !s.frozenDoms.contains l.domain
      let s1 := s.modPctl n fun y => { y with op := 1, busy := true, reached := [], froze := fresh }
      some (if fresh then startFreeze l.domain s1 else s1)

/-- PREEMPT (R354). -/
def execPreempt (n : Nat) (s : State) : Out :=
  hostEvent (preempt n) s

/-- A withdrawn operation: its strand stays at the instruction, or goes where an abandonment has sent it (R308, R356). -/
def withdraw (c n : Nat) (f : Strand → Strand) (s : State) : State :=
  s.modSlot c n fun x => { x with state := .ready, strand := let y := f x.strand; y.goTo y.pc }

/-- The strand's engine commands not yet started (R356). -/
def hasUnstarted (s : State) (uid : Nat) : Bool :=
  let mine (i : QItem) : Bool := match i with
    | .cmd x => x.uid == uid && !x.started
    | .chain x => x.uid == uid && !x.started
    | .marker _ => false
  (s.clusters.any fun (_, k) => k.copyQ.toList.any fun q => q.any mine) ||
  (s.dies.any fun (_, k) => k.pq.toList.any fun q => q.any mine)

/-- An LDM is withdrawn: the registers that it has loaded keep their values, and RIDX names the first that it has not
(R356); one with every doubleword read ends. -/
def withdrawLdm (c n : Nat) (els : List Elem) (dst : LoadDst) (s : State) : State :=
  let r := gather s c (s.strand c n).uid els
  match r.2 with
  | some (e, _) =>
    let s1 := markSeen c (s.strand c n).uid (r.1.map Prod.fst) (dropTags (elemTags els) s)
    withdraw c n id (partLoaded c n dst r.1 e.idx s1)
  | none => (loadComplete c n s).getD s

/-- A COLLW that waits for room in its queue stays in WAIT, and its chain is one that is saved or enters its queue as there is room
(R275, R278, R356); its item is folded (R338). DEDUCED, log 37. -/
def saveCollw (c n q : Nat) (x : Chain) (d : BitVec 4) (a : Word) (sz : Nat) (v : Word) (s : State) : State :=
  let s1 : State := { s with returning := s.returning ++ [(homeOf c q, q, .chain x)] }
  foldItem c n a sz v (s1.setState c n (.wait (.collw x.cid d)))

/-- What pre-emption does to an operation in WAIT when the request arrives (R356). DEDUCED, log 37. -/
def stopWait (c n : Nat) (op : WaitOp) (s : State) : State :=
  let uid := (s.strand c n).uid
  match op with
  | .load els dst _ =>
    match dst with
    | .desc _ _ _ _ => s
    | .record none => s
    | .quant _ => s
    | .regs _ _ => withdrawLdm c n els dst s
    | _ => withdraw c n id (dropTags (elemTags els) s)
  | .storeRoom es fin _ begun =>
    match fin with
    | .plain => if begun then s else withdraw c n id s
    | .stm last => withdraw c n (fun x => { x with ridx := BitVec.ofNat 4 (last - es.length) }) s
    | _ => s
  | .qst j gs stop cut =>
    let q := cutGroups gs stop
    s.setState c n (.wait (.qst j q.1 q.2.1 (q.2.2 <|> cut)))
  | .ord op =>
    match op.phase with
    | .applied _ => s
    | .refused _ => s
    | _ => withdraw c n id (unhold c n s)
  | .mwait d limit e _ => s.setState c n (.wait (.mwait d limit e true))
  | .fence _ _ => if hasUnstarted s uid then withdraw c n id s else s
  | .mma op => if op.started.isSome then s else withdraw c n id (leaveEngine c n s)
  | .join _ _ => withdraw c n id (dropRequests uid s)
  | .recv _ _ _ => withdraw c n id s
  | .send op _ =>
    if (op.held.bind (acceptance s)).isSome || (destTok op.dest && op.held.isSome) then s
    else withdraw c n (unsend op) (takeBack op s)
  | .migrate core m _ asked placed => withdraw c n id (giveUpPlace core m uid asked placed s)
  | .engine q item d (a, sz, v) =>
    match item with
    | .chain x => if x.wait then saveCollw c n q x d a sz v s else withdraw c n (refillReg d) s
    | _ => withdraw c n (refillReg d) s
  | .rpush _ _ _ d _ _ _ => withdraw c n (refillReg d) s
  | .qfence _ => withdraw c n id s
  | .bnext => withdraw c n id s
  | .gstore _ _ => withdraw c n id s
  | .barw _ _ _ _ _ => withdraw c n id s
  | .scLoad _ _ _ _ => s
  | .scStore _ => s
  | .amo _ _ _ => s
  | .fred _ _ _ => s
  | .mon _ => s
  | .spawn _ _ _ _ => s
  | .tend _ _ _ => s
  | .idle => s
  | .collw _ _ => s
  | .bcommit => s
  | .link _ _ _ _ _ => s
  | .confirm _ _ _ _ => s
  | .bfrzD _ _ => s
  | .gld _ _ _ _ _ => s
  | .gfence => s
  | .synci _ _ _ _ => s
  | .barv _ _ _ => s

/-- The cores that hold a strand of the launch of active queue slot n or belong to it. -/
def preemptCores (s : State) (n : Nat) (l : Launch) : List Nat :=
  let other := (s.cores.filter fun (c, k) => !inSet (l.first, l.ncores) c &&
    (k.arr.any (fun e => e.strand.isOf n) ||
      (List.range 8).any fun i => (k.slot i).state != .empty && (k.slot i).strand.isOf n)).map Prod.fst
  launchCores l ++ other

/-- PREEMPT_REQUEST_ARRIVAL (R36, R308, R356): once the domain's freeze is complete, the request reaches core c. It ends an MWAIT
of the pre-empted launch alone (R228): DEDUCED, log 37. -/
def preemptArrives (n c : Nat) (s : State) : Option State :=
  let x := s.pctlOf n
  match s.launch n with
  | none => none
  | some l =>
    if !x.busy || x.op != 1 || (freezeOf s l.domain).isSome || x.reached.contains c ||
        !(preemptCores s n l).contains c then none
    else
      let s1 := (s.modPctl n fun y => { y with reached := y.reached ++ [c] }).modCore c fun k =>
        { k.woken s.cyc with preempted := k.preempted ++ [n] }
      some ((List.range 8).foldl (fun s i =>
        if (s.strand c i).isOf n then
          match s.waiting c i with
          | some op => stopWait c i op s
          | none => s
        else s) s1)

/-- PREEMPT_REQUEST_ARRIVAL (R36). -/
def execPreemptRequestArrival (n c : Nat) (s : State) : Out :=
  event (preemptArrives n c) s

/-- The chain of a COLLW has not started (R275). -/
def chainUnstarted (s : State) (cid : Nat) : Bool :=
  s.returning.any (fun x => x.2.2.cid == some cid) || s.dies.any fun (_, k) => k.pq.toList.any fun q => q.any fun i =>
    match i with
    | .chain x => x.cid == cid && !x.started
    | _ => false

/-- The strand in a slot can be saved: it is not in WAIT, or idle, or in a COLLW whose chain has not started (R356). -/
def savable (s : State) (c i : Nat) : Bool :=
  match (s.slot c i).state with
  | .wait .idle => true
  | .wait (.collw cid _) => chainUnstarted s cid
  | .wait _ => false
  | _ => true

/-- Everything that the save waits for has ended (R242, R355). -/
def saveReady (s : State) (n : Nat) (l : Launch) : Bool :=
  (preemptCores s n l).all (fun c => (s.pctlOf n).reached.contains c) &&
  (slotStrands s n).all (fun (c, i) => savable s c i && !s.pending.any fun p => p.uid == (s.strand c i).uid) &&
  storesDone s n && !stealMoves s l &&
  (launchCores l).all (fun c => (s.core c).deque.all fun e => e.lent.isNone) &&
  !movesFor s n

/-- The tiles of a strand's half that its dirty flags name, ascending (R125). -/
def dirtyTiles (s : State) (c : Nat) (x : Strand) : List (Nat × Tile) :=
  match x.lease with
  | none => []
  | some (e, h) => ((List.range 4).filter fun j => bitAt x.dirty j).map fun j =>
      (j, tabGet 0 (s.cluster (clusterOf c)).tiles (8 * e + 4 * h + j))

/-- The context of a strand of core c as it is saved: one that holds a half leaves it, with its dirty tiles (R125, R356,
R357). -/
def saveContext (s : State) (c : Nat) (x : Strand) : Strand :=
  savedContext (if x.lease.isSome then { x with lease := none, relet := true, tiles := dirtyTiles s c x } else x)

/-- The context of the strand in a slot as it is saved, idle or in a COLLW (R275, R356). -/
def saveStrand (s : State) (c i : Nat) : Strand :=
  let op := s.waiting c i
  saveContext s c { s.strand c i with
    idle := op == some .idle, issued := (s.slot c i).lastIssue
    collw := match op with
      | some (.collw cid d) => some (cid, d)
      | _ => none }

/-- The numbers of the commands of active queue slot n in a queue that have not started (R278). -/
def unstartedIn (n : Nat) (q : EngineQ) : List Nat :=
  q.filterMap fun i => match i with
    | .cmd x => if x.q == some n && !x.started then some x.cid else none
    | .chain x => if x.q == some n && !x.started then some x.cid else none
    | .marker _ => none

/-- The queues of the module, by cluster or die, and number. -/
def allQueues (s : State) : List (Nat × Nat) :=
  (s.clusters.flatMap fun (k, _) => (List.range 4).map fun q => (k, q)) ++
  s.dies.flatMap fun (d, _) => [(d, 4), (d, 5)]

/-- An item of a queue is saved: an unstarted command of the launch, with here saying that the queue holds one, or a join
marker that stands among them or waits for one (R278). -/
def savesItem (ids : List Nat) (here : Bool) : QItem → Bool
  | .cmd x => ids.contains x.cid
  | .chain x => ids.contains x.cid
  | .marker js => here || js.any ids.contains

/-- What stays in a queue: other commands, and markers for them. -/
def keepItem (ids : List Nat) : QItem → Option QItem
  | .cmd x => if ids.contains x.cid then none else some (.cmd x)
  | .chain x => if ids.contains x.cid then none else some (.chain x)
  | .marker js =>
    let left := js.filter fun j => !ids.contains j
    if left = [] then none else some (.marker left)

/-- The command of an item waits to enter its queue for a launch. -/
def itemOf (n : Nat) : QItem → Bool
  | .cmd y => y.q == some n
  | .chain y => y.q == some n
  | .marker _ => false

/-- The launch as it is saved (R355). DEDUCED, log 38. -/
def savedLaunch (s : State) (n : Nat) (l : Launch) : Saved :=
  let slots := (preemptCores s n l).flatMap fun c =>
    ((slotStrands s n).filter fun x => x.1 == c).map fun x => (c, saveStrand s c x.2)
  let waiting := (preemptCores s n l).flatMap fun c =>
    ((s.core c).arr.filter fun e => e.strand.isOf n).map fun e => (c, saveContext s c e.strand)
  let ids := (allQueues s).flatMap fun (k, q) => unstartedIn n (getQ s k q)
  { launch := l, strands := slots ++ waiting, base := bits (s.pctlOf n).base 42 18 * 2 ^ 18
    deques := (launchCores l).map fun c => (c, loadDeque s c)
    recvs := (launchCores l).map fun c => (c, (s.core c).recvQ)
    items := (allQueues s).flatMap fun (k, q) =>
      ((getQ s k q).filter (savesItem ids !(unstartedIn n (getQ s k q)).isEmpty)).map (fun i => (k, q, i)) ++
        s.returning.filter fun x => x.1 == k && x.2.1 == q && itemOf n x.2.2
    digests := (launchCores l).map fun c => (c, (s.core c).digests)
    locals := (launchCores l).map fun c =>
      (c, s.mem.filter fun (a, _) => decide (lsAddr c 0 ≤ a) && decide (a < lsAddr c 0x8000))
    froze := (s.pctlOf n).froze }

/-- The bytes of a saved local store, as they stood. -/
def localBytes (c : Nat) (cells : List Host.Cell) : List Byte :=
  (List.range 0x8000).map fun i => memByte cells (lsAddr c i)

/-- The launch leaves its cores and queues (R25, R36, R123, R278, R355). -/
def removeLaunch (n : Nat) (l : Launch) (s : State) : State :=
  let ids := (allQueues s).flatMap fun (k, q) => unstartedIn n (getQ s k q)
  let s1 := clearLaunch n s
  let s2 : State :=
    { s1 with
      launches := tabDel s1.launches n, returning := s1.returning.filter fun x => !itemOf n x.2.2
      cores := s1.cores.map fun (c, k) =>
        let k1 := { k with arr := k.arr.filter (fun e => !e.strand.isOf n), preempted := k.preempted.filter (· != n) }
        (c, if inSet (l.first, l.ncores) c then { k1 with deque := [], recvQ := [] } else k1)
      clusters := s1.clusters.map fun (k, x) =>
        (k, { x with copyQ := x.copyQ.map fun q => q.filterMap (keepItem ids) })
      dies := s1.dies.map fun (d, x) => (d, { x with pq := x.pq.map fun q => q.filterMap (keepItem ids) }) }
  s2.modPctl n fun y => { y with busy := false, reached := [] }

/-- A saved command as 64 bytes: its number and queue, and its operands or its next descriptor. DESIGN CHOICE, log 38. -/
def itemWords (q : Nat) : QItem → List Nat
  | .cmd x => [x.cid + q * 2 ^ 56, x.dst.toNat, x.src.toNat, x.len, x.off, x.sync.getD 0, x.uid, 0]
  | .chain x => [x.cid + q * 2 ^ 56, (x.desc.getD 0).toNat, x.steps, b2n x.wait, 0, 0, x.uid, 0]
  | .marker ids => (ids ++ List.replicate 8 0).take 8

/-- The bytes of a save area: the strands' records, the deques, the receive queues, the commands, the digests and the local
stores of the cores (R355). DESIGN CHOICE, log 38. -/
def Saved.bytes (sv : Saved) : List Byte :=
  let words (ws : List Nat) : List Byte := ws.flatMap (leBytes 8)
  sv.records ++
  (sv.deques.flatMap fun x => x.2.flatMap fun e => words ((taskWords e.task).map BitVec.toNat)) ++
  (sv.recvs.flatMap fun x => x.2.flatMap fun ws => words (ws.toList.map BitVec.toNat)) ++
  (sv.items.flatMap fun x => words (itemWords x.2.1 x.2.2)) ++
  (sv.digests.flatMap fun x => words (x.2.toList.map BitVec.toNat)) ++
  (sv.locals.flatMap fun x => localBytes x.1 x.2)

/-- PREEMPT_SAVE_COMPLETE (R355): the launch is saved and leaves the module; a slot that is free by then may be bound
(R323). -/
def saveComplete (n : Nat) (s : State) : Option State :=
  let x := s.pctlOf n
  match s.launch n with
  | none => none
  | some l =>
    if x.busy && x.op == 1 && saveReady s n l then
      let sv := savedLaunch s n l
      let s1 := shoot 0 sv.base sv.bytes.length s (perform sv.base sv.bytes (removeLaunch n l s))
      some (mapper (trootRelease { s1 with saved := tabSet s1.saved n sv }))
    else none

/-- PREEMPT_SAVE_COMPLETE (R355). -/
def execPreemptSaveComplete (n : Nat) (s : State) : Out :=
  event (saveComplete n) s

/-- The local store of core c is written back with its identity words (R85, R359). -/
def restoreLocal (n : Nat) (l : Launch) (s : State) (x : Nat × List Host.Cell) : State :=
  perform (lsAddr x.1 0x780) ((identityWords s n l x.1).flatMap (leBytes 8)) (perform (lsAddr x.1 0) (localBytes x.1 x.2) s)

/-- A core takes back its deque, receive queue, digests and reservation (R25, R355, R359). -/
def restoreCore (n : Nat) (sv : Saved) (s : State) (c : Nat) : State :=
  let s1 := storeDeque c (tabGet [] sv.deques c ++ loadDeque s c) s
  s1.modCore c fun k =>
    { k.woken s.cyc with
      recvQ := tabGet [] sv.recvs c ++ k.recvQ, digests := if sv.launch.check then tabGet k.digests sv.digests c else k.digests
      reserved := if sv.launch.det then k.reserved ++ [n] else k.reserved }

/-- RESUME (R354, R359): a write of OP = 2 gives a saved launch its local stores, deques, receive queues and digests back,
and its commands enter their queues as these have room (R259, R278). CHK.RUN shows its run (R148). DEDUCED, log 37. -/
def resume (n : Nat) (s : State) : Option State :=
  match tabFind s.saved n with
  | none => none
  | some sv =>
    if (s.pctlOf n).busy || runs s n then none
    else
      let l := sv.launch
      let s1 := sv.locals.foldl (restoreLocal n l) s
      let s2 := (launchCores l).foldl (restoreCore n sv) s1
      let s3 : State :=
        { s2 with
          returning := s2.returning ++ sv.items, saved := tabSet s2.saved n { sv with items := [] }
          launches := tabSet s2.launches n l, run := if l.check then l.second else s2.run }
      some (returnAll sv.items.length (s3.modPctl n fun y => { y with op := 2, busy := true }))

/-- RESUME (R359). -/
def execResume (n : Nat) (s : State) : Out :=
  hostEvent (resume n) s

/-- A command of active queue slot n waits to enter its queue again. -/
def returns (s : State) (n : Nat) : Bool :=
  s.returning.any fun x => itemOf n x.2.2

/-- The end of a resume (R359): once its commands are in their queues the strands wait on their cores, in the order in which
they were saved, and the domain thaws. -/
def resumeComplete (n : Nat) (s : State) : Option State :=
  match tabFind s.saved n with
  | none => none
  | some sv =>
    if !(s.pctlOf n).busy || (s.pctlOf n).op != 2 || returns s n then none
    else
      let s1 := sv.strands.foldl (fun s (c, x) => enterArrivals true c x ((freeTier s c).getD .hbm) s)
        { s with saved := tabDel s.saved n }
      let s2 := if sv.froze then thaw sv.launch.domain s1 else s1
      some (s2.modPctl n fun y => { y with busy := false, froze := false })

end Sys2Proof.Machine
end

