-- ==== Sys2Proof/Machine/Wiring.lean ====
section
/-! DEFINITION. The wiring of a group's modules, and what a port of this module can lead to (R324, R367). -/

namespace Sys2Proof.Machine

/-- Group and index of a module ID (R324). -/
def groupOfModule (m : Nat) : Nat := m / 993
def indexOfModule (m : Nat) : Nat := m % 993

/-- P(i), the point of module index i (R367). -/
def pointOf (i : Nat) : Nat × Nat × Nat :=
  if i = 0 then (0, 0, 1)
  else if i < 32 then (0, 1, i - 1)
  else (1, (i - 32) / 31, (i - 32) % 31)

/-- The product of two points modulo 31. -/
def pointDot (i j : Nat) : Nat :=
  let a := pointOf i
  let b := pointOf j
  (a.1 * b.1 + a.2.1 * b.2.1 + a.2.2 * b.2.2) % 31

/-- The indices linked to index i, ascending (R367). -/
def linkedIndices (i : Nat) : List Nat :=
  (List.range 993).filter fun j => j != i && pointDot i j == 0

/-- The module to which group port p of module m leads; none where the port is always down (R324, R367). -/
def groupPort (m p : Nat) : Option Nat :=
  match (linkedIndices (indexOfModule m))[p]? with
  | some j =>
    let far := groupOfModule m * 993 + j
    if far < 2 ^ 17 then some far else none
  | none => none

/-- Port p of module m can lead to a module: a group port to the one of R367, a global port to one of another group, which
the system builder has wired (log 41). -/
def wired (m p far : Nat) : Bool :=
  if p < 32 then groupPort m p == some far
  else decide (p < Config.ports) && decide (far < 2 ^ 17) && groupOfModule far != groupOfModule m

end Sys2Proof.Machine
end

