-- ==== Sys2Proof/Machine/Fabric.lean ====
section
/-! DEFINITION. Links, peers and their removal, and the errors of memory, registers, transfers and units (R11, R14, R205-R207,
R361-R363, R366, R371-R374). -/

namespace Sys2Proof

/-- Free value: the bytes of a dump that hold the state of the units, in a layout that the spec does not give (R363). -/
opaque Config.unitStates : Machine.State → List Byte

end Sys2Proof

namespace Sys2Proof.Machine

/-- Firmware sets the module's ID and domain, and the members of the domain, from the system's configuration record; from the
end of boot they stay until the next reset (R366, R381). -/
def configure (modId domain : Nat) (members : List Nat) (s : State) : State :=
  if booted s then s
  else { s with modId := modId % 2 ^ 17, domain := domain % 2 ^ 16, peers := (members.filter (· != modId % 2 ^ 17)).eraseDups
                record := modId :: domain :: members }

/-- The outstanding requests to other modules, as module, number and message: the accesses of strands; their sends, reservations and
requests of Asters; multicast lines; and what the running steps of Peony have sent (R373). -/
def openRequests (s : State) : List (Nat × Nat × Msg) :=
  (s.pending.map fun p => (p.module, accessNo p.tag, p.message s)) ++
  ((s.asks.filter fun a => a.module != s.modId).map fun a => (a.module, sendNo a.tag, a.msg)) ++
  (s.mcLines.map fun (k, m, x) => (m, k, x)) ++ openSteps s

/-- A link is declared down (R205, R325, R373): the requests whose routes cross it are sent again under their tags, over another
route. -/
def linkGoesDown (port : Nat) (s : State) : State :=
  ((openRequests s).filter fun x => Config.routeUses x.1 x.2.1 port).foldl (fun s x => sendOut x.1 x.2.2 s)
    (s.modLink port fun l => { l with up := false })

/-- The bytes that an engine of another module writes at a local address are performed, byte by byte (R263, R302, R317). -/
def remoteBytes : Nat → List Byte → State → State
  | _, [], s => s
  | la, b :: bs, s =>
    match checkWith s [] 0 remoteRights (.store none) (ownVa s la) with
    | .ok p =>
      match p.loc with
      | .here a => remoteBytes (la + 1) bs (shoot 0 a 1 s (performStore (ownVa s la) a [b] s))
      | .there _ _ => s
    | .error _ => s

/-- A message that another module can send, to an agent that a module has (R9). DESIGN CHOICE, log 41. -/
def reachesAgent : Msg → Bool
  | .fill _ _ _ => false
  | .access core _ _ _ => decide (core < Config.cores)
  | .recvEntry core _ _ _ => decide (core < Config.cores)
  | .svcEntry core _ _ _ _ _ _ _ => decide (core < Config.cores)
  | .migrate core _ _ _ _ => decide (core < Config.cores)
  | .reserve core _ _ _ => decide (core < Config.cores)
  | .unreserve core _ _ => decide (core < Config.cores)
  | .stealRequest _ _ => false
  | .multicastAck _ => false
  | .stealRecord _ _ _ _ => false
  | .stealEmpty _ _ => false
  | .stealAck _ _ _ => false
  | .stealConfirm _ _ => false
  | .stealVoid _ _ => false
  | .stealReject _ _ _ => false
  | .peonyReady _ _ die _ _ _ => decide (die < Config.dies)
  | .peonyData _ _ die _ _ _ => decide (die < Config.dies)
  | .peonyNotice _ _ die _ => decide (die < Config.dies)
  | .level block _ _ _ _ _ => decide (idCluster block < Config.clusters)
  | .linkInstall block _ _ _ => decide (idCluster block < Config.clusters)
  | .linkClear block _ _ _ => decide (idCluster block < Config.clusters)
  | .rfree block _ _ _ _ => decide (idCluster block < Config.clusters)
  | _ => true

/-- The module from which a message comes, where it says so. -/
def Msg.source : Msg → Option Nat
  | .access _ m _ _ => some m
  | .recvEntry _ m _ _ => some m
  | .svcEntry _ m _ _ _ _ _ _ => some m
  | .unsend m _ => some m
  | .sendConfirm _ m _ => some m
  | .reply m _ _ _ => some m
  | .migrate _ m _ _ _ => some m
  | .reserve _ m _ _ => some m
  | .unreserve _ m _ => some m
  | .peonyReady m _ _ _ _ _ => some m
  | .peonyData m _ _ _ _ _ => some m
  | .peonyNotice m _ _ _ => some m
  | .level _ _ from_ _ _ _ => some (idModule from_)
  | .linkInstall _ _ half _ => some (idModule half.nid)
  | .linkClear _ _ from_ _ => some (idModule from_)
  | .rfree _ _ from_ _ _ => some (idModule from_)
  | .confirm _ m => some m
  | .linked _ m _ _ _ _ => some m
  | .linkRefused _ m _ => some m
  | .multicast m _ _ _ => some m
  | _ => none

/-- A message is of a module of the domain: by its source, or, of an answer that names none, by the link (R366). DESIGN
CHOICE, log 41, for the latter. -/
def sameDomain (l : Link) (s : State) (m : Msg) : Bool :=
  match Msg.source m with
  | some f => s.peers.contains f
  | none => l.dom == s.domain

/-- A packet reaches the module (R366): of another domain, or for no agent of the module, it is discarded at the ingress
port and counted. -/
def deliver (l : Link) (s : State) (m : Msg) : State :=
  if sameDomain l s m = true ∧ reachesAgent m = true then
    match m with
    | .bytes la data => remoteBytes la data s
    | _ => { s with flight := s.flight ++ [m] }
  else countDiscard s

/-- A Lupin packet belongs to the port at which it arrives (R201). -/
def atPort (port : Nat) : Msg → Msg
  | .lupPacket _ pkt base cfg => .lupPacket port pkt base cfg
  | .lupAck _ e n => .lupAck port e n
  | .lupRefusal _ e n => .lupRefusal port e n
  | .reconRequest _ e ns => .reconRequest port e ns
  | .reconReply _ e x ns => .reconReply port e x ns
  | m => m

/-- The number of the epoch in which both ends of a link start after a reset of either (R207; log 21). DEDUCED. -/
def epochBase (s : State) (boot : Nat) : Nat :=
  2 ^ 32 * (s.boots + boot + 1)

/-- The exchange counters of a port start at 0 in every region (R201). -/
def restartCounters (port : Nat) (s : State) : State :=
  { s with regions := s.regions.map fun (e, r) => (e, { r with count := tabDel r.count port }) }

/-- A link's sequence spaces at bring-up: a new epoch after a reset of either end, or toward another far end, with the
packets toward the former far end written off; else reconciliation (R205, R207), which R205 lets run earlier over another
path: the model takes the link itself. DESIGN CHOICE, log 21. -/
def bringUpSequences (port far boot : Nat) (s : State) : State :=
  let l := s.link port
  let base := epochBase s boot
  if l.epoch / 2 ^ 32 ≠ base / 2 ^ 32 ∨ l.far ≠ far then
    (forfeitLink port s).modLink port fun x =>
      { x with epoch := base, rxEpoch := base, txSeq := 0, rxSeq := 0, answers := [], rxClosed := false
               recon := false }
  else
    sendOut far (.reconRequest port l.epoch (l.unacked.map fun x => x.1.seq)) (s.modLink port fun x => { x with recon := true })

/-- A module elsewhere in the fabric has come up: a replacement joins with its own ID, when it is of the domain (R366, R374). DESIGN
CHOICE, log 41, for how the module learns it. -/
def moduleUp (m dom : Nat) (s : State) : State :=
  if m = s.modId ∨ dom ≠ s.domain then s
  else { s with peers := if s.peers.contains m then s.peers else s.peers ++ [m], removed := s.removed.filter (· != m) }

/-- LINK_BRING_UP (R201, R207, R367, R371): a port comes up with the far module to which it is wired, its domain and its
boot count. -/
def linkBringUp (port far dom boot : Nat) (s : State) : Option State :=
  if !wired s.modId port far || (s.link port).up then none
  else
    let (k, s1) := (restartCounters port (bringUpSequences port far boot s)).fresh
    let s2 := s1.modLink port fun x =>
      { x with up := true, far := far, dom := dom, boot := boot, key := Config.linkKey k, frames := 0, sent := 0, skid := s.skid
               retry := false, heard := s.cyc }
    some (moduleUp far dom s2)

/-- LINK_BRING_UP (R371). -/
def execLinkBringUp (port far dom boot : Nat) (s : State) : Out :=
  event (linkBringUp port far dom boot) s

/-- A link takes a new key, and its frame counters start at 0 (R371). -/
def newKey (port : Nat) (s : State) : State :=
  s.fresh.2.modLink port fun x => { x with key := Config.linkKey s.fresh.1, frames := 0, sent := 0 }

/-- A frame is counted for its direction, and a new key comes before a counter reaches 2^48 (R371). -/
def countFrame (out : Bool) (port : Nat) (s : State) : State :=
  let l := s.link port
  if (if out then l.sent else l.frames) + 1 = 2 ^ 48 then newKey port s
  else s.modLink port fun x => if out then { x with sent := x.sent + 1 } else { x with frames := x.frames + 1 }

/-- The link layer of a port sends a frame (R371). -/
def frameSent (port : Nat) (s : State) : State :=
  if (s.link port).up then countFrame true port s else s

/-- LINK_REKEY (R371): a link that is up takes a new key, and its frame counters start at 0. -/
def linkRekey (port : Nat) (s : State) : Option State :=
  if (s.link port).up then some (newKey port s) else none

/-- LINK_REKEY (R371). -/
def execLinkRekey (port : Nat) (s : State) : Out :=
  event (linkRekey port) s

/-- LINK_CONTROL_TIMEOUT (R373): no control flit has arrived for 2,400 cycles. -/
def linkTimeout (port : Nat) (s : State) : Option State :=
  let l := s.link port
  if l.up && decide (l.heard + 2400 ≤ s.cyc) then some (linkGoesDown port s) else none

/-- LINK_CONTROL_TIMEOUT (R373). -/
def execLinkControlTimeout (port : Nat) (s : State) : Out :=
  event (linkTimeout port) s

/-- LINK_DOWN (R373): a link is declared down, for a failed retry or a retraining. -/
def linkDown (port : Nat) (s : State) : Option State :=
  if (s.link port).up then some (linkGoesDown port s) else none

/-- LINK_DOWN (R373). -/
def execLinkDown (port : Nat) (s : State) : Out :=
  event (linkDown port) s

/-- The outstanding requests to a removed module end, by fuel (R374). -/
def endRequests (m : Nat) : Nat → State → State
  | 0, s => s
  | f + 1, s =>
    match s.pending.findSome? fun p => if p.module = m then endRequest p s else none with
    | some s1 => endRequests m f s1
    | none => s

/-- Lupin writes off its escrow toward a removed module (R206). -/
def forfeitPeer (m : Nat) (s : State) : State :=
  (List.range Config.ports).foldl (fun s p => if (s.link p).far = m then forfeitLink p s else s) s

/-- What a removed or silent module does to the operation in WAIT in a slot: a send, a departure, or a wait for its Aster ends with
REMOTE_TIMEOUT; a reply to it counts as discarded (R246, R253, R288, R370, R374). XVAL holds the destination word, or the block.
DESIGN CHOICE, log 16. -/
def endWait (m : Nat) (s : State) (x : Nat × Nat) : State :=
  let c := x.1
  let n := x.2
  let stop (v : Word) : Stop := ⟨.remoteTimeout, v, BitVec.ofNat 64 m⟩
  let done := s.endAsks (s.strand c n).uid
  match s.waiting c n with
  | some (.send op _) =>
    if op.held.isSome && destModule s op.dest == m then
      if destTok op.dest then wake c n id (countDiscard done)
      else trapWait c n (stop op.dest) (done.modStrand c n (unsend op))
    else s
  | some (.migrate core dest _ true _) =>
    if dest = m then trapWait c n (stop (departureWord core m)) done else s
  | some (.link _ _ _ half _) => if idModule half.nid = m then trapWait c n (stop (BitVec.ofNat 64 half.nid)) done else s
  | some (.confirm todo left _ free) =>
    if todo.any (·.1 == m) || left.any (·.2 == m) then
      trapWait c n (stop (BitVec.ofNat 64 (blockId s (clusterOf c) (free.getD 0)))) done
    else s
  | _ => s

/-- What a request that ends without an answer has begun at its target is taken back (R246, R288, R356). -/
def recallRequest (s : State) (c n : Nat) : State :=
  match s.waiting c n with
  | some (.send op _) => takeBack op s
  | some (.migrate core m _ asked placed) => giveUpPlace core m (s.strand c n).uid asked placed s
  | some (.link _ b _ half _) => sendTo (idModule half.nid) (.linkClear half.nid half.peer (blockId s (clusterOf c) b) 0) s
  | _ => s

/-- The message is a reply, which is no request that expects one (R246, R369). -/
def isReply : Msg → Bool
  | .reply _ _ _ _ => true
  | _ => false

/-- The answer under a tag to a request other than an access is in flight. -/
def answerCame (s : State) (tag : Nat) : Bool :=
  s.flight.any fun m => match m with
    | .sendAccepted t => t == tag
    | .noted t => t == tag
    | .granted t => t == tag
    | .confirm t _ => t == tag
    | .linked t _ _ _ _ _ => t == tag
    | .linkRefused t _ _ => t == tag
    | _ => false

/-- A request other than an access has had no answer within 2^FTO cycles: its operation ends with REMOTE_TIMEOUT (R370). A send or
reservation whose target has told that it waits for room there is bounded by R246 and R253 alone. DESIGN CHOICE, log 16. -/
def askTimeout (a : Ask) (s : State) : Option State :=
  if a.noted || isReply a.msg || decide (s.cyc < a.since + 2 ^ s.fto) || answerCame s a.tag then none
  else (s.find a.uid).map fun (c, n) => endWait a.module (recallRequest s c n) (c, n)

/-- REQUESTER_TIMEOUT (R370): the request under a tag has had no reply within 2^FTO cycles. -/
def requesterTimeout (tag : Nat) (s : State) : Option State :=
  match s.pending.find? fun p => p.tag == tag with
  | some p => if p.sent + 2 ^ s.fto ≤ s.cyc && (answerTo s tag).isNone then endRequest p s else none
  | none => (s.asks.find? fun a => a.tag == tag).bind fun a => askTimeout a s

/-- REQUESTER_TIMEOUT (R370). -/
def execRequesterTimeout (tag : Nat) (s : State) : Out :=
  event (requesterTimeout tag) s

/-- The first byte of a command's next chunk that lies on a module, and whether as a destination. -/
def byteOn (m : Nat) (x : Command) : Option (Nat × Bool) :=
  (List.range (chunkLen x)).findSome? fun j =>
    let off := BitVec.ofNat 64 (x.off + j)
    if modField (x.src + off) = m then some (j, false)
    else if modField (x.dst + off) = m then some (j, true)
    else none

/-- The started chunk of a queue that asks a removed module faults (R265, R303, R374). -/
def endCopy (m : Nat) (s : State) (x : Nat × Nat) : State :=
  let k := x.1
  let q := x.2
  match headCmd s k q with
  | some y =>
    match (if chunkReady s k q then byteOn m y else none) with
    | some (j, dst) =>
      let side : RemoteSide := .stop [] j .remoteTimeout dst
      let s1 := s.modCluster k fun z => { z with turn := if q = 6 then 0 else 2 * q + 1 }
      ((if q = 6 then pushFault k side s1 else copyFault k q side s1).map fun t =>
        t.modCluster k fun z => { z with turn := (s.cluster k).turn }).getD s
    | none => s
  | none => s

/-- The step of a Peony queue that meets a removed module, or uses its memory, faults (R265, R274, R374). -/
def endStep (m : Nat) (s : State) (x : Nat × Nat) : State :=
  match stepOf s x.1 x.2 with
  | some t =>
    if (t.op == 1 && t.pmod == m && t.data.isNone) ||
        (stepRemote s x.1 x.2 && [t.buf, t.fa, t.fb].any fun a => modField a == m) then
      chainFault x.1 x.2 .remoteTimeout s
    else s
  | none => s

/-- The multicast lines to a removed member fail at once (R374, R375). -/
def endLines (m : Nat) (s : State) : State :=
  let gone := (s.mcLines.filter fun x => x.2.1 == m).foldl (fun (w : Word) x => w ||| 1 <<< x.1) 0
  if gone = 0 then s
  else multicastSettle { s with mcFailed := s.mcFailed ||| gone, mcWait := s.mcWait &&& ~~~gone
                                mcLines := s.mcLines.filter fun x => x.2.1 != m }

/-- What is outstanding toward a module ends (R374). -/
def endToward (m : Nat) (s : State) : State :=
  let s1 := s.places.foldl (endWait m) (endRequests m s.pending.length s)
  let queues := s1.clusters.flatMap fun (k, _) => [0, 1, 2, 3, 6].map fun q => (k, q)
  let steps := s1.dies.flatMap fun (d, _) => [(d, 0), (d, 1)]
  let s2 := endLines m (steps.foldl (endStep m) (queues.foldl (endCopy m) s1))
  { s2 with cores := s2.cores.map fun (c, k) => (c, { k with claims := k.claims.filter fun x => Msg.source x != some m }) }

/-- MODULE_REMOVE (R206, R374). -/
def moduleRemove (w : Word) (s : State) : Option State :=
  let m := bits w 16 0
  if m = s.modId then none
  else
    let s1 := endToward m s
    some (forfeitPeer m { s1 with removed := if s1.removed.contains m then s1.removed else s1.removed ++ [m] })

/-- MODULE_REMOVE (R374). -/
def execModuleRemove (w : Word) (s : State) : Out :=
  hostEvent (moduleRemove w) s

/-- An error of a unit is logged: kind 3 transient, counted for the unit, or 4 lasting (R361, R362). Its CAUSE is POISON for
memory and MACHINE_CHECK for the rest. DESIGN CHOICE, log 52. -/
def logError (lasting : Bool) (unit : Nat) (b c : Word) (s : State) : State :=
  let cause := causeCode (if unit = 0 then .poison else .machineCheck)
  let s1 := logRecord ⟨if lasting then 4 else 3, cause, BitVec.ofNat 64 unit, b, c, 0⟩ s
  if lasting then s1 else { s1 with errors := tabSet s1.errors unit (tabGet 0 s1.errors unit + 1) }

/-- MEMORY_ECC_ERROR (R361): an uncorrectable read of a line that the retry corrects, or that poisons the line. Unit 0. -/
def memoryEcc (line : Nat) (lasting : Bool) (s : State) : Option State :=
  let s1 := logError lasting 0 (BitVec.ofNat 64 (64 * line)) 0 s
  some (if lasting && !s1.poison.contains line then { s1 with poison := s1.poison ++ [line] } else s1)

/-- MEMORY_ECC_ERROR (R361). -/
def execMemoryEccError (line : Nat) (lasting : Bool) (s : State) : Out :=
  event (memoryEcc line lasting) s

/-- A register read that the code cannot correct succeeds when it is tried again: the instruction goes on, and the event is
logged and counted (R361). Unit 1. -/
def registerRetried (c n : Nat) (syndrome : Word) (s : State) : State :=
  logError false 1 (BitVec.ofNat 64 (n + c * 2 ^ 16)) syndrome s

/-- The instruction reads a general register and names a v or k register (R105). -/
def readsBeside : Instr → Bool
  | .vbcast _ _ _ _ => true
  | .vext _ _ _ _ _ => true
  | .vins _ _ _ _ _ => true
  | .vld _ _ _ _ _ _ => true
  | .vst _ _ _ _ _ _ => true
  | .vlds _ _ _ _ _ _ => true
  | .vsts _ _ _ _ _ _ => true
  | .vgath _ _ _ _ _ _ => true
  | .vscat _ _ _ _ _ _ => true
  | .mrd _ _ _ _ => true
  | .mwr _ _ _ _ => true
  | .qst _ _ _ _ _ _ => true
  | .gseed _ _ _ _ => true
  | .gadd _ _ _ _ => true
  | .gld _ _ _ _ => true
  | _ => false

/-- The executing strand's instruction passes its guard and names a v or k register, so that it sets the in-use flag whatever
follows (R105). -/
def setsInUse (s : State) : Bool :=
  match fetchWord s with
  | .error _ => false
  | .ok w =>
    match decode w with
    | .ok i => i.limits && guardHolds s.me i.guardField && readsBeside i
    | .error _ => false

/-- REGISTER_ECC_ERROR (R361): the instruction of the READY strand in a slot reads a register that is lost, the retry too: it
traps, and the register holds 0. Unit 1. -/
def registerEcc (c n : Nat) (r : BitVec 4) (syndrome : Word) (s : State) : Option State :=
  if (s.slot c n).state ≠ .ready ∨ r = 0 ∨ (s.strand c n).isEmpty r then none
  else
    let s1 := markIssue { s with cur := (c, n) }
    let s2 := s1.modMe fun x => { x with g := x.g.set r.toNat 0 r.isLt, viu := x.viu || setsInUse s1 }
    some (trapHere ⟨.machineCheck, r.setWidth 64, syndrome⟩
      (logError true 1 (BitVec.ofNat 64 (n + c * 2 ^ 16)) syndrome s2))

/-- REGISTER_ECC_ERROR (R361). -/
def execRegisterEccError (c n : Nat) (r : BitVec 4) (syndrome : Word) (s : State) : Out :=
  event (registerEcc c n r syndrome) s

/-- A frame that follows one whose tag has failed is discarded until the link has sent that one again; its control flit is heard
when its tag is good (R372, R373). -/
def frameDropped (port : Nat) (tagOk : Bool) (s : State) : State :=
  if (s.link port).up && (s.link port).retry && tagOk then s.modLink port fun x => { x with heard := s.cyc } else s

/-- LINK_FRAME (R361, R371-R373): the next frame under the link's key, in order. Its packets are delivered in order when its tag
checks; when it fails, it is discarded and asked for again, and the next frame is then that one: those that came after it are
discarded (frameDropped). A retry that succeeds is a transient error of the port, one that fails brings the link down. DESIGN
CHOICE, log 41. -/
def linkFrame (port : Nat) (tagOk : Bool) (msgs : List Msg) (s : State) : Option State :=
  let l := s.link port
  if port ≥ Config.ports || !l.up then none
  else if tagOk then
    let s1 := countFrame false port (s.modLink port fun x => { x with heard := s.cyc, retry := false })
    some ((msgs.map (atPort port)).foldl (deliver l) (if l.retry then logError false (256 + port) 0 0 s1 else s1))
  else if l.retry then some (linkGoesDown port (logError true (256 + port) 0 0 s))
  else some (s.modLink port fun x => { x with retry := true })

/-- LINK_FRAME (R372). -/
def execLinkFrame (port : Nat) (tagOk : Bool) (msgs : List Msg) (s : State) : Out :=
  event (linkFrame port tagOk msgs) s

/-- A corrected ECC read is counted for its unit (R361). -/
def corrected (unit : Nat) (s : State) : State :=
  { s with corrections := tabSet s.corrections unit (tabGet 0 s.corrections unit + 1) }

/-- FABRIC_TRANSFER_ERROR (R361): a failed transfer of a port that its retry mends, or that brings the link down. Unit
256 + port. -/
def transferError (port : Nat) (lasting : Bool) (s : State) : Option State :=
  if port ≥ Config.ports || !(s.link port).up then none
  else
    let s1 := logError lasting (256 + port) 0 0 s
    some (if lasting then linkGoesDown port s1 else s1)

/-- FABRIC_TRANSFER_ERROR (R361). -/
def execFabricTransferError (port : Nat) (lasting : Bool) (s : State) : Out :=
  event (transferError port lasting) s

/-- The status word of a completion that a fatal error ends, at an offset (R262, R363). -/
def lostStatus (off : Nat) : Word := statusWord (some .machineCheck) off false

/-- The items of every engine queue of the module, of saved launches, and on their way back to a queue. -/
def allItems (s : State) : List QItem :=
  ((allQueues s).flatMap fun (k, q) => getQ s k q) ++ (s.saved.flatMap fun (_, v) => v.items.map fun i => i.2.2) ++
    s.returning.map fun i => i.2.2

/-- The engine completions that are pending: strand, register, and the status word that a dump gives them: of commands and
chains, of RPUSHes that await their publication, and of fills on their way (R260, R262, R269, R363). A command still in WAIT for
room in its queue or ring has no completion that is pending, and the dump leaves its gd empty. DESIGN CHOICE, log 39. -/
def pendingFills (s : State) : List (Nat × BitVec 4 × Word) :=
  let item (i : QItem) : Option (Nat × BitVec 4 × Word) := match i with
    | .cmd x => x.fill.map fun t => (t.uid, t.r, lostStatus x.off)
    | .chain x => x.fill.map fun t => (t.uid, t.r, lostStatus x.steps)
    | .marker _ => none
  (allItems s).filterMap item ++
  (s.clusters.flatMap fun (_, k) => k.rings.toList.flatMap fun r => r.resv.filterMap fun x =>
    x.fill.map fun (t, w) => (t.uid, t.r, lostStatus (bits w 55 16))) ++
  s.flight.filterMap fun m => match m with
    | .fill uid r w => some (uid, r, lostStatus (bits w 55 16))
    | _ => none

/-- The chain for which a strand waits under COLLW has taken some steps. -/
def chainSteps (s : State) (cid : Nat) : Nat :=
  ((allItems s).findSome? fun i => match i with
    | .chain x => if x.cid = cid then some x.steps else none
    | _ => none).getD 0

/-- The context of a strand in a dump, with its pending completions filled, that of its COLLW too (R275, R357, R363). One toward a
register that has arrived clipped fills it with the status word, and the clip mark goes. DESIGN CHOICE, log 39. -/
def dumped (s : State) (fills : List (Nat × BitVec 4 × Word)) (x : Strand) : Strand :=
  let y := (fills.filter fun f => f.1 == x.uid).foldl (fun x f => x.fill f.2.1 f.2.2) x
  match x.collw with
  | some (cid, d) => y.put d (lostStatus (chainSteps s cid))
  | none => y

/-- The strands on their way between cores, or saved. -/
def strandsElsewhere (s : State) : List Strand :=
  (s.flight.filterMap fun m => match m with
    | .migrate _ _ uid y bs => some (unpack uid y bs s)
    | _ => none) ++ s.saved.flatMap fun (_, v) => v.strands.map Prod.snd

/-- The contexts of a dump, the first naming the failing unit; with no strand present, a record at reset does (R363).
DEDUCED, log 39. -/
def dumpContexts (unit index : Nat) (syndrome : Word) (s : State) : List Strand :=
  let slots := (s.places.filter fun (c, n) => (s.slot c n).state != .empty).map fun (c, n) => saveStrand s c n
  let arr := s.cores.flatMap fun (c, k) => k.arr.map fun e => saveContext s c e.strand
  match (slots ++ arr ++ strandsElsewhere s).map (dumped s (pendingFills s)) with
  | [] => [{ Strand.reset with
      xcause := BitVec.ofNat 64 (causeCode .machineCheck)
      xval := BitVec.ofNat 64 (unit % 2 ^ 16 + index % 2 ^ 16 * 2 ^ 16), xaux := syndrome }]
  | x :: xs =>
    { x with xcause := BitVec.ofNat 64 (causeCode .machineCheck + b2n x.mode * 2 ^ 63)
             xval := BitVec.ofNat 64 (unit % 2 ^ 16 + index % 2 ^ 16 * 2 ^ 16), xaux := syndrome } :: xs

/-- A record of the trap log as 32 bytes, its kind and cause in the high bits of the last word. DESIGN CHOICE, log 39. -/
def LogRecord.bytes (r : LogRecord) : List Byte :=
  [r.a.toNat, r.b.toNat, r.c.toNat, r.d.toNat % 2 ^ 48 + r.cause % 2 ^ 8 * 2 ^ 48 + r.kind % 2 ^ 8 * 2 ^ 56].flatMap (leBytes 8)

/-- The bytes of a dump: the strands' records, the state of the units, and the trap log (R363). -/
def dumpBytes (unit index : Nat) (syndrome : Word) (s : State) : List Byte :=
  (dumpContexts unit index syndrome s).flatMap contextRecord ++ Config.unitStates s ++ s.log.flatMap LogRecord.bytes

/-- FATAL_ERROR (R11, R15, R363): issue stops, the dump is written to the second tier and copied to the host, and the module
is held until reset. -/
def fatalError (unit index : Nat) (syndrome : Word) (s : State) : Option State :=
  let bs := dumpBytes unit index syndrome s
  some { (perform (0x10000000000 + Config.dumpArea.val) bs s) with fatal := true, dump := bs }

/-- FATAL_ERROR (R363). -/
def execFatalError (unit index : Nat) (syndrome : Word) (s : State) : Out :=
  event (fatalError unit index syndrome) s

/-- POWER_LIMIT_HOLD (R14): MMA starts are held back, or no longer. -/
def powerLimit (hold : Bool) (s : State) : Option State :=
  some { s with powerHold := hold }

/-- POWER_LIMIT_HOLD (R14). -/
def execPowerLimitHold (hold : Bool) (s : State) : Out :=
  event (powerLimit hold) s

/-- The cycles of a minute at 2.4 GHz (R10, R362). -/
def minuteCycles : Nat := 144000000000

/-- DISCARD_COUNT_RECORD (R362): the discards of a minute are logged. -/
def discardRecord (s : State) : Option State :=
  if s.minute + minuteCycles ≤ s.cyc then
    some { (logRecord ⟨6, 0, BitVec.ofNat 64 s.discards, 0, 0, 0⟩ s) with discards := 0, minute := s.cyc }
  else none

/-- DISCARD_COUNT_RECORD (R362). -/
def execDiscardCountRecord (s : State) : Out :=
  event discardRecord s

end Sys2Proof.Machine
end

