-- ==== Sys2Proof/Machine/HostPort.lean ====
section
/-! DEFINITION. The host's register block and aperture, multicast, attestation, boot and firmware, module reset, and power
gating (R16, R207, R354, R364, R365, R374-R383). -/

namespace Sys2Proof.Machine

/-- LATECNT_CLEAR (R377). -/
def latecntClear (s : State) : Option State :=
  some { s with latecnt := 0 }

/-- LATECNT_CLEAR (R377). -/
def execLatecntClear (s : State) : Out :=
  hostEvent latecntClear s

/-- PCTLn at an offset of the register block (R377). -/
def pctlAt (off : Nat) : Option Nat :=
  if 0x400 ≤ off ∧ off < 0x600 ∧ off % 16 = 0 then some ((off - 0x400) / 16) else none

/-- PBASEn at an offset of the register block (R377). -/
def pbaseAt (off : Nat) : Option Nat :=
  if 0x400 ≤ off ∧ off < 0x600 ∧ off % 16 = 8 then some ((off - 0x400) / 16) else none

/-- REGISTER_WRITE (R377): the registers without behaviour of their own: FCFG, MCCTL without GO or while BUSY, MCLIST, MCSRC, MCDST,
APBASE, PBASEn, NONCE, and PCTLn with an OP that asks for nothing. Other offsets ignore the write. -/
def registerWrite (off : Nat) (w : Word) (s : State) : Option State :=
  if off % 8 ≠ 0 || (decide (off ≥ 0x1000) && !booted s) then none
  else if off = 0x8 then
    let f := bits w 4 0
    some (if 16 ≤ f ∧ f ≤ 24 then { s with fto := f, skid := bitAt w 8 } else s)
  else if off = 0x40 then
    some (if bitAt w 8 && !bitAt s.mcctl 9 then s else { s with mcctl := setField s.mcctl 0 6 (bits w 5 0) })
  else if off = 0x48 then some { s with mclist := w }
  else if off = 0x50 then some { s with mcsrc := w }
  else if off = 0x58 then some { s with mcdst := w }
  else if off = 0x108 then some { s with apbase := BitVec.ofNat 64 (bits w 42 36 * 2 ^ 36) }
  else if 0xC00 ≤ off ∧ off < 0xC20 then some { s with nonce := setField s.nonce (8 * (off - 0xC00)) 64 w.toNat }
  else
    match pbaseAt off, pctlAt off with
    | some n, _ => some (s.modPctl n fun y => { y with base := BitVec.ofNat 64 (bits w 42 18 * 2 ^ 18) })
    | none, some n =>
      let op := bits w 1 0
      some (if (s.pctlOf n).busy || op == 1 || op == 2 then s else s.modPctl n fun y => { y with op := op })
    | none, none => some s

/-- REGISTER_WRITE (R377). -/
def execRegisterWrite (off : Nat) (w : Word) (s : State) : Out :=
  hostEvent (registerWrite off w) s

/-- HBM and the second tier: what the aperture reaches (R380). -/
def deviceMemory (a n : Nat) : Bool :=
  decide (a + n ≤ 0x30000000000)

/-- The host writes its own memory, which programs see through the host window; writes elsewhere are none of its own (R152,
R314). DESIGN CHOICE, log 41. -/
def hostWrite (a : Nat) (data : List Byte) (s : State) : State :=
  if 0x40000000000 ≤ a ∧ a + data.length ≤ 0x80000000000 then perform a data s else s

/-- An access of the aperture: aligned, of 1, 2, 4 or 8 bytes, within 64 GiB, once the module is booted (R376, R380,
R382). -/
def apertureOk (s : State) (off size : Nat) : Bool :=
  booted s && (size == 1 || size == 2 || size == 4 || size == 8) && off % size == 0 && decide (off + size ≤ 2 ^ 36)

/-- APERTURE_WRITE (R380). -/
def apertureWrite (off size : Nat) (w : Word) (s : State) : Option State :=
  let a := s.apbase.toNat + off
  if !apertureOk s off size then none
  else if deviceMemory a size then some (shoot 0 a size s (performPhysical a (leBytes size w.toNat) s))
  else some (logRecord ⟨8, 0, BitVec.ofNat 64 a, w, 1, 0⟩ s)

/-- APERTURE_WRITE (R380). -/
def execApertureWrite (off size : Nat) (w : Word) (s : State) : Out :=
  hostEvent (apertureWrite off size w) s

/-- APERTURE_READ (R380): the value that the host reads. -/
def apertureRead (off size : Nat) (s : State) : Option State :=
  let a := s.apbase.toNat + off
  if !apertureOk s off size then none
  else if deviceMemory a size then some { s with hostRead := BitVec.ofNat 64 (s.read a size) }
  else some { (logRecord ⟨8, 0, BitVec.ofNat 64 a, 0, 0, 0⟩ s) with hostRead := BitVec.ofNat 64 (2 ^ (8 * size) - 1) }

/-- APERTURE_READ (R380). -/
def execApertureRead (off size : Nat) (s : State) : Out :=
  hostEvent (apertureRead off size) s

/-- The member count of a multicast (R378). -/
def mcCount (s : State) : Nat := bits s.mcctl 5 0 + 1

/-- The line goes to member k of the list; one that is removed or of another domain, or of a poisoned line, fails (R375). -/
def multicastTo (bad : Bool) (no : Nat) (data : List Byte) (s : State) (k : Nat) : State :=
  let m := s.read (s.mclist.toNat + 8 * k) 8 % 2 ^ 17
  let bit : Word := 1 <<< k
  if bad || !inDomain s m then { s with mcFailed := s.mcFailed ||| bit }
  else if m = s.modId then { s with mcOwn := s.mcOwn ||| bit }
  else
    let line : Msg := .multicast s.modId no s.mcdst.toNat data
    sendOut m line { s with mcWait := s.mcWait ||| bit, mcLines := s.mcLines ++ [(k, m, line)] }

/-- MULTICAST_GO (R375): a write of MCCTL with GO. The own module performs the line once, for all its places in the list. -/
def multicastGo (w : Word) (s : State) : Option State :=
  if !bitAt w 8 || bitAt s.mcctl 9 then none
  else
    let (no, s0) := s.fresh
    let s1 : State :=
      { s0 with mcctl := BitVec.ofNat 64 (bits w 5 0 + 2 ^ 9), mcOwn := 0, mcWait := 0, mcFailed := 0, mcSince := s.cyc
                mcLines := [] }
    let data := (List.range 64).map fun i => memByte s.mem (s.mcsrc.toNat + i)
    let s2 := (List.range (mcCount s1)).foldl (multicastTo (poisoned s s.mcsrc.toNat 64) no data) s1
    some (multicastSettle (if s2.mcOwn = 0 then s2
      else { s2 with flight := s2.flight ++ [.multicast s.modId no s.mcdst.toNat data] }))

/-- MULTICAST_GO (R375). -/
def execMulticastGo (w : Word) (s : State) : Out :=
  hostEvent (multicastGo w) s

/-- The host window (R314). -/
def hostMemory (a n : Nat) : Bool :=
  decide (0x40000000000 ≤ a) && decide (a + n ≤ 0x80000000000)

/-- The line of a multicast can be stored: at any physical address (R314, R375). -/
def multicastFits (dst : Nat) (data : List Byte) : Bool :=
  dst % 64 == 0 && data.length == 64 && (deviceMemory dst 64 || hostMemory dst 64)

/-- MULTICAST_LINE (R375): message n; this module performs the line as one atomic store, or fails, and acknowledges it to the
source; a copy of one is discarded. Over a page table that accesses under way have walked it waits for them (R317). -/
def multicastLine (n : Nat) (s : State) : Option State :=
  match s.msg n with
  | some (.multicast from_ no dst data) =>
    let ok := multicastFits dst data
    if from_ ≠ s.modId ∧ wasPerformed s from_ (multicastNo no) = true then some (takeMsg n s)
    else if ok && decide (dst < 2 ^ 40) && !(walkedPages s (linesOfRange dst 64)).isEmpty then none
    else
      let s1 := takeMsg n s
      let s2 := if ok then performPhysical dst data s1 else s1
      some (if from_ = s.modId then
        multicastSettle { s2 with mcFailed := if ok then s2.mcFailed else s2.mcFailed ||| s2.mcOwn, mcOwn := 0 }
      else sendOut from_ (.multicastAck !ok) (notePerformed from_ (multicastNo no) s2))
  | _ => none

/-- MULTICAST_LINE (R375). -/
def execMulticastLine (n : Nat) (s : State) : Out :=
  event (multicastLine n) s

/-- The other members have answered, or are silent: those that have failed. -/
def multicastEnds (failed : Word) (s : State) : State :=
  multicastSettle { s with mcFailed := s.mcFailed ||| (failed &&& s.mcWait), mcWait := 0, mcLines := [] }

/-- MULTICAST_REPLY (R375): the merged acknowledgements of the other members, a bit for each that failed. -/
def multicastReply (failed : Word) (s : State) : Option State :=
  if bitAt s.mcctl 9 && s.mcWait != 0 then some (multicastEnds failed s) else none

/-- The members that have not answered within 2^FTO cycles fail (R375). -/
def multicastSilence (s : State) : Option State :=
  if bitAt s.mcctl 9 && s.mcWait != 0 && decide (s.mcSince + 2 ^ s.fto ≤ s.cyc) then some (multicastEnds s.mcWait s) else none

/-- MULTICAST_REPLY (R375). -/
def execMulticastReply (failed : Word) (s : State) : Out :=
  event (multicastReply failed) s

/-- ATTESTATION_GO (R383). -/
def attestationGo (s : State) : Option State :=
  if s.attBusy then none else some { s with attBusy := true }

/-- ATTESTATION_GO (R383). -/
def execAttestationGo (s : State) : Out :=
  hostEvent attestationGo s

/-- MODINFO (R378). -/
def modInfo (s : State) : Nat :=
  s.modId % 2 ^ 17 + s.domain % 2 ^ 16 * 2 ^ 32

/-- Bytes 0 to 127 of a report, byte 0 lowest (R383). -/
def reportBody (s : State) : BitVec 1024 :=
  BitVec.ofNat 1024 (s.nonce.toNat + (Config.imageDigest s.firmware).toNat * 2 ^ 256 + (Config.fuseDigest s.record).toNat * 2 ^ 512 +
    modInfo s * 2 ^ 768 + Config.serialNumber.toNat * 2 ^ 832 + (Config.securityVersion s.firmware).toNat * 2 ^ 960)

/-- ATTESTATION_COMPLETE (R383). -/
def attestationComplete (s : State) : Option State :=
  if s.attBusy then
    some { s with attBusy := false
                  report := BitVec.ofNat 1536 ((reportBody s).toNat + (Config.signature (reportBody s)).toNat * 2 ^ 1024) }
  else none

/-- ATTESTATION_COMPLETE (R383). -/
def execAttestationComplete (s : State) : Out :=
  event attestationComplete s

/-- The security version of an image is below the fused minimum (R381). -/
def tooOld (version : Nat) : Bool := decide (version < Config.fusedMinimum)

/-- Boot stops at a stage for a reason, which is logged (R381, R382). -/
def bootFails (stage why : Nat) (s : State) : State :=
  logRecord ⟨9, 0, BitVec.ofNat 64 stage, BitVec.ofNat 64 why, 0, 0⟩ { s with bootst := BitVec.ofNat 64 (stage + why * 2 ^ 4) }

/-- BOOT (R381, R382): boot reaches the next stage, or stops at a stage for a reason: a signature, a missing image, or an image
whose security version is below the fused minimum; a failed boot holds the module at its stage. DESIGN CHOICE, log 41, for its
operands. -/
def boot (stage why : Nat) (s : State) : Option State :=
  let now := bits s.bootst 3 0
  if booted s || bits s.bootst 7 4 != 0 || decide (stage > 3) || decide (why > 3) ||
      decide (stage < now) || decide (now + 1 < stage) then none
  else if why ≠ 0 then some (bootFails stage why s)
  else if s.firmware.any fun (_, v) => tooOld v then some (bootFails now 2 s)
  else some { s with bootst := BitVec.ofNat 64 (stage + b2n (decide (stage = 3)) * 2 ^ 8) }

/-- BOOT (R381). -/
def execBoot (stage why : Nat) (s : State) : Out :=
  event (boot stage why) s

/-- FIRMWARE_UPDATE (R16, R381): a staged image replaces that of one unit when it verifies and its security version is at or
above the fused minimum; else the failure is logged. -/
def firmwareUpdate (unit version why : Nat) (s : State) : Option State :=
  let fails (why : Nat) : State :=
    logRecord ⟨9, 0, BitVec.ofNat 64 (unit + 2 ^ 32), BitVec.ofNat 64 why, BitVec.ofNat 64 version, 0⟩ s
  some (if why ≠ 0 then fails why else if tooOld version then fails 2
    else { s with firmware := tabSet s.firmware unit version })

/-- FIRMWARE_UPDATE (R16). -/
def execFirmwareUpdate (unit version why : Nat) (s : State) : Out :=
  event (firmwareUpdate unit version why) s

/-- LINKUP, the port-up mask (R325): the ports that are up toward a module of the domain. -/
def linkUp (s : State) : Nat :=
  ((s.links.filter fun (p, l) => decide (p < Config.ports) && l.up && l.dom == s.domain && !s.removed.contains l.far).map fun (p, _) =>
    2 ^ p).foldl (· + ·) 0

/-- PCTLn as it reads (R354). -/
def pctlWord (s : State) (n : Nat) : Nat :=
  let x := s.pctlOf n
  x.op % 4 + b2n x.busy * 2 ^ 8 + b2n (tabFind s.saved n).isSome * 2 ^ 9 + x.need % 2 ^ 32 * 2 ^ 32

/-- Doubleword i of queue descriptor q as it reads (R379). -/
def descriptorWord (x : Queue) (i : Nat) : Nat :=
  if i = 0 then x.log2 + b2n x.irq * 2 ^ 5 + x.base * 2 ^ 6 + b2n x.en * 2 ^ 63 else x.head + b2n x.err * 2 ^ 32

/-- Word i of the trap log as a ring of 4,096 records (R362). -/
def logWord (s : State) (i : Nat) : Nat :=
  let oldest := (s.logHead + 4096 - s.log.length) % 4096
  match s.log[(i / 4 + 4096 - oldest) % 4096]? with
  | some r => leNat ((r.bytes.drop (8 * (i % 4))).take 8)
  | none => 0

/-- The doubleword at an offset of BAR0 as the host reads it (R377); what the table does not name, and what is only written,
reads as zero. DESIGN CHOICE, log 41, for the latter. -/
def barWord (s : State) (off : Nat) : Nat :=
  if off = 0 then modInfo s
  else if off = 0x8 then s.fto + b2n s.skid * 2 ^ 8
  else if off = 0x18 then linkUp s
  else if off = 0x20 then s.latecnt.toNat
  else if off = 0x40 then s.mcctl.toNat
  else if off = 0x48 then s.mclist.toNat
  else if off = 0x50 then s.mcsrc.toNat
  else if off = 0x58 then s.mcdst.toNat
  else if off = 0x60 then s.mcstat.toNat
  else if off = 0x100 then s.troot.toNat
  else if off = 0x108 then s.apbase.toNat
  else if 0x200 ≤ off ∧ off < 0x300 then (s.map_ ((off - 0x200) / 8)).toNat
  else if 0x400 ≤ off ∧ off < 0x600 then
    if off % 16 = 0 then pctlWord s ((off - 0x400) / 16) else (s.pctlOf ((off - 0x400) / 16)).base.toNat
  else if off = 0x800 then s.bootst.toNat
  else if 0xC00 ≤ off ∧ off < 0xC20 then s.nonce.toNat / 2 ^ (8 * (off - 0xC00))
  else if off = 0xC20 then b2n s.attBusy * 2
  else if 0xC40 ≤ off ∧ off < 0xD00 then s.report.toNat / 2 ^ (8 * (off - 0xC40))
  else if 0xD00 ≤ off ∧ off < 0xD40 then Config.identityKey.toNat / 2 ^ (8 * (off - 0xD00))
  else if off = 0x10000 then s.logHead
  else if off = 0x10008 then s.logOvf
  else if 0x20000 ≤ off ∧ off < 0x40000 then logWord s ((off - 0x20000) / 8)
  else if 0x40000 ≤ off ∧ off < 0x44000 then descriptorWord (s.queue ((off - 0x40000) / 16)) (off / 8 % 2)
  else 0

/-- The host reads an aligned doubleword of BAR0, once its posted writes are performed; before the end of boot only the first
4 KiB answer (R377, R380, R382). -/
def barRead (off : Nat) (s : State) : State :=
  if off % 8 ≠ 0 || decide (0x100000 ≤ off) || (decide (off ≥ 0x1000) && !booted s) || !(s.fatal || settled true s 0) then s
  else { s with hostRead := BitVec.ofNat 64 (barWord s off) }

/-- Ring descriptors, trap records and the words after them hold zero after a module reset (R268, R353; log 2).
DEDUCED. -/
def resetMemory (m : Memory) : Memory :=
  m.filter fun (a, _) =>
    !(decide (csBase ≤ a) && decide (a < csBase + 768 * 0x100000) && decide ((a - csBase) % 0x100000 / 0x100 = 0xEFF))

/-- MODULE_RESET (R207, R312, R366): the state of reset, one boot more; memory, the module's place in the system, its
firmware and its trap log stay (log 2). DEDUCED. -/
def moduleReset (s : State) : Option State :=
  some { State.reset with
    serial := s.serial, mem := resetMemory s.mem, poison := s.poison, outbox := s.outbox, msix := s.msix
    modId := s.modId, domain := s.domain, peers := s.peers, record := s.record, boots := s.boots + 1, log := s.log, logHead := s.logHead
    logOvf := s.logOvf, errors := s.errors, corrections := s.corrections, firmware := s.firmware, dump := s.dump }

/-- MODULE_RESET (R207). -/
def execModuleReset (s : State) : Out :=
  event moduleReset s

/-- A core is eligible for gating (R364). DEDUCED, log 40. -/
def eligible (k : Core) : Bool :=
  (k.slots.all fun x => x.state == .empty) && k.svcQ.isEmpty && k.arr.isEmpty && k.recvQ.isEmpty && k.claims.isEmpty && k.deque.isEmpty &&
  k.sb.isEmpty && k.spill.isEmpty && k.avgQ.isEmpty

/-- GATING_ENTRY (R364): a core eligible in every cycle of 16,384 begins gating. -/
def gatingEntry (c : Nat) (s : State) : Option State :=
  let k := s.core c
  match k.idleSince with
  | some t =>
    if c < Config.cores ∧ k.gating = .ungated ∧ eligible k = true ∧ t + 16384 ≤ s.cyc then
      some (s.modCore c fun x => { x with gating := .gating s.cyc false false })
    else none
  | none => none

/-- GATING_ENTRY (R364). -/
def execGatingEntry (c : Nat) (s : State) : Out :=
  event (gatingEntry c) s

/-- GATING_COMMIT (R365): cycle 64 of gating. -/
def gatingCommit (c : Nat) (s : State) : Option State :=
  match (s.core c).gating with
  | .gating t false l =>
    if t + 64 ≤ s.cyc then some (s.modCore c fun x => { x with gating := .gating t true l }) else none
  | _ => none

/-- GATING_COMMIT (R365). -/
def execGatingCommit (c : Nat) (s : State) : Out :=
  event (gatingCommit c) s

/-- GATED (R365): cycle 96 of gating; a latched wake starts ungating at once. -/
def gated (c : Nat) (s : State) : Option State :=
  match (s.core c).gating with
  | .gating t true l =>
    if t + 96 ≤ s.cyc then
      some (s.modCore c fun x => { x with gating := if l then .waking s.cyc else .gated })
    else none
  | _ => none

/-- GATED (R365). -/
def execGated (c : Nat) (s : State) : Out :=
  event (gated c) s

/-- WAKE_EVENT (R365): an event for a core that is gated, or about to be. -/
def wakeEvent (c : Nat) (s : State) : Option State :=
  if (s.core c).woken s.cyc = s.core c then none else some (s.modCore c (·.woken s.cyc))

/-- WAKE_EVENT (R365). -/
def execWakeEvent (c : Nat) (s : State) : Out :=
  event (wakeEvent c) s

/-- UNGATING_COMPLETE (R365): the core is usable, in a later cycle than its wake. -/
def ungatingComplete (c : Nat) (s : State) : Option State :=
  match (s.core c).gating with
  | .waking t =>
    if t < s.cyc then some (s.modCore c fun x => { x with gating := .ungated, idleSince := none }) else none
  | _ => none

/-- UNGATING_COMPLETE (R365). -/
def execUngatingComplete (c : Nat) (s : State) : Out :=
  event (ungatingComplete c) s

end Sys2Proof.Machine
end

