-- ==== Sys2Proof/Machine/Scalar.lean ====
section
/-! DEFINITION. The scalar instructions (R86, R89-R101). -/

namespace Sys2Proof.Machine

/-- Signed minimum and maximum, unsigned minimum and maximum (R89). -/
def smin (a b : Word) : Word := if a.sle b then a else b
def smax (a b : Word) : Word := if a.sle b then b else a
def umin (a b : Word) : Word := if a.ule b then a else b
def umax (a b : Word) : Word := if a.ule b then b else a

/-- Bits [127:64] of the exact signed and unsigned products (R89). -/
def mulhS (a b : Word) : Word := BitVec.ofInt 64 ((a.toInt * b.toInt) / (2 ^ 64 : Nat))
def mulhU (a b : Word) : Word := BitVec.ofNat 64 (a.toNat * b.toNat / 2 ^ 64)

/-- Quotients and remainders with the special cases of R90. -/
def divS (a b : Word) : Word := if b = 0 then BitVec.allOnes 64 else BitVec.ofInt 64 (a.toInt.tdiv b.toInt)
def divU (a b : Word) : Word := if b = 0 then BitVec.allOnes 64 else BitVec.ofNat 64 (a.toNat / b.toNat)
def remS (a b : Word) : Word := if b = 0 then a else a - b * divS a b
def remU (a b : Word) : Word := if b = 0 then a else a - b * divU a b

/-- The shift amount b[5:0] (R89). -/
def shamt (b : Word) : Nat := b.toNat % 64

/-- ADD (R89). -/
def execAdd (d a b p : BitVec 4) (s : State) : Out :=
  issue (.add d a b p)
    (alu2 d a b (fun a b => a + b)) s

/-- SUB (R89). -/
def execSub (d a b p : BitVec 4) (s : State) : Out :=
  issue (.sub d a b p)
    (alu2 d a b (fun a b => a - b)) s

/-- AND (R89). -/
def execAnd (d a b p : BitVec 4) (s : State) : Out :=
  issue (.and d a b p)
    (alu2 d a b (fun a b => a &&& b)) s

/-- OR (R89). -/
def execOr (d a b p : BitVec 4) (s : State) : Out :=
  issue (.or d a b p)
    (alu2 d a b (fun a b => a ||| b)) s

/-- XOR (R89). -/
def execXor (d a b p : BitVec 4) (s : State) : Out :=
  issue (.xor d a b p)
    (alu2 d a b (fun a b => a ^^^ b)) s

/-- ANDN (R89). -/
def execAndn (d a b p : BitVec 4) (s : State) : Out :=
  issue (.andn d a b p)
    (alu2 d a b (fun a b => a &&& ~~~b)) s

/-- SLL (R89). -/
def execSll (d a b p : BitVec 4) (s : State) : Out :=
  issue (.sll d a b p)
    (alu2 d a b (fun a b => a <<< shamt b)) s

/-- SRL (R89). -/
def execSrl (d a b p : BitVec 4) (s : State) : Out :=
  issue (.srl d a b p)
    (alu2 d a b (fun a b => a >>> shamt b)) s

/-- SRA (R89). -/
def execSra (d a b p : BitVec 4) (s : State) : Out :=
  issue (.sra d a b p)
    (alu2 d a b (fun a b => a.sshiftRight (shamt b))) s

/-- MIN (R89). -/
def execMin (d a b p : BitVec 4) (s : State) : Out :=
  issue (.min d a b p)
    (alu2 d a b smin) s

/-- MAX (R89). -/
def execMax (d a b p : BitVec 4) (s : State) : Out :=
  issue (.max d a b p)
    (alu2 d a b smax) s

/-- MINU (R89). -/
def execMinu (d a b p : BitVec 4) (s : State) : Out :=
  issue (.minu d a b p)
    (alu2 d a b umin) s

/-- MAXU (R89). -/
def execMaxu (d a b p : BitVec 4) (s : State) : Out :=
  issue (.maxu d a b p)
    (alu2 d a b umax) s

/-- MUL (R89). -/
def execMul (d a b p : BitVec 4) (s : State) : Out :=
  issue (.mul d a b p)
    (alu2 d a b (fun a b => a * b)) s

/-- MULH (R89). -/
def execMulh (d a b p : BitVec 4) (s : State) : Out :=
  issue (.mulh d a b p)
    (alu2 d a b mulhS) s

/-- MULHU (R89). -/
def execMulhu (d a b p : BitVec 4) (s : State) : Out :=
  issue (.mulhu d a b p)
    (alu2 d a b mulhU) s

/-- DIV (R90). -/
def execDiv (d a b p : BitVec 4) (s : State) : Out :=
  issue (.div d a b p)
    (alu2 d a b divS) s

/-- DIVU (R90). -/
def execDivu (d a b p : BitVec 4) (s : State) : Out :=
  issue (.divu d a b p)
    (alu2 d a b divU) s

/-- REM (R90). -/
def execRem (d a b p : BitVec 4) (s : State) : Out :=
  issue (.rem d a b p)
    (alu2 d a b remS) s

/-- REMU (R90). -/
def execRemu (d a b p : BitVec 4) (s : State) : Out :=
  issue (.remu d a b p)
    (alu2 d a b remU) s

/-- CLZ (R89). -/
def execClz (d a p : BitVec 4) (s : State) : Out :=
  issue (.clz d a p)
    (alu1 d a (fun a => BitVec.ofNat 64 (leadingZeros a.toNat 64))) s

/-- POPC (R89). -/
def execPopc (d a p : BitVec 4) (s : State) : Out :=
  issue (.popc d a p)
    (alu1 d a (fun a => BitVec.ofNat 64 (popcount a.toNat 64))) s

/-- SEXT_B (R89). -/
def execSextB (d a p : BitVec 4) (s : State) : Out :=
  issue (.sextB d a p)
    (alu1 d a (fun a => sx a.toNat 8)) s

/-- SEXT_H (R89). -/
def execSextH (d a p : BitVec 4) (s : State) : Out :=
  issue (.sextH d a p)
    (alu1 d a (fun a => sx a.toNat 16)) s

/-- SEXT_W (R89). -/
def execSextW (d a p : BitVec 4) (s : State) : Out :=
  issue (.sextW d a p)
    (alu1 d a (fun a => sx a.toNat 32)) s

/-- ZEXT_B (R89). -/
def execZextB (d a p : BitVec 4) (s : State) : Out :=
  issue (.zextB d a p)
    (alu1 d a (fun a => zx a.toNat 8)) s

/-- ZEXT_H (R89). -/
def execZextH (d a p : BitVec 4) (s : State) : Out :=
  issue (.zextH d a p)
    (alu1 d a (fun a => zx a.toNat 16)) s

/-- ZEXT_W (R89). -/
def execZextW (d a p : BitVec 4) (s : State) : Out :=
  issue (.zextW d a p)
    (alu1 d a (fun a => zx a.toNat 32)) s

/-- SEL: a when pn is true, else b (R89). -/
def execSel (d a b : BitVec 4) (n : BitVec 3) (p : BitVec 4) (s : State) : Out :=
  issue (.sel d a b n p)
    (needs [a, b] [d] fun s => setG d (if s.me.pred n then s.me.get a else s.me.get b) s) s

/-- NOP (R101). -/
def execNop (s : State) : Out :=
  issue .nop advance s

/-- ADDI (R91). -/
def execAddi (d a : BitVec 4) (i : BitVec 14) (p : BitVec 4) (s : State) : Out :=
  issue (.addi d a i p)
    (alu1 d a (fun a => a + i.signExtend 64)) s

/-- ANDI (R91). -/
def execAndi (d a : BitVec 4) (i : BitVec 14) (p : BitVec 4) (s : State) : Out :=
  issue (.andi d a i p)
    (alu1 d a (fun a => a &&& i.signExtend 64)) s

/-- ORI (R91). -/
def execOri (d a : BitVec 4) (i : BitVec 14) (p : BitVec 4) (s : State) : Out :=
  issue (.ori d a i p)
    (alu1 d a (fun a => a ||| i.setWidth 64)) s

/-- XORI (R91). -/
def execXori (d a : BitVec 4) (i : BitVec 14) (p : BitVec 4) (s : State) : Out :=
  issue (.xori d a i p)
    (alu1 d a (fun a => a ^^^ i.setWidth 64)) s

/-- SLLI (R92). -/
def execSlli (d a : BitVec 4) (s0 : BitVec 6) (p : BitVec 4) (s : State) : Out :=
  issue (.slli d a s0 p)
    (alu1 d a (fun a => a <<< s0.toNat)) s

/-- SRLI (R92). -/
def execSrli (d a : BitVec 4) (s0 : BitVec 6) (p : BitVec 4) (s : State) : Out :=
  issue (.srli d a s0 p)
    (alu1 d a (fun a => a >>> s0.toNat)) s

/-- SRAI (R92). -/
def execSrai (d a : BitVec 4) (s0 : BitVec 6) (p : BitVec 4) (s : State) : Out :=
  issue (.srai d a s0 p)
    (alu1 d a (fun a => a.sshiftRight s0.toNat)) s

/-- MOVI: gd := sx(imm18, 18) (R93). -/
def execMovi (d : BitVec 4) (i : BitVec 18) (p : BitVec 4) (s : State) : Out :=
  issue (.movi d i p) (needs [] [d] (setG d (i.signExtend 64))) s

/-- MOVHI: gd := (gd << 18) | zx(imm18, 18) (R93). -/
def execMovhi (d : BitVec 4) (i : BitVec 18) (p : BitVec 4) (s : State) : Out :=
  issue (.movhi d i p) (needs [d] [d] fun s => setG d ((s.me.get d <<< 18) ||| i.setWidth 64) s) s

/-- The element of constant-window word n of the own core (R84, R86). -/
def windowElem (c : Nat) (n : Nat) : Elem :=
  ⟨0, 0, .here (lsAddr c (8 * n)), 8, false, none, 0, 0⟩

/-- Reads constant-window word n as LDD reads the own local store, and runs body on it (R86). A POISON trap reports the
word's address in the own-core alias, and the read needs no right to the local store (R84, R86 against R154): DESIGN CHOICE, log 58.
-/
def withWindow (n : Nat) (body : Word → State → State) (s : State) : State :=
  match loadElem s s.cur.1 s.me.uid (windowElem s.cur.1 n) with
  | .val x => body (BitVec.ofNat 64 x) (markSeen s.cur.1 s.me.uid [windowElem s.cur.1 n] s)
  | .poison => trapHere ⟨.poison, BitVec.ofNat 64 (0xFFFFFFFFFFFF8000 + 8 * n), 0⟩ s
  | .wait => body (BitVec.ofNat 64 (s.read (lsAddr s.cur.1 (8 * n)) 8)) s

/-- LDK: gd := window word n (R94). -/
def execLdk (d : BitVec 4) (k : BitVec 8) (p : BitVec 4) (s : State) : Out :=
  issue (.ldk d k p) (needs [] [d] (withWindow k.toNat fun w => setG d w)) s

/-- ADDK: gd := a + window word n (R94). -/
def execAddk (d a : BitVec 4) (k : BitVec 8) (p : BitVec 4) (s : State) : Out :=
  issue (.addk d a k p) (needs [a] [d] (withWindow k.toNat fun w s => setG d (s.me.get a + w) s)) s

/-- CMP: pd := (a cc b) (R97). -/
def execCmp (d : BitVec 3) (a b : BitVec 4) (c : BitVec 3) (p : BitVec 4) (s : State) : Out :=
  issue (.cmp d a b c p)
    (needs [a, b] [] fun s => finish (fun x => x.putPred d (cond c (x.get a) (x.get b))) s) s

/-- CMPI: pd := (a cc sx(imm11, 11)) (R97). -/
def execCmpi (d : BitVec 3) (a : BitVec 4) (c : BitVec 3) (i : BitVec 11) (p : BitVec 4) (s : State) : Out :=
  issue (.cmpi d a c i p)
    (needs [a] [] fun s => finish (fun x => x.putPred d (cond c (x.get a) (i.signExtend 64))) s) s

/-- PAND (R98). -/
def execPand (d a b : BitVec 3) (p : BitVec 4) (s : State) : Out :=
  issue (.pand d a b p)
    (finish fun x => x.putPred d (x.pred a && x.pred b)) s

/-- POR (R98). -/
def execPor (d a b : BitVec 3) (p : BitVec 4) (s : State) : Out :=
  issue (.por d a b p)
    (finish fun x => x.putPred d (x.pred a || x.pred b)) s

/-- PXOR (R98). -/
def execPxor (d a b : BitVec 3) (p : BitVec 4) (s : State) : Out :=
  issue (.pxor d a b p)
    (finish fun x => x.putPred d (x.pred a != x.pred b)) s

/-- PNOT (R98). -/
def execPnot (d a : BitVec 3) (p : BitVec 4) (s : State) : Out :=
  issue (.pnot d a p) (finish fun x => x.putPred d (!x.pred a)) s

/-- The predicates p7…p0 as a byte, p0 in bit 0 (R98). -/
def predByte (x : Strand) : BitVec 8 :=
  x.p ||| 1

/-- PRD: gd := the predicates (R98). -/
def execPrd (d : BitVec 4) (p : BitVec 4) (s : State) : Out :=
  issue (.prd d p) (needs [] [d] fun s => setG d ((predByte s.me).setWidth 64) s) s

/-- The predicates that a PWR mask selects: bit 0 p1 and p2, bit 1 p3 and p4, bit 2 p5 to p7 (R98). -/
def pwrMask (m : BitVec 3) : BitVec 8 :=
  BitVec.ofNat 8 (b2n (bitAt m 0) * 0x06 + b2n (bitAt m 1) * 0x18 + b2n (bitAt m 2) * 0xE0)

/-- PWR: every selected pn := a[n] (R98). -/
def execPwr (m : BitVec 3) (a : BitVec 4) (p : BitVec 4) (s : State) : Out :=
  issue (.pwr m a p)
    (needs [a] [] fun s => finish (fun x =>
      { x with p := (x.p &&& ~~~pwrMask m) ||| ((x.get a).setWidth 8 &&& pwrMask m) }) s) s

/-- The mask of w = wm1 + 1 low ones (R95). -/
def fieldMask (w : BitVec 6) : Word :=
  BitVec.ofNat 64 (2 ^ (w.toNat + 1) - 1)

/-- BFX: zero-extending field extract; the fields are pos and wm1 (R95). -/
def execBfx (d a : BitVec 4) (s0 w : BitVec 6) (p : BitVec 4) (s : State) : Out :=
  issue (.bfx d a s0 w p) (alu1 d a fun x => (x >>> s0.toNat) &&& fieldMask w) s

/-- BFI: insert the low w bits of a into gd (R95). -/
def execBfi (d a : BitVec 4) (s0 w : BitVec 6) (p : BitVec 4) (s : State) : Out :=
  issue (.bfi d a s0 w p)
    (needs [d, a] [d] fun s =>
      setG d ((s.me.get d &&& ~~~(fieldMask w <<< s0.toNat)) ||| ((s.me.get a &&& fieldMask w) <<< s0.toNat)) s) s

/-- A jump to a register value: a value that is not a multiple of 4 raises ALIGN (R63). -/
def jumpTo (t : Word) (link : Bool) (s : State) : State :=
  if bits t 1 0 ≠ 0 then trapHere ⟨.align, t, 0⟩ s
  else goOn t (if link then s.modMe fun x => x.put 15 (x.pc + 4) else s)

/-- BR (R99). -/
def execBr (i : BitVec 22) (p : BitVec 4) (s : State) : Out :=
  issue (.br i p) (fun s => goOn (branchTarget s.me.pc (i.signExtend 64)) s) s

/-- CALL (R99). -/
def execCall (i : BitVec 22) (p : BitVec 4) (s : State) : Out :=
  issue (.call i p)
    (needs [] [15] fun s => goOn (branchTarget s.me.pc (i.signExtend 64)) (s.modMe fun x => x.put 15 (x.pc + 4))) s

/-- JMPR (R99). -/
def execJmpr (a : BitVec 4) (p : BitVec 4) (s : State) : Out :=
  issue (.jmpr a p) (needs [a] [] fun s => jumpTo (s.me.get a) false s) s

/-- CALLR (R99). -/
def execCallr (a : BitVec 4) (p : BitVec 4) (s : State) : Out :=
  issue (.callr a p) (needs [a] [15] fun s => jumpTo (s.me.get a) true s) s

/-- RET (R99). -/
def execRet (p : BitVec 4) (s : State) : Out :=
  issue (.ret p) (needs [15] [] fun s => jumpTo (s.me.get 15) false s) s

/-- LEA_B (R96). -/
def execLeaB (d a : BitVec 4) (o : BitVec 12) (p : BitVec 4) (s : State) : Out :=
  issue (.leaB d a o p) (needs [a] [d] fun s => setG d (dispAddr s.me a o 0) s) s

/-- LEA_H (R96). -/
def execLeaH (d a : BitVec 4) (o : BitVec 12) (p : BitVec 4) (s : State) : Out :=
  issue (.leaH d a o p) (needs [a] [d] fun s => setG d (dispAddr s.me a o 1) s) s

/-- LEA_W (R96). -/
def execLeaW (d a : BitVec 4) (o : BitVec 12) (p : BitVec 4) (s : State) : Out :=
  issue (.leaW d a o p) (needs [a] [d] fun s => setG d (dispAddr s.me a o 2) s) s

/-- LEA_D (R96). -/
def execLeaD (d a : BitVec 4) (o : BitVec 12) (p : BitVec 4) (s : State) : Out :=
  issue (.leaD d a o p) (needs [a] [d] fun s => setG d (dispAddr s.me a o 3) s) s

end Sys2Proof.Machine
end

