-- ==== Sys2Proof/Machine/Dispatch.lean ====
section
/-! DEFINITION. The dispatch of every row of the opcode table to its meaning. -/

namespace Sys2Proof.Machine

def exec (i : Instr) (s : State) : Host.Outcome State Fault Refusal :=
  match i with
  | .add d a b p => Sys2Proof.Machine.execAdd d a b p s
  | .sub d a b p => Sys2Proof.Machine.execSub d a b p s
  | .and d a b p => Sys2Proof.Machine.execAnd d a b p s
  | .or d a b p => Sys2Proof.Machine.execOr d a b p s
  | .xor d a b p => Sys2Proof.Machine.execXor d a b p s
  | .andn d a b p => Sys2Proof.Machine.execAndn d a b p s
  | .sll d a b p => Sys2Proof.Machine.execSll d a b p s
  | .srl d a b p => Sys2Proof.Machine.execSrl d a b p s
  | .sra d a b p => Sys2Proof.Machine.execSra d a b p s
  | .min d a b p => Sys2Proof.Machine.execMin d a b p s
  | .max d a b p => Sys2Proof.Machine.execMax d a b p s
  | .minu d a b p => Sys2Proof.Machine.execMinu d a b p s
  | .maxu d a b p => Sys2Proof.Machine.execMaxu d a b p s
  | .mul d a b p => Sys2Proof.Machine.execMul d a b p s
  | .mulh d a b p => Sys2Proof.Machine.execMulh d a b p s
  | .mulhu d a b p => Sys2Proof.Machine.execMulhu d a b p s
  | .div d a b p => Sys2Proof.Machine.execDiv d a b p s
  | .divu d a b p => Sys2Proof.Machine.execDivu d a b p s
  | .rem d a b p => Sys2Proof.Machine.execRem d a b p s
  | .remu d a b p => Sys2Proof.Machine.execRemu d a b p s
  | .clz d a p => Sys2Proof.Machine.execClz d a p s
  | .popc d a p => Sys2Proof.Machine.execPopc d a p s
  | .sextB d a p => Sys2Proof.Machine.execSextB d a p s
  | .sextH d a p => Sys2Proof.Machine.execSextH d a p s
  | .sextW d a p => Sys2Proof.Machine.execSextW d a p s
  | .zextB d a p => Sys2Proof.Machine.execZextB d a p s
  | .zextH d a p => Sys2Proof.Machine.execZextH d a p s
  | .zextW d a p => Sys2Proof.Machine.execZextW d a p s
  | .sel d a b n p => Sys2Proof.Machine.execSel d a b n p s
  | .nop => Sys2Proof.Machine.execNop s
  | .addi d a imm p => Sys2Proof.Machine.execAddi d a imm p s
  | .andi d a imm p => Sys2Proof.Machine.execAndi d a imm p s
  | .ori d a imm p => Sys2Proof.Machine.execOri d a imm p s
  | .xori d a imm p => Sys2Proof.Machine.execXori d a imm p s
  | .slli d a s0 p => Sys2Proof.Machine.execSlli d a s0 p s
  | .srli d a s0 p => Sys2Proof.Machine.execSrli d a s0 p s
  | .srai d a s0 p => Sys2Proof.Machine.execSrai d a s0 p s
  | .movi d imm p => Sys2Proof.Machine.execMovi d imm p s
  | .movhi d imm p => Sys2Proof.Machine.execMovhi d imm p s
  | .ldk d k p => Sys2Proof.Machine.execLdk d k p s
  | .addk d a k p => Sys2Proof.Machine.execAddk d a k p s
  | .cmp d a b c p => Sys2Proof.Machine.execCmp d a b c p s
  | .cmpi d a c imm p => Sys2Proof.Machine.execCmpi d a c imm p s
  | .pand d a b p => Sys2Proof.Machine.execPand d a b p s
  | .por d a b p => Sys2Proof.Machine.execPor d a b p s
  | .pxor d a b p => Sys2Proof.Machine.execPxor d a b p s
  | .pnot d a p => Sys2Proof.Machine.execPnot d a p s
  | .prd d p => Sys2Proof.Machine.execPrd d p s
  | .pwr m a p => Sys2Proof.Machine.execPwr m a p s
  | .bfx d a s0 w p => Sys2Proof.Machine.execBfx d a s0 w p s
  | .bfi d a s0 w p => Sys2Proof.Machine.execBfi d a s0 w p s
  | .br imm p => Sys2Proof.Machine.execBr imm p s
  | .call imm p => Sys2Proof.Machine.execCall imm p s
  | .jmpr a p => Sys2Proof.Machine.execJmpr a p s
  | .callr a p => Sys2Proof.Machine.execCallr a p s
  | .ret p => Sys2Proof.Machine.execRet p s
  | .leaB d a o p => Sys2Proof.Machine.execLeaB d a o p s
  | .leaH d a o p => Sys2Proof.Machine.execLeaH d a o p s
  | .leaW d a o p => Sys2Proof.Machine.execLeaW d a o p s
  | .leaD d a o p => Sys2Proof.Machine.execLeaD d a o p s
  | .ldbu d a o p => Sys2Proof.Machine.execLdbu d a o p s
  | .ldhu d a o p => Sys2Proof.Machine.execLdhu d a o p s
  | .ldwu d a o p => Sys2Proof.Machine.execLdwu d a o p s
  | .ldd d a o p => Sys2Proof.Machine.execLdd d a o p s
  | .stb s0 a o p => Sys2Proof.Machine.execStb s0 a o p s
  | .sth s0 a o p => Sys2Proof.Machine.execSth s0 a o p s
  | .stw s0 a o p => Sys2Proof.Machine.execStw s0 a o p s
  | .std s0 a o p => Sys2Proof.Machine.execStd s0 a o p s
  | .ldm d a b p => Sys2Proof.Machine.execLdm d a b p s
  | .stm d a b p => Sys2Proof.Machine.execStm d a b p s
  | .ldb d a b p => Sys2Proof.Machine.execLdb d a b p s
  | .ldh d a b p => Sys2Proof.Machine.execLdh d a b p s
  | .ldw d a b p => Sys2Proof.Machine.execLdw d a b p s
  | .ldbAcq d a b p => Sys2Proof.Machine.execLdbAcq d a b p s
  | .ldhAcq d a b p => Sys2Proof.Machine.execLdhAcq d a b p s
  | .ldwAcq d a b p => Sys2Proof.Machine.execLdwAcq d a b p s
  | .lddAcq d a b p => Sys2Proof.Machine.execLddAcq d a b p s
  | .ldbuAcq d a b p => Sys2Proof.Machine.execLdbuAcq d a b p s
  | .ldhuAcq d a b p => Sys2Proof.Machine.execLdhuAcq d a b p s
  | .ldwuAcq d a b p => Sys2Proof.Machine.execLdwuAcq d a b p s
  | .ldbSc d a b p => Sys2Proof.Machine.execLdbSc d a b p s
  | .ldhSc d a b p => Sys2Proof.Machine.execLdhSc d a b p s
  | .ldwSc d a b p => Sys2Proof.Machine.execLdwSc d a b p s
  | .lddSc d a b p => Sys2Proof.Machine.execLddSc d a b p s
  | .ldbuSc d a b p => Sys2Proof.Machine.execLdbuSc d a b p s
  | .ldhuSc d a b p => Sys2Proof.Machine.execLdhuSc d a b p s
  | .ldwuSc d a b p => Sys2Proof.Machine.execLdwuSc d a b p s
  | .stbRel s0 a b p => Sys2Proof.Machine.execStbRel s0 a b p s
  | .sthRel s0 a b p => Sys2Proof.Machine.execSthRel s0 a b p s
  | .stwRel s0 a b p => Sys2Proof.Machine.execStwRel s0 a b p s
  | .stdRel s0 a b p => Sys2Proof.Machine.execStdRel s0 a b p s
  | .stbSc s0 a b p => Sys2Proof.Machine.execStbSc s0 a b p s
  | .sthSc s0 a b p => Sys2Proof.Machine.execSthSc s0 a b p s
  | .stwSc s0 a b p => Sys2Proof.Machine.execStwSc s0 a b p s
  | .stdSc s0 a b p => Sys2Proof.Machine.execStdSc s0 a b p s
  | .vld v a b t k p => Sys2Proof.Machine.execVld v a b t k p s
  | .vst v a b t k p => Sys2Proof.Machine.execVst v a b t k p s
  | .vlds v a b t k p => Sys2Proof.Machine.execVlds v a b t k p s
  | .vsts v a b t k p => Sys2Proof.Machine.execVsts v a b t k p s
  | .vgath v a imm t k p => Sys2Proof.Machine.execVgath v a imm t k p s
  | .vscat v a imm t k p => Sys2Proof.Machine.execVscat v a imm t k p s
  | .pref a b p => Sys2Proof.Machine.execPref a b p s
  | .amoAdd d a b z s0 p => Sys2Proof.Machine.execAmoAdd d a b z s0 p s
  | .amoMin d a b z s0 p => Sys2Proof.Machine.execAmoMin d a b z s0 p s
  | .amoMax d a b z s0 p => Sys2Proof.Machine.execAmoMax d a b z s0 p s
  | .amoAnd d a b z s0 p => Sys2Proof.Machine.execAmoAnd d a b z s0 p s
  | .amoOr d a b z s0 p => Sys2Proof.Machine.execAmoOr d a b z s0 p s
  | .amoXor d a b z s0 p => Sys2Proof.Machine.execAmoXor d a b z s0 p s
  | .amoSwap d a b z s0 p => Sys2Proof.Machine.execAmoSwap d a b z s0 p s
  | .amoCas d a b z s0 p => Sys2Proof.Machine.execAmoCas d a b z s0 p s
  | .amoOrdAdd d a b p => Sys2Proof.Machine.execAmoOrdAdd d a b p s
  | .amoOrdFadd d a b p => Sys2Proof.Machine.execAmoOrdFadd d a b p s
  | .amoOrdSwap d a b p => Sys2Proof.Machine.execAmoOrdSwap d a b p s
  | .fred d a p => Sys2Proof.Machine.execFred d a p s
  | .fenceAcq s0 p => Sys2Proof.Machine.execFenceAcq s0 p s
  | .fenceRel s0 p => Sys2Proof.Machine.execFenceRel s0 p s
  | .fenceFull s0 p => Sys2Proof.Machine.execFenceFull s0 p s
  | .mon a p => Sys2Proof.Machine.execMon a p s
  | .munm p => Sys2Proof.Machine.execMunm p s
  | .mwait d a p => Sys2Proof.Machine.execMwait d a p s
  | .bari a b p => Sys2Proof.Machine.execBari a b p s
  | .barv d a p => Sys2Proof.Machine.execBarv d a p s
  | .barw a b p => Sys2Proof.Machine.execBarw a b p s
  | .synci a b p => Sys2Proof.Machine.execSynci a b p s
  | .digest d p => Sys2Proof.Machine.execDigest d p s
  | .vadd d a b k t p => Sys2Proof.Machine.execVadd d a b k t p s
  | .vsub d a b k t p => Sys2Proof.Machine.execVsub d a b k t p s
  | .vmul d a b k t p => Sys2Proof.Machine.execVmul d a b k t p s
  | .vfma d a b k t p => Sys2Proof.Machine.execVfma d a b k t p s
  | .vmin d a b k t p => Sys2Proof.Machine.execVmin d a b k t p s
  | .vmax d a b k t p => Sys2Proof.Machine.execVmax d a b k t p s
  | .vabs d a k t p => Sys2Proof.Machine.execVabs d a k t p s
  | .vneg d a k t p => Sys2Proof.Machine.execVneg d a k t p s
  | .vand d a b k t p => Sys2Proof.Machine.execVand d a b k t p s
  | .vor d a b k t p => Sys2Proof.Machine.execVor d a b k t p s
  | .vxor d a b k t p => Sys2Proof.Machine.execVxor d a b k t p s
  | .vshl d a b k t p => Sys2Proof.Machine.execVshl d a b k t p s
  | .vshr d a b k t p => Sys2Proof.Machine.execVshr d a b k t p s
  | .vcvt d a r t o p => Sys2Proof.Machine.execVcvt d a r t o p s
  | .vperm d a b k t p => Sys2Proof.Machine.execVperm d a b k t p s
  | .vbcast g v t p => Sys2Proof.Machine.execVbcast g v t p s
  | .vext g imm v t p => Sys2Proof.Machine.execVext g imm v t p s
  | .vins g imm v t p => Sys2Proof.Machine.execVins g imm v t p s
  | .vrcp d a k t p => Sys2Proof.Machine.execVrcp d a k t p s
  | .vrsq d a k t p => Sys2Proof.Machine.execVrsq d a k t p s
  | .vexp2 d a k t p => Sys2Proof.Machine.execVexp2 d a k t p s
  | .vlog2 d a k t p => Sys2Proof.Machine.execVlog2 d a k t p s
  | .vredSum g k v t p => Sys2Proof.Machine.execVredSum g k v t p s
  | .vredMin g k v t p => Sys2Proof.Machine.execVredMin g k v t p s
  | .vredMax g k v t p => Sys2Proof.Machine.execVredMax g k v t p s
  | .vscan d a k t p => Sys2Proof.Machine.execVscan d a k t p s
  | .vdot d a b k t p => Sys2Proof.Machine.execVdot d a b k t p s
  | .vcmp m a b k t c p => Sys2Proof.Machine.execVcmp m a b k t c p s
  | .vsel d a b k t p => Sys2Proof.Machine.execVsel d a b k t p s
  | .mmaBb c a b s0 l p => Sys2Proof.Machine.execMmaBb c a b s0 l p s
  | .mmaHh c a b s0 l p => Sys2Proof.Machine.execMmaHh c a b s0 l p s
  | .mmaQq c a b s0 l p => Sys2Proof.Machine.execMmaQq c a b s0 l p s
  | .mmaWw c a b s0 l p => Sys2Proof.Machine.execMmaWw c a b s0 l p s
  | .mmaQw c a b s0 l p => Sys2Proof.Machine.execMmaQw c a b s0 l p s
  | .mmaNn c a b s0 l p => Sys2Proof.Machine.execMmaNn c a b s0 l p s
  | .mmaLl c a b s0 l p => Sys2Proof.Machine.execMmaLl c a b s0 l p s
  | .mmaIi c a b l p => Sys2Proof.Machine.execMmaIi c a b l p s
  | .mcfg s0 p => Sys2Proof.Machine.execMcfg s0 p s
  | .mzero c p => Sys2Proof.Machine.execMzero c p s
  | .mrd c v s0 p => Sys2Proof.Machine.execMrd c v s0 p s
  | .mwr c v s0 p => Sys2Proof.Machine.execMwr c v s0 p s
  | .msave c s0 p => Sys2Proof.Machine.execMsave c s0 p s
  | .mload c s0 p => Sys2Proof.Machine.execMload c s0 p s
  | .qaxis e a b p => Sys2Proof.Machine.execQaxis e a b p s
  | .qst e v a b q p => Sys2Proof.Machine.execQst e v a b q p s
  | .qsta e c a b q p => Sys2Proof.Machine.execQsta e c a b q p s
  | .qresR e v p => Sys2Proof.Machine.execQresR e v p s
  | .qresW e v p => Sys2Proof.Machine.execQresW e v p s
  | .gcfg d a b p => Sys2Proof.Machine.execGcfg d a b p s
  | .gseed v a b p => Sys2Proof.Machine.execGseed v a b p s
  | .gadd v a b p => Sys2Proof.Machine.execGadd v a b p s
  | .gld v a b p => Sys2Proof.Machine.execGld v a b p s
  | .gsprd d a b p => Sys2Proof.Machine.execGsprd d a b p s
  | .gfence p => Sys2Proof.Machine.execGfence p s
  | .gmass d a b p => Sys2Proof.Machine.execGmass d a b p s
  | .spawn a imm p => Sys2Proof.Machine.execSpawn a imm p s
  | .join a p => Sys2Proof.Machine.execJoin a p s
  | .tend a p => Sys2Proof.Machine.execTend a p s
  | .send d a n p => Sys2Proof.Machine.execSend d a n p s
  | .sendSvc d a b n p => Sys2Proof.Machine.execSendSvc d a b n p s
  | .recv d a n p => Sys2Proof.Machine.execRecv d a n p s
  | .mig a p => Sys2Proof.Machine.execMig a p s
  | .cpy d a b p => Sys2Proof.Machine.execCpy d a b p s
  | .cpyr d a b p => Sys2Proof.Machine.execCpyr d a b p s
  | .rpush d a b p => Sys2Proof.Machine.execRpush d a b p s
  | .qfence a p => Sys2Proof.Machine.execQfence a p s
  | .coll d a b p => Sys2Proof.Machine.execColl d a b p s
  | .collw d a b p => Sys2Proof.Machine.execCollw d a b p s
  | .bdef d a b p => Sys2Proof.Machine.execBdef d a b p s
  | .bnbr a b p => Sys2Proof.Machine.execBnbr a b p s
  | .brule a b p => Sys2Proof.Machine.execBrule a b p s
  | .bstart a b p => Sys2Proof.Machine.execBstart a b p s
  | .bnext p => Sys2Proof.Machine.execBnext p s
  | .bcommit p => Sys2Proof.Machine.execBcommit p s
  | .bcommitC p => Sys2Proof.Machine.execBcommitC p s
  | .blvl d a p => Sys2Proof.Machine.execBlvl d a p s
  | .bfrzB p => Sys2Proof.Machine.execBfrzB p s
  | .bfrzD d a p => Sys2Proof.Machine.execBfrzD d a p s
  | .bthaw a p => Sys2Proof.Machine.execBthaw a p s
  | .bfront d a b p => Sys2Proof.Machine.execBfront d a b p s
  | .csrr d c p => Sys2Proof.Machine.execCsrr d c p s
  | .csrw d a c p => Sys2Proof.Machine.execCsrw d a c p s
  | .csrs d a c p => Sys2Proof.Machine.execCsrs d a c p s
  | .csrc d a c p => Sys2Proof.Machine.execCsrc d a c p s
  | .trap imm p => Sys2Proof.Machine.execTrap imm p s
  | .rft p => Sys2Proof.Machine.execRft p s
  | .halt p => Sys2Proof.Machine.execHalt p s
  | .yield p => Sys2Proof.Machine.execYield p s
  | .strandIntervalEnd c n => Sys2Proof.Machine.execStrandIntervalEnd c n s
  | .serviceForcedIssue c => Sys2Proof.Machine.execServiceForcedIssue c s
  | .rotationBoundary => Sys2Proof.Machine.execRotationBoundary s
  | .strandPlacement c n => Sys2Proof.Machine.execStrandPlacement c n s
  | .registerFill n => Sys2Proof.Machine.execRegisterFill n s
  | .loadComplete c n => Sys2Proof.Machine.execLoadComplete c n s
  | .storeBufferDrain c => Sys2Proof.Machine.execStoreBufferDrain c s
  | .scWindowClose => Sys2Proof.Machine.execScWindowClose s
  | .requesterTimeout tag => Sys2Proof.Machine.execRequesterTimeout tag s
  | .packetAgeExpiry n => Sys2Proof.Machine.execPacketAgeExpiry n s
  | .remoteAccessPerform c => Sys2Proof.Machine.execRemoteAccessPerform c s
  | .serviceQueueEntry src => Sys2Proof.Machine.execServiceQueueEntry src s
  | .serviceHandlerStart c => Sys2Proof.Machine.execServiceHandlerStart c s
  | .receiveQueueEntry src => Sys2Proof.Machine.execReceiveQueueEntry src s
  | .sendAccept c n => Sys2Proof.Machine.execSendAccept c n s
  | .sendAcceptTimeout c n => Sys2Proof.Machine.execSendAcceptTimeout c n s
  | .recvWaitLimit c n => Sys2Proof.Machine.execRecvWaitLimit c n s
  | .mwaitTimeout c n => Sys2Proof.Machine.execMwaitTimeout c n s
  | .monitorRegistered c n => Sys2Proof.Machine.execMonitorRegistered c n s
  | .amoPerform c n => Sys2Proof.Machine.execAmoPerform c n s
  | .ordEntryArrival c n => Sys2Proof.Machine.execOrdEntryArrival c n s
  | .ordReply c n => Sys2Proof.Machine.execOrdReply c n s
  | .ordNack c n => Sys2Proof.Machine.execOrdNack c n s
  | .ordResend c n => Sys2Proof.Machine.execOrdResend c n s
  | .ordTimeout c n => Sys2Proof.Machine.execOrdTimeout c n s
  | .fredUpdate c n => Sys2Proof.Machine.execFredUpdate c n s
  | .avgEntryApply c => Sys2Proof.Machine.execAvgEntryApply c s
  | .lupinExchange port => Sys2Proof.Machine.execLupinExchange port s
  | .lupinPacketArrival n => Sys2Proof.Machine.execLupinPacketArrival n s
  | .lupinAck n => Sys2Proof.Machine.execLupinAck n s
  | .lupinRefusal n => Sys2Proof.Machine.execLupinRefusal n s
  | .lupinRetry port => Sys2Proof.Machine.execLupinRetry port s
  | .reconciliationRequest n => Sys2Proof.Machine.execReconciliationRequest n s
  | .reconciliationReply n => Sys2Proof.Machine.execReconciliationReply n s
  | .stealRequest n => Sys2Proof.Machine.execStealRequest n s
  | .stealRecord n => Sys2Proof.Machine.execStealRecord n s
  | .stealEmpty n => Sys2Proof.Machine.execStealEmpty n s
  | .stealAck n => Sys2Proof.Machine.execStealAck n s
  | .stealConfirm n => Sys2Proof.Machine.execStealConfirm n s
  | .stealVoid n => Sys2Proof.Machine.execStealVoid n s
  | .lentTimeout c => Sys2Proof.Machine.execLentTimeout c s
  | .migrationDeparture c n => Sys2Proof.Machine.execMigrationDeparture c n s
  | .migrationArrival n => Sys2Proof.Machine.execMigrationArrival n s
  | .mmaStart k e => Sys2Proof.Machine.execMmaStart k e s
  | .mmaRetire k e => Sys2Proof.Machine.execMmaRetire k e s
  | .ringWaitLimit c n => Sys2Proof.Machine.execRingWaitLimit c n s
  | .rpushReserve c n => Sys2Proof.Machine.execRpushReserve c n s
  | .slotPublish k r => Sys2Proof.Machine.execSlotPublish k r s
  | .ringDisableEffect k r => Sys2Proof.Machine.execRingDisableEffect k r s
  | .commandStart k q => Sys2Proof.Machine.execCommandStart k q s
  | .copyChunk k q side => Sys2Proof.Machine.execCopyChunk k q side s
  | .copyFault k q side => Sys2Proof.Machine.execCopyFault k q side s
  | .commandComplete k q => Sys2Proof.Machine.execCommandComplete k q s
  | .peonyStepStart die q side => Sys2Proof.Machine.execPeonyStepStart die q side s
  | .peonyReady n => Sys2Proof.Machine.execPeonyReady n s
  | .peonyData n => Sys2Proof.Machine.execPeonyData n s
  | .peonyStepComplete die q side => Sys2Proof.Machine.execPeonyStepComplete die q side s
  | .peonyFaultNotice n => Sys2Proof.Machine.execPeonyFaultNotice n s
  | .peonyPartnerTimeout die q => Sys2Proof.Machine.execPeonyPartnerTimeout die q s
  | .asterDispatch k => Sys2Proof.Machine.execAsterDispatch k s
  | .facePushComplete k => Sys2Proof.Machine.execFacePushComplete k s
  | .facePushFault k side => Sys2Proof.Machine.execFacePushFault k side s
  | .levelNotification n => Sys2Proof.Machine.execLevelNotification n s
  | .asterLinkInstall n => Sys2Proof.Machine.execAsterLinkInstall n s
  | .asterLinkClear n => Sys2Proof.Machine.execAsterLinkClear n s
  | .asterRfreeUpdate n => Sys2Proof.Machine.execAsterRfreeUpdate n s
  | .asterConfirm n => Sys2Proof.Machine.execAsterConfirm n s
  | .freezeDrainExpiry dom k => Sys2Proof.Machine.execFreezeDrainExpiry dom k s
  | .freezeComplete dom => Sys2Proof.Machine.execFreezeComplete dom s
  | .walkComplete k va => Sys2Proof.Machine.execWalkComplete k va s
  | .launchStart n => Sys2Proof.Machine.execLaunchStart n s
  | .kernelCompletion n => Sys2Proof.Machine.execKernelCompletion n s
  | .queueNotify q w => Sys2Proof.Machine.execQueueNotify q w s
  | .queueDescriptorWrite q w => Sys2Proof.Machine.execQueueDescriptorWrite q w s
  | .mapWrite n w => Sys2Proof.Machine.execMapWrite n w s
  | .trootWrite w => Sys2Proof.Machine.execTrootWrite w s
  | .preempt n => Sys2Proof.Machine.execPreempt n s
  | .preemptRequestArrival n c => Sys2Proof.Machine.execPreemptRequestArrival n c s
  | .preemptSaveComplete n => Sys2Proof.Machine.execPreemptSaveComplete n s
  | .resume n => Sys2Proof.Machine.execResume n s
  | .moduleRemove w => Sys2Proof.Machine.execModuleRemove w s
  | .latecntClear => Sys2Proof.Machine.execLatecntClear s
  | .multicastGo w => Sys2Proof.Machine.execMulticastGo w s
  | .multicastLine n => Sys2Proof.Machine.execMulticastLine n s
  | .multicastReply failed => Sys2Proof.Machine.execMulticastReply failed s
  | .attestationGo => Sys2Proof.Machine.execAttestationGo s
  | .attestationComplete => Sys2Proof.Machine.execAttestationComplete s
  | .registerWrite off w => Sys2Proof.Machine.execRegisterWrite off w s
  | .apertureWrite off size w => Sys2Proof.Machine.execApertureWrite off size w s
  | .apertureRead off size => Sys2Proof.Machine.execApertureRead off size s
  | .linkFrame port tagOk msgs => Sys2Proof.Machine.execLinkFrame port tagOk msgs s
  | .linkBringUp port far dom boot => Sys2Proof.Machine.execLinkBringUp port far dom boot s
  | .linkRekey port => Sys2Proof.Machine.execLinkRekey port s
  | .linkControlTimeout port => Sys2Proof.Machine.execLinkControlTimeout port s
  | .linkDown port => Sys2Proof.Machine.execLinkDown port s
  | .memoryEccError line lasting => Sys2Proof.Machine.execMemoryEccError line lasting s
  | .registerEccError c n r syndrome => Sys2Proof.Machine.execRegisterEccError c n r syndrome s
  | .fabricTransferError port lasting => Sys2Proof.Machine.execFabricTransferError port lasting s
  | .fatalError unit index syndrome => Sys2Proof.Machine.execFatalError unit index syndrome s
  | .powerLimitHold hold => Sys2Proof.Machine.execPowerLimitHold hold s
  | .gatingEntry c => Sys2Proof.Machine.execGatingEntry c s
  | .gatingCommit c => Sys2Proof.Machine.execGatingCommit c s
  | .gated c => Sys2Proof.Machine.execGated c s
  | .wakeEvent c => Sys2Proof.Machine.execWakeEvent c s
  | .ungatingComplete c => Sys2Proof.Machine.execUngatingComplete c s
  | .moduleReset => Sys2Proof.Machine.execModuleReset s
  | .boot stage why => Sys2Proof.Machine.execBoot stage why s
  | .firmwareUpdate unit version why => Sys2Proof.Machine.execFirmwareUpdate unit version why s
  | .wordNotAnInstruction w => Sys2Proof.Machine.execWordNotAnInstruction w s
  | .instructionFetchFault => Sys2Proof.Machine.execInstructionFetchFault s
  | .barwWaitLimit c n => Sys2Proof.Machine.execBarwWaitLimit c n s
  | .arrivalReservationRequest src => Sys2Proof.Machine.execArrivalReservationRequest src s
  | .remoteStoreAcknowledgement n => Sys2Proof.Machine.execRemoteStoreAcknowledgement n s
  | .discardCountRecord => Sys2Proof.Machine.execDiscardCountRecord s

end Sys2Proof.Machine
end

