-- ==== Sys2Proof/Machine/Waits.lean ====
section
/-! DEFINITION. An operation in WAIT goes on when what it waits for has come (R19, R20). -/

namespace Sys2Proof.Machine

/-- The operation in WAIT in a slot goes on, when it can. MWAIT and BARV go on at the end of a cycle (R228, R334). -/
def resumeWait (c n : Nat) (s : State) : Option State :=
  match s.waiting c n with
  | none => none
  | some op =>
    match op with
    | .load _ _ _ => loadResume c n s
    | .storeRoom _ _ _ _ => storeResume c n s
    | .qst _ _ _ _ => qstResume c n s
    | .amo _ _ _ => amoResume c n s
    | .ord _ => ordResume c n s
    | .fence _ _ => fenceResume c n s
    | .mma _ => mmaResume c n s
    | .spawn _ _ _ _ => spawnResume c n s
    | .tend _ _ _ => tendResume c n s
    | .idle => idleResume c n s
    | .join _ _ => joinResume c n s
    | .recv _ _ _ => recvResume c n s
    | .send _ _ => sendResume c n s
    | .migrate _ _ _ _ _ => migrateResume c n s
    | .engine _ _ _ _ => engineResume c n s
    | .rpush _ _ _ _ _ _ _ => rpushResume c n s
    | .qfence _ => qfenceResume c n s
    | .bnext => bnextResume c n s
    | .bcommit => bcommitResume c n s
    | .gstore _ _ => gstoreResume c n s
    | .gld _ _ _ _ _ => gldResume c n s
    | .gfence => gfenceResume c n s
    | .synci _ _ _ _ => synciResume c n s
    | .barw _ _ _ _ _ => barwResume c n s
    | .scLoad _ _ _ _ => none
    | .scStore _ => none
    | .fred _ _ _ => none
    | .mon _ => none
    | .collw _ _ => none
    | .link _ _ _ _ _ => none
    | .confirm _ _ _ _ => asterResume c n s
    | .bfrzD _ _ => none
    | .mwait _ _ _ _ => none
    | .barv _ _ _ => none

end Sys2Proof.Machine
end

