-- ==== Sys2Proof/Machine/Schedule.lean ====
section
/-! DEFINITION. What happens next in a cycle: interval ends, operations in WAIT, the issue of each core, the module's own
events, and the next cycle (R19-R24, R35, R364; log 3). -/

namespace Sys2Proof.Machine

/-- The strand in slot n of core c may issue (R19, R36). -/
def canIssue (k : Core) (n : Nat) : Bool :=
  (k.slot n).state == .ready && (n == 8 || !k.preempted.any (k.slot n).strand.isOf)

/-- The slot from which core c issues in this cycle (R21-R24). -/
def pickSlot (s : State) (c : Nat) : Option Nat :=
  let k := s.core c
  if k.lastIssue = some s.cyc ∨ k.gating ≠ .ungated ∨ issuedAbove s c = true then none
  else if k.det then
    match k.turnZero with
    | some t =>
      let j := (s.cyc - t) % 9
      if t ≤ s.cyc ∧ canIssue k j = true then some j else none
    | none => none
  else if k.forceNow && canIssue k 8 then some 8
  else
    let last := if k.restarted then 7 else k.lastSlot
    match (List.range 8).find? fun i => canIssue k ((last + 1 + i) % 8) with
    | some i => some ((last + 1 + i) % 8)
    | none => if canIssue k 8 then some 8 else none

/-- The strand in a slot issues the word at its PC (R63, R72, R100). -/
def issueFrom (c n : Nat) (s : State) : Out :=
  let s1 : State := { s with cur := (c, n) }
  match fetchWord s1 with
  | .error _ => execInstructionFetchFault s1
  | .ok w =>
    match decode w with
    | .ok i => exec i s1
    | .error _ => execWordNotAnInstruction w s1

/-- The end of a cycle: the MMAs that have reached their engines in it are judged (R133). -/
def cycleEnd (s : State) : State :=
  s.clusters.foldl (fun t (k, _) => (mmaJudge k t).getD t) s

/-- The next cycle; each core keeps the cycle since which it is eligible for gating (R364). -/
def tick (s0 : State) : State :=
  let s := cycleEnd s0
  { s with
    cyc := s.cyc + 1, closing := false
    cores := s.cores.map fun (c, k) =>
      (c, { k with idleSince := if eligible k then some (k.idleSince.getD s.cyc) else none }) }

/-- The effect of a possible event, where its conditions hold. -/
abbrev Candidate := State → Option State

/-- An effect that can happen only where a condition holds. -/
def onlyIf (b : Bool) (f : Candidate) : Candidate :=
  fun s => if b then f s else none

/-- The events of message n in flight. -/
def messageEvents (m : Msg) (n : Nat) : List Candidate :=
  match m with
  | .fill _ _ _ => [registerFill n]
  | .reply _ _ _ _ => [registerFill n]
  | .answer _ _ => [registerFill n]
  | .access _ _ _ _ => [serviceEntry (.flight n)]
  | .ack _ _ => [storeAcked n]
  | .recvEntry _ _ _ _ => [receiveEntry (.flight n)]
  | .svcEntry _ _ _ _ _ _ _ _ => [serviceEntry (.flight n)]
  | .sendAccepted _ => [lateAnswer n]
  | .noted _ => [notedArrives n]
  | .sendConfirm _ _ _ => [sendConfirmed n]
  | .unsend _ _ => [receiveEntry (.flight n)]
  | .migrate _ _ _ _ _ => [migrationArrival n]
  | .reserve _ _ _ _ => [arrivalReserve (.flight n)]
  | .unreserve _ _ _ => [arrivalReserve (.flight n)]
  | .granted _ => [lateAnswer n]
  | .stealRequest _ _ => []
  | .stealRecord _ _ _ _ => [stealRecordArrives n]
  | .stealEmpty _ _ => [stealEmptyArrives n]
  | .stealAck _ _ _ => [stealAcked n]
  | .stealConfirm _ _ => [stealConfirmed n]
  | .stealVoid _ _ => [stealVoided n]
  | .stealReject _ _ _ => [stealVoided n]
  | .lupPacket _ _ _ _ => [lupinArrival n]
  | .lupAck _ _ _ => [lupinAck n]
  | .lupRefusal _ _ _ => [lupinRefusal n]
  | .reconRequest _ _ _ => [reconRequested n]
  | .reconReply _ _ _ _ => [reconReplied n]
  | .peonyReady _ _ _ _ _ _ => [readyArrives n]
  | .peonyData _ _ _ _ _ _ => [dataArrives n]
  | .peonyNotice _ _ _ _ => [noticeArrives n]
  | .level _ _ _ _ _ _ => [levelArrives n]
  | .linkInstall _ _ _ _ => [linkArrives n]
  | .linkClear _ _ _ _ => [clearArrives n]
  | .rfree _ _ _ _ _ => [rfreeArrives n]
  | .confirm _ _ => [confirmArrives n]
  | .linked _ _ _ _ _ _ => [confirmArrives n]
  | .linkRefused _ _ _ => [confirmArrives n]
  | .bytes _ _ => []
  | .multicast _ _ _ _ => [multicastLine n]
  | .multicastAck _ => []

/-- The events of the operation in WAIT in a slot. -/
def waitEvents (c n : Nat) (op : WaitOp) : List Candidate :=
  match op with
  | .load _ _ _ => [loadArrives c n]
  | .amo _ _ _ => [amoNext c n]
  | .ord _ => [ordReply c n, ordArrive c n, ordNack c n, ordResend c n]
  | .fred _ _ _ => [fredUpdate c n]
  | .mon _ => [monRegistered c n]
  | .rpush _ _ _ _ _ _ _ => [rpushReserve c n, rpushReach c n]
  | .send op _ =>
    [if op.svc then serviceEntry (.slot c n) else receiveEntry (.slot c n), sendAccept c n]
  | .migrate _ _ _ _ _ => [arrivalReserve (.slot c n), departure c n]
  | _ => []

/-- The limits of an operation in WAIT, which what comes in the same cycle goes before (R222, R246, R248, R271). -/
def waitLimits (c n : Nat) (op : WaitOp) : List Candidate :=
  match op with
  | .ord _ => [ordTimeout c n]
  | .mma _ => [ringLimit c n]
  | .rpush _ _ _ _ _ _ _ => [ringLimit c n]
  | .recv _ _ _ => [recvLimit c n]
  | .send _ _ => [sendTimeout c n]
  | _ => []

/-- The limit of a BARW, after the arrivals of its cycle (R335). -/
def barwLimits (c n : Nat) (op : WaitOp) : List Candidate :=
  match op with
  | .barw _ _ _ _ _ => [barwLimit c n]
  | _ => []

/-- The sampling of MWAIT, after every update of the cycle (R228). -/
def waitSamples (c n : Nat) (op : WaitOp) : List Candidate :=
  match op with
  | .mwait _ _ _ _ => [mwaitTimeout c n, mwaitResume c n]
  | _ => []

/-- The events of a core. -/
def coreEvents (s : State) (c : Nat) : List Candidate :=
  [drainStore c, spillNext c, avgApply c, accessPerform c, handlerStart c] ++
  ((List.range 9).flatMap fun n =>
    match s.waiting c n with
    | some op => waitEvents c n op
    | none => []) ++
  (List.range 8).map (fun n => placement c n) ++
  [onlyIf (!eligible (s.core c)) (wakeEvent c), ungatingComplete c, gatingEntry c, gatingCommit c, gated c]

/-- n bytes from an address up lie on the own module. -/
def allOwn (s : State) (va : Word) (n : Nat) : Bool :=
  isOwn s va && isOwn s (va + BitVec.ofNat 64 (n - 1))

/-- No byte of the next chunk of a queue lies on another module, whose answer would be an input. DESIGN CHOICE, log 41.
-/
def chunkLocal (s : State) (k q : Nat) : Bool :=
  match headCmd s k q with
  | some x =>
    let n := chunkLen x
    allOwn s (x.src + BitVec.ofNat 64 x.off) n && allOwn s (x.dst + BitVec.ofNat 64 x.off) n
  | none => false

/-- The chunk of a queue whose remote side has not answered in time faults (R265, R303, R406). -/
def copySilence (k q : Nat) (s : State) : Option State :=
  match farSilence k q s with
  | some side => if q = 6 then pushFault k side s else copyFault k q side s
  | none => none

/-- The events of a copy queue or of the face queue. -/
def copyEvents (s : State) (k q : Nat) : List Candidate :=
  let own := chunkLocal s k q
  [chunkSettle k q, commandComplete k q, commandStart k q, onlyIf own (copyChunk k q (.ok [])), onlyIf own (copyFault k q (.ok []))]

/-- The events of a cluster. -/
def clusterEvents (s : State) (k : Nat) : List Candidate :=
  mmaJudge k :: ((List.range 4).flatMap fun e => [mmaRetire k e, mmaStart k e]) ++
  ((List.range 8).flatMap fun r => [slotPublish k r, ringDisable k r]) ++
  (copyEvents s k 6 ++ [pushComplete k, onlyIf (chunkLocal s k 6) (pushFault k (.ok []))]) ++
  ((List.range 4).flatMap (copyEvents s k)) ++ [asterDispatch k]

/-- The events of a die. -/
def dieEvents (s : State) (d : Nat) : List Candidate :=
  (List.range 2).flatMap fun q =>
    let own := !stepRemote s d q
    [commandComplete d (4 + q), commandStart d (4 + q), onlyIf own (stepComplete d q (.ok [])),
      onlyIf own (stepStart d q (.ok []))]

/-- The events of the module's launches, freezes, requests and links. -/
def moduleEvents (s : State) : List Candidate :=
  scClose :: replySettled :: returnNext ::
  (s.freezes.flatMap fun f =>
    (s.clusters.map fun (k, _) => drainExpiry f.dom k) ++
    [freezeComplete f.dom]) ++
  (s.launches.flatMap fun (n, l) =>
    kernelCompletion n ::
    (if (s.pctlOf n).busy then
      (preemptCores s n l).map (fun c => preemptArrives n c) ++
        [saveComplete n]
     else [])) ++
  (s.saved.map fun (n, _) => resumeComplete n) ++
  (List.range 32).map (fun n => launchStart n) ++
  s.links.flatMap (fun (p, _) =>
    [linkTimeout p, lupinRetry p, lupinExchange p]) ++
  [onlyIf s.attBusy attestationComplete, discardRecord]

/-- The events that come before the issues of a cycle. -/
def earlyEvents (s : State) : List Candidate :=
  rotation ::
  (s.places.map fun (c, n) => storeTrap c n) ++
  (s.places.map fun (c, n) => intervalEnd c n) ++
  s.cores.map fun (c, _) => forcedIssue c

/-- The events that come after the issues of a cycle. -/
def lateEvents (s : State) : List Candidate :=
  (s.flight.zipIdx.flatMap fun (m, n) => messageEvents m n) ++
  (s.clusters.flatMap fun (k, _) => clusterEvents s k) ++ (s.dies.flatMap fun (d, _) => dieEvents s d) ++
  (s.cores.flatMap fun (c, _) => coreEvents s c) ++ moduleEvents s

/-- An event that comes last: the cycle closes with it. -/
def lastly (f : Candidate) : Candidate :=
  fun s => (f s).map fun t => { t with closing := true }

/-- The events of the operations in WAIT of a list of kinds. -/
def everyWait (f : Nat → Nat → WaitOp → List Candidate) (s : State) : List Candidate :=
  s.places.flatMap fun (c, n) => match s.waiting c n with
    | some op => f c n op
    | none => []

/-- The events that come last in a cycle: requests to steal, which the owner's pops go before (R242), the limits, which may end
what a BARV waits for, arrivals at barrier counters by core and slot with the BARWs that they end, and the limits of BARWs (R334,
R335), and MWAIT, which sees every effect on memory (R228). -/
def lastCandidates (s : State) : List Candidate :=
  (s.flight.zipIdx.map fun (_, n) => stealRequested n) ++
  (s.pending.map fun p => requesterTimeout p.tag) ++ (s.asks.map fun a => requesterTimeout a.tag) ++
  (s.dies.flatMap fun (d, _) => (List.range 2).flatMap fun q => [partnerTimeout d q, stepSilence d q]) ++
  (s.clusters.flatMap fun (k, _) => [0, 1, 2, 3, 6].map fun q => copySilence k q) ++
  (multicastSilence :: (s.cores.map fun (c, _) => lentTimeout c)) ++
  everyWait waitLimits s ++
  (s.places.map fun (c, n) => barvResume c n) ++
  (s.places.map fun (c, n) => barwResume c n) ++
  everyWait barwLimits s ++ everyWait waitSamples s

/-- The same, each of which closes the cycle. -/
def lastEvents (s : State) : List Candidate :=
  (lastCandidates s).map lastly

/-- The first event of a list whose conditions hold takes place. -/
def firstEvent (cs : List Candidate) (s : State) : Option State :=
  cs.findSome? fun f => f s

/-- The first operation in WAIT that can go on does so. -/
def firstResume (s : State) : Option State :=
  s.places.findSome? fun (c, n) => resumeWait c n s

/-- The first core that can issue. -/
def firstIssue (s : State) : Option (Nat × Nat) :=
  s.cores.findSome? fun (c, _) => (pickSlot s c).map fun n => (c, n)

/-- What the module does when nothing is on the agenda. DESIGN CHOICE, log 3. -/
def proceed (s : State) : Out :=
  if s.closing then .next ((firstEvent (lastEvents s) s).getD (tick s)) else
  match firstEvent (earlyEvents s) s with
  | some t => .next t
  | none =>
    match firstResume s with
    | some t => .next t
    | none =>
      match firstIssue s with
      | some (c, n) => issueFrom c n s
      | none => .next ((firstEvent (lateEvents s ++ lastEvents s) s).getD (tick s))

/-- What still happens on a module that a fatal error holds: its reset, the host's reads, the host's own memory, and time
(R363). -/
def happensHeld : Choice → Bool
  | .happen .moduleReset => true
  | .happen (.apertureRead _ _) => true
  | .tick => true
  | .hostWrite _ _ => true
  | .registerRead _ => true
  | _ => false

/-- The limit of which an event of the opcode table is the end, or a request to steal, which comes last (R242). -/
def limitOf : Instr → Option Candidate
  | .requesterTimeout tag => some (requesterTimeout tag)
  | .sendAcceptTimeout c n => some (sendTimeout c n)
  | .recvWaitLimit c n => some (recvLimit c n)
  | .mwaitTimeout c n => some (mwaitTimeout c n)
  | .ordTimeout c n => some (ordTimeout c n)
  | .lentTimeout c => some (lentTimeout c)
  | .ringWaitLimit c n => some (ringLimit c n)
  | .peonyPartnerTimeout d q => some (partnerTimeout d q)
  | .barwWaitLimit c n => some (barwLimit c n)
  | .stealRequest n => some (stealRequested n)
  | _ => none

/-- What an agenda can still do once the cycle closes: end limits and BARWs, read what the host reads, and go on to the next
cycle or to a reset; nothing that writes memory or lets an instruction issue (R228, R334, R397; log 3). -/
def happensLast (s : State) : Choice → Bool
  | .happen .moduleReset => true
  | .happen i => (limitOf i).isSome
  | .resume c n => match s.waiting c n with
    | some (.barw _ _ _ _ _) => true
    | _ => false
  | .issue _ => false
  | .tick => true
  | .hostWrite _ _ => false
  | .corrected _ => true
  | .registerRead _ => true
  | .configure _ _ _ => true
  | .moduleUp _ _ => true
  | .frameSent _ => true
  | .frameDropped _ _ => true
  | .registerRetried _ _ _ => true

/-- An event that is the end of a limit closes the cycle. -/
def closes (i : Instr) (s : State) : Bool :=
  match limitOf i with
  | some f => (f s).isSome
  | none => false

/-- One event of the opcode table takes place. -/
def happen (i : Instr) (s : State) : Out :=
  match exec i s with
  | .next t => .next (if closes i s then { t with closing := true } else t)
  | o => o

/-- One choice of the agenda is carried out. -/
def choose (x : Choice) (s : State) : Out :=
  if (s.fatal && !happensHeld x) || (s.closing && !happensLast s x) then .next s else
  match x with
  | .happen i => happen i s
  | .issue c =>
    match pickSlot s c with
    | some n => issueFrom c n s
    | none => .next s
  | .resume c n => .next ((resumeWait c n s).getD s)
  | .tick => .next (tick s)
  | .hostWrite a data => .next (hostWrite a data s)
  | .corrected unit => .next (corrected unit s)
  | .registerRead off => .next (barRead off s)
  | .configure m d ms => .next (configure m d ms s)
  | .moduleUp m d => .next (moduleUp m d s)
  | .frameSent port => .next (frameSent port s)
  | .frameDropped port ok => .next (frameDropped port ok s)
  | .registerRetried c n w => .next (registerRetried c n w s)

end Sys2Proof.Machine
end

