-- ==== Sys2Proof/Machine/Step.lean ====
section
/-! DEFINITION. One step of the machine, and a machine that is about to run one given word (log 3, log 17). -/

namespace Sys2Proof.Machine

/-- One step: the head of the agenda, or what the module does next. A module that a fatal error holds does nothing more
until its reset (R363). -/
def step (s : State) : Host.Outcome State Fault Refusal :=
  match s.agenda with
  | x :: rest => choose x { s with agenda := rest }
  | [] => if s.fatal then .fault .moduleHeld else proceed s

/-- The page-table entry that maps the lowest 4 GiB of HBM with every right (R315). -/
def fetchLeaf : Word := 0x1F

/-- The address at which withFetchWord places the word. -/
def fetchAddress : Nat := 0x10000

/-- s with an instruction stored where the strand in slot 0 of core 0, made READY there, fetches it, and with that
strand's issue next on the agenda (log 17). -/
def State.withFetchWord (s : State) (nbits w : Nat) : State :=
  let root := bits s.troot 42 18 * 2 ^ 18
  let troot := if 2 ^ 40 ≤ root then 0 else s.troot
  let m1 := memWrite s.mem (bits troot 42 18 * 2 ^ 18) 8 fetchLeaf.toNat
  let m2 := memWrite m1 fetchAddress 4 (w % 2 ^ nbits)
  let k := s.core 0
  let x := k.slot 0
  { s with
    mem := m2, troot := troot, agenda := [.issue 0], fatal := false, closing := false
    cores := tabSet (s.cores.map fun (c, y) => (c, if y.lastIssue = some s.cyc then { y with lastIssue := none } else y)) 0
      { k with
        slots := k.slots.setIfInBounds 0
          { x with state := .ready, strand := { x.strand with pc := BitVec.ofNat 64 fetchAddress } }
        lastIssue := none, gating := .ungated, det := false, forceNow := false, lastSlot := 7, restarted := false
        preempted := k.preempted.filter fun q => !x.strand.isOf q } }

end Sys2Proof.Machine
end

