-- ==== Sys2Proof/Safety.lean ====
section
/-! DEFINITION. The terms in which claims speak: safe runs, when an instruction issues with its own effect, and what an
issue leaves. -/

namespace Sys2Proof.Machine

/-- The machine comes from one state to another in some number of steps. -/
inductive Reaches : State → State → Prop where
  | refl (s : State) : Reaches s s
  | step {s t u : State} (h : Reaches s t) (e : Sys2Proof.Machine.step t = .next u) : Reaches s u

/-- A state from which the next step goes on. -/
def GoesOn (s : State) : Prop :=
  ∃ t, Sys2Proof.Machine.step s = .next t

/-- A state from which every run goes on. -/
def Safe (s : State) : Prop :=
  ∀ t, Reaches s t → GoesOn t

/-- The executing strand stands in a slot of its core that is not in WAIT, and the issue of the instruction passes checks 4
and 5 of R72 and its guard (R64). -/
structure Runs (i : Instr) (s : State) : Prop where
  slot : s.cur.2 < 9
  awake : s.waiting s.cur.1 s.cur.2 = none
  mode : i.privileged = true → s.me.mode = true
  limits : i.limits = true
  guard : guardHolds s.me i.guardField = true

/-- No register that is read or written is empty (R80), and none that is read is clipped (R252). -/
structure Readable (reads writes : List (BitVec 4)) (s : State) : Prop where
  full : ∀ r ∈ reads ++ writes, s.me.isEmpty r = false
  kept : ∀ r ∈ reads, s.me.isClipped r = false

/-- The executing strand of s issues an instruction whose only effect is f on its context, and goes on at the next
word; the issue counts. -/
def ran (f : Strand → Strand) (s : State) : State :=
  (markIssue s).modMe fun x => let y := f x; { y with pc := y.pc + 4, icnt := y.icnt + 1 }

/-- The executing strand of s issues an instruction whose only effect is f on its context, and goes on at an address. -/
def ranTo (pc : Word) (f : Strand → Strand) (s : State) : State :=
  (markIssue s).modMe fun x => let y := f x; { y with pc := pc, icnt := y.icnt + 1 }

/-- An instruction of two sources: wherever it runs with its registers readable it writes f of them to gd, changes nothing
else of its strand but the PC and the count, and goes on at the next word. -/
def WritesOfTwo (mk : BitVec 4 → BitVec 4 → BitVec 4 → BitVec 4 → Instr) (f : Word → Word → Word) : Prop :=
  ∀ (d a b p : BitVec 4) (s : State), Runs (mk d a b p) s → Readable [a, b] [d] s →
    exec (mk d a b p) s = .next (ran (fun x => x.put d (f (x.get a) (x.get b))) s)

/-- The same of an instruction of one source. -/
def WritesOfOne (mk : BitVec 4 → BitVec 4 → BitVec 4 → Instr) (f : Word → Word) : Prop :=
  ∀ (d a p : BitVec 4) (s : State), Runs (mk d a p) s → Readable [a] [d] s →
    exec (mk d a p) s = .next (ran (fun x => x.put d (f (x.get a))) s)

/-- The context after an instruction with the effect f: the issue counts, and the strand goes on at the next word, or
where an abandonment has sent it (R307). -/
def after (f : Strand → Strand) (x : Strand) : Strand :=
  let y := f { x with entry := false, icnt := x.icnt + 1 }
  y.goTo (y.pc + 4)

/-- The core of the executing strand, but for the marks that every issue leaves and the slots themselves, takes g; every
other core and every other slot is as before. -/
structure CoreFrame (g : Core → Core) (s t : State) : Prop where
  others : ∀ c, c ≠ s.cur.1 → t.core c = s.core c
  core : t.core s.cur.1 =
    { g (s.core s.cur.1) with
      slots := (t.core s.cur.1).slots, lastSlot := (t.core s.cur.1).lastSlot, lastIssue := (t.core s.cur.1).lastIssue
      svcSince := (t.core s.cur.1).svcSince, svcForced := (t.core s.cur.1).svcForced
      forceNow := (t.core s.cur.1).forceNow, restarted := (t.core s.cur.1).restarted }
  slots : ∀ n, n ≠ s.cur.2 → t.slot s.cur.1 n = s.slot s.cur.1 n

/-- The same, and everything else of the module but the serial counter is as before. -/
structure Frame (g : Core → Core) (s t : State) : Prop extends CoreFrame g s t where
  rest : t = { s with cores := t.cores, serial := t.serial }

/-- t is s after the executing strand's instruction ran to its end: f on its context, g on its core. -/
structure Does (g : Core → Core) (f : Strand → Strand) (s t : State) : Prop extends Frame g s t where
  goes : ∃ at_, (t.slot s.cur.1 s.cur.2).state = .interval at_
  me : t.me = after f s.me

/-- t is s after the executing strand's instruction entered WAIT with an operation; g on its core. -/
structure Waits (g : Core → Core) (op : WaitOp) (s t : State) : Prop extends Frame g s t where
  waits : (t.slot s.cur.1 s.cur.2).state = .wait op
  me : t.me = { s.me with entry := false, icnt := s.me.icnt + 1 }

/-- t is s after the executing strand parked on some registers, its PC at the instruction. -/
structure Parks (rs : List (BitVec 4)) (s t : State) : Prop extends Frame id s t where
  parks : (t.slot s.cur.1 s.cur.2).state = .park rs
  me : t.me = { s.me with entry := false, icnt := s.me.icnt + 1 }

/-- t is s after the executing strand took a trap with the report of a stop and a saved PC: the trap registers, the mode,
and the PC at TVEC. Nothing else changes but the entry of its block, if it is bound to one. -/
structure Traps (xpc : Word) (stop : Stop) (s t : State) : Prop extends CoreFrame id s t where
  rest : t = { s with cores := t.cores, clusters := t.clusters }
  free : s.me.bound = none → t.clusters = s.clusters
  goes : ∃ at_, (t.slot s.cur.1 s.cur.2).state = .interval at_
  me : t.me =
    { s.me with
      xpc := (s.me.redir <|> s.me.redirX).getD xpc, redir := none, redirX := none, xval := stop.xval, xaux := stop.xaux
      mode := true, entry := true
      xcause := BitVec.ofNat 64 (causeCode stop.cause + if s.me.mode then 2 ^ 63 else 0)
      pc := (s.core s.cur.1).tvec.setWidth 64 <<< 2 }

/-- The n bytes at an address of this module as a strand of core c finds them: each from the youngest store of it in the
core's buffer, else from memory (R164). -/
def bytesHeld (s : State) (c a n : Nat) : Nat :=
  leNat ((List.range n).map fun i => (sbByte (s.core c).sb (.here (a + i))).getD (memByte s.mem (a + i)))

/-- The conditions of R97: equal, not equal, signed and unsigned less, and less or equal. -/
def holds (cc : BitVec 3) (a b : Word) : Bool :=
  if cc = 0 then decide (a.toNat = b.toNat)
  else if cc = 1 then decide (a.toNat ≠ b.toNat)
  else if cc = 2 then decide (a.toInt < b.toInt)
  else if cc = 3 then decide (a.toInt ≤ b.toInt)
  else if cc = 4 then decide (a.toNat < b.toNat)
  else decide (a.toNat ≤ b.toNat)

/-- The instruction parks on those of some registers that are empty, when one is. -/
def ParksOn (i : Instr) (regs : List (BitVec 4)) : Prop :=
  ∀ s : State, Runs i s → (∃ r ∈ regs, s.me.isEmpty r = true) →
    ∃ t rs, exec i s = .next t ∧ Parks rs s t ∧ ∀ r, r ∈ rs ↔ r ∈ regs ∧ s.me.isEmpty r = true

/-- The instruction raises CONTEXT_CLIPPED on the first clipped register that it reads, when none is empty. -/
def TrapsOnClipped (i : Instr) (reads writes : List (BitVec 4)) : Prop :=
  ∀ (s : State) (r : BitVec 4), Runs i s → (s.core s.cur.1).tvec ≠ 0 →
    (∀ q ∈ reads ++ writes, s.me.isEmpty q = false) → reads.find? s.me.isClipped = some r →
    ∃ t, exec i s = .next t ∧ Traps s.me.pc ⟨.contextClipped, r.setWidth 64, 0⟩ s t

/-- CSRW, CSRS or CSRC, which write new of the old value and of the source, on every CSR that they may write: the register
takes the value in its named, writable bits, and gd the old value. -/
def WritesCsrs (mk : BitVec 4 → BitVec 4 → BitVec 12 → BitVec 4 → Instr) (new : Word → Word → Word) : Prop :=
  ∀ (d a p : BitVec 4) (num : BitVec 12) (s : State), Runs (mk d a num p) s → Readable [a] [d] s →
    let old := csrRead s s.cur.1 s.cur.2 num.toNat
    let v := new old (s.me.get a)
    let c := s.cur.1
    (num = 0x001 → v.toNat % 8 < 5 →
      exec (mk d a num p) s = .next (ran (fun x => { x with fpc := v.setWidth 11 &&& 0x737 }.put d old) s)) ∧
    (num = 0x002 → exec (mk d a num p) s = .next (ran (fun x => { x with fps := v.setWidth 6 }.put d old) s)) ∧
    (num = 0x010 → v.getLsbD 4 = true → exec (mk d a num p) s =
      .next (ran (fun x => { x with ridx := v.setWidth 4, viu := true, spl := v.getLsbD 5 }.put d old) s)) ∧
    (num = 0x010 → v.getLsbD 4 = false → exec (mk d a num p) s =
      .next (ran (fun x => { x with
        ridx := v.setWidth 4, viu := false, spl := v.getLsbD 5, v := Vector.replicate 8 0
        k := Strand.reset.k }.put d old) s)) ∧
    (num = 0x012 → v.toNat % 32 = 8 ∨ v.toNat % 32 = 16 →
      exec (mk d a num p) s = .next (ran (fun x => { x with ctxw := v.setWidth 5 }.put d old) s)) ∧
    (num = 0x013 → exec (mk d a num p) s = .next (ran (fun x => { x with stdom := v.setWidth 2 }.put d old) s)) ∧
    (num = 0x014 → exec (mk d a num p) s =
      .next ((markIssue s).modMe fun x => { x.put d old with pc := x.pc + 4, icnt := v })) ∧
    (num = 0x020 → exec (mk d a num p) s = .next (ran (fun x => { x with xpc := v }.put d old) s)) ∧
    (num = 0x021 → exec (mk d a num p) s =
      .next (ran (fun x => { x with xcause := v &&& BitVec.ofNat 64 (2 ^ 63 + 0xFF) }.put d old) s)) ∧
    (num = 0x022 → exec (mk d a num p) s = .next (ran (fun x => { x with xval := v }.put d old) s)) ∧
    (num = 0x023 → exec (mk d a num p) s = .next (ran (fun x => { x with xaux := v }.put d old) s)) ∧
    (num = 0x030 → exec (mk d a num p) s =
      .next ((ran (fun x => x.put d old) s).modCore c fun k => { k with tvec := (v >>> 2).setWidth 62 })) ∧
    (num = 0x031 → v.toNat % 512 ≤ 288 → exec (mk d a num p) s =
      .next ((ran (fun x => x.put d old) s).modCore c fun k => { k with splim := v.setWidth 9 })) ∧
    (num = 0x032 → exec (mk d a num p) s =
      .next ((ran (fun x => x.put d old) s).modCore c fun k =>
        { k with weights := k.weights.setIfInBounds s.me.q (v.setWidth 8) })) ∧
    (num = 0x040 → exec (mk d a num p) s =
      .next ((ran (fun x => x.put d old) s).modCluster (c / 16) fun k => { k with fdrain := v.toNat % 2 ^ 32 })) ∧
    (num = 0x041 → exec (mk d a num p) s =
      .next ((ran (fun x => x.put d old) s).modCluster (c / 16) fun k =>
        { k with spanMax := v.toNat % 2 ^ 30, spanHit := v.getLsbD 31 })) ∧
    (num = 0x050 → v.setWidth 16 ≠ (v >>> 16).setWidth 16 → exec (mk d a num p) s =
      .next { ran (fun x => x.put d old) s with seedA := v.setWidth 16, seedB := (v >>> 16).setWidth 16 })

/-- CSRW, CSRS or CSRC would leave a value that R142 refuses. -/
def RefusesCsrValues (mk : BitVec 4 → BitVec 4 → BitVec 12 → BitVec 4 → Instr) (new : Word → Word → Word) : Prop :=
  ∀ (d a p : BitVec 4) (num : BitVec 12) (s : State), Runs (mk d a num p) s → Readable [a] [d] s →
    (s.core s.cur.1).tvec ≠ 0 →
    let v := new (csrRead s s.cur.1 s.cur.2 num.toNat) (s.me.get a)
    (num = 0x001 ∧ 5 ≤ v.toNat % 8 ∨ num = 0x012 ∧ v.toNat % 32 ≠ 8 ∧ v.toNat % 32 ≠ 16 ∨
      num = 0x031 ∧ 288 < v.toNat % 512 ∨ num = 0x050 ∧ v.setWidth 16 = (v >>> 16).setWidth 16) →
    ∃ t, exec (mk d a num p) s = .next t ∧ Traps s.me.pc ⟨.illOperand, v, 0⟩ s t

/-- t is s after the strand in a slot left WAIT with the effect f on its context: it goes on at the next word, READY as
R19 and R21 say. -/
structure Woken (c n : Nat) (f : Strand → Strand) (s t : State) : Prop where
  rest : t = { s with cores := t.cores }
  others : ∀ d, d ≠ c → t.core d = s.core d
  core : t.core c = { s.core c with slots := (t.core c).slots }
  slots : ∀ m, m ≠ n → t.slot c m = s.slot c m
  slot : t.slot c n =
    { s.slot c n with
      state := .interval (wakeAt s c n)
      strand := (f (s.strand c n)).goTo ((f (s.strand c n)).pc + 4) }

/-- No averaging entry of the executing strand, or of one whose release it has seen, waits for the line of an address (R168,
R200, R232). -/
def Settled (s : State) (a : Nat) : Prop :=
  ∀ x ∈ (s.core s.cur.1).avgQ, x.uid = s.me.uid ∨ releasedTo s s.cur.1 x.uid s.me.uid = true → x.line ≠ a / 64 * 64

/-- A load of n bytes by the executing strand passes the checks of R154, is of this module, and is not poisoned. -/
structure MayLoad (s : State) (va : Word) (n : Nat) (p : Place) (a : Nat) : Prop where
  checked : checkAccess s s.cur.1 s.me.rights .load va n = .ok p
  here : p.loc = .here a
  settled : Settled s a
  clean : poisoned s a n = false

/-- The load needs no WAIT: its bytes lie in the own local store, or are all in the core's buffer (R156). -/
def AtOnce (s : State) (a n : Nat) : Prop :=
  inLocal s.cur.1 (.here a) = true ∨ ∀ j < n, (sbByte (s.core s.cur.1).sb (.here (a + j))).isSome = true

/-- The stores of other strands in a core's buffer that hold a byte of some places, each an address with a size, count as seen
by a strand (R166). -/
def sawStores (uid : Nat) (ps : List (Nat × Nat)) (k : Core) : Core :=
  { k with
    sb := k.sb.map fun x =>
      if (x.uid != uid && !x.readers.contains uid &&
          ps.any fun q => (List.range q.2).any fun j => (x.byte (.here (q.1 + j))).isSome) = true then
        { x with readers := x.readers ++ [uid] }
      else x }

/-- A scalar load of n bytes, which may be one that migrates (R160) and then stays: at once, the bytes held; else the strand
waits for them. -/
def LoadsAt (mig : Bool) (i : Instr) (reads : List (BitVec 4)) (d : BitVec 4) (signed : Bool) (n : Nat) (addr : Strand → Word) : Prop :=
  ∀ (s : State) (p : Place) (a : Nat), Runs i s → Readable reads [d] s → MayLoad s (addr s.me) n p a →
    (mig = true → migHome s p = none) →
    (AtOnce s a n → ∃ t, exec i s = .next t ∧
      Does (sawStores s.me.uid [(a, n)]) (fun x => x.put d (extend signed n (bytesHeld s s.cur.1 a n))) s t) ∧
    (¬AtOnce s a n → ∃ t, exec i s = .next t ∧
      Waits id (.load [⟨0, addr s.me, .here a, n, p.ord, none, 0, 0⟩] (.scalar d signed mig) none) s t)

/-- An SC load of n bytes waits for its window (R169). -/
def LoadsInWindow (i : Instr) (reads : List (BitVec 4)) (d : BitVec 4) (signed : Bool) (n : Nat) (addr : Strand → Word) :
    Prop :=
  ∀ (s : State) (p : Place), Runs i s → Readable reads [d] s → isOwn s (addr s.me) = true →
    checkAccess s s.cur.1 s.me.rights .load (addr s.me) n = .ok p →
    ∃ t, exec i s = .next t ∧ Waits id (.scLoad ⟨0, addr s.me, p.loc, n, p.ord, none, 0, 0⟩ d signed (s.cyc / 16)) s t

/-- The entry of a store of n bytes by the executing strand. -/
def entryFor (s : State) (kind : OrderKind) (va : Word) (loc : Loc) (n : Nat) (v : Word) : SbEntry :=
  ⟨s.me.uid, kind, va, loc, n, v.toNat % 2 ^ (8 * n), s.cyc, s.cyc, s.me.pc, none, []⟩

/-- The core takes an entry at the tail of its buffer, and folds its item when the strand is one of a checked launch (R163,
R338). -/
def takesEntry (s : State) (e : SbEntry) (k : Core) : Core :=
  { k with
    sb := k.sb ++ [e]
    digests := if checked s s.cur.1 s.cur.2 then
        k.digests.setIfInBounds s.cur.2
          (foldDigest (k.digests[s.cur.2]?.getD 0) (itemHash e.va e.size (BitVec.ofNat 64 e.data)))
      else k.digests }

/-- The local stores of the address space. -/
def Range.isLocal : Range → Bool
  | .local_ _ => true
  | .own => true
  | _ => false

/-- No store of the core waits for room in its buffer: of the core itself, or of another slot (R162). -/
def FirstForRoom (s : State) : Prop :=
  (s.core s.cur.1).spill = [] ∧ ∀ m < 9, m ≠ s.cur.2 → wantsRoom s s.cur.1 m = false

/-- A store of the executing strand finds no room: the buffer is full, or a store of the core itself or of a slot that waited
before this cycle takes the next entry that frees (R162). -/
def NoRoom (s : State) : Prop :=
  32 ≤ (s.core s.cur.1).sb.length ∨ (s.core s.cur.1).spill ≠ [] ∨
    ∃ m < 9, m ≠ s.cur.2 ∧ wantsRoom s s.cur.1 m = true ∧ (s.slot s.cur.1 m).waitAt < s.cyc

/-- A plain or release store of n bytes: with room in the buffer its entry is in and the strand goes on; memory is as
before until the entry leaves. Without room the strand waits. -/
def StoresAt (i : Instr) (reads : List (BitVec 4)) (r : BitVec 4) (kind : OrderKind) (n : Nat) (addr : Strand → Word) :
    Prop :=
  ∀ (s : State) (p : Place), Runs i s → Readable reads [] s →
    checkAccess s s.cur.1 s.me.rights (.store (if n = 8 then some (s.me.get r).toNat else none)) (addr s.me) n = .ok p →
    (FirstForRoom s → (s.core s.cur.1).sb.length < 32 → ∃ t, exec i s = .next t ∧
      Does (takesEntry s (entryFor s kind (addr s.me) p.loc n (s.me.get r))) id s t ∧
      ∀ a, memByte t.mem a = memByte s.mem a) ∧
    (NoRoom s → ∃ t, exec i s = .next t ∧
      Waits id (.storeRoom [entryFor s kind (addr s.me) p.loc n (s.me.get r)] .plain none false) s t)

/-- An SC store of n bytes: its entry is in, and the strand waits for its window; its item is folded when it is performed (R169,
R338). -/
def StoresInWindow (i : Instr) (reads : List (BitVec 4)) (r : BitVec 4) (n : Nat) (addr : Strand → Word) : Prop :=
  ∀ (s : State) (p : Place), Runs i s → Readable reads [] s → isOwn s (addr s.me) = true →
    checkAccess s s.cur.1 s.me.rights (.store (if n = 8 then some (s.me.get r).toNat else none)) (addr s.me) n = .ok p →
    FirstForRoom s → (s.core s.cur.1).sb.length < 32 → ∃ t, exec i s = .next t ∧
      Waits (fun k => { k with sb := k.sb ++ [entryFor s .sc (addr s.me) p.loc n (s.me.get r)] }) (.scStore (s.cyc / 16)) s t

/-- An access whose check fails traps with that stop, and has no other effect (R154). -/
def TrapsOnCheck (i : Instr) (reads writes : List (BitVec 4)) (k : Strand → Acc) (n : Nat) (addr : Strand → Word) : Prop :=
  ∀ (s : State) (st : Stop), Runs i s → Readable reads writes s → (s.core s.cur.1).tvec ≠ 0 →
    checkAccess s s.cur.1 s.me.rights (k s.me) (addr s.me) n = .error st →
    ∃ t, exec i s = .next t ∧ Traps s.me.pc st s t

/-- A vector load of the active lanes at given addresses: with every one of them in the own local store or the buffer, vd
takes them, its other lanes as before. -/
def LoadsLanes (i : Instr) (reads : List (BitVec 4)) (v t : BitVec 3) (k : BitVec 2) (addr : Strand → Nat → Word) : Prop :=
  ∀ (s : State) (p : Nat → Place) (a : Nat → Nat), Runs i s → Readable reads [] s →
    (∀ j < 512 / laneWidth t, bitAt (s.me.mask k) j = true →
      checkAccess s s.cur.1 s.me.rights .load (addr s.me j) (laneWidth t / 8) = .ok (p j) ∧ (p j).loc = .here (a j) ∧
      Settled s (a j) ∧ poisoned s (a j) (laneWidth t / 8) = false ∧ AtOnce s (a j) (laneWidth t / 8)) →
    ∃ (u : State) (new : VReg), exec i s = .next u ∧
      Does (sawStores s.me.uid ((activeLanes (s.me.mask k) (512 / laneWidth t)).map fun j => (a j, laneWidth t / 8)))
        (fun x => { x with viu := true }.putVec v new) s u ∧
      ∀ j < 512 / laneWidth t, lane new (laneWidth t) j =
        if bitAt (s.me.mask k) j then bytesHeld s s.cur.1 (a j) (laneWidth t / 8) else lane (s.me.vec v) (laneWidth t) j

/-- A vector load of the active lanes at given addresses of this module, not all of which need no WAIT: the strand waits for
the others, with the values of those that it has read. -/
def AwaitsLanes (i : Instr) (reads : List (BitVec 4)) (v t : BitVec 3) (k : BitVec 2) (addr : Strand → Nat → Word) : Prop :=
  ∀ (s : State) (p : Nat → Place) (a : Nat → Nat) (val : Nat → Option Nat), Runs i s → Readable reads [] s →
    let lanes := activeLanes (s.me.mask k) (512 / laneWidth t)
    (∀ j ∈ lanes, MayLoad s (addr s.me j) (laneWidth t / 8) (p j) (a j) ∧
      (AtOnce s (a j) (laneWidth t / 8) → val j = some (bytesHeld s s.cur.1 (a j) (laneWidth t / 8))) ∧
      (¬AtOnce s (a j) (laneWidth t / 8) → val j = none)) →
    (∃ j ∈ lanes, val j = none) →
    ∃ u, exec i s = .next u ∧
      Frame (sawStores s.me.uid ((lanes.filter fun j => (val j).isSome).map fun j => (a j, laneWidth t / 8))) s u ∧
      u.waiting s.cur.1 s.cur.2 = some (.load
        (lanes.map fun j => ⟨j, addr s.me j, .here (a j), laneWidth t / 8, (p j).ord, val j, 0, 0⟩) (.vec v t) none) ∧
      u.me = { s.me with entry := false, icnt := s.me.icnt + 1, viu := true }

/-- A vector load of active lanes that lie in one line of another module, to which the core's buffer holds no store: one request
for all of them goes out under a free tag, and the strand waits (R158, R161, R211, R370). -/
def AsksForLanes (i : Instr) (reads : List (BitVec 4)) (v t : BitVec 3) (k : BitVec 2) (addr : Strand → Nat → Word) : Prop :=
  ∀ (s : State) (p : Nat → Place) (m n j0 : Nat) (la : Nat → Nat), Runs i s → Readable reads [] s →
    let lanes := activeLanes (s.me.mask k) (512 / laneWidth t)
    let tag := tagOf s.cur.1 n (((tagRec s s.cur.1 n).inc + 1) % 16)
    (∀ j ∈ lanes, checkAccess s s.cur.1 s.me.rights .load (addr s.me j) (laneWidth t / 8) = .ok (p j) ∧
      (p j).loc = .there m (la j) ∧ la j / 64 = la j0 / 64) →
    lanes.head? = some j0 → (∀ x ∈ (s.core s.cur.1).sb, ∀ b, x.loc ≠ .there m b) → freeTag s s.cur.1 = some n →
    ∃ u, exec i s = .next u ∧ u.mem = s.mem ∧
      u.waiting s.cur.1 s.cur.2 = some (.load
        (lanes.zipIdx.map fun (j, q) => ⟨j, addr s.me j, .there m (la j), laneWidth t / 8, (p j).ord, none, tag, q⟩)
        (.vec v t) none) ∧
      u.outbox = s.outbox ++
        [(m, .access (la j0 / 64 % 12288) s.modId tag ⟨la j0, laneWidth t / 8, .lanes (lanes.map la), s.me.q, s.me.uid⟩)]

/-- The entries of a vector store of the active lanes, in lane order. -/
def laneEntries (s : State) (v t : BitVec 3) (k : BitVec 2) (addr : Strand → Nat → Word) (p : Nat → Place) : List SbEntry :=
  (activeLanes (s.me.mask k) (512 / laneWidth t)).map fun j =>
    entryFor s .plain (addr s.me j) (p j).loc (laneWidth t / 8) (BitVec.ofNat 64 (lane (s.me.vec v) (laneWidth t) j))

/-- A vector store of the active lanes at given addresses: with room in the buffer, one entry for each active lane, in
lane order; without, the strand waits with the entries that found none. -/
def StoresLanes (i : Instr) (reads : List (BitVec 4)) (v t : BitVec 3) (k : BitVec 2) (addr : Strand → Nat → Word) : Prop :=
  ∀ (s : State) (p : Nat → Place), Runs i s → Readable reads [] s →
    (∀ j < 512 / laneWidth t, bitAt (s.me.mask k) j = true →
      checkAccess s s.cur.1 s.me.rights (.store none) (addr s.me j) (laneWidth t / 8) = .ok (p j)) →
    (FirstForRoom s → (s.core s.cur.1).sb.length + (laneEntries s v t k addr p).length ≤ 32 →
      ∃ u, exec i s = .next u ∧ (∀ a, memByte u.mem a = memByte s.mem a) ∧
        Does (fun c => (laneEntries s v t k addr p).foldl (fun c e => takesEntry s e c) c)
          (fun x => { x with viu := true }) s u) ∧
    (FirstForRoom s → (s.core s.cur.1).sb.length ≤ 32 →
      32 < (s.core s.cur.1).sb.length + (laneEntries s v t k addr p).length →
      ∃ u, exec i s = .next u ∧ (∀ a, memByte u.mem a = memByte s.mem a) ∧
        (u.slot s.cur.1 s.cur.2).state =
          .wait (.storeRoom ((laneEntries s v t k addr p).drop (32 - (s.core s.cur.1).sb.length)) .plain none
            (decide ((s.core s.cur.1).sb.length < 32))))

/-- The first exception of some flags that is enabled in a strand: 0 invalid, 1 division by zero, 2 overflow (R57). -/
def raised (x : Strand) (fl : Flags) : Option Nat :=
  (List.range 3).find? fun k => fl.getLsbD k && x.fpc.getLsbD (8 + k)

/-- The executing strand of s has taken, in t, the trap of an enabled floating-point exception with some flags at an
element: the flags are merged, and its registers, masks and vectors are as before (R56, R57, R343). -/
structure FpTraps (k : Nat) (fl : Flags) (elem : Nat) (s t : State) : Prop where
  me : t.me =
    { s.me with
      viu := t.me.viu, latch := t.me.latch, fps := s.me.fps ||| fl, xpc := (s.me.redir <|> s.me.redirX).getD s.me.pc
      redir := none, redirX := none
      xcause := BitVec.ofNat 64 (0x0C + k + if s.me.mode then 2 ^ 63 else 0), xval := fl.setWidth 64
      xaux := BitVec.ofNat 64 elem, mode := true, entry := true, pc := (s.core s.cur.1).tvec.setWidth 64 <<< 2 }
  goes : ∃ at_, (t.slot s.cur.1 s.cur.2).state = .interval at_

/-- A vector instruction gives each lane on which it acts a value with flags, and leaves the others: with no enabled
exception vd takes them and FPS the flags; else it traps at the lowest lane that raised one. -/
def TakesLanes (i : Instr) (d : BitVec 3) (w : Nat) (on : Strand → Nat → Bool) (f : Strand → Nat → Nat × Flags) : Prop :=
  ∀ s : State, Runs i s →
    let fl := ((List.range (512 / w)).filter (on s.me)).foldl (fun x j => x ||| (f s.me j).2) (0 : Flags)
    (raised s.me fl = none → ∃ new : VReg,
      exec i s = .next (ran (fun x => { x with viu := true, fps := x.fps ||| fl }.putVec d new) s) ∧
      ∀ j < 512 / w, lane new w j = if on s.me j = true then (f s.me j).1 % 2 ^ w else lane (s.me.vec d) w j) ∧
    (∀ q, raised s.me fl = some q → (s.core s.cur.1).tvec ≠ 0 → ∃ t e, exec i s = .next t ∧ FpTraps q fl e s t ∧
      e < 512 / w ∧ on s.me e = true ∧ (raised s.me (f s.me e).2).isSome = true ∧
      ∀ j < e, on s.me j = true → raised s.me (f s.me j).2 = none)

/-- A lane of three lanes read as integers, or as decoded values whose result is rounded once (R107, R108). -/
def laneOf (t d a b : BitVec 3) (ints : Int → Int → Int → Int) (reals : Nat → FVal → FVal → FVal → FVal × Flags)
    (x : Strand) (j : Nat) : Nat × Flags :=
  let w := laneWidth t
  let word (r : BitVec 3) : Nat := lane (x.vec r) w j
  let int (r : BitVec 3) : Int := (BitVec.ofNat w (word r)).toInt
  let real (r : BitVec 3) : FVal := fdecode x.env.fiz (fmtOf t) (word r)
  if typeInt t = true then ((BitVec.ofInt w (ints (int a) (int b) (int d))).toNat, 0)
  else
    let y := reals x.env.rm (real a) (real b) (real d)
    let z := rndTo x.env (fmtOf t) y.1
    (z.1, y.2 ||| z.2)

/-- The lesser or the greater of two lanes; a float result is a decoded operand, not rounded (R109). -/
def lesserOf (greater : Bool) (t a b : BitVec 3) (x : Strand) (j : Nat) : Nat × Flags :=
  let w := laneWidth t
  let word (r : BitVec 3) : Nat := lane (x.vec r) w j
  let less (p q : Int) : Bool := if greater then decide (q ≤ p) else decide (p ≤ q)
  if typeInt t = true then
    (if less (BitVec.ofNat w (word a)).toInt (BitVec.ofNat w (word b)).toInt = true then word a else word b, 0)
  else
    let p := fdecode x.env.fiz (fmtOf t) (word a)
    let q := fdecode x.env.fiz (fmtOf t) (word b)
    ((rndTo rneEnv (fmtOf t)
      (if (fisNan p || fisNan q) = true then .nan
       else if (flt p q || (feq p q && fisNeg p && !fisNeg q)) = true then (if greater then q else p)
       else (if greater then p else q))).1, 0)

/-- A lane that depends only on the words of two lanes, with no flag. -/
def wordsOf (t a b : BitVec 3) (f : Nat → Nat → Nat → Nat) (x : Strand) (j : Nat) : Nat × Flags :=
  (f (laneWidth t) (lane (x.vec a) (laneWidth t) j) (lane (x.vec b) (laneWidth t) j), 0)

/-- A message is on its way in t to an agent of a module. -/
def SentTo (t : State) (m : Nat) (x : Msg) : Prop :=
  if m = t.modId then x ∈ t.flight else (m, x) ∈ t.outbox

/-- R292 holds of a block: at every used edge slot whose neighbour is not done, the neighbour has started; it is far enough
when the block reads it, and has read the block's level when the block writes to it. -/
def MayStep (b : Block) : Prop :=
  ∀ j < 6, (b.edge j).used = true → (b.edge j).ndone = false →
    (b.edge j).nv = true ∧
    ((b.edge j).rd = true → ruleFree (b.edge j).rule = false →
      0 ≤ levelDiff (b.edge j).nl (b.l + need b (b.edge j)) ∧ levelDiff (b.edge j).nlp b.l ≤ 0) ∧
    ((b.edge j).wr = true → (b.edge j).rfree = false → levelDiff b.l (b.edge j).nl ≤ 0)

/-- No comparison of R292 for a block reaches the span limit (R291). -/
def WithinSpan (b : Block) : Prop :=
  ∀ j < 6, (levelDiff (b.edge j).nl (b.l + need b (b.edge j))).natAbs < 2 ^ 30 ∧
    (levelDiff (b.edge j).nlp b.l).natAbs < 2 ^ 30 ∧ (levelDiff b.l (b.edge j).nl).natAbs < 2 ^ 30

/-- The eight doublewords of a descriptor, as the elements of a plain load. -/
def descLoad (va : Word) (a : Nat → Nat) (ord : Nat → Bool) : List Elem :=
  (List.range 8).map fun j => ⟨j, va + BitVec.ofNat 64 (8 * j), .here (a j), 8, ord j, none, 0, 0⟩

/-- The block tables of two states are the same but for one entry. -/
def OtherBlocksKept (s t : State) (k i : Nat) : Prop :=
  ∀ k' j, (k', j) ≠ (k, i) → t.block k' j = s.block k' j

end Sys2Proof.Machine
end

