-- ==== Sys2Proof/WellFormed.lean ====
section
/-! DEFINITION. Which instructions a word can hold and the machine may execute: the static checks of R72 on an instruction
as data. -/

namespace Sys2Proof

/-- Why an instruction is ill-formed. -/
inductive IllFormed where
  /-- An event, which no word holds. -/
  | event
  /-- A field holds a value that no word of this instruction has (R72, checks 2 and 3). -/
  | field
  /-- The guard is never (R72, check 5; R65). -/
  | guard
  /-- A field is outside the limits of its chapter (R72, check 5). -/
  | limit
  deriving DecidableEq, Repr

/-- The first check that an instruction fails, if any. -/
def Instr.check (i : Instr) : Option IllFormed :=
  if i.isEvent then some .event
  else if !i.encodable then some .field
  else if i.guardField == 8 then some .guard
  else if !i.fieldLimits then some .limit
  else none

/-- An instruction that passes every static check. -/
abbrev Instr.WellFormed (i : Instr) : Prop :=
  i.check = none

/-- An instruction that a word can hold, whether or not its execution is refused by check 5 of R72. -/
abbrev Instr.Encodable (i : Instr) : Prop :=
  i.isEvent = false ∧ i.encodable = true

end Sys2Proof
end

