-- ==== Sys2Proof/Certificates/Slice0/Obligations.lean ====
section
/-! DEFINITION. The statements for the provers. -/

open Sys2Proof Sys2Proof.Machine

/-- R89, R90: what every register-register instruction of major 01 writes to gd, with the special cases of division; g0
discards it (R77, in put), and nothing else changes but what every issue changes. -/
def Obligations.RegisterArithmeticWritesItsResult : Prop :=
  WritesOfTwo .add (fun a b => a + b) ∧
  WritesOfTwo .sub (fun a b => a - b) ∧
  WritesOfTwo .and (fun a b => a &&& b) ∧
  WritesOfTwo .or (fun a b => a ||| b) ∧
  WritesOfTwo .xor (fun a b => a ^^^ b) ∧
  WritesOfTwo .andn (fun a b => a &&& ~~~b) ∧
  WritesOfTwo .sll (fun a b => BitVec.ofNat 64 (a.toNat * 2 ^ (b.toNat % 64))) ∧
  WritesOfTwo .srl (fun a b => BitVec.ofNat 64 (a.toNat / 2 ^ (b.toNat % 64))) ∧
  WritesOfTwo .sra (fun a b => BitVec.ofInt 64 (a.toInt / (2 ^ (b.toNat % 64) : Nat))) ∧
  WritesOfTwo .min (fun a b => if a.toInt ≤ b.toInt then a else b) ∧
  WritesOfTwo .max (fun a b => if a.toInt ≤ b.toInt then b else a) ∧
  WritesOfTwo .minu (fun a b => if a.toNat ≤ b.toNat then a else b) ∧
  WritesOfTwo .maxu (fun a b => if a.toNat ≤ b.toNat then b else a) ∧
  WritesOfTwo .mul (fun a b => BitVec.ofNat 64 (a.toNat * b.toNat)) ∧
  WritesOfTwo .mulh (fun a b => BitVec.ofInt 64 (a.toInt * b.toInt / (2 ^ 64 : Nat))) ∧
  WritesOfTwo .mulhu (fun a b => BitVec.ofNat 64 (a.toNat * b.toNat / 2 ^ 64)) ∧
  WritesOfTwo .div (fun a b =>
    if b = 0 then -1 else if a = BitVec.intMin 64 ∧ b = -1 then BitVec.intMin 64 else BitVec.ofInt 64 (a.toInt.tdiv b.toInt)) ∧
  WritesOfTwo .divu (fun a b => if b = 0 then -1 else BitVec.ofNat 64 (a.toNat / b.toNat)) ∧
  WritesOfTwo .rem (fun a b =>
    if b = 0 then a else if a = BitVec.intMin 64 ∧ b = -1 then 0 else BitVec.ofInt 64 (a.toInt.tmod b.toInt)) ∧
  WritesOfTwo .remu (fun a b => if b = 0 then a else BitVec.ofNat 64 (a.toNat % b.toNat)) ∧
  WritesOfOne .clz (fun a => BitVec.ofNat 64 (if a = 0 then 64 else 63 - a.toNat.log2)) ∧
  WritesOfOne .popc (fun a => BitVec.ofNat 64 ((List.range 64).countP fun i => a.getLsbD i)) ∧
  WritesOfOne .sextB (fun a => (a.setWidth 8).signExtend 64) ∧
  WritesOfOne .sextH (fun a => (a.setWidth 16).signExtend 64) ∧
  WritesOfOne .sextW (fun a => (a.setWidth 32).signExtend 64) ∧
  WritesOfOne .zextB (fun a => (a.setWidth 8).setWidth 64) ∧
  WritesOfOne .zextH (fun a => (a.setWidth 16).setWidth 64) ∧
  WritesOfOne .zextW (fun a => (a.setWidth 32).setWidth 64) ∧
  ∀ (d a b : BitVec 4) (n : BitVec 3) (p : BitVec 4) (s : State), Runs (.sel d a b n p) s → Readable [a, b] [d] s →
    exec (.sel d a b n p) s =
      .next (ran (fun x => x.put d (if n = 0 ∨ x.p.getLsbD n.toNat = true then x.get a else x.get b)) s)

/-- R91, R92, R93, R95, R96, R101: what the immediate forms write, and NOP. -/
def Obligations.ImmediateFormsWriteTheirResult : Prop :=
  (∀ i : BitVec 14,
    WritesOfOne (fun d a p => .addi d a i p) (fun x => x + i.signExtend 64) ∧
    WritesOfOne (fun d a p => .andi d a i p) (fun x => x &&& i.signExtend 64) ∧
    WritesOfOne (fun d a p => .ori d a i p) (fun x => x ||| i.setWidth 64) ∧
    WritesOfOne (fun d a p => .xori d a i p) (fun x => x ^^^ i.setWidth 64)) ∧
  (∀ n : BitVec 6,
    WritesOfOne (fun d a p => .slli d a n p) (fun x => BitVec.ofNat 64 (x.toNat * 2 ^ n.toNat)) ∧
    WritesOfOne (fun d a p => .srli d a n p) (fun x => BitVec.ofNat 64 (x.toNat / 2 ^ n.toNat)) ∧
    WritesOfOne (fun d a p => .srai d a n p) (fun x => BitVec.ofInt 64 (x.toInt / (2 ^ n.toNat : Nat))) ∧
    ∀ w : BitVec 6, WritesOfOne (fun d a p => .bfx d a n w p)
      (fun x => BitVec.ofNat 64 (x.toNat / 2 ^ n.toNat % 2 ^ (w.toNat + 1)))) ∧
  (∀ o : BitVec 12,
    WritesOfOne (fun d a p => .leaB d a o p) (fun x => x + o.signExtend 64) ∧
    WritesOfOne (fun d a p => .leaH d a o p) (fun x => x + o.signExtend 64 * 2) ∧
    WritesOfOne (fun d a p => .leaW d a o p) (fun x => x + o.signExtend 64 * 4) ∧
    WritesOfOne (fun d a p => .leaD d a o p) (fun x => x + o.signExtend 64 * 8)) ∧
  (∀ (d : BitVec 4) (i : BitVec 18) (p : BitVec 4) (s : State), Runs (.movi d i p) s → Readable [] [d] s →
    exec (.movi d i p) s = .next (ran (fun x => x.put d (i.signExtend 64)) s)) ∧
  (∀ (d : BitVec 4) (i : BitVec 18) (p : BitVec 4) (s : State), Runs (.movhi d i p) s → Readable [d] [d] s →
    exec (.movhi d i p) s =
      .next (ran (fun x => x.put d (BitVec.ofNat 64 ((x.get d).toNat * 2 ^ 18 + i.toNat))) s)) ∧
  (∀ (d a : BitVec 4) (n w : BitVec 6) (p : BitVec 4) (s : State), Runs (.bfi d a n w p) s → Readable [d, a] [d] s →
    ∃ v : Word, exec (.bfi d a n w p) s = .next (ran (fun x => x.put d v) s) ∧
      ∀ j < 64, v.getLsbD j =
        if n.toNat ≤ j ∧ j < n.toNat + w.toNat + 1 then (s.me.get a).getLsbD (j - n.toNat) else (s.me.get d).getLsbD j) ∧
  ∀ s : State, Runs .nop s → exec .nop s = .next (ran id s)

/-- R84, R86, R94: LDK and ADDK read word n of the constant window as LDD reads its address in the own local store: each
byte from the youngest buffered store of it, else from memory; an SC store so read counts as seen (R166). -/
def Obligations.ConstantWindowInstructionsReadTheirWord : Prop :=
  ∀ (d a p : BitVec 4) (n : BitVec 8) (s : State),
    avgPending s s.cur.1 s.me.uid (windowElem s.cur.1 n.toNat) = false →
    poisoned s (lsAddr s.cur.1 (8 * n.toNat)) 8 = false →
    let word : Word := BitVec.ofNat 64 (bytesHeld s s.cur.1 (lsAddr s.cur.1 (8 * n.toNat)) 8)
    let saw := sawStores s.me.uid [(lsAddr s.cur.1 (8 * n.toNat), 8)]
    (Runs (.ldk d n p) s → Readable [] [d] s →
      ∃ t, exec (.ldk d n p) s = .next t ∧ Frame saw s t ∧ t.me = (ran (fun x => x.put d word) s).me ∧
        (t.slot s.cur.1 s.cur.2).state = .interval (s.cyc + 8)) ∧
    (Runs (.addk d a n p) s → Readable [a] [d] s →
      ∃ t, exec (.addk d a n p) s = .next t ∧ Frame saw s t ∧ t.me = (ran (fun x => x.put d (x.get a + word)) s).me ∧
        (t.slot s.cur.1 s.cur.2).state = .interval (s.cyc + 8))

/-- R83, R97, R98: the compares and the predicate instructions; p0 discards what is written to it. -/
def Obligations.ComparesAndPredicateInstructionsWriteTheirResult : Prop :=
  (∀ (d : BitVec 3) (a b : BitVec 4) (c : BitVec 3) (p : BitVec 4) (s : State),
    c.toNat < 6 → Runs (.cmp d a b c p) s → Readable [a, b] [] s →
    exec (.cmp d a b c p) s = .next (ran (fun x => x.putPred d (holds c (x.get a) (x.get b))) s)) ∧
  (∀ (d : BitVec 3) (a : BitVec 4) (c : BitVec 3) (i : BitVec 11) (p : BitVec 4) (s : State),
    c.toNat < 6 → Runs (.cmpi d a c i p) s → Readable [a] [] s →
    exec (.cmpi d a c i p) s = .next (ran (fun x => x.putPred d (holds c (x.get a) (i.signExtend 64))) s)) ∧
  (∀ (d a b : BitVec 3) (p : BitVec 4) (s : State),
    (Runs (.pand d a b p) s →
      exec (.pand d a b p) s = .next (ran (fun x => x.putPred d (x.pred a && x.pred b)) s)) ∧
    (Runs (.por d a b p) s →
      exec (.por d a b p) s = .next (ran (fun x => x.putPred d (x.pred a || x.pred b)) s)) ∧
    (Runs (.pxor d a b p) s →
      exec (.pxor d a b p) s = .next (ran (fun x => x.putPred d (xor (x.pred a) (x.pred b))) s)) ∧
    (Runs (.pnot d a p) s →
      exec (.pnot d a p) s = .next (ran (fun x => x.putPred d (!x.pred a)) s))) ∧
  (∀ (d p : BitVec 4) (s : State), Runs (.prd d p) s → Readable [] [d] s →
    ∃ v : Word, exec (.prd d p) s = .next (ran (fun x => x.put d v) s) ∧
      ∀ j < 64, v.getLsbD j = (decide (j < 8) && s.me.pred (BitVec.ofNat 3 j))) ∧
  ∀ (m : BitVec 3) (a p : BitVec 4) (s : State), Runs (.pwr m a p) s → Readable [a] [] s →
    ∃ v : BitVec 8, exec (.pwr m a p) s = .next (ran (fun x => { x with p := v }) s) ∧
      ∀ j < 8, v.getLsbD j =
        if (j = 1 ∨ j = 2) ∧ m.getLsbD 0 = true ∨ (j = 3 ∨ j = 4) ∧ m.getLsbD 1 = true ∨ 5 ≤ j ∧ m.getLsbD 2 = true then
          (s.me.get a).getLsbD j
        else s.me.p.getLsbD j

/-- R63, R99: where the branches go, what CALL and CALLR write to g15, and that a register target that is no multiple of 4
raises ALIGN with the target in XVAL; one whose guard is within its limits (R72) and fails falls through and writes nothing
(R64). -/
def Obligations.BranchesGoToTheirTarget : Prop :=
  (∀ (i : BitVec 22) (a p : BitVec 4) (s : State), s.cur.2 < 9 → guardHolds s.me p = false →
    ∀ x ∈ [Instr.br i p, .call i p, .jmpr a p, .callr a p, .ret p], x.limits = true → exec x s = .next (ran id s)) ∧
  (∀ (i : BitVec 22) (p : BitVec 4) (s : State),
    (Runs (.br i p) s → exec (.br i p) s = .next (ranTo (s.me.pc + i.signExtend 64 * 4) id s)) ∧
    (Runs (.call i p) s → Readable [] [15] s →
      exec (.call i p) s =
        .next (ranTo (s.me.pc + i.signExtend 64 * 4) (fun x => x.put 15 (x.pc + 4)) s))) ∧
  (∀ (a p : BitVec 4) (s : State), s.me.get a &&& 3 = 0 →
    (Runs (.jmpr a p) s → Readable [a] [] s → exec (.jmpr a p) s = .next (ranTo (s.me.get a) id s)) ∧
    (Runs (.callr a p) s → Readable [a] [15] s →
      exec (.callr a p) s = .next (ranTo (s.me.get a) (fun x => x.put 15 (x.pc + 4)) s)) ∧
    (a = 15 → Runs (.ret p) s → Readable [15] [] s → exec (.ret p) s = .next (ranTo (s.me.get 15) id s))) ∧
  ∀ (a p : BitVec 4) (s : State), s.me.get a &&& 3 ≠ 0 → (s.core s.cur.1).tvec ≠ 0 →
    (Runs (.jmpr a p) s → Readable [a] [] s →
      ∃ t, exec (.jmpr a p) s = .next t ∧ Traps s.me.pc ⟨.align, s.me.get a, 0⟩ s t) ∧
    (Runs (.callr a p) s → Readable [a] [15] s →
      ∃ t, exec (.callr a p) s = .next t ∧ Traps s.me.pc ⟨.align, s.me.get a, 0⟩ s t) ∧
    (a = 15 → Runs (.ret p) s → Readable [15] [] s →
      ∃ t, exec (.ret p) s = .next t ∧ Traps s.me.pc ⟨.align, s.me.get 15, 0⟩ s t)

/-- R64, R72: an instruction of supervisor mode in user mode raises PRIV (check 4), then one with a field outside its limits
raises ILL_OPERAND (check 5), each with the word in XVAL, whatever the guard; a word whose guard does not hold has no effect
but to go on at the next word, and still counts. -/
def Obligations.IssueChecksComeBeforeTheEffect : Prop :=
  (∀ (i : Instr) (s : State), i.isEvent = false → s.cur.2 < 9 → (i.privileged = true → s.me.mode = true) →
    i.limits = true → guardHolds s.me i.guardField = false → exec i s = .next (ran id s)) ∧
  (∀ (i : Instr) (s : State), i.isEvent = false → s.cur.2 < 9 → i.privileged = true → s.me.mode = false →
    (s.core s.cur.1).tvec ≠ 0 →
    ∃ t, exec i s = .next t ∧ Traps s.me.pc ⟨.priv, (encode i).setWidth 64, 0⟩ s t) ∧
  (∀ (i : Instr) (s : State), i.isEvent = false → s.cur.2 < 9 → (i.privileged = true → s.me.mode = true) →
    i.limits = false → (s.core s.cur.1).tvec ≠ 0 →
    ∃ t, exec i s = .next t ∧ Traps s.me.pc ⟨.illOperand, (encode i).setWidth 64, 0⟩ s t)

/-- R20, R80: an instruction that names an empty register as a source or a destination has no effect, and its strand parks
on the empty ones; it is to issue the same instruction again.
R252: reading a register whose upper context was left behind raises CONTEXT_CLIPPED with the register in XVAL. -/
def Obligations.EmptyRegistersParkAndClippedOnesTrap : Prop :=
  ((∀ (d a b : BitVec 4) (p : BitVec 4),
    (∀ i ∈ [Instr.add d a b p, .sub d a b p, .and d a b p, .or d a b p, .xor d a b p, .andn d a b p, .sll d a b p,
      .srl d a b p, .sra d a b p, .min d a b p, .max d a b p, .minu d a b p, .maxu d a b p, .mul d a b p, .mulh d a b p,
      .mulhu d a b p, .div d a b p, .divu d a b p, .rem d a b p, .remu d a b p, .ldb d a b p, .ldh d a b p, .ldw d a b p,
      .ldbAcq d a b p, .ldhAcq d a b p, .ldwAcq d a b p, .lddAcq d a b p, .ldbuAcq d a b p, .ldhuAcq d a b p,
      .ldwuAcq d a b p, .ldbSc d a b p, .ldhSc d a b p, .ldwSc d a b p, .lddSc d a b p, .ldbuSc d a b p, .ldhuSc d a b p,
      .ldwuSc d a b p], ParksOn i [a, b, d]) ∧
    (∀ i ∈ [Instr.stbRel d a b p, .sthRel d a b p, .stwRel d a b p, .stdRel d a b p, .stbSc d a b p, .sthSc d a b p,
      .stwSc d a b p, .stdSc d a b p], ParksOn i [d, a, b]) ∧
    (∀ i ∈ [Instr.clz d a p, .popc d a p, .sextB d a p, .sextH d a p, .sextW d a p, .zextB d a p, .zextH d a p,
      .zextW d a p], ParksOn i [a, d]) ∧
    ParksOn (.jmpr a p) [a] ∧ ParksOn (.callr a p) [a, 15] ∧ ParksOn (.ret p) [15] ∧ ParksOn (.prd d p) [d] ∧
    (∀ n, ParksOn (.sel d a b n p) [a, b, d] ∧ ParksOn (.pwr n a p) [a] ∧
      ∀ c, ParksOn (.cmp n a b c p) [a, b] ∧ ∀ i, ParksOn (.cmpi n a c i p) [a]) ∧
    (∀ n w, ParksOn (.slli d a n p) [a, d] ∧ ParksOn (.srli d a n p) [a, d] ∧ ParksOn (.srai d a n p) [a, d] ∧
      ParksOn (.bfx d a n w p) [a, d] ∧ ParksOn (.bfi d a n w p) [d, a, d]) ∧
    (∀ z r, ∀ i ∈ [Instr.amoAdd d a b z r p, .amoMin d a b z r p, .amoMax d a b z r p, .amoAnd d a b z r p,
      .amoOr d a b z r p, .amoXor d a b z r p, .amoSwap d a b z r p, .amoCas d a b z r p], ParksOn i [a, b, d])) ∧
  (∀ (d a : BitVec 4) (o : BitVec 12) (p : BitVec 4),
    (∀ i ∈ [Instr.leaB d a o p, .leaH d a o p, .leaW d a o p, .leaD d a o p, .ldbu d a o p, .ldhu d a o p, .ldwu d a o p,
      .ldd d a o p, .csrw d a o p, .csrs d a o p, .csrc d a o p], ParksOn i [a, d]) ∧
    (∀ i ∈ [Instr.stb d a o p, .sth d a o p, .stw d a o p, .std d a o p], ParksOn i [d, a]) ∧ ParksOn (.csrr d o p) [d]) ∧
  (∀ (d a : BitVec 4) (i : BitVec 14) (p : BitVec 4), ∀ x ∈ [Instr.addi d a i p, .andi d a i p, .ori d a i p, .xori d a i p],
    ParksOn x [a, d]) ∧
  ∀ (d a p : BitVec 4), (∀ i, ParksOn (.movi d i p) [d] ∧ ParksOn (.movhi d i p) [d, d]) ∧
    (∀ i, ParksOn (.call i p) [15]) ∧ ∀ k, ParksOn (.ldk d k p) [d] ∧ ParksOn (.addk d a k p) [a, d]) ∧
  (∀ (d a b p : BitVec 4) (o : BitVec 12),
    (∀ i ∈ [Instr.add d a b p, .sub d a b p, .mul d a b p, .div d a b p, .min d a b p, .sll d a b p, .ldw d a b p,
      .ldwSc d a b p], TrapsOnClipped i [a, b] [d]) ∧
    TrapsOnClipped (.popc d a p) [a] [d] ∧ TrapsOnClipped (.ldd d a o p) [a] [d] ∧ TrapsOnClipped (.std d a o p) [d, a] [] ∧
    TrapsOnClipped (.csrw d a o p) [a] [d] ∧ TrapsOnClipped (.jmpr a p) [a] [] ∧ TrapsOnClipped (.ret p) [15] [])

/-- The frame of every instruction whose statement says that it leaves ran or ranTo: its own context but what is said, the
other strands, the CSRs of core, cluster and module, and every byte of memory are unchanged; the slot is in INTERVAL for 8
cycles (R21). -/
def Obligations.RegisterInstructionsChangeNothingElse : Prop :=
  ∀ (f : Strand → Strand) (pc : Word) (s : State), s.cur.2 < 9 →
    Frame id s (ran f s) ∧ Frame id s (ranTo pc f s) ∧
    (∀ a, memByte (ran f s).mem a = memByte s.mem a ∧ memByte (ranTo pc f s).mem a = memByte s.mem a) ∧
    (ran f s).me =
      { f { s.me with entry := false } with
        pc := (f { s.me with entry := false }).pc + 4, icnt := (f { s.me with entry := false }).icnt + 1 } ∧
    (ranTo pc f s).me =
      { f { s.me with entry := false } with pc := pc, icnt := (f { s.me with entry := false }).icnt + 1 } ∧
    ((ran f s).slot s.cur.1 s.cur.2).state = .interval (s.cyc + 8) ∧
    ((ranTo pc f s).slot s.cur.1 s.cur.2).state = .interval (s.cyc + 8)

/-- R343, R345: TRAP takes the trap of its number, and resumes at the next word; R349: while TVEC is 0, it ends the
strand instead, with a record in the trap log (shown of a strand with no averaging entry left to apply). The kind of that
record and what it holds are the model's choice (log 52), and so is what stands in XCAUSE beside the cause and the old mode
(log 32).
R346: RFT restores the mode and the PC; a HELD block runs again; an XPC that is no multiple of 4 raises ALIGN. -/
def Obligations.TrapsEnterAndReturn : Prop :=
  (∀ (n : BitVec 12) (p : BitVec 4) (s : State), Runs (.trap n p) s → (s.core s.cur.1).tvec ≠ 0 →
    ∃ t, exec (.trap n p) s = .next t ∧ Traps (s.me.pc + 4) ⟨.trap, n.setWidth 64, 0⟩ s t ∧ t.mem = s.mem ∧
      ∀ k i, s.me.bound = some (k, i) →
        (t.block k i).st = if (s.block k i).st = .running then .held else (s.block k i).st) ∧
  (∀ (n : BitVec 12) (p : BitVec 4) (s : State), Runs (.trap n p) s → (s.core s.cur.1).tvec = 0 → s.log.length < 4096 →
    (∀ x ∈ (s.core s.cur.1).avgQ, x.uid ≠ s.me.uid) →
    ∃ t r, exec (.trap n p) s = .next t ∧ r.kind = 2 ∧ r.cause = 0x1C ∧ (t.slot s.cur.1 s.cur.2).state = .empty ∧
      t.log = s.log ++ [r] ∧ t.mem = s.mem) ∧
  (∀ (p : BitVec 4) (s : State), Runs (.rft p) s →
    (s.me.xpc &&& 3 = 0 → s.me.bound = none →
      exec (.rft p) s = .next (ranTo s.me.xpc (fun x => { x with mode := x.xcause.getLsbD 63 }) s)) ∧
    (∀ k i, s.me.xpc &&& 3 = 0 → s.me.bound = some (k, i) →
      ∃ t, exec (.rft p) s = .next t ∧ CoreFrame id s t ∧ t = { s with cores := t.cores, clusters := t.clusters } ∧
        t.me = { s.me with entry := false, mode := s.me.xcause.getLsbD 63, pc := s.me.xpc, icnt := s.me.icnt + 1 } ∧
        (t.block k i).st = if (s.block k i).st = .held then .running else (s.block k i).st) ∧
    (s.me.xpc &&& 3 ≠ 0 → (s.core s.cur.1).tvec ≠ 0 →
      ∃ t, exec (.rft p) s = .next t ∧ Traps s.me.pc ⟨.align, s.me.xpc, 0⟩ s t))

/-- R139, R144-R149: what each CSR reads as.
R140, R141: CSRR reads a CSR; CSRW, CSRS and CSRC write every writable CSR, and gd takes the old value; a write of ICNT
counts no issue (R149).
R142: a write that would leave a refused value raises ILL_OPERAND with the value in XVAL, and no CSR changes.
The model's choices: SID of the service slot reads SLOT 0 (log 56); which bits of XCAUSE can be written (log 32); every agent
sees a new value at once, where R143 allows the old one for a while (log 57); XVAL holds the whole new value (log 64). -/
def Obligations.CsrsReadTheirFieldsAndTakeWrites : Prop :=
  (∀ (s : State) (c n : Nat),
    let x := s.strand c n
    let bit (b : Bool) : Nat := if b then 1 else 0
    csrRead s c n 0x001 = x.fpc.setWidth 64 ∧ csrRead s c n 0x002 = x.fps.setWidth 64 ∧
    csrRead s c n 0x010 = BitVec.ofNat 64 (x.ridx.toNat + bit x.viu * 2 ^ 4 + bit x.spl * 2 ^ 5 +
      (bit (decide (x.res 0 ≠ 0)) * 2 ^ 8 + bit (decide (x.res 1 ≠ 0)) * 2 ^ 9 + bit (decide (x.res 2 ≠ 0)) * 2 ^ 10 +
        bit (decide (x.res 3 ≠ 0)) * 2 ^ 11) + bit x.mode * 2 ^ 16) ∧
    csrRead s c n 0x011 = BitVec.ofNat 64 (n % 8 + x.idx % 8 * 2 ^ 8 + c % 2 ^ 14 * 2 ^ 16) ∧
    csrRead s c n 0x012 = x.ctxw.setWidth 64 ∧ csrRead s c n 0x013 = x.stdom.setWidth 64 ∧
    csrRead s c n 0x014 = x.icnt ∧ csrRead s c n 0x020 = x.xpc ∧ csrRead s c n 0x021 = x.xcause ∧
    csrRead s c n 0x022 = x.xval ∧ csrRead s c n 0x023 = x.xaux ∧
    csrRead s c n 0x030 = (s.core c).tvec.setWidth 64 <<< 2 ∧ csrRead s c n 0x031 = (s.core c).splim.setWidth 64 ∧
    csrRead s c n 0x032 = ((s.core c).weights[x.q]?.getD 0).setWidth 64 ∧
    ((s.core c).det = false → csrRead s c n 0x033 = 0) ∧
    (∀ t, (s.core c).det = true → (s.core c).turnZero = some t →
      csrRead s c n 0x033 = BitVec.ofNat 64 (1 + (s.cyc - t) % 9 * 2 ^ 8)) ∧
    csrRead s c n 0x040 = BitVec.ofNat 64 (s.cluster (c / 16)).fdrain ∧
    csrRead s c n 0x041 = BitVec.ofNat 64 ((s.cluster (c / 16)).spanMax + bit (s.cluster (c / 16)).spanHit * 2 ^ 31) ∧
    csrRead s c n 0x050 =
      BitVec.ofNat 64 (s.seedA.toNat + s.seedB.toNat * 2 ^ 16 + bit s.run * 2 ^ 32 + bit s.mism * 2 ^ 33) ∧
    csrRead s c n 0xC00 = BitVec.ofNat 64 s.cyc) ∧
  ((∀ (d : BitVec 4) (num : BitVec 12) (p : BitVec 4) (s : State), Runs (.csrr d num p) s → Readable [] [d] s →
    exec (.csrr d num p) s = .next (ran (fun x => x.put d (csrRead s s.cur.1 s.cur.2 num.toNat)) s)) ∧
  WritesCsrs .csrw (fun _ x => x) ∧ WritesCsrs .csrs (fun old x => old ||| x) ∧ WritesCsrs .csrc (fun old x => old &&& ~~~x)) ∧
  (RefusesCsrValues .csrw (fun _ x => x) ∧ RefusesCsrValues .csrs (fun old x => old ||| x) ∧
  RefusesCsrValues .csrc (fun old x => old &&& ~~~x))

/-- R154: the checks of an access, in their order: alignment, range, the page's translation, rights, region class. -/
def Obligations.AccessChecksRunInOrder : Prop :=
  ∀ (s : State) (c : Nat) (rt : Rights) (va : Word) (n : Nat),
    (∀ k, va.toNat % n ≠ 0 → checkAccess s c rt k va n = .error ⟨.align, va, 0⟩) ∧
    (∀ k, va.toNat % n = 0 → rangeOf (localPart va) = none →
      ∃ x, checkAccess s c rt k va n = .error ⟨.pageFault, va, x⟩) ∧
    (∀ k r, va.toNat % n = 0 → isOwn s va = true → rangeOf (localPart va) = some r → r.translated = true →
      ∀ level why, translate s (s.cluster (c / 16)).tlb (localPart va) = .fault level why →
        ∃ x, checkAccess s c rt k va n = .error ⟨.pageFault, va, x⟩) ∧
    (∀ r level e ls, va.toNat % n = 0 → isOwn s va = true → rangeOf (localPart va) = some r → r.translated = true →
      translate s (s.cluster (c / 16)).tlb (localPart va) = .leaf level e ls →
      (e.getLsbD 2 = false → ∃ x, checkAccess s c rt .load va n = .error ⟨.prot, va, x⟩) ∧
      (e.getLsbD 3 = false → ∀ v, ∃ x, checkAccess s c rt (.store v) va n = .error ⟨.prot, va, x⟩) ∧
      (e.getLsbD 3 = true → e.getLsbD 7 = true → quiescing s (localPart va) = false →
        ∀ v, checkAccess s c rt (.store v) va n = .error ⟨.regionClass, va, 0⟩)) ∧
    (∀ k m set, va.toNat % n = 0 → isOwn s va = true → rt = ⟨false, some set⟩ →
      (rangeOf (localPart va) = some (.local_ m) ∧ inSet set m = false ∨
        rangeOf (localPart va) = some (.cluster m) ∧ setMeets set m = false) →
      ∃ x, checkAccess s c rt k va n = .error ⟨.prot, va, x⟩)

/-- R155, R156: every plain and acquire load reads its bytes, little-endian, and extends them; it completes at once when
they lie in the own local store or are all forwarded (R164), and else enters WAIT. -/
def Obligations.ScalarLoadsReadOrWait : Prop :=
  (∀ (d a : BitVec 4) (o : BitVec 12) (p : BitVec 4),
    LoadsAt true (.ldbu d a o p) [a] d false 1 (fun x => x.get a + o.signExtend 64) ∧
    LoadsAt true (.ldhu d a o p) [a] d false 2 (fun x => x.get a + o.signExtend 64 * 2) ∧
    LoadsAt true (.ldwu d a o p) [a] d false 4 (fun x => x.get a + o.signExtend 64 * 4) ∧
    LoadsAt true (.ldd d a o p) [a] d false 8 (fun x => x.get a + o.signExtend 64 * 8)) ∧
  ∀ d a b p : BitVec 4,
    LoadsAt true (.ldb d a b p) [a, b] d true 1 (fun x => x.get a + x.get b) ∧
    LoadsAt true (.ldh d a b p) [a, b] d true 2 (fun x => x.get a + x.get b) ∧
    LoadsAt true (.ldw d a b p) [a, b] d true 4 (fun x => x.get a + x.get b) ∧
    LoadsAt false (.ldbAcq d a b p) [a, b] d true 1 (fun x => x.get a + x.get b) ∧
    LoadsAt false (.ldhAcq d a b p) [a, b] d true 2 (fun x => x.get a + x.get b) ∧
    LoadsAt false (.ldwAcq d a b p) [a, b] d true 4 (fun x => x.get a + x.get b) ∧
    LoadsAt false (.lddAcq d a b p) [a, b] d true 8 (fun x => x.get a + x.get b) ∧
    LoadsAt false (.ldbuAcq d a b p) [a, b] d false 1 (fun x => x.get a + x.get b) ∧
    LoadsAt false (.ldhuAcq d a b p) [a, b] d false 2 (fun x => x.get a + x.get b) ∧
    LoadsAt false (.ldwuAcq d a b p) [a, b] d false 4 (fun x => x.get a + x.get b)

/-- R19, R155, R156, R164: LOAD_COMPLETE reads memory for a load in WAIT whose bytes no buffered store holds, and writes
its register; a poisoned line raises POISON with the address (R155, R361). -/
def Obligations.WaitingLoadsComplete : Prop :=
  ∀ (c n : Nat) (s : State) (va : Word) (a size : Nat) (ord signed plain : Bool) (d : BitVec 4), n < 9 → 0 < size →
    s.waiting c n = some (.load [⟨0, va, .here a, size, ord, none, 0, 0⟩] (.scalar d signed plain) none) →
    inLocal c (.here a) = false → (∀ e ∈ (s.core c).sb, ∀ j < size, e.byte (.here (a + j)) = none) →
    (∀ x ∈ (s.core c).avgQ, x.uid = (s.strand c n).uid ∨ releasedTo s c x.uid (s.strand c n).uid = true →
      x.line ≠ a / 64 * 64) →
    (poisoned s a size = false → ∃ t, exec (.loadComplete c n) s = .next t ∧
      Woken c n (fun x => x.put d (extend signed size (loadMem s ord a size))) s t) ∧
    (poisoned s a size = true → (s.core c).tvec ≠ 0 → ∃ t, exec (.loadComplete c n) s = .next t ∧
      (t.strand c n).pc = (s.core c).tvec.setWidth 64 <<< 2 ∧ (t.strand c n).xval = va ∧
      (t.strand c n).xcause = BitVec.ofNat 64 (0x19 + if (s.strand c n).mode then 2 ^ 63 else 0) ∧
      (t.strand c n).g = (s.strand c n).g ∧ t.mem = s.mem)

/-- R155, R156, R162, R163: every plain and release store enters the buffer of its core with its address, its size and the
low bytes of its register, and goes on; it waits with the buffer full, and also behind another store of its core that waits
for room, which is the model's choice (DEDUCED, log 50). Memory is unchanged until the entry leaves. -/
def Obligations.ScalarStoresEnterTheBuffer : Prop :=
  (∀ (r a : BitVec 4) (o : BitVec 12) (p : BitVec 4),
    StoresAt (.stb r a o p) [r, a] r .plain 1 (fun x => x.get a + o.signExtend 64) ∧
    StoresAt (.sth r a o p) [r, a] r .plain 2 (fun x => x.get a + o.signExtend 64 * 2) ∧
    StoresAt (.stw r a o p) [r, a] r .plain 4 (fun x => x.get a + o.signExtend 64 * 4) ∧
    StoresAt (.std r a o p) [r, a] r .plain 8 (fun x => x.get a + o.signExtend 64 * 8)) ∧
  ∀ r a b p : BitVec 4,
    StoresAt (.stbRel r a b p) [r, a, b] r .release 1 (fun x => x.get a + x.get b) ∧
    StoresAt (.sthRel r a b p) [r, a, b] r .release 2 (fun x => x.get a + x.get b) ∧
    StoresAt (.stwRel r a b p) [r, a, b] r .release 4 (fun x => x.get a + x.get b) ∧
    StoresAt (.stdRel r a b p) [r, a, b] r .release 8 (fun x => x.get a + x.get b)

/-- R162, R163, R168: STORE_BUFFER_DRAIN takes the entry at the head once a cycle has passed after the next, a release
store only when the strand's earlier accesses are performed; a store of this module writes its bytes and no others, one to
another module is sent to it under a free tag (R370) and awaits its acknowledgement. -/
def Obligations.TheBufferDrainsItsHead : Prop :=
  ∀ (c : Nat) (s : State) (e : SbEntry) (rest : List SbEntry), (s.core c).sb = e :: rest → e.since + 2 ≤ s.cyc →
    e.kind ≠ .sc → (e.kind = .release → releaseReady s c e.uid = true) →
    (∀ pa, e.loc = .here pa → s.mem.wf = true → ringWordAt pa = none → s.held = [] →
      ∃ t, exec (.storeBufferDrain c) s = .next t ∧ (t.core c).sb = rest ∧
        (∀ b, memByte t.mem b = if pa ≤ b ∧ b < pa + e.size then byteOf e.data (b - pa) else memByte s.mem b) ∧
        ∀ d n, (t.strand d n).g = (s.strand d n).g ∧ (t.strand d n).pc = (s.strand d n).pc) ∧
    (∀ m la i, e.loc = .there m la → freeTag s c = some i →
      let tag := tagOf c i (((tagRec s c i).inc + 1) % 16)
      let req : RemoteReq := ⟨la, e.size, .store e.data, 0, e.uid⟩
      ∃ t, exec (.storeBufferDrain c) s = .next t ∧ (t.core c).sb = rest ∧ t.mem = s.mem ∧
        t.outbox = s.outbox ++ [(m, .access (la / 64 % 12288) s.modId tag req)] ∧
        t.pending = s.pending ++ [⟨tag, e.uid, m, e.va, true, s.cyc, e.pc, e.readers, req⟩]) ∧
    (∀ m la, e.loc = .there m la → freeTag s c = none → exec (.storeBufferDrain c) s = .next s)

/-- R169: the SC loads and stores wait for the close of their window; then SC_WINDOW_CLOSE performs a load that is alone
in its window, which translates its address then (DEDUCED, log 60) and reads memory, and a store that is alone in it, which
writes its bytes. -/
def Obligations.ScAccessesAreDoneAtTheirWindow : Prop :=
  (∀ d a b p : BitVec 4,
    LoadsInWindow (.ldbSc d a b p) [a, b] d true 1 (fun x => x.get a + x.get b) ∧
    LoadsInWindow (.ldhSc d a b p) [a, b] d true 2 (fun x => x.get a + x.get b) ∧
    LoadsInWindow (.ldwSc d a b p) [a, b] d true 4 (fun x => x.get a + x.get b) ∧
    LoadsInWindow (.lddSc d a b p) [a, b] d true 8 (fun x => x.get a + x.get b) ∧
    LoadsInWindow (.ldbuSc d a b p) [a, b] d false 1 (fun x => x.get a + x.get b) ∧
    LoadsInWindow (.ldhuSc d a b p) [a, b] d false 2 (fun x => x.get a + x.get b) ∧
    LoadsInWindow (.ldwuSc d a b p) [a, b] d false 4 (fun x => x.get a + x.get b) ∧
    StoresInWindow (.stbSc d a b p) [d, a, b] d 1 (fun x => x.get a + x.get b) ∧
    StoresInWindow (.sthSc d a b p) [d, a, b] d 2 (fun x => x.get a + x.get b) ∧
    StoresInWindow (.stwSc d a b p) [d, a, b] d 4 (fun x => x.get a + x.get b) ∧
    StoresInWindow (.stdSc d a b p) [d, a, b] d 8 (fun x => x.get a + x.get b)) ∧
  (∀ (c n w : Nat) (s : State) (e : Elem) (p : Place) (a : Nat) (d : BitVec 4) (signed : Bool), n < 9 →
    scClosed s = [(w, c, n)] → s.waiting c n = some (.scLoad e d signed w) → checkAgain s c n .load e.va e.size = .ok p →
    p.loc = .here a → (s.core c).sb = [] → (inLocal c p.loc = true → p.ord = false) →
    (∀ x ∈ (s.core c).avgQ, x.uid ≠ (s.strand c n).uid) → poisoned s a e.size = false →
    ∃ t, exec .scWindowClose s = .next t ∧ Woken c n (fun x => x.put d (extend signed e.size (loadMem s p.ord a e.size))) s t) ∧
  ∀ (c n w : Nat) (s : State) (e : SbEntry) (pa : Nat), n < 9 → scClosed s = [(w, c, n)] →
    s.waiting c n = some (.scStore w) → (s.core c).sb = [e] → e.uid = (s.strand c n).uid → e.kind = .sc →
    e.since + 2 ≤ s.cyc → e.loc = .here pa → releaseReady s c e.uid = true → s.mem.wf = true → ringWordAt pa = none →
    s.held = [] →
    ∃ t, exec .scWindowClose s = .next t ∧ (t.core c).sb = [] ∧
      (t.strand c n).pc = (s.strand c n).redir.getD ((s.strand c n).pc + 4) ∧ t.waiting c n = none ∧
      ∀ b, memByte t.mem b = if pa ≤ b ∧ b < pa + e.size then byteOf e.data (b - pa) else memByte s.mem b

/-- R154, R155: a scalar plain, acquire or release access whose check fails traps with the cause, the address and the detail of that
check, its PC at the instruction, and writes no register and no memory. -/
def Obligations.FailedAccessesTrapWithoutEffect : Prop :=
  (∀ (d a : BitVec 4) (o : BitVec 12) (p : BitVec 4),
    TrapsOnCheck (.ldbu d a o p) [a] [d] (fun _ => .load) 1 (fun x => x.get a + o.signExtend 64) ∧
    TrapsOnCheck (.ldhu d a o p) [a] [d] (fun _ => .load) 2 (fun x => x.get a + o.signExtend 64 * 2) ∧
    TrapsOnCheck (.ldwu d a o p) [a] [d] (fun _ => .load) 4 (fun x => x.get a + o.signExtend 64 * 4) ∧
    TrapsOnCheck (.ldd d a o p) [a] [d] (fun _ => .load) 8 (fun x => x.get a + o.signExtend 64 * 8) ∧
    TrapsOnCheck (.stb d a o p) [d, a] [] (fun _ => .store none) 1 (fun x => x.get a + o.signExtend 64) ∧
    TrapsOnCheck (.sth d a o p) [d, a] [] (fun _ => .store none) 2 (fun x => x.get a + o.signExtend 64 * 2) ∧
    TrapsOnCheck (.stw d a o p) [d, a] [] (fun _ => .store none) 4 (fun x => x.get a + o.signExtend 64 * 4) ∧
    TrapsOnCheck (.std d a o p) [d, a] [] (fun x => .store (some (x.get d).toNat)) 8
      (fun x => x.get a + o.signExtend 64 * 8)) ∧
  ∀ d a b p : BitVec 4,
    (∀ i ∈ [(Instr.ldb d a b p, 1), (.ldh d a b p, 2), (.ldw d a b p, 4), (.ldbAcq d a b p, 1), (.ldhAcq d a b p, 2),
      (.ldwAcq d a b p, 4), (.lddAcq d a b p, 8), (.ldbuAcq d a b p, 1), (.ldhuAcq d a b p, 2), (.ldwuAcq d a b p, 4)],
      TrapsOnCheck i.1 [a, b] [d] (fun _ => .load) i.2 (fun x => x.get a + x.get b)) ∧
    (∀ i ∈ [(Instr.stbRel d a b p, 1), (.sthRel d a b p, 2), (.stwRel d a b p, 4)],
      TrapsOnCheck i.1 [d, a, b] [] (fun _ => .store none) i.2 (fun x => x.get a + x.get b)) ∧
    TrapsOnCheck (.stdRel d a b p) [d, a, b] [] (fun x => .store (some (x.get d).toNat)) 8 (fun x => x.get a + x.get b)

/-- R103, R104, R158, R159: the vector loads and stores move exactly their active lanes, at the addresses of R158, and set
the in-use flag (R105); a load some of whose lanes are neither in the own local store nor held by the buffer waits for them
(R156), and LOAD_COMPLETE gives vd the lanes of memory; one of lanes in a line of another module asks for them in one request
(R161, R211); PREF has no effect. -/
def Obligations.VectorAccessesMoveTheirActiveLanes : Prop :=
  (∀ (v : BitVec 3) (a b : BitVec 4) (t : BitVec 3) (k : BitVec 2) (p : BitVec 4),
    LoadsLanes (.vld v a b t k p) [a, b] v t k
      (fun x j => x.get a + x.get b + BitVec.ofNat 64 (j * (laneWidth t / 8))) ∧
    AwaitsLanes (.vld v a b t k p) [a, b] v t k
      (fun x j => x.get a + x.get b + BitVec.ofNat 64 (j * (laneWidth t / 8))) ∧
    AsksForLanes (.vld v a b t k p) [a, b] v t k
      (fun x j => x.get a + x.get b + BitVec.ofNat 64 (j * (laneWidth t / 8))) ∧
    StoresLanes (.vst v a b t k p) [a, b] v t k
      (fun x j => x.get a + x.get b + BitVec.ofNat 64 (j * (laneWidth t / 8))) ∧
    LoadsLanes (.vlds v a b t k p) [a, b] v t k (fun x j => x.get a + BitVec.ofNat 64 j * x.get b) ∧
    AwaitsLanes (.vlds v a b t k p) [a, b] v t k (fun x j => x.get a + BitVec.ofNat 64 j * x.get b) ∧
    AsksForLanes (.vlds v a b t k p) [a, b] v t k (fun x j => x.get a + BitVec.ofNat 64 j * x.get b) ∧
    StoresLanes (.vsts v a b t k p) [a, b] v t k (fun x j => x.get a + BitVec.ofNat 64 j * x.get b)) ∧
  (∀ (v : BitVec 3) (a : BitVec 4) (i t : BitVec 3) (k : BitVec 2) (p : BitVec 4),
    LoadsLanes (.vgath v a i t k p) [a] v t k (fun x j =>
      x.get a + (BitVec.ofNat (laneWidth t) (lane (x.vec i) (laneWidth t) j)).signExtend 64 *
        BitVec.ofNat 64 (laneWidth t / 8)) ∧
    AwaitsLanes (.vgath v a i t k p) [a] v t k (fun x j =>
      x.get a + (BitVec.ofNat (laneWidth t) (lane (x.vec i) (laneWidth t) j)).signExtend 64 *
        BitVec.ofNat 64 (laneWidth t / 8)) ∧
    AsksForLanes (.vgath v a i t k p) [a] v t k (fun x j =>
      x.get a + (BitVec.ofNat (laneWidth t) (lane (x.vec i) (laneWidth t) j)).signExtend 64 *
        BitVec.ofNat 64 (laneWidth t / 8)) ∧
    StoresLanes (.vscat v a i t k p) [a] v t k (fun x j =>
      x.get a + (BitVec.ofNat (laneWidth t) (lane (x.vec i) (laneWidth t) j)).signExtend 64 *
        BitVec.ofNat 64 (laneWidth t / 8))) ∧
  (∀ (c n : Nat) (s : State) (v t : BitVec 3) (lanes : List Nat) (va : Nat → Word) (a : Nat → Nat) (ord : Nat → Bool),
    n < 9 → lanes.Nodup → s.waiting c n = some (.load
      (lanes.map fun j => ⟨j, va j, .here (a j), laneWidth t / 8, ord j, none, 0, 0⟩) (.vec v t) none) →
    (∀ j ∈ lanes, j < 512 / laneWidth t ∧ inLocal c (.here (a j)) = false ∧ poisoned s (a j) (laneWidth t / 8) = false ∧
      (∀ e ∈ (s.core c).sb, ∀ i < laneWidth t / 8, e.byte (.here (a j + i)) = none) ∧
      ∀ x ∈ (s.core c).avgQ, x.uid = (s.strand c n).uid ∨ releasedTo s c x.uid (s.strand c n).uid = true →
        x.line ≠ a j / 64 * 64) →
    ∃ (u : State) (new : VReg), exec (.loadComplete c n) s = .next u ∧ Woken c n (fun x => x.putVec v new) s u ∧
      ∀ j < 512 / laneWidth t, lane new (laneWidth t) j =
        if j ∈ lanes then loadMem s (ord j) (a j) (laneWidth t / 8) else lane ((s.strand c n).vec v) (laneWidth t) j) ∧
  ∀ (a : BitVec 4) (b : BitVec 3) (p : BitVec 4) (s : State), Runs (.pref a b p) s → Readable [a, b.setWidth 4] [] s →
    exec (.pref a b p) s = .next (ran id s)

/-- R217: the function of each AMO on bytes of its size, and the value that it returns, in words of 4 and of 8 bytes.
R217-R219: every AMO of this module waits until the strand's earlier accesses are performed and then queues at the home
of its line; AMO_PERFORM, when it is the first of its line, performs the one atomic access, writes the old value to gd and
no byte but those of the operand. -/
def Obligations.AtomicsQueueAndComputeTheirTable : Prop :=
  (∀ (old b c : Word),
    let four (op : BitVec 3) (f : BitVec 32 → BitVec 32 → BitVec 32) : Prop :=
      ∀ x : BitVec 32, amoResult op 4 x.toNat b c = some (f x (b.setWidth 32)).toNat
    let eight (op : BitVec 3) (f : Word → Word → Word) : Prop := amoResult op 8 old.toNat b c = some (f old b).toNat
    four 0 (· + ·) ∧ eight 0 (· + ·) ∧
    four 1 (fun x y => if x.toInt ≤ y.toInt then x else y) ∧ eight 1 (fun x y => if x.toInt ≤ y.toInt then x else y) ∧
    four 2 (fun x y => if x.toInt ≤ y.toInt then y else x) ∧ eight 2 (fun x y => if x.toInt ≤ y.toInt then y else x) ∧
    four 3 (· &&& ·) ∧ eight 3 (· &&& ·) ∧ four 4 (· ||| ·) ∧ eight 4 (· ||| ·) ∧ four 5 (· ^^^ ·) ∧ eight 5 (· ^^^ ·) ∧
    four 6 (fun _ y => y) ∧ eight 6 (fun _ y => y) ∧
    (∀ x : BitVec 32, amoResult 7 4 x.toNat b c = if x = c.setWidth 32 then some (b.setWidth 32).toNat else none) ∧
    amoResult 7 8 old.toNat b c = (if old = c then some b.toNat else none) ∧
    (∀ x : BitVec 32, amoValue 4 x.toNat = x.signExtend 64) ∧ amoValue 8 old.toNat = old) ∧
  ((∀ (d a b : BitVec 4) (z r : BitVec 1) (p : BitVec 4),
    ∀ i ∈ [((0 : BitVec 3), Instr.amoAdd d a b z r p), (1, .amoMin d a b z r p), (2, .amoMax d a b z r p),
      (3, .amoAnd d a b z r p), (4, .amoOr d a b z r p), (5, .amoXor d a b z r p), (6, .amoSwap d a b z r p),
      (7, .amoCas d a b z r p)],
    ∀ (s : State) (q : Place) (pa : Nat), Runs i.2 s → Readable [a, b] [d] s → (i.1 = 7 → s.me.isClipped d = false) →
      (r = 1 → isOwn s (s.me.get a) = true) →
      checkAccess s s.cur.1 s.me.rights .atomic (s.me.get a) (if z = 0 then 4 else 8) = .ok q → q.loc = .here pa →
      let op : AmoOp :=
        ⟨i.1, if z = 0 then 4 else 8, decide (r = 1), d, s.me.get a, .here pa, s.me.get b, s.me.get d⟩
      ∃ t, exec i.2 s = .next t ∧ t.mem = s.mem ∧ CoreFrame id s t ∧
        t.me = { s.me with entry := false, icnt := s.me.icnt + 1 } ∧
        (if quiet s s.cur.1 s.me.uid = true ∧ r = 0 then
          t.waiting s.cur.1 s.cur.2 = some (.amo op true (s.cyc / 16)) ∧ t.amoQ = s.amoQ ++ [(s.cur.1, s.cur.2, pa / 64)]
        else t.waiting s.cur.1 s.cur.2 = some (.amo op false (s.cyc / 16)) ∧ t.amoQ = s.amoQ)) ∧
  ∀ (c n w : Nat) (s : State) (op : AmoOp) (pa : Nat), n < 9 → s.waiting c n = some (.amo op true w) →
    op.loc = .here pa → op.sc = false → (s.amoQ.find? fun x => x.2.2 == pa / 64) = some (c, n, pa / 64) →
    poisoned s pa op.size = false → s.mem.wf = true → ringWordAt pa = none → s.held = [] →
    ∃ t, exec (.amoPerform c n) s = .next t ∧ t.waiting c n = none ∧
      (t.strand c n).g = ((s.strand c n).put op.d (amoValue op.size (s.read pa op.size))).g ∧
      (t.strand c n).pc = (s.strand c n).redir.getD ((s.strand c n).pc + 4) ∧
      (∀ x, (c, n, x) ∉ t.amoQ) ∧
      ∀ j, memByte t.mem j = match amoResult op.op op.size (s.read pa op.size) op.b op.cmp with
        | some x => if pa ≤ j ∧ j < pa + op.size then byteOf x (j - pa) else memByte s.mem j
        | none => memByte s.mem j)

/-- R215, R220, R221: an ordered atomic waits until the strand's earlier accesses are performed and then sends its entry;
the entry whose key is NEXT is applied at once (VALUE and NEXT of its cell, and no other byte), one ahead is held while the
buffer has room, one already passed is refused; the reply writes the old VALUE to gd.
R222: a NACKed entry is sent again after 256 cycles for each of its NACKs up to 16; an entry that is not applied within
2^26 cycles of its issue is withdrawn, and its strand traps with QUEUE_WAIT_LIMIT. -/
def Obligations.OrderedAtomicsApplyInKeyOrder : Prop :=
  ((∀ (d a b p : BitVec 4),
    ∀ i ∈ [(0, Instr.amoOrdAdd d a b p), (1, .amoOrdFadd d a b p), (2, .amoOrdSwap d a b p)],
    ∀ (s : State) (q : Place) (pa : Nat), Runs i.2 s → Readable [a, b, d] [] s → isOwn s (s.me.get a) = true →
      checkAccess s s.cur.1 s.me.rights .ord (s.me.get a) 16 = .ok q → q.loc = .here pa →
      ∃ t, exec i.2 s = .next t ∧
        Waits id (.ord ⟨i.1, d, s.me.get a, pa, (s.me.get b).toNat % 2 ^ 32, s.me.get d, 0, 0,
          if quiet s s.cur.1 s.me.uid = true then .travelling else .draining⟩) s t) ∧
  (∀ (c n : Nat) (s : State) (op : OrdOp), n < 9 → s.waiting c n = some (.ord op) → op.phase = .travelling →
    s.mem.wf = true → s.held = [] → op.key < 2 ^ 32 → cellMode s op.cell = 0 →
    (op.key = cellNext s op.cell → ∃ t, exec (.ordEntryArrival c n) s = .next t ∧
      t.waiting c n = some (.ord { op with arrival := s.serial, phase := .applied (BitVec.ofNat 64 (cellValue s op.cell)) }) ∧
      cellValue t op.cell = ordValue op.op (cellValue s op.cell) op.v % 2 ^ 64 ∧
      cellNext t op.cell = (cellNext s op.cell + 1) % 2 ^ 32 ∧
      ∀ j, j < op.cell ∨ op.cell + 12 ≤ j → memByte t.mem j = memByte s.mem j) ∧
    (op.key ≠ cellNext s op.cell → (op.key + 2 ^ 32 - cellNext s op.cell) % 2 ^ 32 < 2 ^ 31 →
      ∃ t, exec (.ordEntryArrival c n) s = .next t ∧ t.mem = s.mem ∧
        t.waiting c n = some (.ord { op with arrival := s.serial, phase := .held }) ∧
        t.held = [(c, n, (Config.homeSlice (op.cell / 64)).val)]) ∧
    (2 ^ 31 ≤ (op.key + 2 ^ 32 - cellNext s op.cell) % 2 ^ 32 →
      ∃ t, exec (.ordEntryArrival c n) s = .next t ∧ t.mem = s.mem ∧
        t.waiting c n = some (.ord { op with
          arrival := s.serial
          phase := .refused ⟨.illOperand, op.va, BitVec.ofNat 64 (op.key + cellNext s op.cell * 2 ^ 32)⟩ }))) ∧
  (∀ (c n : Nat) (s : State) (op : OrdOp) (old : Word), n < 9 → s.waiting c n = some (.ord op) → op.phase = .applied old →
    checked s c n = false →
    ∃ t, exec (.ordReply c n) s = .next t ∧ Woken c n (fun x => x.put op.d old) s t)) ∧
  (∀ (c n : Nat) (s : State) (op : OrdOp), n < 9 → s.waiting c n = some (.ord op) →
    (op.phase = .nacked → exec (.ordNack c n) s =
      .next (s.setState c n (.wait (.ord { op with
        nacks := op.nacks + 1, phase := .backOff (s.cyc + 256 * min (op.nacks + 1) 16) })))) ∧
    (∀ at_, op.phase = .backOff at_ → at_ ≤ s.cyc → exec (.ordResend c n) s =
      .next (s.setState c n (.wait (.ord { op with phase := .travelling })))) ∧
    (op.phase = .held → (s.slot c n).lastIssue = some (s.cyc - 2 ^ 26) → 2 ^ 26 ≤ s.cyc → (s.core c).tvec ≠ 0 →
      ∃ t, exec (.ordTimeout c n) s = .next t ∧ t.waiting c n = none ∧ (∀ x, (c, n, x) ∉ t.held) ∧ t.mem = s.mem ∧
        (t.strand c n).xval = op.va ∧ (t.strand c n).xcause = BitVec.ofNat 64 (0x10 + if (s.strand c n).mode then 2 ^ 63 else 0) ∧
        (t.strand c n).xaux = BitVec.ofNat 64 (op.key + cellNext s op.cell * 2 ^ 32) ∧
        (t.strand c n).pc = (s.core c).tvec.setWidth 64 <<< 2))

/-- R216, R223: FRED waits for the strand's earlier stores and then, when no other strand of its core waits with a FRED to the
cell, translates its address again (DEDUCED, log 60) and adds its F32 value to its core's slot of the cell, and changes no other byte. -/
def Obligations.FredAddsToItsSlot : Prop :=
  (∀ (d a p : BitVec 4) (s : State) (q : Place) (pa : Nat), Runs (.fred d a p) s → Readable [d, a] [] s →
    isOwn s (s.me.get a) = true → checkAccess s s.cur.1 s.me.rights .fred (s.me.get a) 16 = .ok q → q.loc = .here pa →
    ∃ t, exec (.fred d a p) s = .next t ∧
      Waits id (.fred (s.me.get a) pa ((s.me.get d).toNat % 2 ^ 32)) s t) ∧
  ∀ (c n : Nat) (s : State) (va : Word) (q : Place) (at_ cell x : Nat), n < 9 → s.waiting c n = some (.fred va at_ x) →
    checkAgain s c n .fred va 16 = .ok q → q.loc = .here cell →
    drained s c (s.strand c n).uid = true → isRedCell s cell = true → s.mem.wf = true →
    ringWordAt (cell + 0x40 + 4 * c) = none → s.held = [] →
    (∀ m < 9, m ≠ n → ∀ va' x', s.waiting c m ≠ some (.fred va' at_ x')) →
    ∃ t, exec (.fredUpdate c n) s = .next t ∧ t.waiting c n = none ∧
      t.read (cell + 0x40 + 4 * c) 4 =
        (rneTo .f32 (fadd 0 (codeVal .f32 (s.read (cell + 0x40 + 4 * c) 4)) (codeVal .f32 x)).1).1 % 2 ^ 32 ∧
      ∀ j, j < cell + 0x40 + 4 * c ∨ cell + 0x44 + 4 * c ≤ j → memByte t.mem j = memByte s.mem j

/-- R225-R228, R247: MON arms a line once its home has registered it, at most four, its address translated again then (DEDUCED,
log 60); MUNM disarms all; MWAIT waits, and at the end of its cycle leaves WAIT with code 0 when the latch is set, which it clears (R228), or with code 1 when
its time-out expires; a handler may not wait.
R227: a performed write sets the pending latch of every strand that has a line of it armed, and of no other. -/
def Obligations.MonitorsArmLatchAndWait : Prop :=
  ((∀ (a p : BitVec 4) (s : State) (q : Place) (pa : Nat), Runs (.mon a p) s → Readable [a] [] s →
    isOwn s (s.me.get a) = true → checkAccess s s.cur.1 s.me.rights .load (s.me.get a) 1 = .ok q → q.loc = .here pa →
    (pa / 64 ∈ s.me.mon → exec (.mon a p) s = .next (ran id s)) ∧
    (pa / 64 ∉ s.me.mon → s.me.mon.length < 4 → ∃ t, exec (.mon a p) s = .next t ∧ Waits id (.mon (s.me.get a)) s t) ∧
    (pa / 64 ∉ s.me.mon → 4 ≤ s.me.mon.length → (s.core s.cur.1).tvec ≠ 0 →
      ∃ t, exec (.mon a p) s = .next t ∧ Traps s.me.pc ⟨.illOperand, s.me.get a, 0⟩ s t)) ∧
  (∀ (c n pa : Nat) (va : Word) (s : State) (q : Place), s.waiting c n = some (.mon va) → n < 9 →
    checkAgain s c n .load va 1 = .ok q → q.loc = .here pa → pa / 64 ∉ (s.strand c n).mon →
    ∃ t, exec (.monitorRegistered c n) s = .next t ∧ Woken c n (fun x => { x with mon := x.mon ++ [pa / 64] }) s t) ∧
  (∀ (p : BitVec 4) (s : State), Runs (.munm p) s →
    exec (.munm p) s = .next (ran (fun x => { x with mon := [], latch := false }) s)) ∧
  (∀ (d a p : BitVec 4) (s : State), Runs (.mwait d a p) s → Readable [a] [d] s → s.cur.2 < 8 →
    ∃ t, exec (.mwait d a p) s = .next t ∧
      Waits id (.mwait d (if (s.me.get a).toNat % 2 ^ 40 = 0 then none else some (s.cyc + (s.me.get a).toNat % 2 ^ 40))
        false false) s t) ∧
  (∀ (c n : Nat) (d : BitVec 4) (limit : Option Nat) (e q : Bool) (s : State), n < 9 →
    s.waiting c n = some (.mwait d limit e q) → (s.strand c n).latch = true →
    ∃ t, mwaitResume c n s = some t ∧ Woken c n (fun x => { x.put d 0 with latch := false }) s t) ∧
  (∀ (d a p : BitVec 4) (s : State), Runs (.mwait d a p) s → Readable [a] [d] s → s.cur.2 = 8 →
    (s.core s.cur.1).tvec ≠ 0 → ∃ t, exec (.mwait d a p) s = .next t ∧
      Traps s.me.pc ⟨.illOperand, (encode (.mwait d a p)).setWidth 64, 0⟩ s t) ∧
  ∀ (c n at_ : Nat) (d : BitVec 4) (e q : Bool) (s : State), n < 9 → s.waiting c n = some (.mwait d (some at_) e q) →
    at_ ≤ s.cyc → (s.strand c n).latch = false →
    ∃ t, exec (.mwaitTimeout c n) s = .next t ∧ Woken c n (fun x => x.put d 1) s t) ∧
  (∀ (a : Nat) (bs : List Byte) (s : State) (c n : Nat), c ∈ s.cores.map Prod.fst → (s.cores.map Prod.fst).Nodup → n < 9 →
    bs ≠ [] →
    ((writeRaw a bs s).strand c n).latch =
      ((s.strand c n).latch || (s.strand c n).mon.any fun l => decide (64 * l < a + bs.length) && decide (a < 64 * l + 64)))

/-- R231, R210: ACQ completes at once; REL and FULL complete once every earlier access and engine command of the strand is
performed at the scope, and wait until then. That at CORE scope its stores count as performed, those to other modules for every
strand of the core, while its averaging entries and engine commands are waited for, is DEDUCED (log 31). -/
def Obligations.FencesWaitForEarlierAccesses : Prop :=
  ∀ (r : BitVec 3) (p : BitVec 4) (s : State),
    (Runs (.fenceAcq r p) s → exec (.fenceAcq r p) s = .next (ran id s)) ∧
    ∀ i ∈ [(1, Instr.fenceRel r p), (2, .fenceFull r p)], Runs i.2 s →
      (fenceDone r.toNat s s.cur.1 s.me.uid = true →
        (r = 0 → ∃ t, exec i.2 s = .next t ∧ t.mem = s.mem ∧ t.me = (ran id s).me ∧
          ((∀ e ∈ (s.core s.cur.1).sb, e.binds s.me.uid = true → ∃ a, e.loc = .here a) →
            (∀ q ∈ s.pending, q.binds s.cur.1 s.me.uid = false) → t = ran id s) ∧
          (∀ q ∈ t.pending, q.binds s.cur.1 s.me.uid = true → 0 ∈ q.readers) ∧
          ∀ e ∈ (t.core s.cur.1).sb, e.binds s.me.uid = true → ∀ m a, e.loc = .there m a → 0 ∈ e.readers) ∧
        (r ≠ 0 → ∃ t, exec i.2 s = .next t ∧ Does id id s t)) ∧
      (fenceDone r.toNat s s.cur.1 s.me.uid = false →
        ∃ t, exec i.2 s = .next t ∧ Waits id (.fence r.toNat i.1) s t)

/-- R157: LDM and STM transfer the registers from max(d, RIDX) to b, in ascending order, and clear RIDX; one that fails at a
register has transferred those before it, keeps the register in RIDX and traps; an LDM whose next doubleword needs WAIT waits
with those that it has read. -/
def Obligations.MultipleTransfersKeepTheirProgress : Prop :=
  ∀ (d a b p : BitVec 4) (s : State) (q : Nat → Place) (pa : Nat → Nat) (stop : Nat),
    let first := max d.toNat s.me.ridx.toNat
    let va (j : Nat) : Word := s.me.get a + BitVec.ofNat 64 (8 * (j - d.toNat))
    s.me.isEmpty a = false → s.me.isClipped a = false → first ≤ stop → stop ≤ max first (b.toNat + 1) →
    (∀ j, first ≤ j → j ≤ b.toNat → s.me.isEmpty (BitVec.ofNat 4 j) = false) →
    (Runs (.ldm d a b p) s →
      (∀ j, first ≤ j → j < stop → MayLoad s (va j) 8 (q j) (pa j) ∧ migHome s (q j) = none ∧ AtOnce s (pa j) 8) →
      (b.toNat < stop → ∃ t, exec (.ldm d a b p) s = .next t ∧
        Frame (sawStores s.me.uid ((List.range (stop - first)).map fun i => (pa (first + i), 8))) s t ∧
        t.me = { after id s.me with g := t.me.g, clip := t.me.clip, ridx := 0 } ∧
        ∀ r : BitVec 4, t.me.get r = if r ≠ 0 ∧ first ≤ r.toNat ∧ r.toNat ≤ b.toNat then
            BitVec.ofNat 64 (bytesHeld s s.cur.1 (pa r.toNat) 8) else s.me.get r) ∧
      (∀ st, stop ≤ b.toNat → checkAccess s s.cur.1 s.me.rights .load (va stop) 8 = .error st → (s.core s.cur.1).tvec ≠ 0 →
        ∃ t, exec (.ldm d a b p) s = .next t ∧ t.mem = s.mem ∧ t.me.ridx = BitVec.ofNat 4 stop ∧
          t.me.xval = st.xval ∧ t.me.xpc = (s.me.redir <|> s.me.redirX).getD s.me.pc ∧ t.me.pc = (s.core s.cur.1).tvec.setWidth 64 <<< 2 ∧
          t.me.mode = true ∧ t.me.icnt = s.me.icnt ∧
          ∀ r : BitVec 4, t.me.get r = if r ≠ 0 ∧ first ≤ r.toNat ∧ r.toNat < stop then
            BitVec.ofNat 64 (bytesHeld s s.cur.1 (pa r.toNat) 8) else s.me.get r) ∧
      ((∀ j, stop ≤ j → j ≤ b.toNat → MayLoad s (va j) 8 (q j) (pa j) ∧ migHome s (q j) = none) → stop ≤ b.toNat →
        ¬AtOnce s (pa stop) 8 →
        ∃ t, exec (.ldm d a b p) s = .next t ∧ t.mem = s.mem ∧ t.me.g = s.me.g ∧ t.me.ridx = s.me.ridx ∧
          t.waiting s.cur.1 s.cur.2 = some (.load
            ((List.range (b.toNat + 1 - first)).map fun i => ⟨first + i, va (first + i), .here (pa (first + i)), 8,
              (q (first + i)).ord,
              if first + i < stop then some (bytesHeld s s.cur.1 (pa (first + i)) 8) else none, 0, 0⟩) (.regs 0 none) none))) ∧
    (Runs (.stm d a b p) s →
      (∀ j, first ≤ j → j ≤ b.toNat → s.me.isClipped (BitVec.ofNat 4 j) = false) →
      (∀ j, first ≤ j → j < stop →
        checkAccess s s.cur.1 s.me.rights (.store (some (s.me.get (BitVec.ofNat 4 j)).toNat)) (va j) 8 = .ok (q j)) →
      FirstForRoom s → (s.core s.cur.1).sb.length + (stop - first) ≤ 32 →
      let es := (List.range (stop - first)).map fun i =>
        entryFor s .plain (va (first + i)) (q (first + i)).loc 8 (s.me.get (BitVec.ofNat 4 (first + i)))
      (b.toNat < stop → ∃ t, exec (.stm d a b p) s = .next t ∧ (∀ m, memByte t.mem m = memByte s.mem m) ∧
        Does (fun k => es.foldl (fun k e => takesEntry s e k) k) (fun x => { x with ridx := 0 }) s t) ∧
      (∀ st, stop ≤ b.toNat →
        checkAccess s s.cur.1 s.me.rights (.store (some (s.me.get (BitVec.ofNat 4 stop)).toNat)) (va stop) 8 = .error st →
        (s.core s.cur.1).tvec ≠ 0 →
        ∃ t, exec (.stm d a b p) s = .next t ∧ (∀ m, memByte t.mem m = memByte s.mem m) ∧
          (t.core s.cur.1).sb = (s.core s.cur.1).sb ++ es ∧ t.me.ridx = BitVec.ofNat 4 stop ∧ t.me.xval = st.xval ∧
          t.me.g = s.me.g ∧ t.me.pc = (s.core s.cur.1).tvec.setWidth 64 <<< 2))

/-- R234, R236, R237: SPAWN increments its frame counter in one atomic access, leaves the record of the word after it on
the core's deque, and goes to its target with g15 := 0; with the deque at SPLIM it stores the record at g14 − 56, and goes
on with g14 lower by 64, g15 := 1 and the spawn flag set. -/
def Obligations.SpawnLeavesItsContinuation : Prop :=
  ∀ (a : BitVec 4) (i : BitVec 12) (p : BitVec 4) (s : State) (q : Place) (pa : Nat), Runs (.spawn a i p) s →
    Readable (a :: regGroup 1 6) [14, 15] s → s.cur.2 < 8 →
    checkAccess s s.cur.1 s.me.rights .frame (s.me.get a) 8 = .ok q → q.loc = .here pa →
    (quiet s s.cur.1 s.me.uid = false → ∃ t, exec (.spawn a i p) s = .next t ∧
      Waits id (.spawn (s.me.get a) (.here pa) (s.me.pc + i.signExtend 64 * 4) none) s t) ∧
    (quiet s s.cur.1 s.me.uid = true → (s.core s.cur.1).deque.length < 32 →
      (s.core s.cur.1).deque.length < (s.core s.cur.1).splim.toNat → poisoned s pa 8 = false →
      (∀ x ∈ s.amoQ, x.2.2 ≠ pa / 64) → s.mem.wf = true → ringWordAt pa = none → s.held = [] →
      ∃ t, exec (.spawn a i p) s = .next t ∧
        (t.core s.cur.1).deque = (s.core s.cur.1).deque ++ [⟨⟨s.me.pc + 4,
          #v[s.me.get 1, s.me.get 2, s.me.get 3, s.me.get 4, s.me.get 5, s.me.get 6], s.me.get a⟩, none⟩] ∧
        t.me.pc = s.me.redir.getD (s.me.pc + i.signExtend 64 * 4) ∧ t.me.g = (s.me.put 15 0).g ∧ t.me.icnt = s.me.icnt + 1 ∧
        t.read pa 8 = (s.read pa 8 + 1) % 2 ^ 64 ∧
        ∀ j, j < pa ∨ pa + 8 ≤ j → memByte t.mem j = memByte s.mem j) ∧
    (∀ w : Nat → Place, quiet s s.cur.1 s.me.uid = true → (s.core s.cur.1).splim.toNat ≤ (s.core s.cur.1).deque.length →
      s.me.isClipped 14 = false → poisoned s pa 8 = false → (∀ x ∈ s.amoQ, x.2.2 ≠ pa / 64) → s.mem.wf = true →
      ringWordAt pa = none → s.held = [] → FirstForRoom s → (s.core s.cur.1).sb.length ≤ 24 →
      (∀ j < 8, checkAccess s s.cur.1 s.me.rights (.store none) (s.me.get 14 - 56 + BitVec.ofNat 64 (8 * j)) 8 = .ok (w j) ∧
        (rangeOf (localPart (s.me.get 14 - 56 + BitVec.ofNat 64 (8 * j)))).any Range.isLocal = true) →
      ∃ t, exec (.spawn a i p) s = .next t ∧
        (t.core s.cur.1).sb = (s.core s.cur.1).sb ++ (List.range 8).map (fun j =>
          entryFor s .plain (s.me.get 14 - 56 + BitVec.ofNat 64 (8 * j)) (w j).loc 8
            (if j = 0 then s.me.pc + 4 else if j = 7 then s.me.get a else s.me.get (BitVec.ofNat 4 j))) ∧
        (t.core s.cur.1).deque = (s.core s.cur.1).deque ∧ t.me.spl = true ∧
        t.me.pc = s.me.redir.getD (s.me.pc + i.signExtend 64 * 4) ∧
        t.me.g = ((s.me.put 14 (s.me.get 14 - 64)).put 15 1).g ∧ t.me.icnt = s.me.icnt + 1 ∧
        t.read pa 8 = (s.read pa 8 + 1) % 2 ^ 64 ∧
        ∀ j, j < pa ∨ pa + 8 ≤ j → memByte t.mem j = memByte s.mem j)

/-- R236, R238, R247: TEND decrements the frame counter that it names, resumes the bottom task of the core's deque that is
not LENT, or leaves the strand idle; with g15 = 1 it resumes the record at g14 + 8 instead, and g14 rises by 64; in the
service slot it ends the handler. -/
def Obligations.TendTakesATaskOrIdles : Prop :=
  ∀ (a p : BitVec 4) (s : State), Runs (.tend a p) s →
    (s.cur.2 = 8 → a = 0 → ∃ t, exec (.tend a p) s = .next t ∧ (t.slot s.cur.1 8).state = .empty ∧
      (t.slot s.cur.1 8).strand = Strand.reset ∧ t.mem = s.mem ∧ CoreFrame id s t) ∧
    (∀ (w : Nat → Place) (u : Nat → Nat), s.cur.2 < 8 → Readable [a, 15] (regGroup 1 7 ++ [14]) s → s.me.get 15 = 1 →
      s.me.isClipped 14 = false → a = 0 →
      (∀ j < 8, MayLoad s (s.me.get 14 + 8 + BitVec.ofNat 64 (8 * j)) 8 (w j) (u j) ∧ AtOnce s (u j) 8) →
      bytesHeld s s.cur.1 (u 0) 8 % 4 = 0 →
      ∃ t, exec (.tend a p) s = .next t ∧ t.mem = s.mem ∧ (t.core s.cur.1).deque = (s.core s.cur.1).deque ∧
        t.me.pc = s.me.redir.getD (BitVec.ofNat 64 (bytesHeld s s.cur.1 (u 0) 8)) ∧
        (∀ j, 1 ≤ j → j < 8 → t.me.get (BitVec.ofNat 4 j) = BitVec.ofNat 64 (bytesHeld s s.cur.1 (u j) 8)) ∧
        t.me.get 14 = s.me.get 14 + 64 ∧ t.me.get 15 = 0 ∧
        ∀ m : BitVec 4, 8 ≤ m.toNat → m.toNat < 14 → t.me.get m = s.me.get m) ∧
    (s.cur.2 < 8 → Readable [a, 15] (regGroup 1 7 ++ [14]) s → s.me.get 15 ≠ 1 → (s.core s.cur.1).deque.length ≤ 32 →
      (∀ r d, a = 0 → (s.core s.cur.1).deque = d ++ [⟨r, none⟩] → r.pc &&& 3 = 0 →
        ∃ t, exec (.tend a p) s = .next t ∧ (t.core s.cur.1).deque = d ∧ t.me.pc = s.me.redir.getD r.pc ∧
          t.me.get 1 = r.g[0] ∧ t.me.get 2 = r.g[1] ∧ t.me.get 3 = r.g[2] ∧ t.me.get 4 = r.g[3] ∧ t.me.get 5 = r.g[4] ∧
          t.me.get 6 = r.g[5] ∧ t.me.get 7 = r.frame ∧ t.me.get 15 = 0 ∧ t.mem = s.mem ∧
          ∀ m : BitVec 4, 8 ≤ m.toNat → m ≠ 15 → t.me.get m = s.me.get m) ∧
      (a = 0 → (∀ e ∈ (s.core s.cur.1).deque, e.lent.isSome = true) → s.me.lease = none →
        ∃ t, exec (.tend a p) s = .next t ∧
          Waits (fun k => if idleStrands s s.cur.1 = [] then { k with stealCursor := none } else k) .idle s t) ∧
      (∀ q pa r d, a ≠ 0 → checkAccess s s.cur.1 s.me.rights .frame (s.me.get a) 8 = .ok q → q.loc = .here pa →
        quiet s s.cur.1 s.me.uid = true → poisoned s pa 8 = false → (∀ x ∈ s.amoQ, x.2.2 ≠ pa / 64) → s.mem.wf = true →
        ringWordAt pa = none → s.held = [] → (s.core s.cur.1).deque = d ++ [⟨r, none⟩] → r.pc &&& 3 = 0 →
        ∃ t, exec (.tend a p) s = .next t ∧ (t.core s.cur.1).deque = d ∧ t.me.pc = s.me.redir.getD r.pc ∧
          t.me.get 7 = r.frame ∧ t.read pa 8 = (s.read pa 8 + (2 ^ 64 - 1)) % 2 ^ 64 ∧
          ∀ j, j < pa ∨ pa + 8 ≤ j → memByte t.mem j = memByte s.mem j))

/-- R239: JOIN goes on when its frame counter reads 0 and waits while it does not, whether the buffer holds all of its bytes
or none, or it lies in the own local store; in a handler it raises ILL_OPERAND. -/
def Obligations.JoinWaitsForZero : Prop :=
  ∀ (a p : BitVec 4) (s : State), Runs (.join a p) s → Readable [a] [] s → loadTag s s.me.uid = none →
    (∀ q pa, s.cur.2 < 8 → checkAccess s s.cur.1 s.me.rights .frame (s.me.get a) 8 = .ok q → q.loc = .here pa →
      Settled s pa → poisoned s pa 8 = false →
      (AtOnce s pa 8 ∨ ∀ j < 8, sbByte (s.core s.cur.1).sb (.here (pa + j)) = none) →
      (bytesHeld s s.cur.1 pa 8 = 0 → ∃ t, exec (.join a p) s = .next t ∧ Does (sawStores s.me.uid [(pa, 8)]) id s t) ∧
      (bytesHeld s s.cur.1 pa 8 ≠ 0 → ∃ t, exec (.join a p) s = .next t ∧ Waits id (.join (s.me.get a) (.here pa)) s t)) ∧
    (s.cur.2 = 8 → (s.core s.cur.1).tvec ≠ 0 → ∃ t, exec (.join a p) s = .next t ∧
      Traps s.me.pc ⟨.illOperand, (encode (.join a p)).setWidth 64, 0⟩ s t)

/-- R241, R242: a steal: the victim lends its topmost entry that is not LENT, and answers EMPTY without one, in deterministic
mode, or with a pre-emption; the thief acknowledges the record, unless the strand that awaited it has been pre-empted; the
acknowledged entry leaves the deque, and one no longer LENT under the tag is VOID; the confirmed record resumes in the strand
that became idle first, or enters the thief's deque; a mark ends after 4,096 cycles, or when the thief turns the record away. -/
def Obligations.StealsMoveOneTask : Prop :=
  ∀ (n c v tag : Nat) (s : State) (r : TaskRec),
    let u : State := { s with flight := s.flight.eraseIdx n }
    (s.flight[n]? = some (.stealRequest c v) →
      (∀ pre e post, (s.core v).det = false → (s.core v).preempted = [] → (s.core v).deque.length ≤ 32 →
        (s.core v).deque = pre ++ e :: post → e.lent = none → (∀ x ∈ pre, x.lent.isSome = true) →
        ∃ t, exec (.stealRequest n) s = .next t ∧
          (t.core v).deque = pre ++ { e with lent := some (s.serial, s.cyc) } :: post ∧
          t.flight = s.flight.eraseIdx n ++ [.stealRecord c v s.serial e.task] ∧ t.mem = s.mem) ∧
      ((s.core v).det = true ∨ (s.core v).preempted ≠ [] ∨ (∀ x ∈ (s.core v).deque, x.lent.isSome = true) →
        ∃ t, exec (.stealRequest n) s = .next t ∧
          t = { s with cores := t.cores, serial := s.serial + 1, flight := s.flight.eraseIdx n ++ [.stealEmpty c v] } ∧
          ∀ w, (t.core w).deque = (s.core w).deque)) ∧
    (s.flight[n]? = some (.stealRecord c v tag r) →
      ((firstIdle s c).isSome = true ∨ (s.core c).preempted = [] → exec (.stealRecord n) s =
        .next { u.modCore c (fun k => { k with stolen := some r }) with
          flight := s.flight.eraseIdx n ++ [.stealAck c v tag] }) ∧
      (firstIdle s c = none → (s.core c).preempted ≠ [] → exec (.stealRecord n) s =
        .next { u.modCore c (fun k => { k with steal := none, stolen := none, stealCursor := some v }) with
          flight := s.flight.eraseIdx n ++ [.stealReject c v tag] })) ∧
    (s.flight[n]? = some (.stealEmpty c v) → exec (.stealEmpty n) s =
      .next (u.modCore c fun k => { k with steal := none, stolen := none, stealCursor := some v })) ∧
    (s.flight[n]? = some (.stealVoid c v) → exec (.stealVoid n) s =
      .next (u.modCore c fun k => { k with steal := none, stolen := none, stealCursor := some v })) ∧
    (s.flight[n]? = some (.stealReject c v tag) → exec (.stealVoid n) s =
      .next (u.modCore v fun k => { k with deque := k.deque.map fun e =>
        (if e.lent.map Prod.fst = some tag then { e with lent := none } else e) })) ∧
    (s.flight[n]? = some (.stealAck c v tag) → (s.core v).deque.length ≤ 32 →
      (∀ pre e post at_, (s.core v).deque = pre ++ e :: post → e.lent = some (tag, at_) →
        (∀ x ∈ pre, x.lent.map Prod.fst ≠ some tag) →
        ∃ t, exec (.stealAck n) s = .next t ∧ (t.core v).deque = pre ++ post ∧ t.mem = s.mem ∧
          t.flight = s.flight.eraseIdx n ++ [.stealConfirm c v]) ∧
      ((∀ x ∈ (s.core v).deque, x.lent.map Prod.fst ≠ some tag) → exec (.stealAck n) s =
        .next { u with flight := s.flight.eraseIdx n ++ [.stealVoid c v] })) ∧
    (s.flight[n]? = some (.stealConfirm c v) → (s.core c).stolen = some r → r.pc &&& 3 = 0 →
      (∀ m, firstIdle s c = some m → ∃ t, exec (.stealConfirm n) s = .next t ∧ t.waiting c m = none ∧
        (t.strand c m).pc = (s.strand c m).redir.getD r.pc ∧ (t.strand c m).get 7 = r.frame ∧
        (t.strand c m).get 1 = r.g[0] ∧ (t.core c).steal = none ∧ (t.core c).lastVictim = some v ∧ t.mem = s.mem) ∧
      (firstIdle s c = none → (s.core c).deque.length < 32 → ∃ t, exec (.stealConfirm n) s = .next t ∧
        (t.core c).deque = (s.core c).deque ++ [⟨r, none⟩] ∧ (t.core c).steal = none ∧ t.mem = s.mem)) ∧
    (∀ e ∈ (s.core v).deque, ∀ at_, e.lent = some (tag, at_) → at_ + 4096 ≤ s.cyc → exec (.lentTimeout v) s =
      .next (s.modCore v fun k => { k with deque := k.deque.map fun e =>
        if (e.lent.any fun x => decide (x.2 + 4096 ≤ s.cyc)) = true then { e with lent := none } else e }))

/-- R243, R245, R246: SEND to a core of this module waits with its words; its entry enters the receive queue of that core
once the strand's earlier accesses are performed and the queue has room; a held one is accepted in order; one not accepted
within 2^26 cycles traps with the report of R249 and has placed nothing.
R248, R249: RECV takes the head of the receive queue when no strand of the core waits before it, and waits else; with
a limit of 0 and nothing to take it traps at once, and a limit that expires traps.
R78, R246, R247: SEND.SVC empties its reply register and waits; its entry enters the service queue, and the service slot
starts the handler with the words, the token and the sender in g1 to g6, in the mode of R247; the cycle in which the handler
is READY, the next or the eighth after the slot's last issue, is the model's choice (DESIGN CHOICE, log 54). -/
def Obligations.MessagesReachTheirQueues : Prop :=
  ((∀ (d a : BitVec 4) (n : BitVec 2) (p : BitVec 4) (s : State), Runs (.send d a n p) s →
    Readable (a :: regGroup d (n.toNat + 1)) [] s →
    let w := s.me.get a
    (destTok w = false → destStop s false w = none →
      (destModule s w = s.modId ∨ quiet s s.cur.1 s.me.uid = false ∨ freeTag s s.cur.1 = none) →
      ∃ t words, exec (.send d a n p) s = .next t ∧
        Waits id (.send ⟨false, w, words, 0, 0, 0, s.me.set, s.me.mode, s.me.q, none⟩ 0) s t ∧
        ∀ (i : Nat) (h : i < 4), words[i] = if i ≤ n.toNat then s.me.get (d + BitVec.ofNat 4 i) else 0) ∧
    (∀ i, destTok w = false → destStop s false w = none → destModule s w ≠ s.modId → quiet s s.cur.1 s.me.uid = true →
      freeTag s s.cur.1 = some i →
      let tag := tagOf s.cur.1 i (((tagRec s s.cur.1 i).inc + 1) % 16)
      ∃ t words, exec (.send d a n p) s = .next t ∧
        t.waiting s.cur.1 s.cur.2 = some (.send ⟨false, w, words, 0, 0, 0, s.me.set, s.me.mode, s.me.q, some tag⟩ 0) ∧
        t.outbox = s.outbox ++ [(destModule s w, .recvEntry (destCore w) s.modId tag words)] ∧
        ∀ (i : Nat) (h : i < 4), words[i] = if i ≤ n.toNat then s.me.get (d + BitVec.ofNat 4 i) else 0) ∧
    (destTok w = true → n = 0 → (w >>> 36) &&& 0x3FF = 0 → (destModule s w = s.modId ∨ quiet s s.cur.1 s.me.uid = false) →
      ∃ t words, exec (.send d a n p) s = .next t ∧
        Waits id (.send ⟨false, w, words, 0, 0, 0, s.me.set, s.me.mode, s.me.q, none⟩ 0) s t ∧ words[0] = s.me.get d) ∧
    (destTok w = false → ∀ st, destStop s false w = some st → (s.core s.cur.1).tvec ≠ 0 →
      ∃ t, exec (.send d a n p) s = .next t ∧ Traps s.me.pc st s t) ∧
    (destTok w = true → n ≠ 0 ∨ (w >>> 36) &&& 0x3FF ≠ 0 → (s.core s.cur.1).tvec ≠ 0 →
      ∃ t, exec (.send d a n p) s = .next t ∧ Traps s.me.pc ⟨.illOperand, w, 0⟩ s t)) ∧
  (∀ (c n core : Nat) (s : State) (op : SendOp) (r : BitVec 4), n < 9 → s.waiting c n = some (.send op r) →
    destTok op.dest = false → destModule s op.dest = s.modId → destCore op.dest = core → op.svc = false →
    (op.held = none → quiet s c (s.strand c n).uid = true → queueRoom s false core = true → nobodyHeld s false core = true →
      ∃ t, exec (.receiveQueueEntry (.slot c n)) s = .next t ∧ t.waiting c n = none ∧ t.mem = s.mem ∧
        (t.core core).recvQ = (s.core core).recvQ ++ [op.words] ∧
        (t.strand c n).pc = (s.strand c n).redir.getD ((s.strand c n).pc + 4) ∧ (t.strand c n).g = (s.strand c n).g) ∧
    (op.held = none → quiet s c (s.strand c n).uid = true → queueRoom s false core = false →
      ∃ t, exec (.receiveQueueEntry (.slot c n)) s = .next t ∧
        t.waiting c n = some (.send { op with held := some s.serial } r) ∧ t.core core = (if core = c then t.core c else s.core core)) ∧
    (∀ o, op.held = some o → queueRoom s false core = true → firstHeld s false core o = true →
      ∃ t, exec (.sendAccept c n) s = .next t ∧ t.waiting c n = none ∧
        (t.core core).recvQ = (s.core core).recvQ ++ [op.words]) ∧
    ((s.slot c n).lastIssue = some (s.cyc - 2 ^ 26) → 2 ^ 26 ≤ s.cyc → (s.core c).tvec ≠ 0 → op.reply = 0 →
      ∃ t, exec (.sendAcceptTimeout c n) s = .next t ∧ t.waiting c n = none ∧ t.mem = s.mem ∧
        (∀ e, (t.core e).recvQ = (s.core e).recvQ) ∧ (t.strand c n).pc = (s.core c).tvec.setWidth 64 <<< 2 ∧
        (t.strand c n).xcause = BitVec.ofNat 64 (0x10 + if (s.strand c n).mode then 2 ^ 63 else 0) ∧
        (t.strand c n).xval = BitVec.ofNat 64 (core + s.modId * 2 ^ 46) ∧
        (t.strand c n).xaux = BitVec.ofNat 64 ((s.core core).recvHead +
          ((s.core core).recvHead + (s.core core).recvQ.length) % 16 * 2 ^ 8 + (s.core core).recvQ.length * 2 ^ 16)))) ∧
  ((∀ (d a : BitVec 4) (n : BitVec 2) (p : BitVec 4) (s : State), Runs (.recv d a n p) s →
    Readable [a] (regGroup d (n.toNat + 1)) s → s.cur.2 < 8 →
    (∀ m d' k lim, s.waiting s.cur.1 m ≠ some (.recv d' k lim)) →
    (∀ e rest, (s.core s.cur.1).recvQ = e :: rest → ∃ t, exec (.recv d a n p) s = .next t ∧
      Frame (fun k => { k with recvQ := rest, recvHead := (k.recvHead + 1) % 16 }) s t ∧ t.me.pc = s.me.pc + 4 ∧
      ∀ r : BitVec 4, t.me.get r =
        if h : r ≠ 0 ∧ d.toNat ≤ r.toNat ∧ r.toNat ≤ d.toNat + n.toNat then e[r.toNat - d.toNat]'(by have := n.isLt; omega)
        else s.me.get r) ∧
    ((s.core s.cur.1).recvQ = [] → (s.me.get a).toNat % 2 ^ 32 ≠ 0 → ∃ t, exec (.recv d a n p) s = .next t ∧
      Waits id (.recv d (n.toNat + 1) (s.cyc + (s.me.get a).toNat % 2 ^ 32)) s t) ∧
    ((s.core s.cur.1).recvQ = [] → (s.me.get a).toNat % 2 ^ 32 = 0 → (s.core s.cur.1).tvec ≠ 0 →
      ∃ t, exec (.recv d a n p) s = .next t ∧ Traps s.me.pc ⟨.queueWaitLimit, BitVec.ofNat 64 (s.cur.1 + s.modId * 2 ^ 46),
        BitVec.ofNat 64 ((s.core s.cur.1).recvHead + (s.core s.cur.1).recvHead % 16 * 2 ^ 8)⟩ s t)) ∧
  (∀ (c n : Nat) (s : State) (d : BitVec 4) (k limit : Nat), n < 9 → s.waiting c n = some (.recv d k limit) →
    limit ≤ s.cyc → (s.core c).recvQ = [] → (s.core c).tvec ≠ 0 →
    ∃ t, exec (.recvWaitLimit c n) s = .next t ∧ t.waiting c n = none ∧ (t.strand c n).g = (s.strand c n).g ∧
      (t.strand c n).xcause = BitVec.ofNat 64 (0x10 + if (s.strand c n).mode then 2 ^ 63 else 0) ∧
      (t.strand c n).xval = BitVec.ofNat 64 (c + s.modId * 2 ^ 46)) ∧
  ∀ (c n : Nat) (s : State) (d : BitVec 4) (k limit : Nat) (e : Vector Word 4) (rest : List (Vector Word 4)), n < 9 →
    s.waiting c n = some (.recv d k limit) → (s.core c).recvQ = e :: rest →
    (∀ m d' k' lim, s.waiting c m = some (.recv d' k' lim) → m = n) → s.fatal = false → s.closing = false →
    ∃ t, step { s with agenda := [.resume c n] } = .next t ∧ t.waiting c n = none ∧ (t.core c).recvQ = rest) ∧
  ((∀ (d a b : BitVec 4) (n : BitVec 2) (p : BitVec 4) (s : State), Runs (.sendSvc d a b n p) s →
    Readable (a :: b :: regGroup d (n.toNat + 1)) [] s → destStop s true (s.me.get a) = none → s.me.get b &&& 3 = 0 →
    destModule s (s.me.get a) = s.modId → s.me.isEmpty (destRreg (s.me.get a)) = false →
    ∃ t op, exec (.sendSvc d a b n p) s = .next t ∧ t.waiting s.cur.1 s.cur.2 = some (.send op (destRreg (s.me.get a))) ∧
      op.svc = true ∧ op.dest = s.me.get a ∧ op.handler = s.me.get b ∧ op.reply = destRreg (s.me.get a) ∧
      (∀ (i : Nat) (h : i < 4), op.words[i] = if i ≤ n.toNat then s.me.get (d + BitVec.ofNat 4 i) else 0) ∧
      t.mem = s.mem ∧ CoreFrame id s t ∧ t.me.g = s.me.g ∧ t.me.pc = s.me.pc ∧
      (destRreg (s.me.get a) ≠ 0 → t.me.isEmpty (destRreg (s.me.get a)) = true) ∧
      (destRreg (s.me.get a) = 0 → op.token = 0 ∧ t.me.full = s.me.full)) ∧
  (∀ (c n core : Nat) (s : State) (op : SendOp) (r : BitVec 4), n < 9 → s.waiting c n = some (.send op r) →
    destTok op.dest = false → destModule s op.dest = s.modId → destCore op.dest = core → op.svc = true → op.held = none →
    quiet s c (s.strand c n).uid = true → queueRoom s true core = true → nobodyHeld s true core = true →
    ∃ t, exec (.serviceQueueEntry (.slot c n)) s = .next t ∧ t.waiting c n = none ∧
      (t.core core).svcQ = (s.core core).svcQ ++ [.message op.words op.handler op.token
        (BitVec.ofNat 64 (c + s.modId * 2 ^ 46)) op.sup op.rights op.q]) ∧
  ∀ (c : Nat) (s : State) (words : Vector Word 4) (pc token sender : Word) (sup : Bool) (set : Option (Nat × Nat)) (q : Nat)
      (rest : List SvcEntry), (s.slot c 8).state = .empty → (s.core c).gating = .ungated →
    (s.core c).svcQ = .message words pc token sender sup set q :: rest →
    ∃ t, exec (.serviceHandlerStart c) s = .next t ∧ (t.core c).svcQ = rest ∧ t.mem = s.mem ∧
      (t.slot c 8).state = .interval (max (s.cyc + 1) (((s.slot c 8).lastIssue.map (· + 8)).getD 0)) ∧
      (t.strand c 8).pc = pc ∧ (t.strand c 8).mode = sup ∧
      (t.strand c 8).set = (if destModule s sender = s.modId then set else launchSet s q c) ∧ (t.strand c 8).get 1 = words[0] ∧ (t.strand c 8).get 2 = words[1] ∧
      (t.strand c 8).get 3 = words[2] ∧ (t.strand c 8).get 4 = words[3] ∧ (t.strand c 8).get 5 = token ∧
      (t.strand c 8).get 6 = sender ∧ (∀ r : BitVec 4, 7 ≤ r.toNat → (t.strand c 8).get r = 0) ∧
      (t.strand c 8).fpc = 0 ∧ (t.strand c 8).fps = 0 ∧ ∀ m < 8, t.slot c m = s.slot c m)

/-- R161, R170, R217, R246, R247, R368, R370: an access of another module enters the queue that it names, after what has come
of its flow before it, when no access of its strand at another core is yet to be performed and none is held before it; the entry
of a send gets a place there, which it takes when its module confirms the send (DESIGN CHOICE,
log 31); the service slot performs a remote access at the head of its queue as a plain access of its core, under the rules of
this module, and a copy of one already performed not at all: a load is answered, a store enters the store buffer, and is
acknowledged when it leaves it, unless accesses under way have walked its lines as a page table (R168, R317). That it is
checked there with supervisor rights and no core set is the model's choice (DEDUCED, log 46). -/
def Obligations.RemoteAccessesAreServed : Prop :=
  (∀ (n core m tag : Nat) (s : State) (req : RemoteReq), s.msg n = some (.access core m tag req) →
    queueRoom s true core = true → nobodyHeld s true core = true → (∀ x ∈ s.farHeld, ¬(x.from_ = m ∧ x.key = accessNo tag)) →
    accessOpen s core m req.strand = false → core < 12288 → exec (.serviceQueueEntry (.flight n)) s =
      .next ({ s with flight := s.flight.eraseIdx n }.modCore core fun k => { k with svcQ := k.svcQ ++ [SvcEntry.access m tag req] })) ∧
  (∀ (n core m uid : Nat) (s : State) (words : Vector Word 4), s.msg n = some (.recvEntry core m uid words) →
    wasPerformed s m (sendNo uid) = false → queueRoom s false core = true → nobodyHeld s false core = true →
    (∀ x ∈ s.farHeld, ¬(x.from_ = m ∧ x.key = sendNo uid)) → core < 12288 →
    ∃ t, exec (.receiveQueueEntry (.flight n)) s = .next t ∧ (t.core core).recvQ = (s.core core).recvQ ∧
      (t.core core).claims = (s.core core).claims ++ [.recvEntry core m uid words] ∧
      t.outbox = s.outbox ++ [(m, .sendAccepted uid)] ∧ t.flight = s.flight.eraseIdx n ∧
      wasPerformed t m (sendNo uid) = true) ∧
  (∀ (n core m uid : Nat) (s : State) (words : Vector Word 4), s.msg n = some (.sendConfirm core m uid) →
    (s.core core).claims.find? (isEntryOf m uid) = some (.recvEntry core m uid words) →
    ∃ t, exec (.receiveQueueEntry (.flight n)) s = .next t ∧ (t.core core).recvQ = (s.core core).recvQ ++ [words] ∧
      (t.core core).claims = (s.core core).claims.erase (.recvEntry core m uid words) ∧ t.flight = s.flight.eraseIdx n ∧
      t.mem = s.mem) ∧
  (∀ (c m tag pa : Nat) (s : State) (req : RemoteReq) (q : Place) (rest : List SvcEntry) (x : Nat),
    (s.slot c 8).state = .empty → (s.core c).gating = .ungated → (s.core c).svcQ = .access m tag req :: rest → m ≠ s.modId →
    wasPerformed s m (accessNo tag) = false → req.kind = .store x → q.loc = .here pa →
    checkWith s (s.cluster (c / 16)).tlb c ⟨true, none⟩ (.store (if req.size = 8 then some x else none))
      (BitVec.ofNat 64 (s.modId * 2 ^ 47 + req.la)) = .ok q → (s.core c).spill = [] →
    (∀ k < 9, wantsRoom s c k = false) → (s.core c).sb.length < 32 →
    ∃ t, exec (.remoteAccessPerform c) s = .next t ∧ (t.core c).svcQ = rest ∧ t.mem = s.mem ∧ t.outbox = s.outbox ∧
      (t.core c).sb = (s.core c).sb ++
        [⟨0, .plain, BitVec.ofNat 64 (s.modId * 2 ^ 47 + req.la), .here pa, req.size, x, s.cyc, s.cyc, 0, some (m, tag, req.strand),
          []⟩] ∧
      wasPerformed t m (accessNo tag) = true) ∧
  (∀ (c m tag : Nat) (s : State) (req : RemoteReq) (rest : List SvcEntry), (s.slot c 8).state = .empty →
    (s.core c).gating = .ungated → (s.core c).svcQ = .access m tag req :: rest → wasPerformed s m (accessNo tag) = true →
    ∃ t, exec (.remoteAccessPerform c) s = .next t ∧ (t.core c).svcQ = rest ∧ (t.core c).sb = (s.core c).sb ∧ t.mem = s.mem ∧
      t.outbox = s.outbox) ∧
  (∀ (c m tag u pa : Nat) (s : State) (e : SbEntry) (rest : List SbEntry), (s.core c).sb = e :: rest → e.since + 2 ≤ s.cyc →
    e.kind = .plain → e.loc = .here pa → e.ack = some (m, tag, u) → m ≠ s.modId → s.mem.wf = true → ringWordAt pa = none →
    s.held = [] → (pa < 2 ^ 40 → walkedPages s (linesOfRange pa e.size) = []) →
    ∃ t, exec (.storeBufferDrain c) s = .next t ∧ (t.core c).sb = rest ∧
      t.outbox = s.outbox ++ [(m, .ack tag (.ok 0))] ∧
      ∀ j, memByte t.mem j = if pa ≤ j ∧ j < pa + e.size then byteOf e.data (j - pa) else memByte s.mem j) ∧
  ∀ (c m tag pa : Nat) (s : State) (req : RemoteReq) (q : Place) (rest : List SvcEntry) (plain : Bool),
    (s.slot c 8).state = .empty → (s.core c).gating = .ungated → (s.core c).svcQ = .access m tag req :: rest → m ≠ s.modId →
    wasPerformed s m (accessNo tag) = false → req.kind = .load plain → q.loc = .here pa → q.mig = none →
    (s.core c).avgQ = [] → (s.core c).sb = [] →
    checkWith s (s.cluster (c / 16)).tlb c ⟨true, none⟩ .load (BitVec.ofNat 64 (s.modId * 2 ^ 47 + req.la)) = .ok q →
    0 < req.size → inLocal c (.here pa) = false → poisoned s pa req.size = false →
    ∃ t, exec (.remoteAccessPerform c) s = .next t ∧ (t.core c).svcQ = rest ∧ t.mem = s.mem ∧
      t.outbox = s.outbox ++ [(m, .answer tag (.ok (loadMem s q.ord pa req.size)))]

/-- R156, R161, R168, R370: what ends a request to another module: an acknowledgement, a time-out (REMOTE_TIMEOUT, with the
address), the expiry of a packet's age.
R19, R79, R80, R81: a fill of an empty register of a strand in a slot that issues no more in the cycle of the fill writes and
marks it, and readies a strand that is parked once the registers that it parked on are all full; a fill of a full register is discarded and counted. -/
def Obligations.FillsAndEndedRequestsReachTheirStrand : Prop :=
  ((∀ (n tag : Nat) (s : State) (x : Nat) (p : Pending), s.flight[n]? = some (.ack tag (.ok x)) →
    s.pending.find? (fun p => p.tag == tag && p.store) = some p → exec (.remoteStoreAcknowledgement n) s =
      .next { s with flight := s.flight.eraseIdx n, pending := s.pending.filter fun p => p.tag != tag }) ∧
  (∀ (n tag : Nat) (s : State) (a : Answer), s.flight[n]? = some (.ack tag a) →
    s.pending.find? (fun p => p.tag == tag && p.store) = none → exec (.remoteStoreAcknowledgement n) s =
      .next { s with flight := s.flight.eraseIdx n, latecnt := s.latecnt + 1, discards := s.discards + 1 }) ∧
  (∀ (n : Nat) (s : State) (m : Msg), s.flight[n]? = some m → travels s.modId m = true → heldFar s m = false →
    exec (.packetAgeExpiry n) s = .next { s with flight := s.flight.eraseIdx n }) ∧
  ∀ (tag c n : Nat) (s : State) (p : Pending) (e : Elem) (d : BitVec 4) (signed plain : Bool),
    s.pending.find? (fun p => p.tag == tag) = some p → p.store = false → p.sent + 2 ^ s.fto ≤ s.cyc →
    s.find p.uid = some (c, n) → s.waiting c n = some (.load [e] (.scalar d signed plain) none) → n < 9 →
    (∃ m a, e.loc = .there m a) → e.val = none → e.tag = tag → (∀ m ∈ s.flight, ∀ a, m ≠ .answer tag a) →
    (s.core c).sb = [] → 0 < e.size → (s.core c).tvec ≠ 0 →
    ∃ t, exec (.requesterTimeout tag) s = .next t ∧ t.waiting c n = none ∧ (t.strand c n).g = (s.strand c n).g ∧
      (t.strand c n).xval = p.va ∧ (t.strand c n).xcause = BitVec.ofNat 64 (0x18 + if (s.strand c n).mode then 2 ^ 63 else 0) ∧
      (t.strand c n).pc = (s.core c).tvec.setWidth 64 <<< 2 ∧ t.mem = s.mem) ∧
  (∀ (k c n uid : Nat) (r : BitVec 4) (v : Word) (s : State), s.flight[k]? = some (.fill uid r v) →
    s.find uid = some (c, n) → n < 9 → fillEarly s uid = false →
    ((s.strand c n).isEmpty r = true → ∃ t, exec (.registerFill k) s = .next t ∧ t.mem = s.mem ∧
      t.flight = s.flight.eraseIdx k ∧ (t.strand c n).get r = v ∧ (t.strand c n).isEmpty r = false ∧
      (∀ q, q ≠ r → (t.strand c n).get q = (s.strand c n).get q ∧ (t.strand c n).isEmpty q = (s.strand c n).isEmpty q) ∧
      (∀ rs, (s.slot c n).state = .park rs → (t.slot c n).state =
        if (rs.any fun q => q != r && (s.strand c n).isEmpty q) = true then .park rs else .interval (wakeAt s c n)) ∧
      ((∀ rs, (s.slot c n).state ≠ .park rs) → (t.slot c n).state = (s.slot c n).state)) ∧
    ((s.strand c n).isEmpty r = false → exec (.registerFill k) s =
      .next { s with flight := s.flight.eraseIdx k, latecnt := s.latecnt + 1, discards := s.discards + 1 }))

/-- R160, R251-R254: MIG to the own core has no effect; to another, and a plain load of a page homed at another core, the
strand waits to depart; with a place reserved, its registers full and its accesses performed, its slot becomes EMPTY and its
context travels; it takes the place at the home core, at the tail of its tier.
R140, R230, R252: the packet of a context carries its PC, count, identity, CSRs, predicates, monitors and
registers, which the arrival finds again; with CTXW 8 the registers g8 to g15 arrive clipped; the latch is set.
The cycle of its last issue (R21), the block to which it is bound (R280) and the module of its launch (R33) go with it (log 12,
log 13). -/
def Obligations.MigrationMovesTheContext : Prop :=
  ((∀ (a p : BitVec 4) (s : State), Runs (.mig a p) s → Readable [a] [] s → s.cur.2 < 8 → (s.core s.cur.1).det = false →
    destStop s false (s.me.get a) = none →
    (destModule s (s.me.get a) = s.modId → destCore (s.me.get a) = s.cur.1 → exec (.mig a p) s = .next (ran id s)) ∧
    ((destModule s (s.me.get a) ≠ s.modId ∨ destCore (s.me.get a) ≠ s.cur.1) → departStop s s.cur.1 s.me (s.me.get a) = none →
      ∃ t, exec (.mig a p) s = .next t ∧
        Waits id (.migrate (destCore (s.me.get a)) (destModule s (s.me.get a)) true false false) s t) ∧
    (s.me.viu = true → (destModule s (s.me.get a) ≠ s.modId ∨ destCore (s.me.get a) ≠ s.cur.1) →
      (s.core s.cur.1).tvec ≠ 0 → ∃ t x, exec (.mig a p) s = .next t ∧ Traps s.me.pc ⟨.migrateVector, s.me.get a, x⟩ s t)) ∧
  (∀ (d a : BitVec 4) (o : BitVec 12) (p : BitVec 4) (s : State) (q : Place) (core : Nat), Runs (.ldd d a o p) s →
    Readable [a] [d] s → checkAccess s s.cur.1 s.me.rights .load (s.me.get a + o.signExtend 64 * 8) 8 = .ok q →
    q.mig = some core → core ≠ s.cur.1 → (s.core s.cur.1).det = false → s.cur.2 < 8 →
    departStop s s.cur.1 s.me (s.me.get a + o.signExtend 64 * 8) = none →
    ∃ t, exec (.ldd d a o p) s = .next t ∧ Waits id (.migrate core s.modId false false false) s t) ∧
  (∀ (c n core : Nat) (past : Bool) (s : State) (tier : Tier), n < 9 →
    s.waiting c n = some (.migrate core s.modId past false false) → core < 12288 → freeTier s core = some tier →
    ∃ t, exec (.arrivalReservationRequest (.slot c n)) s = .next t ∧
      t.waiting c n = some (.migrate core s.modId past true true) ∧
      (t.core core).places = (s.core core).places ++ [((s.strand c n).uid, tier)]) ∧
  (∀ (c n core : Nat) (past asked : Bool) (s : State), n < 9 → s.waiting c n = some (.migrate core s.modId past asked true) →
    fullWithin (s.strand c n) = true → quiet s c (s.strand c n).uid = true → (s.strand c n).redir = none →
    (s.strand c n).redirX = none → (s.strand c n).fault = [] →
    ∃ t, exec (.migrationDeparture c n) s = .next t ∧ (t.slot c n).state = .empty ∧ t.mem = s.mem ∧
      t.flight = s.flight ++ [.migrate core s.modId (s.strand c n).uid
        ⟨(s.slot c n).lastIssue, (s.strand c n).bound, (s.strand c n).bnext, none, (s.strand c n).home, (s.strand c n).far⟩
        (packetOf (if past = true then (s.strand c n).pc + 4 else (s.strand c n).pc) (s.strand c n))]) ∧
  ∀ (n core uid : Nat) (y : Carried) (bs : List Byte) (s : State) (tier : Tier),
    s.msg n = some (.migrate core s.modId uid y bs) → tabFind (s.core core).places uid = some tier →
    ∃ t pre e, exec (.migrationArrival n) s = .next t ∧ t.flight = s.flight.eraseIdx n ∧
      (t.core core).arr = pre ++ [e] ∧ e.strand = unpack uid y bs s ∧ e.tier = tier ∧
      (tier ≠ .cluster → pre = (s.core core).arr) ∧
      pre.map (fun a => { a.strand with latch := true }) =
        (s.core core).arr.map (fun a => { a.strand with latch := true }) ∧
      (t.core core).places = (s.core core).places.filter fun e => e.1 != uid) ∧
  (∀ (x : Strand) (pc : Word) (uid : Nat) (k : Carried) (s : State), k.gone = none → x.launch < 2 ^ 42 → x.idx < 8 → x.q < 32 → x.p.getLsbD 0 = true →
    (x.ctxw = 8 ∨ x.ctxw = 16) → x.idle = false → x.mon.length ≤ 4 → (∀ l ∈ x.mon, l ≠ 0 ∧ l < 2 ^ 58) →
    (∀ r : Nat, r < 8 → x.clip.getLsbD r = false) →
    (packetOf pc x).length = (if x.ctxw = 8 then 160 else 224) ∧
    let y := unpack uid k (packetOf pc x) s
    y.uid = uid ∧ y.issued = k.issued ∧ y.bound = k.bound ∧ y.bnext = k.bnext ∧ y.home = k.home ∧ y.far = k.far ∧ y.pc = pc ∧ y.icnt = x.icnt ∧ y.launch = x.launch ∧ y.idx = x.idx ∧ y.q = x.q ∧ y.fpc = x.fpc ∧
    y.fps = x.fps ∧ y.ridx = x.ridx ∧ y.spl = x.spl ∧ y.mode = x.mode ∧ y.ctxw = x.ctxw ∧ y.stdom = x.stdom ∧ y.p = x.p ∧
    y.xpc = x.xpc ∧ y.xcause = x.xcause ∧ y.xval = x.xval ∧ y.xaux = x.xaux ∧ y.mon = x.mon ∧ y.gmass = x.gmass ∧
    y.latch = true ∧ (∀ r : BitVec 4, r.toNat < 8 ∨ x.ctxw = 16 → y.get r = x.get r) ∧
    (x.ctxw = 16 → y.clip = x.clip) ∧ (x.ctxw = 8 → ∀ r : BitVec 4, y.isClipped r = decide (8 ≤ r.toNat)))

/-- R104, R107-R110, R113, R115, R119: the value of every active lane of the lanewise instructions; an inactive lane is as
before; the flags of the active lanes are merged into FPS, and an enabled exception traps with vd unchanged. -/
def Obligations.LanewiseInstructionsGiveEachActiveLane : Prop :=
  ∀ (d a b : BitVec 3) (k : BitVec 2) (t : BitVec 3) (p : BitVec 4),
    let w := laneWidth t
    let on (x : Strand) (j : Nat) : Bool := (x.mask k).getLsbD j
    let one (fn : Nat) (x : Strand) (j : Nat) : Nat × Flags :=
      special fn x.env (fmtOf t) (fdecode x.env.fiz (fmtOf t) (lane (x.vec a) w j))
    TakesLanes (.vadd d a b k t p) d w on (laneOf t d a b (fun x y _ => x + y) fun rm x y _ => fadd rm x y) ∧
    TakesLanes (.vsub d a b k t p) d w on (laneOf t d a b (fun x y _ => x - y) fun rm x y _ => fadd rm x (fneg y)) ∧
    TakesLanes (.vmul d a b k t p) d w on (laneOf t d a b (fun x y _ => x * y) fun _ x y _ => fmul x y) ∧
    TakesLanes (.vfma d a b k t p) d w on (laneOf t d a b (fun x y z => x * y + z) fun rm x y z =>
      ((fadd rm (fmul x y).1 z).1, (fmul x y).2 ||| (fadd rm (fmul x y).1 z).2)) ∧
    TakesLanes (.vmin d a b k t p) d w on (lesserOf false t a b) ∧
    TakesLanes (.vmax d a b k t p) d w on (lesserOf true t a b) ∧
    TakesLanes (.vabs d a k t p) d w on (wordsOf t a a fun w x _ =>
      if typeInt t = true then (if x < 2 ^ (w - 1) then x else 2 ^ w - x) else x % 2 ^ (w - 1)) ∧
    TakesLanes (.vneg d a k t p) d w on (wordsOf t a a fun w x _ =>
      if typeInt t = true then 2 ^ w - x else (x + 2 ^ (w - 1)) % 2 ^ w) ∧
    TakesLanes (.vand d a b k t p) d w on (wordsOf t a b fun _ x y => x &&& y) ∧
    TakesLanes (.vor d a b k t p) d w on (wordsOf t a b fun _ x y => x ||| y) ∧
    TakesLanes (.vxor d a b k t p) d w on (wordsOf t a b fun _ x y => x ^^^ y) ∧
    TakesLanes (.vshl d a b k t p) d w on (wordsOf t a b fun w x y => x * 2 ^ (y % w)) ∧
    TakesLanes (.vshr d a b k t p) d w on (wordsOf t a b fun w x y =>
      if y / w % 2 = 1 then ((BitVec.ofNat w x).sshiftRight (y % w)).toNat else x / 2 ^ (y % w)) ∧
    TakesLanes (.vperm d a b k t p) d w on
      (fun x j => (lane (x.vec a) w (lane (x.vec b) w j % (512 / w)), 0)) ∧
    TakesLanes (.vsel d a b k t p) d w (fun _ _ => true)
      (fun x j => (lane (x.vec (if on x j then a else b)) w j, 0)) ∧
    TakesLanes (.vrcp d a k t p) d w on (one 0) ∧ TakesLanes (.vrsq d a k t p) d w on (one 1) ∧
    TakesLanes (.vexp2 d a k t p) d w on (one 2) ∧ TakesLanes (.vlog2 d a k t p) d w on (one 3) ∧
    TakesLanes (.vdot d a b k t p) d 32 on (fun x j => dotLane t x.env (x.vec a) (x.vec b) j (lane (x.vec d) 32 j))

/-- R111, R112, R114, R116-R118: broadcast, extract and insert, the compares, conversion between types, and the reductions
and scans; the latter are stated for no enabled exception. -/
def Obligations.VectorsMoveCompareConvertAndReduce : Prop :=
  (∀ (g i : BitVec 4) (v t : BitVec 3) (p : BitVec 4) (s : State),
    let w := laneWidth t
    let at_ := (s.me.get i).toNat % (512 / w)
    (Runs (.vbcast g v t p) s → Readable [g] [] s → ∃ new : VReg,
      exec (.vbcast g v t p) s = .next (ran (fun x => { x with viu := true }.putVec v new) s) ∧
      ∀ j < 512 / w, lane new w j = (s.me.get g).toNat % 2 ^ w) ∧
    (Runs (.vext g i v t p) s → Readable [i] [g] s → exec (.vext g i v t p) s =
      .next (ran (fun x => { x with viu := true }.put g
        (if typeInt t = true then (BitVec.ofNat w (lane (x.vec v) w at_)).signExtend 64
         else BitVec.ofNat 64 (lane (x.vec v) w at_))) s)) ∧
    (Runs (.vins g i v t p) s → Readable [g, i] [] s → ∃ new : VReg,
      exec (.vins g i v t p) s = .next (ran (fun x => { x with viu := true }.putVec v new) s) ∧
      ∀ j < 512 / w, lane new w j = if j = at_ then (s.me.get g).toNat % 2 ^ w else lane (s.me.vec v) w j)) ∧
  (∀ (m : BitVec 2) (a b : BitVec 3) (k : BitVec 2) (t c : BitVec 3) (p : BitVec 4) (s : State),
    c.toNat < 6 → Runs (.vcmp m a b k t c p) s →
    let w := laneWidth t
    let word (r : BitVec 3) (j : Nat) : Nat := lane (s.me.vec r) w j
    let real (r : BitVec 3) (j : Nat) : FVal := fdecode s.me.env.fiz (fmtOf t) (word r j)
    ∃ new : Word, exec (.vcmp m a b k t c p) s = .next (ran (fun x => { x with viu := true }.putMask m new) s) ∧
      ∀ j < 64, new.getLsbD j = (decide (j < 512 / w) && (s.me.mask k).getLsbD j &&
        if typeInt t = true then
          holds c ((BitVec.ofNat w (word a j)).signExtend 64) ((BitVec.ofNat w (word b j)).signExtend 64)
        else if c = 0 then feq (real a j) (real b j) else if c = 1 then !feq (real a j) (real b j)
        else if c = 2 then flt (real a j) (real b j) else flt (real a j) (real b j) || feq (real a j) (real b j))) ∧
  (∀ (d a : BitVec 3) (r : BitVec 2) (ts td : BitVec 3) (p : BitVec 4) (s : State), Runs (.vcvt d a r ts td p) s →
    (∀ k < 3, s.me.fpc.getLsbD (8 + k) = false) →
    let ws := laneWidth ts
    let wd := laneWidth td
    let m := 512 / max ws wd
    ∃ (new : VReg) (fl : Flags),
      exec (.vcvt d a r ts td p) s = .next (ran (fun x => { x with viu := true, fps := x.fps ||| fl }.putVec d new) s) ∧
      ∀ j < 512 / wd,
        let i := if wd < ws then j - r.toNat * m else j
        let from_ := lane (s.me.vec a) ws (if ws < wd then r.toNat * m + i else i)
        let v := fdecode s.me.env.fiz (fmtOf ts) from_
        let x := (BitVec.ofNat ws from_).toInt
        lane new wd j =
          if wd < ws ∧ ¬(r.toNat * m ≤ j ∧ j < r.toNat * m + m) then lane (s.me.vec d) wd j
          else if typeInt ts = false then
            (if typeInt td = false then (rndTo s.me.env (fmtOf td) v).1 else (rndInt s.me.env.rm wd v).1) % 2 ^ wd
          else if typeInt td = false then (rndTo s.me.env (fmtOf td) (.fin (decide (x < 0)) x.natAbs 0)).1 % 2 ^ wd
          else (BitVec.ofInt wd (max (-(2 ^ (wd - 1) : Nat)) (min ((2 ^ (wd - 1) : Nat) - 1) x))).toNat) ∧
  (∀ (g : BitVec 4) (k : BitVec 2) (v t : BitVec 3) (p : BitVec 4) (s : State),
    (∀ q < 3, s.me.fpc.getLsbD (8 + q) = false) → Readable [] [g] s →
    let w := laneWidth t
    (∀ i ∈ [(0, Instr.vredSum g k v t p), (1, .vredMin g k v t p), (2, .vredMax g k v t p)], Runs i.2 s → ∃ fl : Flags,
      exec i.2 s = .next (ran (fun x => { x with viu := true, fps := x.fps ||| fl }.put g
        (redValue i.1 t x.env (x.mask k) (x.vec v)).1) s)) ∧
    (typeInt t = true → (redValue 0 t s.me.env (s.me.mask k) (s.me.vec v)).1 = BitVec.ofInt 64
      (((List.range (512 / w)).filter fun j => (s.me.mask k).getLsbD j).map fun j =>
        (BitVec.ofNat w (lane (s.me.vec v) w j)).toInt).sum)) ∧
  ∀ (d a : BitVec 3) (k : BitVec 2) (t : BitVec 3) (p : BitVec 4) (s : State), Runs (.vscan d a k t p) s →
    (∀ q < 3, s.me.fpc.getLsbD (8 + q) = false) →
    let w := laneWidth t
    let on (j : Nat) : Bool := (s.me.mask k).getLsbD j
    ∃ (new : VReg) (fl : Flags),
      exec (.vscan d a k t p) s = .next (ran (fun x => { x with viu := true, fps := x.fps ||| fl }.putVec d new) s) ∧
      (∀ j < 512 / w, on j = false → lane new w j = lane (s.me.vec d) w j) ∧
      (typeInt t = true → ∀ j < 512 / w, on j = true → lane new w j =
        (((List.range (j + 1)).filter on).map fun i => lane (s.me.vec a) w i).sum % 2 ^ w) ∧
      (typeInt t = false → ∀ j < 512 / w, on j = true →
        let v := fdecode s.me.env.fiz (fmtOf t) (lane (s.me.vec a) w j)
        ((∀ i < j, on i = false) → lane new w j = (rndTo s.me.env (fmtOf t) v).1 % 2 ^ w) ∧
        ∀ i < j, on i = true → (∀ q, i < q → q < j → on q = false) →
          lane new w j = (rndTo s.me.env (fmtOf t)
            (fadd s.me.env.rm (fdecode false (fmtOf t) (lane new w i)) v).1).1 % 2 ^ w)

/-- R121-R125, R247: MCFG takes a free half, with its tiles zero, or gives up the strand's lease, with its tiles zeroed; the
cases that trap with ENGINE_LEASE and ILL_OPERAND.
R124, R125, R136-R138: MZERO clears a tile; MRD and MWR move half a row; MSAVE stores the 512 doublewords of a tile, and
MLOAD loads them; without a lease they trap. -/
def Obligations.LeasesAndTilesFollowTheirHalf : Prop :=
  (∀ (r p : BitVec 4) (s : State), Runs (.mcfg r p) s → Readable [r] [] s →
    tabRising (s.cluster (s.cur.1 / 16)).tiles = true → tabRising (s.cluster (s.cur.1 / 16)).leases = true →
    let x := s.me.get r
    let k := s.cur.1 / 16
    let key := 2 * (x.toNat % 4) + x.toNat / 4 % 2
    let low := 8 * (x.toNat % 4) + 4 * (x.toNat / 4 % 2)
    let held := BitVec.ofNat 64 (heldHalves s k)
    (s.cur.2 < 8 → x.toNat < 8 → s.me.lease = none → tabFind (s.cluster k).leases key = none →
      ∃ t, exec (.mcfg r p) s = .next t ∧ CoreFrame id s t ∧ t.mem = s.mem ∧
        t.me = { s.me with
          entry := false, pc := s.me.pc + 4, icnt := s.me.icnt + 1, dirty := 0
          lease := some (x.toNat % 4, x.toNat / 4 % 2) } ∧
        (∀ a : BitVec 2, tileOf t s.cur.1 s.cur.2 a = 0) ∧
        (∀ j, tabFind (t.cluster k).leases j = if j = key then some s.cur else tabFind (s.cluster k).leases j) ∧
        ∀ j, j < low ∨ low + 4 ≤ j → tabFind (t.cluster k).tiles j = tabFind (s.cluster k).tiles j) ∧
    (∀ e h, s.cur.2 < 8 → x = 8 → s.me.lease = some (e, h) →
      ∃ t, exec (.mcfg r p) s = .next t ∧ CoreFrame id s t ∧ t.mem = s.mem ∧
        t.me = { s.me with entry := false, pc := s.me.pc + 4, icnt := s.me.icnt + 1, dirty := 0, lease := none } ∧
        (∀ j, tabFind (t.cluster k).leases j = if j = 2 * e + h then none else tabFind (s.cluster k).leases j) ∧
        ∀ j, tabFind (t.cluster k).tiles j =
          if 8 * e + 4 * h ≤ j ∧ j < 8 * e + 4 * h + 4 then none else tabFind (s.cluster k).tiles j) ∧
    (s.cur.2 < 8 → (s.core s.cur.1).tvec ≠ 0 →
      x.toNat < 8 ∧ (s.me.lease.isSome = true ∨ (tabFind (s.cluster k).leases key).isSome = true) ∨
        x = 8 ∧ s.me.lease = none →
      ∃ t, exec (.mcfg r p) s = .next t ∧ Traps s.me.pc ⟨.engineLease, held, x⟩ s t) ∧
    (s.cur.2 < 8 → (s.core s.cur.1).tvec ≠ 0 → 8 < x.toNat →
      ∃ t, exec (.mcfg r p) s = .next t ∧ Traps s.me.pc ⟨.illOperand, x, 0⟩ s t) ∧
    (s.cur.2 = 8 → (s.core s.cur.1).tvec ≠ 0 →
      ∃ t, exec (.mcfg r p) s = .next t ∧ Traps s.me.pc ⟨.illOperand, (encode (.mcfg r p)).setWidth 64, 0⟩ s t)) ∧
  (∀ (a : BitVec 2) (v : BitVec 3) (r p : BitVec 4) (s : State),
    let c := s.cur.1
    let n := s.cur.2
    let g := s.me.get r
    let tile := tileOf s c n a
    let low := 32 * (g.toNat % 32) + 16 * (g.toNat / 32 % 2)
    let va (j : Nat) : Word := g + BitVec.ofNat 64 (8 * j)
    let same (t : State) : Prop := ∀ j, j ≠ tileKey s.me a →
      tabFind (t.cluster (c / 16)).tiles j = tabFind (s.cluster (c / 16)).tiles j
    (Runs (.mzero a p) s → s.me.lease.isSome = true → tabRising (s.cluster (c / 16)).tiles = true →
      ∃ t, exec (.mzero a p) s = .next t ∧ CoreFrame id s t ∧ t.mem = s.mem ∧ tileOf t c n a = 0 ∧ same t ∧
        t.me = { s.me with entry := false, pc := s.me.pc + 4, icnt := s.me.icnt + 1, dirty := t.me.dirty } ∧
        ∀ j : BitVec 2, t.me.dirty.getLsbD j.toNat = (decide (j ≠ a) && s.me.dirty.getLsbD j.toNat)) ∧
    (Runs (.mrd a v r p) s → Readable [r] [] s → s.me.lease.isSome = true →
      ∃ new : VReg, exec (.mrd a v r p) s = .next (ran (fun x => { x with viu := true }.putVec v new) s) ∧
        ∀ j < 16, lane new 32 j = lane tile 32 (low + j)) ∧
    (Runs (.mwr a v r p) s → Readable [r] [] s → s.me.lease.isSome = true →
      ∃ t, exec (.mwr a v r p) s = .next t ∧ CoreFrame id s t ∧ t.mem = s.mem ∧ same t ∧
        t.me = { s.me with
          entry := false, pc := s.me.pc + 4, icnt := s.me.icnt + 1, viu := true, dirty := t.me.dirty } ∧
        t.me.dirty.getLsbD a.toNat = true ∧
        ∀ e < 1024, lane (tileOf t c n a) 32 e =
          if low ≤ e ∧ e < low + 16 then lane (s.me.vec v) 32 (e - low) else lane tile 32 e) ∧
    (∀ q : Nat → Place, Runs (.msave a r p) s → Readable [r] [] s → s.me.lease.isSome = true → g.toNat % 64 = 0 →
      (∀ j < 512, checkAccess s c s.me.rights (.store (some (lane tile 64 j))) (va j) 8 = .ok (q j)) →
      FirstForRoom s → (s.core c).sb.length ≤ 32 →
      let es := (List.range 512).map fun j => entryFor s .plain (va j) (q j).loc 8 (BitVec.ofNat 64 (lane tile 64 j))
      ∃ t, exec (.msave a r p) s = .next t ∧ (∀ b, memByte t.mem b = memByte s.mem b) ∧
        (t.core c).sb = (s.core c).sb ++ es.take (32 - (s.core c).sb.length) ∧
        t.waiting c n = some (.storeRoom (es.drop (32 - (s.core c).sb.length)) (.msave es) none
          (decide ((s.core c).sb.length < 32)))) ∧
    (∀ b es, n < 9 → s.waiting c n = some (.storeRoom [] (.msave es) none b) → quiet s c s.me.uid = true → s.fatal = false →
      s.closing = false → (∀ y ∈ s.me.fault, y.1 ≠ s.me.pc) → checked s c n = false →
      ∃ t, step { s with agenda := [.resume c n] } = .next t ∧ Woken c n id { s with agenda := [] } t) ∧
    (∀ (q : Nat → Place) (pa : Nat → Nat), Runs (.mload a r p) s → Readable [r] [] s → s.me.lease.isSome = true →
      g.toNat % 64 = 0 → (∀ j < 512, MayLoad s (va j) 8 (q j) (pa j)) →
      ((∀ j < 512, AtOnce s (pa j) 8) → ∃ t, exec (.mload a r p) s = .next t ∧
        CoreFrame (sawStores s.me.uid ((List.range 512).map fun j => (pa j, 8))) s t ∧ t.mem = s.mem ∧ same t ∧
        t.me = { after id s.me with dirty := t.me.dirty } ∧ t.me.dirty.getLsbD a.toNat = true ∧
        ∀ j < 512, lane (tileOf t c n a) 64 j = bytesHeld s c (pa j) 8) ∧
      ((∀ j < 512, ¬AtOnce s (pa j) 8) → ∃ t, exec (.mload a r p) s = .next t ∧
        Waits id (.load ((List.range 512).map fun j => ⟨j, va j, .here (pa j), 8, (q j).ord, none, 0, 0⟩) (.tile a) none) s t)) ∧
    (s.me.lease = none → (s.core c).tvec ≠ 0 →
      (Runs (.mzero a p) s → ∃ t, exec (.mzero a p) s = .next t ∧
        Traps s.me.pc ⟨.engineLease, BitVec.ofNat 64 (heldHalves s (c / 16)), 0⟩ s t) ∧
      ∀ i ∈ [Instr.msave a r p, .mload a r p], Runs i s → Readable [r] [] s → ∃ t, exec i s = .next t ∧
        Traps s.me.pc ⟨.engineLease, BitVec.ofNat 64 (heldHalves s (c / 16)), 0⟩ s t))

/-- R128-R133, R268, R271: an MMA with a lease and two configured rings of sufficient slots waits at its engine, one of half 0
before those of half 1 of the same cycle; at the head
of its engine, with both head slots full, it starts and reads them; 32 cycles later its tile takes the result and the rings
that it pops advance. An integer MMA adds exact products modulo 2^32. -/
def Obligations.MatrixMultipliesTakeTheirRings : Prop :=
  (∀ (acc : BitVec 2) (a b : BitVec 3) (g ctl p : BitVec 4),
    ∀ i ∈ [(0, Instr.mmaBb acc a b g ctl p), (1, .mmaHh acc a b g ctl p), (2, .mmaQq acc a b g ctl p),
      (3, .mmaWw acc a b g ctl p), (4, .mmaQw acc a b g ctl p), (5, .mmaNn acc a b g ctl p), (6, .mmaLl acc a b g ctl p),
      (7, .mmaIi acc a b ctl p)],
    ∀ (s : State) (e h : Nat), Runs i.2 s → (i.1 ≠ 7 → Readable [g] [] s) → s.cur.2 < 8 → s.me.lease = some (e, h) →
      let k := s.cur.1 / 16
      (a ≠ b → e < 4 → (∀ q ∈ [a, b], ringOn s k q.toNat = true ∧ pairBytes i.1 ≤ ringSlotBytes (ringCfg s k q.toNat)) →
        ctl.getLsbD 1 = false → ∃ t, exec i.2 s = .next t ∧ CoreFrame id s t ∧ t.mem = s.mem ∧
          t.me = { s.me with entry := false, icnt := s.me.icnt + 1 } ∧
          t.waiting s.cur.1 s.cur.2 = some (.mma ⟨i.1, acc, a, b, ctl,
            if g = 0 ∨ i.1 = 7 then 0x7F7F else s.me.get g, s.me.env, s.cyc, none, [], [], false, false⟩) ∧
          ∀ pre post, (s.cluster k).engines[e]? = some (pre ++ post) →
            (h = 0 → (∀ y ∈ pre, ∀ op, s.waiting y.1 y.2 = some (.mma op) → op.issued ≠ s.cyc ∨ op.started.isSome = true) ∧
              ∀ y ∈ post, ∃ op, s.waiting y.1 y.2 = some (.mma op) ∧ op.issued = s.cyc ∧ op.started = none) →
            (h ≠ 0 → post = []) → (t.cluster k).engines[e]? = some (pre ++ s.cur :: post)) ∧
      (a = b → (s.core s.cur.1).tvec ≠ 0 →
        ∃ t, exec i.2 s = .next t ∧ Traps s.me.pc ⟨.ringMisuse, a.setWidth 64, 1⟩ s t)) ∧
  (∀ (k e c n : Nat) (rest : List (Nat × Nat)) (s : State) (op : MmaOp), n < 9 →
    (s.cluster k).engines[e]? = some ((c, n) :: rest) → s.waiting c n = some (.mma op) →
    (op.started = none → op.judged = true → op.ctl.getLsbD 1 = false → s.powerHold = false →
      drained s c (s.strand c n).uid = true →
      (∀ r ∈ [op.qa, op.qb], ringLive s k r.toNat = true ∧ headReady s k r.toNat = true ∧
        poisoned s (headAddr s k r.toNat) (pairBytes op.pair) = false) →
      exec (.mmaStart k e) s = .next (s.setState c n (.wait (.mma { op with
        started := some s.cyc, ta := memBytes s.mem (headAddr s k op.qa.toNat) (pairBytes op.pair)
        tb := memBytes s.mem (headAddr s k op.qb.toNat) (pairBytes op.pair) })))) ∧
    (op.ctl.getLsbD 1 = true → ringCons (ringCfg s k op.qb.toNat) ≠ 1 →
      (sharedGroup s k op.qb).length ≠ ringCons (ringCfg s k op.qb.toNat) → exec (.mmaStart k e) s = .next s) ∧
    (∀ t0, op.started = some t0 → t0 + 32 ≤ s.cyc → op.ctl.getLsbD 1 = false → k = c / 16 → s.mem.wf = true → s.held = [] →
      op.env.nve = false → op.env.dze = false → op.env.ofe = false →
      (∀ r ∈ [op.qa, op.qb], ∀ t1, (ringRt s k r.toNat).since = some t1 → t1 < t0) →
      let old := tileOf s c n op.acc
      let advanced (r : BitVec 3) : Word :=
        let w := ringState s k r.toNat
        BitVec.ofNat 64 ((ringHead w + 1) % max 1 (ringSlots (ringCfg s k r.toNat)) + ringTail w * 2 ^ 8 +
          (ringFull w - 1) * 2 ^ 16 + ringRes w * 2 ^ 24)
      ∃ t, exec (.mmaRetire k e) s = .next t ∧ t.waiting c n = none ∧
        (t.strand c n).g = (s.strand c n).g ∧ (t.strand c n).pc = (s.strand c n).redir.getD ((s.strand c n).pc + 4) ∧
        (t.strand c n).dirty.getLsbD op.acc.toNat = true ∧
        (∀ j < 1024, lane (tileOf t c n op.acc) 32 j = (((mmaResult op old).1[j]?).getD (0, 0)).1 % 2 ^ 32) ∧
        (op.pair = 7 → ∀ i < 32, ∀ j < 32, lane (tileOf t c n op.acc) 32 (32 * i + j) =
          (BitVec.ofInt 32 ((if op.ctl.getLsbD 0 = true then 0 else (lane old 32 (32 * i + j) : Int)) +
            ((List.range 64).map fun q =>
              (BitVec.ofNat 8 (leNat op.ta >>> (8 * (64 * i + q)))).toInt *
                (BitVec.ofNat 8 (leNat op.tb >>> (8 * (32 * q + j)))).toInt).sum)).toNat) ∧
        (op.ctl.getLsbD 3 = false → op.ctl.getLsbD 2 = false → t.mem = s.mem) ∧
        (op.ctl.getLsbD 3 = true → op.ctl.getLsbD 2 = false → ringState t k op.qa.toNat = advanced op.qa) ∧
        (op.ctl.getLsbD 3 = false → op.ctl.getLsbD 2 = true → ringState t k op.qb.toNat = advanced op.qb))) ∧
  ∀ (c n : Nat) (s : State) (op : MmaOp), n < 9 → s.waiting c n = some (.mma op) → op.started = none →
    let k := c / 16
    let w := ringState s k op.qa.toNat
    ringFull w = 0 → op.issued + 2 ^ ringWlim (ringCfg s k op.qa.toNat) ≤ s.cyc → (s.core c).tvec ≠ 0 →
    ∃ t, exec (.ringWaitLimit c n) s = .next t ∧ t.waiting c n = none ∧ t.mem = s.mem ∧
      (t.strand c n).pc = (s.core c).tvec.setWidth 64 <<< 2 ∧ (t.cluster k).tiles = (s.cluster k).tiles ∧
      (t.strand c n).xcause = BitVec.ofNat 64 (0x10 + if (s.strand c n).mode then 2 ^ 63 else 0) ∧
      (t.strand c n).xval = BitVec.ofNat 64 (op.qa.toNat + k * 2 ^ 4 + 3 * 2 ^ 16 + s.modId * 2 ^ 46) ∧
      (t.strand c n).xaux = BitVec.ofNat 64 (ringHead w + ringTail w * 2 ^ 8)

/-- R173, R175, R184: QAXIS sets a descriptor with position and element 0 and clears its residue register, or refuses an
ill-formed word or a slot that is no aligned line of the own local store; QRES.R and QRES.W copy a residue register.
R176, R177, R179, R182, R183: with room in the buffer QST stores the sixteen codes that its loop gives, through the buffer, and leaves the residue
and the position of its axis; QSTA does so for a tile, waiting for room; a serial axis adds the residue before it rounds and
keeps what the rounding lost. -/
def Obligations.QuantisingStoresFollowTheirAxes : Prop :=
  ((∀ (e : BitVec 2) (a b p : BitVec 4) (s : State), Runs (.qaxis e a b p) s → Readable [a, b] [] s →
    let w := s.me.get a
    let kind := w.toNat % 4
    let onEnd := w.toNat / 4 % 4
    let len := w.toNat / 2 ^ 8 % 2 ^ 16
    (w.toNat < 2 ^ 24 → w.toNat / 2 ^ 5 % 8 = 0 → kind ≠ 3 → onEnd < 2 → w.getLsbD 4 = false → exec (.qaxis e a b p) s =
      .next (ran (fun x => (x.putAxis e ⟨kind, onEnd, false, len, 0, 0, 0⟩).putRes e 0) s)) ∧
    (∀ o, w.toNat < 2 ^ 24 → w.toNat / 2 ^ 5 % 8 = 0 → kind ≠ 3 → onEnd < 3 → onEnd = 2 ∨ w.getLsbD 4 = true →
      0x800 ≤ o → o < 0x8000 → o % 64 = 0 → s.me.get b = BitVec.ofNat 64 (0xFFFFFFFFFFFF8000 + o) →
      exec (.qaxis e a b p) s = .next (ran (fun x =>
        (x.putAxis e ⟨kind, onEnd, w.getLsbD 4, len, BitVec.ofNat 64 o, 0, 0⟩).putRes e 0) s)) ∧
    (2 ^ 24 ≤ w.toNat ∨ w.toNat / 2 ^ 5 % 8 ≠ 0 ∨ kind = 3 ∨ onEnd = 3 → (s.core s.cur.1).tvec ≠ 0 →
      ∃ t, exec (.qaxis e a b p) s = .next t ∧ Traps s.me.pc ⟨.illOperand, w, 0⟩ s t) ∧
    (w.toNat < 2 ^ 24 → w.toNat / 2 ^ 5 % 8 = 0 → kind ≠ 3 → onEnd < 3 → onEnd = 2 ∨ w.getLsbD 4 = true →
      (s.me.get b).toNat % 64 ≠ 0 → (s.core s.cur.1).tvec ≠ 0 →
      ∃ t, exec (.qaxis e a b p) s = .next t ∧ Traps s.me.pc ⟨.illOperand, s.me.get b, 0⟩ s t)) ∧
  ∀ (e : BitVec 2) (v : BitVec 3) (p : BitVec 4) (s : State),
    (Runs (.qresR e v p) s →
      exec (.qresR e v p) s = .next (ran (fun x => { x with viu := true }.putVec v (x.res e)) s)) ∧
    (Runs (.qresW e v p) s →
      exec (.qresW e v p) s = .next (ran (fun x => { x with viu := true }.putRes e (x.vec v)) s))) ∧
  ((∀ (e : BitVec 2) (v : BitVec 3) (a b : BitVec 4) (q : BitVec 3) (p : BitVec 4) (s : State) (pl : Nat → Place) (pa : Nat),
    Runs (.qst e v a b q p) s → Readable [a, b] [] s → q ≠ 2 →
    let m := targetBytes q
    let ax := s.me.axisOf e
    let va := s.me.get a
    FirstForRoom s → ax.elem = 0 → ax.onEnd ≠ 2 → va.toNat % m = 0 → (∀ k < 3, s.me.fpc.getLsbD (8 + k) = false) →
    (∀ j < 16, isOwn s (va + BitVec.ofNat 64 (m * j)) = true ∧
      checkAccess s s.cur.1 s.me.rights (.store none) (va + BitVec.ofNat 64 (m * j)) m = .ok (pl j) ∧
      (pl j).loc = .here (pa + m * j)) →
    (s.core s.cur.1).sb.length ≤ 16 →
    let slot := BitVec.ofNat 512 (bytesHeld s s.cur.1 (lsAddr s.cur.1 ax.slot.toNat) 64)
    let op : QOp := ⟨e, q, (List.range 16).map (lane (s.me.vec v) 32), va, none, s.me.env⟩
    let els := quantElems (slotWrites s s.cur.1 op ax.slot) ax q 16
      ((List.range 16).map fun k => (k, fdecode s.me.env.fiz .f32 (lane (s.me.vec v) 32 k)))
      ⟨s.me.res e, ax.pos, slot, none, 0⟩
    ∃ t es z, exec (.qst e v a b q p) s = .next t ∧ els[15]? = some z ∧
      Does (fun k => es.foldl (fun k x => takesEntry s x k)
          (sawStores s.me.uid (if els.any QElem.start = true then [(lsAddr s.cur.1 ax.slot.toNat, 64)] else []) k))
        (fun x => { (x.putAxis e { ax with pos := z.after.pos, elem := 0 }).putRes e z.after.ej with
          viu := true, fps := x.fps ||| els.foldl (fun fl y => fl ||| y.flags) 0 }) s t ∧
      (∀ a, memByte t.mem a = memByte s.mem a) ∧
      (∀ (j : Nat) (y : QElem), els[j]? = some y → ∀ i < m, sbByte es (.here (pa + m * j + i)) = some (byteOf y.code i)) ∧
      ∀ x, x < pa ∨ pa + 16 * m ≤ x → sbByte es (.here x) = none) ∧
  (∀ (e c : BitVec 2) (a b : BitVec 4) (q : BitVec 3) (p : BitVec 4) (s : State) (pl : Nat → Place) (pa : Nat),
    Runs (.qsta e c a b q p) s → Readable [a, b] [] s → s.me.lease.isSome = true → q = 3 ∨ q = 4 →
    let ax := s.me.axisOf e
    let va := s.me.get a
    ax.kind ≠ 2 → ax.elem = 0 → ax.onEnd ≠ 2 → va.toNat % 8 = 0 → (∀ k < 3, s.me.fpc.getLsbD (8 + k) = false) →
    (∀ j < 1024, isOwn s (va + BitVec.ofNat 64 (2 * j)) = true ∧
      checkAccess s s.cur.1 s.me.rights (.store none) (va + BitVec.ofNat 64 (2 * j)) 2 = .ok (pl j) ∧
      (pl j).loc = .here (pa + 2 * j)) →
    FirstForRoom s → (s.core s.cur.1).sb = [] →
    let slot := BitVec.ofNat 512 (bytesHeld s s.cur.1 (lsAddr s.cur.1 ax.slot.toNat) 64)
    let op : QOp := ⟨e, q, (List.range 1024).map (lane (tileOf s s.cur.1 s.cur.2 c) 32), va, none, s.me.env⟩
    let els := quantElems (slotWrites s s.cur.1 op ax.slot) ax q 1024
      ((List.range 1024).map fun k => (k, fdecode s.me.env.fiz .f32 (lane (tileOf s s.cur.1 s.cur.2 c) 32 k)))
      ⟨s.me.res e, ax.pos, slot, none, 0⟩
    ∃ t gs, exec (.qsta e c a b q p) s = .next t ∧ t.waiting s.cur.1 s.cur.2 = some (.qst e gs none none) ∧
      gs.length = 224 ∧ (∀ a, memByte t.mem a = memByte s.mem a) ∧ (t.core s.cur.1).sb.length = 32 ∧
      (∀ y, els[127]? = some y → t.me.res e = y.after.ej ∧ (t.me.axisOf e).pos = y.after.pos) ∧
      ∀ (j : Nat) (y : QElem), j < 128 → els[j]? = some y →
        ∀ i < 2, sbByte (t.core s.cur.1).sb (.here (pa + 2 * j + i)) = some (byteOf y.code i)) ∧
  (∀ (c n : Nat) (j : BitVec 2) (g : QGroup) (s : State), n < 9 → s.waiting c n = some (.qst j [g] none none) →
    0 < g.entries.length → (s.core c).sb.length + g.entries.length ≤ 32 → checked s c n = false →
    (s.core c).spill = [] → (∀ m < 9, m ≠ n → wantsRoom s c m = false) → s.fatal = false → s.closing = false →
    ∃ t, step { s with agenda := [.resume c n] } = .next t ∧ t.waiting c n = none ∧ t.mem = s.mem ∧
      (t.core c).sb = (s.core c).sb ++ g.entries.map (fun x => { x with since := s.cyc }) ∧
      (t.strand c n).res j = g.ej ∧ ((t.strand c n).axisOf j).pos = g.pos ∧ ((t.strand c n).axisOf j).elem = 0 ∧
      (t.strand c n).fps = (s.strand c n).fps ||| g.flags) ∧
  ∀ (ax : Axis) (qt : BitVec 3) (n k : Nat) (x : FVal) (st : QSt), ax.kind = 1 → ax.load = false → st.pos < ax.lenm1 →
    qt = 0 ∨ qt = 1 ∨ qt = 3 ∨ qt = 4 →
    let y := quantElem ax qt n k x st
    let t := (fadd 0 x (fdecode false .f32 (lane st.ej 32 0))).1
    let v := fdecode false (targetFmt qt) y.code
    y.code = (rndTo rneEnv (targetFmt qt) t).1 ∧ y.flags = (rndTo rneEnv (targetFmt qt) t).2 ∧
    y.after.pos = st.pos + 1 ∧ (∀ i, 1 ≤ i → i < 16 → lane y.after.ej 32 i = lane st.ej 32 i) ∧
    lane y.after.ej 32 0 =
      if fisNan t = true ∨ feq t v = true then 0
      else
        let r := (rndTo rneEnv .f32 (fadd 0 t (fneg v)).1).1
        if 0x7F800000 ≤ r % 2 ^ 31 then r / 2 ^ 31 * 2 ^ 31 + 0x7F7FFFFF else r)

/-- R189-R191, R193-R200: the averaging instructions on a line or a region that passes its checks. GCFG creates, changes
and deletes regions; GSEED and GADD queue their deposits, which AVG_ENTRY_APPLY applies to the line and to the applied
totals; GLD reads estimates, GSPRD tests the metrics, GFENCE waits for the queue, and GMASS reads a total. The model's choices:
the XVAL of GCFG's third condition (DEDUCED, log 22), that FIZ does not flush the threshold of GSPRD (DESIGN CHOICE, log 22), and
that GCFG, GSPRD and GMASS, and a GLD that no earlier access to its line holds up, complete at their issue, where the rules let
them wait (DEDUCED, log 8). A new region's lines are zero, as long as the pages hold no table of their own translation. -/
def Obligations.AveragingInstructionsWorkOnTheirLine : Prop :=
  (∀ (d a b p : BitVec 4) (s : State), Runs (.gcfg d a b p) s → Readable [a, b] [d] s →
    let c := s.me.get b
    let la := localPart (s.me.get a)
    cfgBad c = false → la % 2 ^ 18 = 0 → isOwn s (s.me.get a) = true → rangeOf la = some .hbm →
    (∀ e r, regionOf s la = some (e, r) → c.getLsbD 47 = false → cfgSigma c = cfgSigma r.cfg → cfgLen c = cfgLen r.cfg →
      ∃ r', exec (.gcfg d a b p) s =
          .next { ran (fun x => x.put d r.cfg) s with regions := tabSet s.regions e r' } ∧
        r'.cfg = c ∧ r'.base = r.base ∧ r'.applied = r.applied ∧ r'.escrow = r.escrow ∧ r'.forfeit = r.forfeit ∧
        r'.metric = r.metric.filter (fun x => decide (x.1 < 4096 * cfgLen c)) ∧ r'.ovf = r.ovf) ∧
    (∀ e r, regionOf s la = some (e, r) → c.getLsbD 47 = true → r.qc = true →
      exec (.gcfg d a b p) s = .next { ran (fun x => x.put d r.cfg) s with regions := tabDel s.regions e }) ∧
    (∀ e r, regionOf s la = some (e, r) → c.getLsbD 47 = true → r.qc = false → (s.core s.cur.1).tvec ≠ 0 →
      ∃ t, exec (.gcfg d a b p) s = .next t ∧ Traps s.me.pc ⟨.illOperand, s.me.get a, 3⟩ s t) ∧
    (∀ e, regionOf s la = none → c.getLsbD 47 = false → s.regions.length < 64 →
      (∀ x ∈ s.regions, la + cfgLen c * 2 ^ 18 ≤ x.2.base ∨ x.2.base + cfgLen x.2.cfg * 2 ^ 18 ≤ la) →
      pagesBad s (s.me.get a) (cfgLen c) 0 = none → e < 64 → tabFind s.regions e = none →
      (∀ j < e, (tabFind s.regions j).isSome = true) →
      ∃ t r', exec (.gcfg d a b p) s = .next t ∧ t.me.get d = 0 ∧ t.me.pc = s.me.pc + 4 ∧ tabFind t.regions e = some r' ∧
        r'.base = la ∧ r'.cfg = c ∧ (∀ (j : Nat) (h : j < 8), r'.applied[j] = 0 ∧ r'.escrow[j] = 0 ∧ r'.forfeit[j] = 0) ∧
        r'.ovf = false ∧ r'.metric = [] ∧ r'.count = [] ∧
        ∀ pg : Nat → Nat, s.mem.wf = true →
          (∀ i < cfgLen c, ∃ level w ls, walk s (la + i * 2 ^ 18) = .leaf level w ls ∧
            pg i = bits w 42 10 * 1024 + (la + i * 2 ^ 18) % pageSize level ∧
            ∀ l ∈ ls, ∀ j < cfgLen c, 64 * l < pg j ∨ pg j + 2 ^ 18 ≤ 64 * l) →
          (∀ j < cfgLen c, ∀ m, pg j ≤ m → m < pg j + 2 ^ 18 → memByte t.mem m = 0) ∧
          ∀ m, (∀ j < cfgLen c, m < pg j ∨ pg j + 2 ^ 18 ≤ m) → memByte t.mem m = memByte s.mem m)) ∧
  (∀ (v : BitVec 3) (a b p : BitVec 4) (s : State) (e : Nat) (r : Region) (q : Place) (pa : Nat), Readable [a, b] [] s →
    let va := s.me.get a
    va.toNat % 64 = 0 → isOwn s va = true → regionAt s (localPart va) = some (e, r) → q.loc = .here pa →
    poisoned s pa 64 = false → (∀ k < 3, s.me.fpc.getLsbD (8 + k) = false) →
    checked s s.cur.1 s.cur.2 = false →
    let mask := if b = 0 then 127 else (s.me.get b).toNat % 128
    let word (j : Nat) : Int × Flags := deposit (cfgSigma r.cfg) (fdecode s.me.env.fiz .f32 (lane (s.me.vec v) 32 j))
    let flags (m : Nat) : Flags := ((List.range 7).filter m.testBit).foldl (fun f j => f ||| (word j).2) 0
    (∀ i ∈ [(true, 127, Instr.gseed v a b p), (false, mask, .gadd v a b p)], Runs i.2.2 s → i.2.1 ≠ 0 →
      checkAccess s s.cur.1 s.me.rights (.avg true) va 64 = .ok q →
      ∃ x : AvgEntry, x.uid = s.me.uid ∧ x.slot = s.cur.2 ∧ x.seed = i.1 ∧ x.line = pa ∧ x.va = va ∧ x.mask = i.2.1 ∧
        x.weight = s.me.get b ∧ (∀ (j : Nat) (h : j < 7), x.d[j] = if i.2.1.testBit j = true then (word j).1 else 0) ∧
        ((s.core s.cur.1).avgQ.length < 16 → lineHeld s s.cur.1 s.me.uid pa = false → ∃ t, exec i.2.2 s = .next t ∧
          Does (fun k => { k with avgQ := k.avgQ ++ [x] })
            (fun y => { y with viu := true, fps := y.fps ||| flags i.2.1 }) s t) ∧
        ((s.core s.cur.1).avgQ.length = 16 → ∃ t, exec i.2.2 s = .next t ∧ t.mem = s.mem ∧
          t.me.fps = s.me.fps ∧ t.waiting s.cur.1 s.cur.2 = some (.gstore x (flags i.2.1)))) ∧
    (Runs (.gadd v a b p) s → mask = 0 → checkAccess s s.cur.1 s.me.rights (.avg true) va 64 = .ok q →
      exec (.gadd v a b p) s = .next (ran (fun x => { x with viu := true }) s)) ∧
    (Runs (.gld v a b p) s → checkAccess s s.cur.1 s.me.rights (.avg false) va 64 = .ok q →
      lineHeld s s.cur.1 s.me.uid pa = false → lineQueued s s.cur.1 s.me.uid pa = false →
      ∃ t new fl, exec (.gld v a b p) s = .next t ∧
        Does id (fun x => { x with viu := true, fps := x.fps ||| fl }.putVec v new) s t ∧
        ∀ j < 16, lane new 32 j = if j < 7 ∧ mask.testBit j = true then
          (estimate (BitVec.ofNat 64 (s.read (pa + 8 * j) 8)).toInt (s.read (pa + 56) 8) (cfgSigma r.cfg)).1 % 2 ^ 32
          else lane (s.me.vec v) 32 j)) ∧
  (∀ (c e : Nat) (s : State) (x : AvgEntry) (rest : List AvgEntry) (r : Region), (s.core c).avgQ = x :: rest →
    regionAt s (localPart x.va) = some (e, r) → tabFind s.regions e = some r → poisoned s x.line 64 = false →
    s.mem.wf = true → ringWordAt x.line = none → s.held = [] →
    let old (j : Nat) : Int := if j < 7 then (BitVec.ofNat 64 (s.read (x.line + 8 * j) 8)).toInt else (s.read (x.line + 56) 8 : Nat)
    let d (j : Nat) : Int := (x.d[j]?.getD 0)
    let new (j : Nat) : Int :=
      if x.seed = true then (if j < 7 then d j else (x.weight.toNat : Int))
      else if j < 7 ∧ x.mask.testBit j = true then old j + d j else old j
    ∃ t r', exec (.avgEntryApply c) s = .next t ∧ (t.core c).avgQ = rest ∧ tabFind t.regions e = some r' ∧
      (∀ j < 8, t.read (x.line + 8 * j) 8 = (BitVec.ofInt 64 (new j)).toNat) ∧
      (∀ j, j < x.line ∨ x.line + 64 ≤ j → memByte t.mem j = memByte s.mem j) ∧
      (∀ (j : Nat) (h : j < 8), r'.applied[j] = r.applied[j] + BitVec.ofInt 128 (new j - old j)) ∧
      r'.escrow = r.escrow ∧ r'.forfeit = r.forfeit ∧
      (x.seed = false → (∃ j < 7, x.mask.testBit j = true ∧ (new j < -(2 ^ 63 : Nat) ∨ (2 ^ 63 : Nat) ≤ new j)) →
        r'.ovf = true)) ∧
  (∀ (d : BitVec 3) (a b p : BitVec 4) (s : State) (e : Nat) (r : Region), Runs (.gsprd d a b p) s → Readable [a, b] [] s →
    isOwn s (s.me.get a) = true → regionOf s (localPart (s.me.get a)) = some (e, r) → tabFind s.regions e = some r →
    let t := fdecode false .f32 ((s.me.get b).toNat % 2 ^ 32)
    let ok := decide (r.metric.length = 4096 * cfgLen r.cfg) && r.metric.all fun x =>
      flt (fdecode false .f16 x.2) t || feq (fdecode false .f16 x.2) t
    ((s.me.get b).getLsbD 32 = false → exec (.gsprd d a b p) s = .next (ran (fun x => x.putPred d ok) s)) ∧
    ((s.me.get b).getLsbD 32 = true → ∃ r', exec (.gsprd d a b p) s =
      .next { ran (fun x => x.putPred d ok) s with regions := tabSet s.regions e r' } ∧ r'.metric = [] ∧
        r'.applied = r.applied ∧ r'.escrow = r.escrow ∧ r'.forfeit = r.forfeit ∧ r'.cfg = r.cfg)) ∧
  (∀ (p : BitVec 4) (s : State), Runs (.gfence p) s →
    ((∀ x ∈ (s.core s.cur.1).avgQ, x.uid ≠ s.me.uid) → ∃ t, exec (.gfence p) s = .next t ∧ Does id id s t) ∧
    ((∃ x ∈ (s.core s.cur.1).avgQ, x.uid = s.me.uid) → ∃ t, exec (.gfence p) s = .next t ∧ Waits id .gfence s t)) ∧
  ∀ (d a b p : BitVec 4) (s : State) (e : Nat) (r : Region), Runs (.gmass d a b p) s → Readable [a, b] [d] s →
    isOwn s (s.me.get a) = true → regionOf s (localPart (s.me.get a)) = some (e, r) →
    let g := s.me.get b
    let kind := g.toNat / 8 % 4
    let total := (if kind = 0 then r.applied else if kind = 1 then r.escrow else r.forfeit)[g.toNat % 8]?.getD 0
    (kind ≠ 3 → g.getLsbD 5 = false → exec (.gmass d a b p) s = .next (ran (fun x =>
      { x.put d (total.setWidth 64) with gmass := (total >>> 64).setWidth 64 }) s)) ∧
    (kind ≠ 3 → g.getLsbD 5 = true → exec (.gmass d a b p) s = .next (ran (fun x => x.put d x.gmass) s)) ∧
    (kind = 3 → ∃ v : Word, exec (.gmass d a b p) s = .next (ran (fun x => x.put d v) s) ∧ v.getLsbD 0 = r.ovf ∧
      v.getLsbD 1 = r.qc ∧ v.getLsbD 2 = regionPoisoned s r ∧ ∀ j, 3 ≤ j → v.getLsbD j = false)

/-- R197, R199, R201-R206: an exchange halves a line into escrow and sends the halves; the receiver applies them in sequence,
repeats its answer to a duplicate, and refuses what does not match; an acknowledgement clears the escrow, a refusal returns
the halves; retries and reconciliation. The model's choices (DEDUCED): the numbering of epochs, each one above the last
(log 21), and the interval to which an exchange belongs (log 43). -/
def Obligations.LupinExchangesHalves : Prop :=
  ∀ (s : State) (e pa port : Nat) (r : Region), tabFind s.regions e = some r → s.mem.wf = true → s.held = [] →
    ringWordAt pa = none →
    let l := s.link port
    let old (j : Nat) : Int := if j < 7 then (BitVec.ofNat 64 (s.read (pa + 8 * j) 8)).toInt else (s.read (pa + 56) 8 : Nat)
    let half (k : LupPkt) (j : Nat) : Int := if j < 7 then (k.q[j]?.getD 0).toInt else ((k.q[j]?.getD 0).toNat : Int)
    let line (t : State) (new : Nat → Int) : Prop :=
      (∀ j < 8, t.read (pa + 8 * j) 8 = (BitVec.ofInt 64 (new j)).toNat) ∧
      ∀ j, j < pa ∨ pa + 64 ≤ j → memByte t.mem j = memByte s.mem j
    let escrow (t : State) (d : Nat → Int) : Prop := ∃ r', tabFind t.regions e = some r' ∧ r'.applied = r.applied ∧
      r'.forfeit = r.forfeit ∧ ∀ (j : Nat) (h : j < 8), r'.escrow[j] = r.escrow[j] + BitVec.ofInt 128 (d j)
    (∀ c, s.regions = [(e, r)] → l.up = true → l.dom = s.domain → l.recon = false → l.far ∉ s.removed →
      l.unacked.length < 64 → cfgQuiesce r.cfg = false → cfgRate r.cfg ≠ 15 →
      (∀ at_, tabFind r.last port = some at_ → at_ / (64 * 2 ^ cfgRate r.cfg) ≠ s.cyc / (64 * 2 ^ cfgRate r.cfg)) →
      tabFind r.count port = some c → 0 < regionLines r →
      physical (s.portTlb port) s (r.base + 64 * lineOfCounter r port c) = some pa → poisoned s pa 64 = false →
      2 ^ cfgMinw r.cfg ≤ s.read (pa + 56) 8 →
      ∃ t pkt, exec (.lupinExchange port) s = .next t ∧ pkt.seq = l.txSeq ∧ pkt.epoch = l.epoch ∧
        pkt.va = r.base + 64 * lineOfCounter r port c ∧
        (∀ (j : Nat) (h : j < 8), pkt.q[j] = BitVec.ofInt 64 (old j / 2)) ∧
        t.outbox = s.outbox ++ [(l.far, .lupPacket port pkt r.base r.cfg)] ∧ line t (fun j => old j - old j / 2) ∧
        escrow t (fun j => old j / 2) ∧ (t.link port).unacked = l.unacked ++ [(pkt, s.cyc)] ∧
        (t.link port).txSeq = (l.txSeq + 1) % 2 ^ 32) ∧
    (∀ (n : Nat) (k : LupPkt) (base : Nat) (cfg : Word), s.flight[n]? = some (.lupPacket port k base cfg) →
      k.epoch = l.rxEpoch → l.rxClosed = false →
      (k.seq = l.rxSeq → k.seq < 2 ^ 32 → regionOf s base = some (e, r) → cfgQuiesce r.cfg = false →
        cfgSigma r.cfg = cfgSigma cfg → cfgLen r.cfg = cfgLen cfg →
        physical (s.portTlb port) s k.va = some pa → poisoned s pa 64 = false →
        (pa < 2 ^ 40 → walkedPages s (linesOfRange pa 64) = []) →
        ∃ t, exec (.lupinPacketArrival n) s = .next t ∧ t.flight = s.flight.eraseIdx n ∧ line t (fun j => old j + half k j) ∧
          escrow t (fun _ => 0) ∧ t.outbox = s.outbox ++ [(l.far, .lupAck port k.epoch k.seq)] ∧
          (t.link port).rxSeq = (l.rxSeq + 1) % 2 ^ 32) ∧
      (k.seq = l.rxSeq → k.seq < 2 ^ 32 → regionOf s base = none →
        ∃ t, exec (.lupinPacketArrival n) s = .next t ∧ t.mem = s.mem ∧ t.regions = s.regions ∧
          t.outbox = s.outbox ++ [(l.far, .lupRefusal port k.epoch k.seq)] ∧
          (t.link port).rxSeq = (l.rxSeq + 1) % 2 ^ 32) ∧
      (∀ ok, seqBefore k.seq l.rxSeq = true → l.answers.find? (fun x => x.1 == k.seq) = some (k.seq, ok) →
        exec (.lupinPacketArrival n) s = .next { s with
          flight := s.flight.eraseIdx n
          outbox := s.outbox ++
            [(l.far, if ok = true then .lupAck port k.epoch k.seq else .lupRefusal port k.epoch k.seq)] }) ∧
      (seqBefore k.seq l.rxSeq = false → k.seq ≠ l.rxSeq →
        exec (.lupinPacketArrival n) s = .next { s with flight := s.flight.eraseIdx n })) ∧
    (∀ (n : Nat) (k : LupPkt) (since : Nat) (rest : List (LupPkt × Nat)), l.unacked = (k, since) :: rest →
      (∀ x ∈ rest, x.1.seq ≠ k.seq) → regionAt s k.va = some (e, r) →
      (s.flight[n]? = some (.lupAck port l.epoch k.seq) →
        ∃ t, exec (.lupinAck n) s = .next t ∧ t.mem = s.mem ∧ escrow t (fun j => -half k j) ∧
          (t.link port).unacked = rest) ∧
      (s.flight[n]? = some (.lupRefusal port l.epoch k.seq) → physical (s.portTlb port) s k.va = some pa →
        ∃ t, exec (.lupinRefusal n) s = .next t ∧ line t (fun j => old j + half k j) ∧ escrow t (fun j => -half k j) ∧
          (t.link port).unacked = rest) ∧
      (l.up = true → l.recon = false → rest = [] → since + 65536 ≤ s.cyc →
        ∃ t, exec (.lupinRetry port) s = .next t ∧ t.mem = s.mem ∧ (t.link port).unacked = [(k, s.cyc)] ∧
          t.outbox = s.outbox ++ [(l.far, .lupPacket port k r.base r.cfg)]) ∧
      (∀ x applied, s.flight[n]? = some (.reconReply port l.epoch x applied) → l.recon = true → rest = [] →
        (applied.contains k.seq = true ∨ physical (s.portTlb port) s k.va = some pa) →
        ∃ t, exec (.reconciliationReply n) s = .next t ∧ escrow t (fun j => -half k j) ∧
          line t (fun j => if applied.contains k.seq = true then old j else old j + half k j) ∧
          (t.link port).unacked = [] ∧ (t.link port).txSeq = 0 ∧ (t.link port).epoch = l.epoch + 1 ∧
          (t.link port).recon = false)) ∧
    (∀ (n : Nat) (k : LupPkt) (base : Nat) (cfg : Word), s.flight[n]? = some (.lupPacket port k base cfg) →
      k.epoch = l.rxEpoch → l.rxClosed = true →
      ∃ t, exec (.lupinPacketArrival n) s = .next t ∧ t.flight = s.flight.eraseIdx n ∧ t.mem = s.mem ∧
        t.regions = s.regions ∧ t.outbox = s.outbox ∧ t.link port = l) ∧
    (∀ (n : Nat) (k : LupPkt) (base : Nat) (cfg : Word), s.flight[n]? = some (.lupPacket port k base cfg) →
      k.epoch = l.rxEpoch + 1 → l.rxClosed = true → k.seq = 0 → regionOf s base = none →
      ∃ t, exec (.lupinPacketArrival n) s = .next t ∧ t.mem = s.mem ∧ t.regions = s.regions ∧
        t.outbox = s.outbox ++ [(l.far, .lupRefusal port k.epoch 0)] ∧ (t.link port).rxEpoch = l.rxEpoch + 1 ∧
        (t.link port).rxSeq = 1 ∧ (t.link port).answers = [(0, false)] ∧ (t.link port).rxClosed = false) ∧
    ∀ (n epoch : Nat) (seqs : List Nat), s.flight[n]? = some (.reconRequest port epoch seqs) →
      (epoch = l.rxEpoch → ∃ t, exec (.reconciliationRequest n) s = .next t ∧ t.mem = s.mem ∧ t.regions = s.regions ∧
        t.outbox = s.outbox ++ [(l.far, .reconReply port epoch l.rxSeq
          (seqs.filter fun k => l.answers.any fun x => x.1 == k && x.2))] ∧
        t.link port = { l with rxClosed := true }) ∧
      (epoch ≠ l.rxEpoch → l.rxClosed = false ∨ epoch ≠ l.rxEpoch + 1 →
        exec (.reconciliationRequest n) s = .next { s with flight := s.flight.eraseIdx n }) ∧
      (epoch = l.rxEpoch + 1 → l.rxClosed = true →
        ∃ t, exec (.reconciliationRequest n) s = .next t ∧ t.mem = s.mem ∧ t.regions = s.regions ∧
          t.outbox = s.outbox ++ [(l.far, .reconReply port epoch 0 [])] ∧
          t.link port = { l with rxEpoch := epoch, rxSeq := 0, answers := [] })

/-- R19, R21-R23, R26, R27, R33, R35, R63, R72, R100, R320, R321, R347-R349: the end and the yield of a strand; words and
fetches that trap; the end of INTERVAL, the forced issue of the service slot, the rotation boundary, and the placement of the
oldest strand that fits a slot. The model's choices (DESIGN CHOICE): the kind and the layout of the record that HALT leaves
(log 52), and the cycle in which a placed strand is READY (log 54). -/
def Obligations.StrandsEndYieldAndTakeSlots : Prop :=
  (∀ (p : BitVec 4) (s : State), Runs (.halt p) s →
    (s.me.bound = none → s.me.far = none → (∀ x ∈ (s.core s.cur.1).avgQ, x.uid ≠ s.me.uid) → s.log.length < 4096 →
      ∃ t, exec (.halt p) s = .next t ∧ (t.slot s.cur.1 s.cur.2).state = .empty ∧ t.me = Strand.reset ∧ t.mem = s.mem ∧
        t.log = s.log ++ [⟨1, s.me.xcause.toNat % 2 ^ 8,
          BitVec.ofNat 64 (s.cur.2 % 8 + s.me.idx % 8 * 2 ^ 8 + s.cur.1 % 2 ^ 14 * 2 ^ 16), s.me.xpc, s.me.xcause,
          BitVec.ofNat 64 s.me.launch⟩] ∧
        (s.me.lease = none → t.clusters = s.clusters) ∧
        ∀ c n, (c, n) ≠ s.cur → t.slot c n = s.slot c n) ∧
    (s.me.bound.isSome = true ∨ s.me.far.isSome = true → (s.core s.cur.1).tvec ≠ 0 → ∃ t, exec (.halt p) s = .next t ∧
      Traps s.me.pc ⟨.illOperand, (encode (.halt p)).setWidth 64, 0⟩ s t)) ∧
  (∀ (p : BitVec 4) (s : State), Runs (.yield p) s →
    (s.cur.2 = 8 ∨ (s.core s.cur.1).det = true ∨ (∀ e ∈ (s.core s.cur.1).arr, e.tier = .queue → e.strand.q ≠ s.me.q) →
      exec (.yield p) s = .next (ran id s)) ∧
    (s.cur.2 < 8 → (s.core s.cur.1).det = false → (∃ e ∈ (s.core s.cur.1).arr, e.tier = .queue ∧ e.strand.q = s.me.q) →
      ∃ t, exec (.yield p) s = .next t ∧ (t.slot s.cur.1 s.cur.2).state = .empty ∧ t.mem = s.mem ∧
        (t.core s.cur.1).arr = (s.core s.cur.1).arr ++
          [⟨{ s.me with entry := false, pc := s.me.pc + 4, icnt := s.me.icnt + 1, issued := some s.cyc }, .queue, false, 0⟩])) ∧
  (∀ (w : IWord) (s : State) (e : DecodeError), s.cur.2 < 9 → decode w = .error e → (s.core s.cur.1).tvec ≠ 0 →
    ∃ t, exec (.wordNotAnInstruction w) s = .next t ∧ Traps s.me.pc ⟨decodeCause e, w.setWidth 64, 0⟩ s t) ∧
  (∀ (s : State) (st : Stop), s.cur.2 < 9 → fetchWord s = .error st → isFpCause st.cause = false →
    (s.me.entry = false → (s.core s.cur.1).tvec ≠ 0 →
      ∃ t, exec .instructionFetchFault s = .next t ∧ Traps s.me.pc st s t) ∧
    (s.me.entry = true → s.log.length < 4096 → (∀ x ∈ (s.core s.cur.1).avgQ, x.uid ≠ s.me.uid) →
      ∃ t r, exec .instructionFetchFault s = .next t ∧ r.kind = 2 ∧ r.cause = s.me.xcause.toNat % 2 ^ 8 ∧ r.b = s.me.xpc ∧
      (t.slot s.cur.1 s.cur.2).state = .empty ∧ t.log = s.log ++ [r] ∧ t.mem = s.mem)) ∧
  (∀ (c n at_ : Nat) (s : State), n < 8 → (s.slot c n).state = .interval at_ →
    (at_ ≤ s.cyc → exec (.strandIntervalEnd c n) s = .next (s.setState c n .ready)) ∧
    (s.cyc < at_ → exec (.strandIntervalEnd c n) s = .next s)) ∧
  (∀ (c at_ : Nat) (s : State), (s.slot c 8).state = .ready → (s.core c).svcSince = some at_ → at_ + 64 ≤ s.cyc →
    (s.core c).svcForced = none → (s.core c).det = false → (s.core c).forceNow = false →
    ∃ t, exec (.serviceForcedIssue c) s = .next t ∧ t = s.modCore c (fun k => { k with forceNow := true }) ∧
      ((s.core c).lastIssue ≠ some s.cyc → (s.core c).gating = .ungated → issuedAbove s c = false → pickSlot t c = some 8)) ∧
  (∀ (s : State), s.cyc % 1024 = 0 → s.rotated ≠ some s.cyc →
    ∃ t, exec .rotationBoundary s = .next t ∧ t.rotated = some s.cyc ∧ t.mem = s.mem ∧
      (∀ c n, (t.slot c n).state = (s.slot c n).state ∧ t.strand c n = s.strand c n ∧
        ((s.slot c n).state ≠ .empty → (t.slot c n).owner = (s.slot c n).owner)) ∧
      ∀ c q, (s.core c).det = false → q < 32 → (s.core c).arr ≠ [] → (∀ e ∈ (s.core c).arr, e.strand.q = q) →
        ((s.core c).weights[q]?.getD 0) ≠ 0 → ∀ n < 8, (s.slot c n).state = .empty → (t.slot c n).owner = some q) ∧
  ∀ (c n : Nat) (s : State) (before after_ : List ArrEntry) (e : ArrEntry), n < 8 → (s.slot c n).state = .empty →
    (s.slot c n).freeFrom ≤ s.cyc → (s.core c).placeFrom ≤ s.cyc → (s.core c).gating = .ungated →
    (s.core c).reserved = [] → (s.core c).arr = before ++ e :: after_ → (s.slot c n).owner = some e.strand.q →
    (∀ q ∈ (s.core c).preempted, e.strand.isOf q = false) → (∀ x ∈ before, x.strand.q ≠ e.strand.q) → e.strand.relet = false →
    e.strand.lease = none → e.strand.idle = false → e.strand.collw = none →
    ∃ t, exec (.strandPlacement c n) s = .next t ∧ (t.slot c n).state = .interval (max (s.cyc + 1) ((e.strand.issued.map (· + 8)).getD 0)) ∧
      t.strand c n = { e.strand with issued := none } ∧ (t.core c).arr = before ++ after_ ∧
      (t.core c).lastSlot = (s.core c).lastSlot ∧
      (t.core c).restarted = (e.launched && (List.range 8).all (fun m =>
        (s.slot c m).state == .empty && decide ((s.slot c m).freeFrom ≤ s.cyc)) || (s.core c).restarted) ∧
      t.mem = s.mem ∧ ∀ m, m ≠ n → t.slot c m = s.slot c m

/-- R327, R330-R335, R338: BARI sets a counter, keeping its generation; BARV waits, and at the end of a cycle in which the
strand's accesses are performed it arrives and returns the generation before; BARW goes on when the generation has passed, else
waits, and traps at its limit, unless a BARV of the same cycle is still to arrive; SYNCI sets a sync word with its generation kept;
DIGEST reads the slot's accumulator. That BARI, and a SYNCI whose strand has no store in the buffer, complete at their issue, where
the rules let them wait, is DEDUCED (log 8). -/
def Obligations.BarriersCountArrivals : Prop :=
  ∀ (s : State) (i : Nat) (module : Bool), (module = true → i < 16) → i < 64 →
    let c := s.cur.1
    let k := c / 16
    let des := BitVec.ofNat 64 (i + if module then 2 ^ 8 else 0)
    let x := barOf s k module i
    let passes (b : Barrier) (g : Nat) : Prop := 0 < (BitVec.ofNat 32 (b.gen + 2 ^ 32 - g % 2 ^ 32)).toInt
    (∀ a b p : BitVec 4, Runs (.bari a b p) s → Readable [a, b] [] s → s.me.get a = des →
      (0 < (s.me.get b).toNat → (s.me.get b).toNat ≤ 131071 → exec (.bari a b p) s =
        .next (if module then { ran id s with bars := tabSet s.bars i ⟨(s.me.get b).toNat, 0, x.gen⟩ }
          else (ran id s).modCluster k fun y => { y with bars := tabSet y.bars i ⟨(s.me.get b).toNat, 0, x.gen⟩ })) ∧
      ((s.me.get b).toNat = 0 ∨ 131071 < (s.me.get b).toNat → (s.core c).tvec ≠ 0 →
        ∃ t, exec (.bari a b p) s = .next t ∧ Traps s.me.pc ⟨.illOperand, s.me.get b, 0⟩ s t)) ∧
    (∀ d a p : BitVec 4, Runs (.barv d a p) s → Readable [a] [d] s → s.me.get a = des → x.count ≠ 0 →
      ∃ t, exec (.barv d a p) s = .next t ∧ Waits id (.barv d i module) s t) ∧
    (∀ (n : Nat) (d : BitVec 4), s.waiting c n = some (.barv d i module) → quiet s c (s.strand c n).uid = false →
      barvResume c n s = none) ∧
    (∀ (n : Nat) (d : BitVec 4), n < 9 → s.waiting c n = some (.barv d i module) → quiet s c (s.strand c n).uid = true →
      x.arrived + 1 < 2 ^ 17 → ∃ t, barvResume c n s = some t ∧ t.waiting c n = none ∧ t.mem = s.mem ∧
        (t.strand c n).get d = (if d = 0 then 0 else BitVec.ofNat 64 x.gen) ∧
        barOf t k module i = (if x.arrived + 1 = x.count then ⟨x.count, 0, (x.gen + 1) % 2 ^ 32⟩
          else ⟨x.count, x.arrived + 1, x.gen⟩) ∧
        ∀ j m, (m, j) ≠ (module, i) → barOf t k m j = barOf s k m j) ∧
    (∀ (d a p : BitVec 4), Runs (.barv d a p) s → Readable [a] [d] s → s.me.get a = des → x.count = 0 →
      (s.core c).tvec ≠ 0 → ∃ t, exec (.barv d a p) s = .next t ∧ Traps s.me.pc ⟨.illOperand, des, 0⟩ s t) ∧
    (∀ (a b p : BitVec 4) (lim : Nat), Runs (.barw a b p) s → Readable [a, b] [] s → lim < 32 →
      s.me.get a = des + BitVec.ofNat 64 (lim * 2 ^ 16) → x.count ≠ 0 → x.gen < 2 ^ 32 → s.cur.2 < 8 →
      let g := (s.me.get b).toNat % 2 ^ 32
      (passes x g → exec (.barw a b p) s = .next (ran id s)) ∧
      (¬passes x g → ∃ t, exec (.barw a b p) s = .next t ∧ Waits id
        (.barw i module g (if lim = 0 then none else some (s.cyc + 2 ^ lim)) (s.me.get a)) s t)) ∧
    (∀ (n g at_ : Nat) (w : Word), n < 9 → s.waiting c n = some (.barw i module g (some at_) w) → x.gen < 2 ^ 32 →
      g < 2 ^ 32 →
      (passes x g → s.fatal = false →
        ∃ t, step { s with agenda := [.resume c n] } = .next t ∧ Woken c n id { s with agenda := [] } t) ∧
      (¬passes x g → at_ ≤ s.cyc → arrivesYet s k module i = false → (s.core c).tvec ≠ 0 → ∃ t, exec (.barwWaitLimit c n) s = .next t ∧
        t.waiting c n = none ∧ (t.strand c n).xval = w ∧
        (t.strand c n).xaux = BitVec.ofNat 64 (x.gen + x.arrived * 2 ^ 32) ∧
        (t.strand c n).xcause = BitVec.ofNat 64 (0x10 + if (s.strand c n).mode then 2 ^ 63 else 0) ∧
        (t.strand c n).pc = (s.core c).tvec.setWidth 64 <<< 2)) ∧
    (∀ (a b p : BitVec 4) (pa : Nat), Runs (.synci a b p) s → Readable [a, b] [] s → syncAddr s (s.me.get a) = some pa →
      (s.me.get b).toNat < 2 ^ 48 → checkRange s c s.me.rights (.store none) (s.me.get a) 32 = none →
      (drained s c s.me.uid = true → s.mem.wf = true → ringWordAt pa = none → s.held = [] → checked s c s.cur.2 = false →
        ∃ t, exec (.synci a b p) s = .next t ∧ t.read pa 8 = s.read pa 8 / 2 ^ 48 * 2 ^ 48 ∧
          t.read (pa + 8) 8 = (s.me.get b).toNat + s.read (pa + 8) 8 / 2 ^ 48 * 2 ^ 48 ∧ t.read (pa + 16) 8 = 0 ∧
          t.read (pa + 24) 8 = 0 ∧ (∀ j, j < pa ∨ pa + 32 ≤ j → memByte t.mem j = memByte s.mem j) ∧
          t.me.g = s.me.g ∧ t.me.pc = s.me.redir.getD (s.me.pc + 4)) ∧
      (drained s c s.me.uid = false → ∃ t, exec (.synci a b p) s = .next t ∧
        Waits id (.synci (s.me.get a) pa (s.me.get b).toNat (s.me.get b)) s t)) ∧
    ∀ d p : BitVec 4, Runs (.digest d p) s → Readable [] [d] s →
      exec (.digest d p) s = .next (ran (fun y => y.put d ((s.core c).digests[s.cur.2]?.getD 0)) s)

/-- R259-R262, R266-R269, R275, R276: a command enters its queue, with its completion register emptied, when the queue has
room; COLLW waits for its chain; an RPUSH reserves the tail slot, or waits and then does, when no core up to its own can issue
any more in that cycle; QFENCE waits for the commands before it.
R260, R262-R265, R268, R270, R277, R329: a command starts; its chunk copies bytes, or it faults at the byte that fails;
when it ends, and its stores to page tables are performed
(R317), it leaves the queue and its status fills its register; the oldest reserved slot is published once it is filled, or,
reserved before the ring was enabled anew, only sends its completion (DEDUCED, log 24); a ring is disabled; bytes counted in a sync word wrap at its target. -/
def Obligations.EngineCommandsQueueCopyAndComplete : Prop :=
  ((∀ (s : State), checked s s.cur.1 s.cur.2 = false →
    (∀ c n q it d g, s.waiting c n ≠ some (.engine q it d g)) →
    (∀ c n r q src d lim w at_, s.waiting c n ≠ some (.rpush r q src d lim w at_)) →
    let c := s.cur.1
    let n := s.cur.2
    let empties (d : BitVec 4) (t : State) : Prop :=
      ∀ r : BitVec 4, t.me.isEmpty r = (decide (r = d ∧ d ≠ 0) || s.me.isEmpty r)
    (∀ (d a b p : BitVec 4), ∀ i ∈ [(3, (0 : Word), Instr.cpy d a b p), (4, s.me.get (a + 3), .cpyr d a b p)],
      Runs i.2.2 s → Readable (regGroup a i.1 ++ [b]) [d] s →
      let w := s.me.get (a + 2)
      let q := w.toNat / 2 ^ 48
      let sync := if b = 0 then none else syncAddr s (s.me.get b)
      w.toNat / 2 ^ 40 % 2 ^ 8 = 0 → q < 4 → i.2.1.toNat < w.toNat % 2 ^ 40 → d ≠ 0 ∨ b ≠ 0 → (b ≠ 0 → sync.isSome = true) →
      ∃ t x, exec i.2.2 s = .next t ∧ t.mem = s.mem ∧ CoreFrame id s t ∧ t.me.g = s.me.g ∧ empties d t ∧
        x.dst = s.me.get a ∧ x.src = s.me.get (a + 1) ∧ x.len = w.toNat % 2 ^ 40 ∧ x.off = i.2.1.toNat ∧ x.sync = sync ∧
        x.fill = (if d = 0 then none else some ⟨s.me.uid, d⟩) ∧ x.rights = s.me.rights ∧ x.started = false ∧
        x.status = none ∧
        (hasRoom s (c / 16) q = true → (t.cluster (c / 16)).copyQ[q]? =
            ((s.cluster (c / 16)).copyQ[q]?).map (· ++ [.cmd x]) ∧ t.waiting c n = none ∧
          t.me.pc = s.me.redir.getD (s.me.pc + 4)) ∧
        (hasRoom s (c / 16) q = false → ∃ g, t.waiting c n = some (.engine q (.cmd x) d g) ∧ t.clusters = s.clusters)) ∧
    (∀ (d a b p : BitVec 4), ∀ i ∈ [(false, Instr.coll d a b p), (true, .collw d a b p)], Runs i.2 s →
      Readable [a, b] [d] s → (s.me.get b).toNat < 2 → hasRoom s (dieOf (c / 16)) (4 + (s.me.get b).toNat) = true →
      ∃ t x, exec i.2 s = .next t ∧ t.mem = s.mem ∧ CoreFrame id s t ∧ t.me.g = s.me.g ∧ x.desc = some (s.me.get a) ∧
        x.steps = 0 ∧ x.started = false ∧ x.status = none ∧ x.wait = i.1 ∧
        getQ t (dieOf (c / 16)) (4 + (s.me.get b).toNat) =
          getQ s (dieOf (c / 16)) (4 + (s.me.get b).toNat) ++ [.chain x] ∧
        (i.1 = false → empties d t ∧ x.fill = (if d = 0 then none else some ⟨s.me.uid, d⟩) ∧ t.waiting c n = none ∧
          t.me.pc = s.me.redir.getD (s.me.pc + 4)) ∧
        (i.1 = true → t.me.full = s.me.full ∧ x.fill = none ∧ t.waiting c n = some (.collw x.cid d))) ∧
    (∀ (d a b p : BitVec 4) (r : BitVec 3) (q : Nat), Runs (.rpush d a b p) s → Readable [a, b] [d] s → q < 4 →
      s.me.get b = BitVec.ofNat 64 (r.toNat + 16 * q) →
      let k := c / 16
      let w := ringState s k r.toNat
      let cfg := ringCfg s k r.toNat
      (ringOn s k r.toNat = true → (ringLive s k r.toNat = false ∨ ringIsFull s k r.toNat = true ∨ hasRoom s k q = false) →
        ∃ t, exec (.rpush d a b p) s = .next t ∧ t.mem = s.mem ∧ CoreFrame id s t ∧ empties d t ∧
          t.waiting c n = some (.rpush r q (s.me.get a) d (s.cyc + 2 ^ ringWlim cfg) (s.me.get b) none)) ∧
      (ringLive s k r.toNat = true → ringIsFull s k r.toNat = false → hasRoom s k q = true → s.mem.wf = true →
        s.held = [] → (∀ e < c, e / 16 = k → willIssue s e = false) → ∃ t x, exec (.rpush d a b p) s = .next t ∧ t.waiting c n = none ∧ empties d t ∧
          t.me.pc = s.me.redir.getD (s.me.pc + 4) ∧
          (t.cluster k).copyQ[q]? = ((s.cluster k).copyQ[q]?).map (· ++ [.cmd x]) ∧ x.src = s.me.get a ∧
          x.ring = some (r.toNat, ringTail w) ∧ x.fill = (if d = 0 then none else some ⟨s.me.uid, d⟩) ∧
          (ringRt t k r.toNat).resv = (ringRt s k r.toNat).resv ++ [⟨ringTail w, x.cid, false, none, false⟩] ∧
          ringRes (ringState t k r.toNat) = (ringRes w + 1) % 2 ^ 7) ∧
      (ringOn s (c / 16) r.toNat = false → (s.core c).tvec ≠ 0 →
        ∃ t, exec (.rpush d a b p) s = .next t ∧ Traps s.me.pc ⟨.ringMisuse, r.setWidth 64, 3⟩ s t)) ∧
    ∀ (a p : BitVec 4), Runs (.qfence a p) s → Readable [a] [] s →
      let w := s.me.get a
      let ids := ((List.range 6).filter fun q => w.getLsbD q).flatMap fun q => cidsOf (getQ s (homeOf c q) q)
      w.toNat < 2 ^ 9 → w.toNat / 2 ^ 6 % 4 = 0 →
      (w.getLsbD 8 = false ∨ ids = [] → ∃ t, exec (.qfence a p) s = .next t ∧ t.mem = s.mem ∧ t.me.g = s.me.g ∧
        t.waiting c n = none ∧ t.me.icnt = s.me.icnt + 1) ∧
      (w.getLsbD 8 = true → (∃ j ∈ ids, j ∈ liveCids s) → ∃ t, exec (.qfence a p) s = .next t ∧ t.mem = s.mem ∧
        CoreFrame id s t ∧ t.waiting c n = some (.qfence ids))) ∧
  ∀ (c n q : Nat) (r : BitVec 3) (src word : Word) (d : BitVec 4) (lim : Nat) (reached : Option Nat) (s : State), n < 9 →
    q < 4 → s.waiting c n = some (.rpush r q src d lim word reached) → checked s c n = false →
    (∀ c' n' q' it d' g, s.waiting c' n' ≠ some (.engine q' it d' g)) →
    (∀ c' n' r' q' s' d' l' w' a', s.waiting c' n' = some (.rpush r' q' s' d' l' w' a') → (c', n') = (c, n)) →
    (∀ e ≤ c, e / 16 = c / 16 → willIssue s e = false) →
    let k := c / 16
    let w := ringState s k r.toNat
    let cfg := ringCfg s k r.toNat
    ringLive s k r.toNat = true → ringIsFull s k r.toNat = false → hasRoom s k q = true → s.mem.wf = true → s.held = [] →
    ∃ t x, exec (.rpushReserve c n) s = .next t ∧ t.waiting c n = none ∧
      (t.cluster k).copyQ[q]? = ((s.cluster k).copyQ[q]?).map (· ++ [.cmd x]) ∧ x.src = src ∧
      x.dst = BitVec.ofNat 64 (s.modId * 2 ^ 47 + (csAddr k (ringBase cfg + ringSlotBytes cfg * ringTail w))) ∧
      x.len = ringSlotBytes cfg ∧ x.ring = some (r.toNat, ringTail w) ∧ x.sync = none ∧ x.started = false ∧
      (ringRt t k r.toNat).resv = (ringRt s k r.toNat).resv ++ [⟨ringTail w, x.cid, false, none, false⟩] ∧
      ringState t k r.toNat = BitVec.ofNat 64 (ringHead w + (ringTail w + 1) % max 1 (ringSlots cfg) * 2 ^ 8 +
        ringFull w * 2 ^ 16 + (ringRes w + 1) * 2 ^ 24)) ∧
  ((∀ (k q : Nat) (s : State) (x : Command) (rest : EngineQ), q < 4 → getQ s k q = .cmd x :: rest →
    (x.started = false → ∃ t, exec (.commandStart k q) s = .next t ∧
      getQ t k q = .cmd { x with started := true, since := s.cyc } :: rest ∧ t.mem = s.mem) ∧
    (∀ p sa da qa qb side, x.started = true → x.status = none → x.moved = false → x.off + 1 = x.len → nextTurn s k = some p →
      rotationQ p = q → x.sync = none → s.stale = [] → (da < 2 ^ 40 → walkedPages s (linesOfRange da 1) = []) →
      checkAccess s x.core x.rights .load (x.src + BitVec.ofNat 64 x.off) 1 = .ok qa → qa.loc = .here sa → qa.ord = false →
      poisoned s sa 1 = false → checkAccess s x.core x.rights (.store none) (x.dst + BitVec.ofNat 64 x.off) 1 = .ok qb →
      qb.loc = .here da → regionAt s (localPart (x.dst + BitVec.ofNat 64 x.off)) = none → s.mem.wf = true →
      ringWordAt da = none → s.held = [] →
      ∃ t, exec (.copyChunk k q side) s = .next t ∧ getQ t k q = .cmd { x with off := x.len, since := s.cyc } :: rest ∧
        (t.cluster k).turn = (p + 1) % 8 ∧
        ∀ j, memByte t.mem j = if j = da then memByte s.mem sa else memByte s.mem j) ∧
    (∀ p st side, x.started = true → x.status = none → x.moved = false → x.off < x.len → nextTurn s k = some p → rotationQ p = q →
      x.sync = none → settled true s x.cid = true → checkAccess s x.core x.rights .load (x.src + BitVec.ofNat 64 x.off) 1 = .error st →
      ∃ t, exec (.copyFault k q side) s = .next t ∧ t.mem = s.mem ∧
        getQ t k q = .cmd { x with status := some (st.cause, x.off, false) } :: rest) ∧
    (x.moved = true ∨ settled true s x.cid = false → exec (.commandComplete k q) s = .next s) ∧
    (∀ f, rest = [] → x.moved = false → settled true s x.cid = true → x.ring = none → x.fill = some f → x.started = true → x.len ≤ x.off → x.len < 2 ^ 40 →
      x.status = none → ∃ t, exec (.commandComplete k q) s = .next t ∧ t.mem = s.mem ∧ getQ t k q = [] ∧
        t.flight = s.flight ++ [.fill f.uid f.r (BitVec.ofNat 64 (x.len * 2 ^ 16))]) ∧
    (∀ f cause off dst, rest = [] → x.moved = false → settled true s x.cid = true → x.ring = none → x.fill = some f → x.status = some (cause, off, dst) → off < 2 ^ 40 →
      ∃ t, exec (.commandComplete k q) s = .next t ∧ t.mem = s.mem ∧ getQ t k q = [] ∧
        t.flight = s.flight ++ [.fill f.uid f.r
          (BitVec.ofNat 64 (1 + causeCode cause * 2 ^ 8 + off * 2 ^ 16 + if dst then 2 ^ 56 else 0))]) ∧
    (∀ r slot, rest = [] → x.moved = false → settled true s x.cid = true → x.ring = some (r, slot) → r < 8 →
      (ringRt s k r).resv = [⟨slot, x.cid, false, none, false⟩] →
      x.started = true → x.len ≤ x.off → x.len < 2 ^ 40 → x.status = none →
      ∃ t, exec (.commandComplete k q) s = .next t ∧ t.mem = s.mem ∧ getQ t k q = [] ∧ t.flight = s.flight ∧
        (ringRt t k r).resv = [⟨slot, x.cid, true, x.fill.map fun f => (f, BitVec.ofNat 64 (x.len * 2 ^ 16)), false⟩])) ∧
  (∀ (k r j cid : Nat) (rest : List RingSlot) (s : State), r < 8 → s.mem.wf = true → s.held = [] →
    let w := ringState s k r
    (∀ fill, (ringRt s k r).resv = ⟨j, cid, true, fill, false⟩ :: rest → ∃ t, exec (.slotPublish k r) s = .next t ∧
      (ringRt t k r).resv = rest ∧ (ringFull w = 0 → headReady t k r = false) ∧
      (fill = none → t.flight = s.flight) ∧
      (∀ f v, fill = some (f, v) → t.flight = s.flight ++ [.fill f.uid f.r v]) ∧
      ringState t k r =
        BitVec.ofNat 64 (ringHead w + ringTail w * 2 ^ 8 + (ringFull w + 1) * 2 ^ 16 + (ringRes w - 1) * 2 ^ 24)) ∧
    (∀ fill, (ringRt s k r).resv = ⟨j, cid, true, fill, true⟩ :: rest → ∃ t, exec (.slotPublish k r) s = .next t ∧
      (ringRt t k r).resv = rest ∧ t.mem = s.mem ∧ (fill = none → t.flight = s.flight) ∧
      ∀ f v, fill = some (f, v) → t.flight = s.flight ++ [.fill f.uid f.r v]) ∧
    (∀ fill old, (ringRt s k r).resv = ⟨j, cid, false, fill, old⟩ :: rest → exec (.slotPublish k r) s = .next s) ∧
    ((ringRt s k r).disabling = true → (ringRt s k r).resv = [] → ringInUse s k r = false →
      ∃ t, exec (.ringDisableEffect k r) s = .next t ∧ (ringRt t k r).disabling = false ∧
        ringState t k r = BitVec.ofNat 64 (ringHead w + ringTail w * 2 ^ 8 + ringRes w * 2 ^ 24))) ∧
  ∀ (a n : Nat) (s : State), s.mem.wf = true → ringWordAt a = none → s.held = [] →
    a % 0x100000 < 0xEFF00 ∨ 0xF0000 ≤ a % 0x100000 →
    let w0 := s.read a 8
    let w1 := s.read (a + 8) 8
    let target := w1 % 2 ^ 48
    let gen := w0 / 2 ^ 48 + w1 / 2 ^ 48 * 2 ^ 16
    let sum := w0 % 2 ^ 48 + n
    let t := addSync a n s
    sum < 2 ^ 48 →
    t.read a 8 % 2 ^ 48 = (if target = 0 then sum else sum % target) ∧ t.read (a + 8) 8 % 2 ^ 48 = target ∧
    t.read a 8 / 2 ^ 48 + t.read (a + 8) 8 / 2 ^ 48 * 2 ^ 16 =
      (if target = 0 then gen else (gen + sum / target) % 2 ^ 32) ∧
    ∀ j, j < a ∨ a + 16 ≤ j → memByte t.mem j = memByte s.mem j)

/-- R272-R275: a Peony step starts when its descriptor and all its bytes pass; an exchange sends READY, then its values when
the partner is ready, and holds what comes early; a complete step writes its elements and moves the chain on; a notice and a
time-out end the chain with the number of its completed steps. -/
def Obligations.PeonyStepsRunTheirChain : Prop :=
  (∀ (d q : Nat) (s : State) (x : Chain) (rest : EngineQ) (va : Word) (a : Nat) (t : PStep) (side : RemoteSide), q < 2 →
    getQ s d (4 + q) = .chain x :: rest → x.started = true → x.status = none → x.desc = some va → stepOf s d q = none →
    x.steps < 65536 → descAt s d x va = .ok a → readStep s a = (t, false) → t.op ≤ 2 →
    checkStep s d x t t.count 0 = .ok false →
    (t.op ≠ 1 → ∃ u, exec (.peonyStepStart d q side) s = .next u ∧ stepOf u d q = some t ∧ u.mem = s.mem ∧
      u.outbox = s.outbox) ∧
    (t.op = 1 → partnerOf s t.pmod ≠ s.modId → (s.die d).notices = [] → (s.die d).readies = [] →
      ∃ u y, exec (.peonyStepStart d q side) s = .next u ∧ stepOf u d q = some y ∧ y.ready = false ∧ y.data = none ∧
        y.mine = (List.range t.count).map (stepGet s d x t side) ∧ u.mem = s.mem ∧
        u.outbox = s.outbox ++ [(partnerOf s t.pmod, .peonyReady s.modId d t.pdie t.tag t.count s.serial)] ∧ y.no = s.serial)) ∧
  (∀ (d q n m fd tag no : Nat) (s : State) (t : PStep), q < 2 → d < 8 → stepOf s d q = some t → stepOf s d (1 - q) = none → t.op = 1 →
    partnerOf s t.pmod = m → t.pdie = fd → t.tag = tag → m ≠ s.modId →
    (s.msg n = some (.peonyReady m fd d tag t.count no) → wasPerformed s m (readyNo no) = false → t.ready = false →
      ∃ u, exec (.peonyReady n) s = .next u ∧ stepOf u d q = some { t with ready := true } ∧ u.mem = s.mem ∧
        u.outbox = s.outbox ++ [(m, .peonyData s.modId d fd tag t.mine t.no)]) ∧
    (∀ vals, s.msg n = some (.peonyData m fd d tag vals no) → wasPerformed s m (dataNo no) = false → t.data = none →
      ∃ u, exec (.peonyData n) s = .next u ∧ stepOf u d q = some { t with data := some vals } ∧ u.mem = s.mem ∧
        u.flight = s.flight.eraseIdx n) ∧
    (∀ x rest, getQ s d (4 + q) = .chain x :: rest →
      (s.msg n = some (.peonyNotice m fd d tag) → t.moved = false →
        ∃ u, exec (.peonyFaultNotice n) s = .next u ∧ stepOf u d q = none ∧
        getQ u d (4 + q) = .chain { x with status := some (.illOperand, x.steps) } :: rest ∧ u.mem = s.mem) ∧
      (t.ready = false → t.since + 2 ^ 26 ≤ s.cyc → ∃ u, exec (.peonyPartnerTimeout d q) s = .next u ∧
        stepOf u d q = none ∧ u.mem = s.mem ∧
        getQ u d (4 + q) = .chain { x with status := some (.remoteTimeout, x.steps) } :: rest))) ∧
  (∀ (d n m fd tag count no : Nat) (s : State), d < 8 → stepOf s d 0 = none → stepOf s d 1 = none →
    (s.msg n = some (.peonyReady m fd d tag count no) → m = s.modId ∨ wasPerformed s m (readyNo no) = false → ∃ u, exec (.peonyReady n) s = .next u ∧
      (u.die d).readies = (s.die d).readies ++ [(m, fd, tag, count)] ∧ u.outbox = s.outbox) ∧
    (s.msg n = some (.peonyNotice m fd d tag) → ∃ u, exec (.peonyFaultNotice n) s = .next u ∧
      (u.die d).notices = (s.die d).notices ++ [(m, fd, tag)])) ∧
  ∀ (d q sa da : Nat) (s : State) (x : Chain) (rest : EngineQ) (t : PStep) (pa pb : Place) (side : RemoteSide), q < 2 →
    getQ s d (4 + q) = .chain x :: rest → stepOf s d q = some t → t.count = 1 → t.sync = 0 → t.op ≤ 2 →
    peonyCheck s d x .load (stepReadVa t 0) (stepReadSize t) = .ok pa → pa.loc = .here sa → pa.ord = false →
    poisoned s sa (stepReadSize t) = false →
    peonyCheck s d x (.store none) (stepWriteVa t 0) (stepWriteSize t) = .ok pb → pb.loc = .here da →
    regionAt s (localPart (stepWriteVa t 0)) = none → s.mem.wf = true → ringWordAt da = none → s.held = [] →
    t.moved = false → s.stale = [] → (da < 2 ^ 40 → walkedPages s (linesOfRange da (stepWriteSize t)) = []) →
    let done (v : Nat) : Prop := ∃ u, exec (.peonyStepComplete d q side) s = .next u ∧ stepOf u d q = none ∧
      getQ u d (4 + q) =
        .chain { x with
          steps := x.steps + 1, since := s.cyc, desc := if t.next = 0 then none else some t.next } :: rest ∧
      ∀ j, memByte u.mem j = if da ≤ j ∧ j < da + stepWriteSize t then byteOf v (j - da) else memByte s.mem j
    (t.op = 0 → done (rndTo rneEnv .f32 (fdecode false .bf16 (s.read sa 2))).1) ∧
    (t.op = 2 → done (rndTo rneEnv .bf16 (fdecode false .f32 (s.read sa 4))).1) ∧
    (t.op = 1 → t.ready = false → exec (.peonyStepComplete d q side) s = .next s) ∧
    (∀ own other, t.op = 1 → t.ready = true → t.own = [own] → t.data = some [other] → s.modId < partnerOf s t.pmod →
      peonyPlace s d x .load (stepWriteVa t 0) 4 = .ok false →
      done (rndTo rneEnv .f32 (fadd 0 (fdecode false .f32 own) (fdecode false .f32 other)).1).1)

/-- R281, R284-R291, R293: BDEF reads its descriptor, checks it, and defines a FREE entry; BDEF with 0 frees it and clears
the neighbours' slots; BNBR reads its descriptor and installs both halves of a link; BRULE replaces a rule word and gives
the neighbour's slot its RFREE. The model's choices (DEDUCED): BDEF and BNBR always wait for their descriptor, whatever memory
it lies in (log 27), and an entry keeps the rights of the strand that defined it (log 28). -/
def Obligations.BlocksAreDefinedAndLinked : Prop :=
  (∀ (d a b p : BitVec 4) (s : State) (i : Nat), Runs (.bdef d a b p) s → Readable [a, b] [d] s → i < 512 →
    s.me.get b = BitVec.ofNat 64 i →
    let c := s.cur.1
    let k := c / 16
    let x := s.me.get a
    (∀ (pl : Nat → Place) (ad : Nat → Nat), x ≠ 0 → x.toNat % 64 = 0 → (s.block k i).st = .free →
      (∀ j < 8, checkAccess s c s.me.rights .load (x + BitVec.ofNat 64 (8 * j)) 8 = .ok (pl j) ∧ (pl j).loc = .here (ad j)) →
      ∃ t, exec (.bdef d a b p) s = .next t ∧
        Waits id (.load (descLoad x ad fun j => (pl j).ord) (.desc false d x (BitVec.ofNat 64 i)) none) s t) ∧
    (x = 0 → (s.block k i).st = .defined ∨ (s.block k i).st = .done → mayName s (s.block k i).dom = true →
      (∀ e ∈ (s.block k i).edges.toList, e.used = true → idModule e.nid = s.modId ∧ idCluster e.nid = k) →
      ∃ t, exec (.bdef d a b p) s = .next t ∧ t.cores = (ran (fun y => y.put d 0) s).cores ∧ t.mem = s.mem ∧
        t.block k i = Block.reset ∧
        ∀ j e, j ≠ i → e < 6 →
          (((∃ f < 6, ((s.block k i).edge f).used = true ∧ idEntry ((s.block k i).edge f).nid = j ∧
              ((s.block k i).edge f).peer = e) ∧ ((s.block k j).edge e).nid = blockId s k i) →
            ((t.block k j).edge e).used = false) ∧
          (((s.block k j).edge e).nid ≠ blockId s k i → (t.block k j).edge e = (s.block k j).edge e)) ∧
    (x ≠ 0 → (s.block k i).st ≠ .free → (s.core c).tvec ≠ 0 →
      ∃ t, exec (.bdef d a b p) s = .next t ∧ Traps s.me.pc ⟨.illOperand, BitVec.ofNat 64 i, 0⟩ s t)) ∧
  (∀ (c n i : Nat) (d : BitVec 4) (x : Word) (ad : Nat → Nat) (ord : Nat → Bool) (v : Nat → Nat) (s : State), n < 9 →
    i < 512 → c < 12288 → s.modId < 2 ^ 17 →
    s.waiting c n = some (.load (descLoad x ad ord) (.desc false d x (BitVec.ofNat 64 i)) none) →
    (∀ e ∈ descLoad x ad ord, elemAnswer s c (s.strand c n).uid e = some (.ok (v e.idx))) →
    let k := c / 16
    let w (j : Nat) : Word := BitVec.ofNat 64 (v j)
    (s.block k i).st = .free → (w 0).toNat % 4 = 0 → (w 1).toNat % 4 = 0 → (w 2).toNat % 64 = 0 → (w 3).toNat % 64 = 0 →
    (w 4).toNat % 64 = 0 → bits (w 5) 47 36 = 0 → bits (w 5) 31 0 % 2 ^ bits (w 5) 35 32 = 0 → bits (w 6) 63 28 = 0 →
    bits (w 6) 15 0 ≠ 0 → w 7 = 0 →
    ((s.strand c n).mode = true ∨ domainOf s (s.strand c n) = some (bits (w 5) 63 48)) →
    (∀ r ∈ [(w 2, 64 * bits (w 6) 15 0), (w 3, 64 * bits (w 6) 15 0), (w 4, 768 * bits (w 6) 27 16)],
      ownRange s c (s.strand c n).rights r.1 r.2 = none) →
    ∃ t, exec (.loadComplete c n) s = .next t ∧ t.mem = s.mem ∧ t.waiting c n = none ∧
      t.strand c n = ((s.strand c n).put d (BitVec.ofNat 64 (s.modId * 2 ^ 19 + k * 2 ^ 9 + i))).goTo
        ((s.strand c n).pc + 4) ∧
      OtherBlocksKept s t k i ∧
      t.block k i =
        { Block.reset with
          st := .defined, endL := bits (w 5) 31 0, logs := bits (w 5) 35 32, dom := bits (w 5) 63 48, upc := w 0,
          ipc := w 1, slot0 := w 2, slot1 := w 3, hb := w 4, ssz := bits (w 6) 15 0, hsz := bits (w 6) 27 16,
          rights := (s.strand c n).rights, defn := s.serial }) ∧
  (∀ (a b p : BitVec 4) (s : State) (k i : Nat) (pl : Nat → Place) (ad : Nat → Nat), Runs (.bnbr a b p) s →
    Readable [a, b] [] s → blockOperand s (s.me.get a) = some (k, i) → k = s.cur.1 / 16 → (s.me.get b).toNat % 64 = 0 →
    (∀ j < 8, checkAccess s s.cur.1 s.me.rights .load (s.me.get b + BitVec.ofNat 64 (8 * j)) 8 = .ok (pl j) ∧
      (pl j).loc = .here (ad j)) →
    ∃ t, exec (.bnbr a b p) s = .next t ∧
      Waits id (.load (descLoad (s.me.get b) ad fun j => (pl j).ord) (.desc true 0 (s.me.get a) (s.me.get b)) none) s t) ∧
  (∀ (c n i eb en nb : Nat) (x xd : Word) (ad : Nat → Nat) (ord : Nat → Bool) (v : Nat → Nat) (s : State), n < 9 →
    i < 512 → nb < 512 → i ≠ nb → c < 12288 → s.modId < 2 ^ 17 → eb < 6 → en < 6 →
    s.waiting c n = some (.load (descLoad xd ad ord) (.desc true 0 x xd) none) → x.toNat = blockId s (c / 16) i →
    (∀ e ∈ descLoad xd ad ord, elemAnswer s c (s.strand c n).uid e = some (.ok (v e.idx))) →
    let k := c / 16
    let w (j : Nat) : Word := BitVec.ofNat 64 (v j)
    let bk := s.block k i
    let ne := s.block k nb
    let rd := bitAt (w 0) 56
    let wr := bitAt (w 0) 57
    bits (w 0) 35 0 = blockId s k nb → bits (w 0) 42 40 = eb → bits (w 0) 50 48 = en → linkBad w = false →
    bits (w 1) 31 18 = 0 → bits (w 2) 31 18 = 0 → bk.st = .defined → ne.st = .defined →
    bk.dom = ne.dom → (bk.edge eb).used = false → (ne.edge en).used = false →
    (∀ e ∈ bk.edges.toList, e.used = true → e.nid ≠ blockId s k nb) →
    (∀ c' n' w' b' e' h' f', s.waiting c' n' ≠ some (.link w' b' e' h' f')) →
    bits (w 4) 47 32 ≤ 64 * bk.hsz → bits (w 3) 31 0 + bits (w 3) 47 32 ≤ 64 * bk.ssz →
    bits (w 3) 47 32 ≤ 64 * ne.hsz → bits (w 4) 31 0 + bits (w 4) 47 32 ≤ 64 * ne.ssz →
    (ruleOvr (bits (w 1) 31 0) = true → ruleNeed (bits (w 1) 31 0) ≤ defaultNeed bk.step ne.step) →
    (ruleOvr (bits (w 2) 31 0) = true → ruleNeed (bits (w 2) 31 0) ≤ defaultNeed ne.step bk.step) →
    ∃ t, exec (.loadComplete c n) s = .next t ∧ t.mem = s.mem ∧ t.waiting c n = none ∧
      t.strand c n = (s.strand c n).goTo ((s.strand c n).pc + 4) ∧
      (∀ e, (t.block k i).edge e = if e = eb then
          { nid := blockId s k nb, peer := en, rd := rd, wr := wr, used := true, nv := false, ndone := false,
            rfree := ruleFree (bits (w 2) 31 0), nlogs := ne.logs, nhsz := ne.hsz, rule := bits (w 1) 31 0, nl := 0,
            nlp := 0, soff := bits (w 3) 31 0, flen := bits (w 3) 47 32,
            dst := ne.hb + BitVec.ofNat 64 (128 * ne.hsz * en), pfc := 0, pfa := 0 }
        else bk.edge e) ∧
      ∀ e, (t.block k nb).edge e = if e = en then
          { nid := blockId s k i, peer := eb, rd := wr, wr := rd, used := true, nv := false, ndone := false,
            rfree := ruleFree (bits (w 1) 31 0), nlogs := bk.logs, nhsz := bk.hsz, rule := bits (w 2) 31 0, nl := 0,
            nlp := 0, soff := bits (w 4) 31 0, flen := bits (w 4) 47 32,
            dst := bk.hb + BitVec.ofNat 64 (128 * bk.hsz * eb), pfc := 0, pfa := 0 }
        else ne.edge e) ∧
  ∀ (a b p : BitVec 4) (s : State) (i j r : Nat), Runs (.brule a b p) s → Readable [a, b] [] s →
    let k := s.cur.1 / 16
    let x := s.block k i
    let e := x.edge j
    blockOperand s (s.me.get a) = some (k, i) → j < 6 → r < 2 ^ 18 → s.me.get b = BitVec.ofNat 64 (r + j * 2 ^ 20) →
    e.used = true → e.rd = true →
    ((ruleOvr r = true → ruleNeed r ≤ defaultNeed x.step (2 ^ e.nlogs)) →
      (ruleFree e.rule = true → ruleFree r = false → x.st = .defined) →
      idModule e.nid = s.modId → idCluster e.nid = k → idEntry e.nid ≠ i → e.peer < 6 →
      ∃ t, exec (.brule a b p) s = .next t ∧ t.cores = (ran id s).cores ∧ t.mem = s.mem ∧
        (t.block k i).edge j = { e with rule := r } ∧ (∀ f, f ≠ j → (t.block k i).edge f = x.edge f) ∧
        ((t.block k (idEntry e.nid)).edge e.peer).rfree =
          (if ((s.block k (idEntry e.nid)).edge e.peer).nid = blockId s k i then ruleFree r
           else ((s.block k (idEntry e.nid)).edge e.peer).rfree)) ∧
    (ruleOvr r = true → defaultNeed x.step (2 ^ e.nlogs) < ruleNeed r → (s.core s.cur.1).tvec ≠ 0 →
      ∃ t, exec (.brule a b p) s = .next t ∧
        Traps s.me.pc ⟨.rule, s.me.get b, BitVec.ofNat 64 (defaultNeed x.step (2 ^ e.nlogs))⟩ s t)

/-- R292, R294, R297, R299, R300, R305: a block becomes RUNNABLE when the causality rule holds of it; BSTART sets its levels;
BNEXT waits for a block, or ends when none of its domain is unfinished; BCOMMIT.C gives the registers again and goes on at
UPC; BCOMMIT takes the block one step on, queues its face pushes and sends its notifications; BFRZ.B abandons the update, whose
stored bytes are free values afterwards (log 28). That a strand bound to a block of another module runs none of this module's,
so that BNEXT, BCOMMIT and BFRZ.B trap there, is the model's choice (DESIGN CHOICE, log 13). -/
def Obligations.BlocksStepWhenTheRuleHolds : Prop :=
  (∀ (s : State) (k i : Nat), (s.block k i).st = .idle → (s.block k i).spanf = false →
    (s.block k i).dom ∉ s.frozenDoms → WithinSpan (s.block k i) →
    let st := ((settle k s).block k i).st
    (st = .runnable ↔ (s.block k i).pushes = 0 ∧ MayStep (s.block k i)) ∧ (st ≠ .runnable → st = .idle)) ∧
  (∀ (a b p : BitVec 4) (s : State) (k i lv : Nat), Runs (.bstart a b p) s → Readable [a, b] [] s →
    blockOperand s (s.me.get a) = some (k, i) → s.me.get b = BitVec.ofNat 64 lv → lv < 2 ^ 32 →
    let x := s.block k i
    let d := levelDiff x.endL lv
    x.st = .defined →
    (lv % x.step = 0 → 0 ≤ d → d < 2 ^ 30 → ∃ t, exec (.bstart a b p) s = .next t ∧ t.cores = (ran id s).cores ∧
      t.mem = s.mem ∧ (t.block k i).l = lv ∧ (t.block k i).lp = lv ∧ (t.block k i).cur = false ∧
      (lv = x.endL → (t.block k i).st = .done) ∧
      (lv ≠ x.endL → (t.block k i).st = .idle ∨ (t.block k i).st = .runnable) ∧
      ∀ j < 6, (x.edge j).used = true → idModule (x.edge j).nid ≠ s.modId →
        (idModule (x.edge j).nid, .level (x.edge j).nid (x.edge j).peer (blockId s k i) lv lv (lv == x.endL)) ∈ t.outbox) ∧
    (lv % x.step = 0 → 2 ^ 30 ≤ d.natAbs → (s.core s.cur.1).tvec ≠ 0 → s.me.bound = none →
      ∃ t, exec (.bstart a b p) s = .next t ∧ t.me.pc = (s.core s.cur.1).tvec.setWidth 64 <<< 2 ∧
        t.me.xval = BitVec.ofNat 64 (x.endL % 2 ^ 32 + lv * 2 ^ 32) ∧ t.block k i = x)) ∧
  (∀ (p : BitVec 4) (s : State), Runs (.bnext p) s → Readable [] [1, 2, 3, 4, 5, 6, 7] s → s.cur.2 < 8 →
    (s.me.bound.isSome = true ∨ s.me.far.isSome = true → (s.core s.cur.1).tvec ≠ 0 →
      ∃ t, exec (.bnext p) s = .next t ∧ Traps s.me.pc ⟨.illOperand, (encode (.bnext p)).setWidth 64, 0⟩ s t) ∧
    (s.me.bound = none → s.me.far = none →
      let open_ : Prop := ∃ e ∈ (s.cluster (s.cur.1 / 16)).blocks, some e.2.dom = domainOf s s.me ∧
        e.2.st ∈ [BState.idle, .runnable, .running, .held, .frozen]
      (¬open_ → ∃ t, exec (.bnext p) s = .next t ∧
        Does id (fun x => { x with bnext := x.pc }.put 1 (BitVec.allOnes 64)) s t) ∧
      (open_ → ∃ t, exec (.bnext p) s = .next t ∧ Frame id s t ∧ (t.slot s.cur.1 s.cur.2).state = .wait .bnext ∧
        t.me = { s.me with entry := false, icnt := s.me.icnt + 1, bnext := s.me.pc }))) ∧
  (∀ (p : BitVec 4) (s : State) (k i : Nat), s.me.bound = some (k, i) →
    let c := s.cur.1
    let b := s.block k i
    (Runs (.bcommitC p) s → Readable [] [1, 2, 3, 4, 5, 6, 7] s →
      (b.phase = false → ∃ t, exec (.bcommitC p) s = .next t ∧ t.mem = s.mem ∧ OtherBlocksKept s t k i ∧
        t.block k i = { b with phase := true } ∧
        t.cores = (ranTo b.upc (fun x =>
          (((((((x.put 1 (BitVec.ofNat 64 (blockId s k i))).put 2 (BitVec.ofNat 64 b.l)).put 3
            (BitVec.ofNat 64 (2 ^ b.logs))).put 4 (if b.cur then b.slot1 else b.slot0)).put 5
            (if b.cur then b.slot0 else b.slot1)).put 6 b.hb).put 7 b.g7)) s).cores) ∧
      (b.phase = true → (s.core c).tvec ≠ 0 → ∃ t, exec (.bcommitC p) s = .next t ∧
        Traps s.me.pc ⟨.illOperand, (encode (.bcommitC p)).setWidth 64, 0⟩ s t)) ∧
    (Runs (.bcommit p) s → b.phase = true →
      (quiet s c s.me.uid = false → ∃ t, exec (.bcommit p) s = .next t ∧ Waits id .bcommit s t) ∧
      (quiet s c s.me.uid = true →
        (∀ j < 6, (b.edge j).used = true → (b.edge j).nv = true →
          (levelDiff (b.l + b.step) (b.edge j).nl).natAbs < 2 ^ 30) →
        let new := (b.l + b.step) % 2 ^ 32
        let writes := (List.range 6).filter fun j => (b.edge j).used && (b.edge j).wr
        ∃ (t : State) (xs : List Command), exec (.bcommit p) s = .next t ∧ t.mem = s.mem ∧
          t.me = { s.me with entry := false, icnt := s.me.icnt + 1, bound := none, pc := s.me.bnext + 4 } ∧
          (t.block k i).cur = (!b.cur) ∧ (t.block k i).lp = b.l ∧ (t.block k i).l = new ∧
          (t.block k i).pushes = b.pushes + writes.length ∧
          (new = b.endL → (t.block k i).st = .done) ∧
          (new ≠ b.endL → b.dom ∈ s.frozenDoms → (t.block k i).st = .frozen) ∧
          (new ≠ b.endL → b.dom ∉ s.frozenDoms → (t.block k i).st = .idle ∨ (t.block k i).st = .runnable) ∧
          getQ t k 6 = getQ s k 6 ++ xs.map QItem.cmd ∧
          xs.map (fun x => (x.src, x.dst, x.len, x.started)) = writes.map (fun j =>
            ((if b.cur then b.slot0 else b.slot1) + BitVec.ofNat 64 (b.edge j).soff,
              (b.edge j).dst + BitVec.ofNat 64 (64 * (b.edge j).nhsz * (new / 2 ^ b.logs % 2)), (b.edge j).flen, false)) ∧
          ∀ j < 6, (b.edge j).used = true → (b.edge j).wr = false → idModule (b.edge j).nid ≠ s.modId →
            (idModule (b.edge j).nid,
              .level (b.edge j).nid (b.edge j).peer (blockId s k i) new b.l (new == b.endL)) ∈ t.outbox)) ∧
    (Runs (.bfrzB p) s → ∃ t, exec (.bfrzB p) s = .next t ∧ (b.wrote = [] → t.mem = s.mem) ∧
      (s.mem.wf = true → ∀ a, (∀ x ∈ b.wrote, a < x.1 ∨ x.1 + x.2 ≤ a) → memByte t.mem a = memByte s.mem a) ∧
      (b.st ≠ .held → t.me = { s.me with entry := false, icnt := s.me.icnt + 1, bound := none, pc := s.me.bnext }) ∧
      (b.st = .held → t.me =
        { s.me with entry := false, icnt := s.me.icnt + 1, bound := none, xpc := s.me.bnext, pc := s.me.pc + 4 }) ∧
      (t.block k i).l = b.l ∧ (t.block k i).lp = b.lp ∧ (t.block k i).cur = b.cur ∧
      (b.dom ∈ s.frozenDoms → (t.block k i).st = .frozen) ∧
      (b.dom ∉ s.frozenDoms → (t.block k i).st = .idle ∨ (t.block k i).st = .runnable))) ∧
  ∀ (p : BitVec 4) (s : State), s.me.bound = none → (s.core s.cur.1).tvec ≠ 0 →
    (Runs (.bcommit p) s → ∃ t, exec (.bcommit p) s = .next t ∧
      Traps s.me.pc ⟨.illOperand, (encode (.bcommit p)).setWidth 64, 0⟩ s t) ∧
    (Runs (.bfrzB p) s → ∃ t, exec (.bfrzB p) s = .next t ∧
      Traps s.me.pc ⟨.illOperand, (encode (.bfrzB p)).setWidth 64, 0⟩ s t)

/-- R241, R242, R294, R297, R299, R300, R305: where BSTART, BNEXT, BCOMMIT.C, BCOMMIT and BFRZ.B complete, and what each
message of a steal and the time-out of a LENT mark do, for every operand and every state that meets the conditions named. -/
def Obligations.TimeFrontAndStealFormsComplete : Prop :=
  (∀ (a b p : BitVec 4) (s : State) (k i lv : Nat), Runs (.bstart a b p) s → Readable [a, b] [] s →
    blockOperand s (s.me.get a) = some (k, i) → s.me.get b = BitVec.ofNat 64 lv → lv < 2 ^ 32 →
    (s.block k i).st = .defined → lv % (s.block k i).step = 0 → 0 ≤ levelDiff (s.block k i).endL lv →
    levelDiff (s.block k i).endL lv < 2 ^ 30 →
    ∃ t, exec (.bstart a b p) s = .next t ∧ (t.block k i).l = lv ∧ (t.block k i).lp = lv ∧ (t.block k i).cur = false ∧
      ((t.block k i).st = .done ↔ lv = (s.block k i).endL) ∧ t.me.pc = s.me.pc + 4 ∧ t.me.icnt = s.me.icnt + 1 ∧
      t.me.g = s.me.g ∧ t.mem = s.mem) ∧
  (∀ (p : BitVec 4) (s : State), Runs (.bnext p) s → Readable [] [1, 2, 3, 4, 5, 6, 7] s → s.cur.2 < 8 → s.me.bound = none →
    s.me.far = none →
    (∀ e ∈ (s.cluster (s.cur.1 / 16)).blocks, some e.2.dom = domainOf s s.me →
      e.2.st = .free ∨ e.2.st = .defined ∨ e.2.st = .done) →
    ∃ t, exec (.bnext p) s = .next t ∧ t.me.get 1 = BitVec.allOnes 64 ∧ t.me.bnext = s.me.pc ∧ t.me.bound = none ∧
      (∀ r, r ≠ 1 → t.me.get r = s.me.get r) ∧ t.me.pc = s.me.redir.getD (s.me.pc + 4) ∧ t.me.icnt = s.me.icnt + 1 ∧
      t.mem = s.mem ∧ t.clusters = s.clusters) ∧
  (∀ (p : BitVec 4) (s : State) (k i : Nat), s.me.bound = some (k, i) →
    let b := s.block k i
    (Runs (.bcommitC p) s → Readable [] [1, 2, 3, 4, 5, 6, 7] s → b.phase = false →
      ∃ t, exec (.bcommitC p) s = .next t ∧ t.block k i = { b with phase := true } ∧ t.me.pc = b.upc ∧
        t.me.get 1 = BitVec.ofNat 64 (blockId s k i) ∧ t.me.get 2 = BitVec.ofNat 64 b.l ∧
        t.me.get 3 = BitVec.ofNat 64 (2 ^ b.logs) ∧ t.me.get 4 = b.slot b.cur ∧ t.me.get 5 = b.slot (!b.cur) ∧
        t.me.get 6 = b.hb ∧ t.me.get 7 = b.g7 ∧ t.me.bound = s.me.bound ∧ t.mem = s.mem) ∧
    (Runs (.bcommit p) s → b.phase = true → quiet s s.cur.1 s.me.uid = true →
      (∀ e ∈ b.edges.toList, e.used = true → e.nv = true → (levelDiff (b.l + b.step) e.nl).natAbs < 2 ^ 30) →
      ∃ t, exec (.bcommit p) s = .next t ∧ (t.block k i).l = (b.l + b.step) % 2 ^ 32 ∧ (t.block k i).lp = b.l ∧
        (t.block k i).cur = (!b.cur) ∧ ((t.block k i).st = .done ↔ (b.l + b.step) % 2 ^ 32 = b.endL) ∧ t.me.bound = none ∧
        t.me.pc = s.me.bnext + 4 ∧ t.me.icnt = s.me.icnt + 1 ∧ t.me.g = s.me.g ∧ t.mem = s.mem) ∧
    (Runs (.bfrzB p) s → ∃ t, exec (.bfrzB p) s = .next t ∧ (t.block k i).phase = false ∧ (t.block k i).l = b.l ∧
      (t.block k i).lp = b.lp ∧ (t.block k i).cur = b.cur ∧ (t.block k i).st ≠ .running ∧ t.me.bound = none ∧
      (if b.st = .held then t.me.xpc = s.me.bnext ∧ t.me.pc = s.me.pc + 4
        else t.me.xpc = s.me.xpc ∧ t.me.pc = s.me.bnext) ∧ t.me.icnt = s.me.icnt + 1 ∧ t.me.g = s.me.g)) ∧
  ∀ (n c v tag : Nat) (s : State) (r : TaskRec),
    let rest := s.flight.eraseIdx n
    (s.flight[n]? = some (.stealRequest c v) → ∃ t x, exec (.stealRequest n) s = .next t ∧ t.flight = rest ++ [x] ∧
      (x = .stealEmpty c v ↔ (s.core v).det = true ∨ (s.core v).preempted ≠ [] ∨
        ∀ e ∈ (s.core v).deque, e.lent.isSome = true) ∧
      (x ≠ .stealEmpty c v → ∃ task, x = .stealRecord c v s.serial task) ∧ t.mem = s.mem) ∧
    (s.flight[n]? = some (.stealRecord c v tag r) → ∃ t x, exec (.stealRecord n) s = .next t ∧ t.flight = rest ++ [x] ∧
      x = (if firstIdle s c = none ∧ (s.core c).preempted ≠ [] then .stealReject c v tag else .stealAck c v tag) ∧
      t.mem = s.mem) ∧
    (s.flight[n]? = some (.stealEmpty c v) → ∃ t, exec (.stealEmpty n) s = .next t ∧ t.flight = rest ∧
      (t.core c).steal = none ∧ (t.core c).stealCursor = some v ∧ t.mem = s.mem) ∧
    (s.flight[n]? = some (.stealAck c v tag) → ∃ t x, exec (.stealAck n) s = .next t ∧ t.flight = rest ++ [x] ∧
      (x = .stealVoid c v ↔ ∀ e ∈ (s.core v).deque, e.lent.map Prod.fst ≠ some tag) ∧
      (x ≠ .stealVoid c v → x = .stealConfirm c v ∧
        (t.core v).deque.length + 1 = (s.core v).deque.length) ∧ t.mem = s.mem) ∧
    (s.flight[n]? = some (.stealConfirm c v) → (s.core c).stolen = some r → r.pc &&& 3 = 0 → ∃ t, exec (.stealConfirm n) s = .next t ∧
      t.flight = rest ∧ (t.core c).steal = none ∧ (t.core c).lastVictim = some v ∧
      (∀ m, firstIdle s c = some m → t.waiting c m = none ∧ (t.strand c m).pc = (s.strand c m).redir.getD r.pc) ∧
      (firstIdle s c = none → (t.core c).deque.length = (s.core c).deque.length + 1) ∧ t.mem = s.mem) ∧
    (s.flight[n]? = some (.stealVoid c v) → ∃ t, exec (.stealVoid n) s = .next t ∧ t.flight = rest ∧
      (t.core c).steal = none ∧ (t.core c).stealCursor = some v ∧ t.mem = s.mem) ∧
    ((∃ e ∈ (s.core v).deque, ∃ x, e.lent = some x ∧ x.2 + 4096 ≤ s.cyc) → ∃ t, exec (.lentTimeout v) s = .next t ∧
      (t.core v).deque.map DequeEntry.task = (s.core v).deque.map DequeEntry.task ∧
      (∀ e ∈ (t.core v).deque, ∀ x, e.lent = some x → s.cyc < x.2 + 4096) ∧ t.mem = s.mem ∧ t.flight = s.flight)

/-- R283, R305, R306, R309-R311: BLVL reads a block's level word; BFRZ.D starts a freeze, which stops the IDLE and RUNNABLE
blocks of the domain, and waits for it; BTHAW sets the FROZEN blocks IDLE; BFRONT stores the images of the domain's blocks
and waits for them; a drain that expires abandons the running updates, and a freeze that is complete gives their number. That
BLVL and BTHAW complete at their issue, where the rules let them wait, is DEDUCED (log 8). -/
def Obligations.DomainsFreezeAndThaw : Prop :=
  (∀ (d a p : BitVec 4) (s : State) (k i : Nat), Runs (.blvl d a p) s → Readable [a] [d] s →
    blockOperand s (s.me.get a) = some (k, i) →
    let b := s.block k i
    let code : Nat := match b.st with
      | .free => 0 | .defined => 1 | .idle => 2 | .runnable => 3 | .running => 4 | .held => 5 | .frozen => 6 | .done => 7
    exec (.blvl d a p) s = .next (ran (fun x => x.put d (BitVec.ofNat 64 (b.l + b.logs * 2 ^ 32 + code * 2 ^ 40 +
      (if b.spanf then 2 ^ 45 else 0) + if b.pushf then 2 ^ 46 else 0))) s)) ∧
  (∀ (d a p : BitVec 4) (s : State) (v : Word), Runs (.blvl d a p) s → Readable [a] [d] s → s.me.get a = v →
    blockOperand s v = none → (s.core s.cur.1).tvec ≠ 0 →
    ∃ t, exec (.blvl d a p) s = .next t ∧ Traps s.me.pc ⟨.illOperand, v, 0⟩ s t) ∧
  (∀ (d a p : BitVec 4) (s : State) (dom : Nat), dom < 2 ^ 16 → s.me.get a = BitVec.ofNat 64 dom → s.me.mode = true →
    (Runs (.bfrzD d a p) s → Readable [a] [d] s →
      (dom ∈ s.frozenDoms → (∀ f ∈ s.freezes, f.dom ≠ dom) →
        exec (.bfrzD d a p) s = .next (ran (fun x => x.put d 0) s)) ∧
      ((∃ f ∈ s.freezes, f.dom = dom) → ∃ t, exec (.bfrzD d a p) s = .next t ∧ Waits id (.bfrzD dom d) s t) ∧
      (dom ∉ s.frozenDoms → (∀ f ∈ s.freezes, f.dom ≠ dom) →
        ∃ t, exec (.bfrzD d a p) s = .next t ∧ CoreFrame id s t ∧ t.mem = s.mem ∧
          t.waiting s.cur.1 s.cur.2 = some (.bfrzD dom d) ∧ t.frozenDoms = s.frozenDoms ++ [dom] ∧
          t.freezes = s.freezes ++ [⟨dom, s.cyc, [], 0⟩] ∧
          ∀ k i, t.block k i =
            if (s.block k i).dom = dom ∧ ((s.block k i).st = .idle ∨ (s.block k i).st = .runnable) then
              { s.block k i with st := .frozen }
            else s.block k i)) ∧
    (Runs (.bthaw a p) s → Readable [a] [] s → ∃ t, exec (.bthaw a p) s = .next t ∧ t.cores = (ran id s).cores ∧
      t.mem = s.mem ∧ t.frozenDoms = s.frozenDoms.filter (· ≠ dom) ∧
      ∀ k i, ((s.block k i).dom = dom → (s.block k i).st = .frozen →
          (t.block k i).st = .idle ∨ (t.block k i).st = .runnable) ∧
        ((s.block k i).dom ≠ dom → (s.block k i).st = .frozen → (t.block k i).st = .frozen) ∧
        (t.block k i).l = (s.block k i).l)) ∧
  (∀ (d a b p : BitVec 4) (s : State) (dom : Nat) (pl : Nat → Nat → Place), Runs (.bfront d a b p) s →
    Readable [a, b] [d] s → dom < 2 ^ 16 → s.me.get b = BitVec.ofNat 64 dom → mayName s dom = true →
    let c := s.cur.1
    let va := s.me.get a
    let images := domainImages s dom
    let at_ (m j : Nat) : Word := va + BitVec.ofNat 64 (512 * m) + BitVec.ofNat 64 (8 * j)
    let es := images.zipIdx.flatMap fun x => (List.range 64).map fun j =>
      entryFor s .plain (at_ x.2 j) (pl x.2 j).loc 8 (BitVec.ofNat 64 (x.1.getD j 0))
    (va.toNat % 64 = 0 → images = [] → quiet s c s.me.uid = true →
      ∃ t, exec (.bfront d a b p) s = .next t ∧ Does id (fun x => x.put d 0) s t) ∧
    (va.toNat % 64 = 0 → images ≠ [] → FirstForRoom s → (s.core c).sb.length ≤ 32 →
      (∀ m j, m < images.length → j < 64 → checkAccess s c s.me.rights (.store none) (at_ m j) 8 = .ok (pl m j)) →
      ∃ t, exec (.bfront d a b p) s = .next t ∧ t.mem = s.mem ∧ t.clusters = s.clusters ∧
        t.me = { s.me with entry := false, icnt := s.me.icnt + 1 } ∧
        (t.core c).sb = (s.core c).sb ++ es.take (32 - (s.core c).sb.length) ∧
        ∃ begun, t.waiting c s.cur.2 =
          some (.storeRoom (es.drop (32 - (s.core c).sb.length)) (.front d images.length va) none begun)) ∧
    (va.toNat % 64 ≠ 0 → (s.core c).tvec ≠ 0 →
      ∃ t, exec (.bfront d a b p) s = .next t ∧ Traps s.me.pc ⟨.align, va, 0⟩ s t)) ∧
  ∀ (dom : Nat) (s : State) (f : Freeze), s.freezes = [f] → f.dom = dom →
    (∀ k, k ∉ f.expired → f.since + (s.cluster k).fdrain ≤ s.cyc →
      ∃ t, exec (.freezeDrainExpiry dom k) s = .next t ∧
        t.freezes = [{ f with expired := f.expired ++ [k], abandoned := f.abandoned + (toAbandon s k dom).length }] ∧
        (∀ i ∈ toAbandon s k dom, (s.block k i).dom = dom → dom ∈ s.frozenDoms → (t.block k i).st = .frozen) ∧
        ((∀ x ∈ (s.cluster k).blocks, x.2.dom = dom → x.2.st ≠ .running ∧ x.2.st ≠ .held) →
          t.mem = s.mem ∧ t.cores = s.cores ∧ (∀ j, j ≠ k → t.cluster j = s.cluster j) ∧
            ((∀ x ∈ (s.cluster k).blocks, x.2.st ≠ .idle) → t.clusters = s.clusters))) ∧
    (∀ k, s.cyc < f.since + (s.cluster k).fdrain → exec (.freezeDrainExpiry dom k) s = .next s) ∧
    (∀ (c n : Nat) (d : BitVec 4), n < 9 → tabRising s.cores = true → s.waiting c n = some (.bfrzD dom d) →
      (∀ c' n' e d', s.waiting c' n' = some (.bfrzD e d') → (c', n') = (c, n)) →
      (∀ x ∈ s.clusters, ∀ b ∈ x.2.blocks, b.2.st ≠ .free → b.2.dom = dom → x.1 ∈ f.expired) →
      (∀ k, ∀ b ∈ (s.cluster k).blocks, b.2.dom = dom →
        b.2.pushes = 0 ∧ b.2.st ≠ .running ∧ b.2.st ≠ .held) →
      (∀ x ∈ s.clusters, ∀ y f', .cmd y ∈ x.2.faceQ → y.face = some f' → f'.dom ≠ dom) →
      ∃ t, exec (.freezeComplete dom) s = .next t ∧ t.freezes = [] ∧ t.mem = s.mem ∧ t.frozenDoms = s.frozenDoms ∧
        t.waiting c n = none ∧
        t.strand c n = ((s.strand c n).put d (BitVec.ofNat 64 f.abandoned)).goTo ((s.strand c n).pc + 4))

/-- R286, R288, R293, R296, R297, R301-R303: a dispatch gives the lowest RUNNABLE block to the worker that has waited longest;
a face push that is complete notifies its reader, and one that faults marks its block; a notification, half of a link, a
clearing and a new RFREE reach their edge slots and are answered; the answers let the waiting instruction go on. That half of a
link waits for a BNBR which crosses it, and what its answer does when the own block has been freed, linked there or started
meanwhile, is DEDUCED (log 27). -/
def Obligations.TheFrontMovesByItsMessages : Prop :=
  (∀ (k i c n : Nat) (s : State), (nextDispatch s k).1 = some (i, c, n) → tabRising (s.cluster k).blocks = true →
    let b := s.block k i
    (b.st = .runnable ∧ b.spanf = false ∧ b.dom ∉ s.frozenDoms ∧ s.waiting c n = some .bnext ∧ c / 16 = k ∧
      domainOf s (s.strand c n) = some b.dom) ∧
    (∀ c' n', s.waiting c' n' = some .bnext → c' / 16 = k → domainOf s (s.strand c' n') = some b.dom →
      let a := (s.slot c n).waitAt
      let b := (s.slot c' n').waitAt
      a < b ∨ a = b ∧ (c < c' ∨ c = c' ∧ n ≤ n')) ∧
    ((∀ x ∈ (s.cluster k).blocks, x.2.l < 2 ^ 30) → ∀ x ∈ (s.cluster k).blocks, x.2.st = .runnable → x.2.spanf = false →
      x.2.dom ∉ s.frozenDoms →
      (∃ c' n', s.waiting c' n' = some .bnext ∧ c' / 16 = k ∧ domainOf s (s.strand c' n') = some x.2.dom) →
      b.l < x.2.l ∨ b.l = x.2.l ∧ (x.2.logs < b.logs ∨ x.2.logs = b.logs ∧ i ≤ x.1)) ∧
    ∃ (t : State) (m : Word), exec (.asterDispatch k) s = .next t ∧ t.mem = s.mem ∧
      (∀ j < 64, m.getLsbD j = (decide (j < 6) && (b.edge j).used && (b.edge j).rd && decide (b.l ≠ (b.edge j).nl) &&
        decide (b.l ≠ (b.edge j).nlp))) ∧
      let interp : Bool := decide (m ≠ 0) && decide (b.ipc ≠ 0)
      t.block k i = { b with st := .running, phase := !interp, g7 := m, wrote := [] } ∧ OtherBlocksKept s t k i ∧
        t.waiting c n = none ∧
        t.strand c n =
          { ((((((((s.strand c n).put 1 (BitVec.ofNat 64 (blockId s k i))).put 2 (BitVec.ofNat 64 b.l)).put 3
              (BitVec.ofNat 64 (2 ^ b.logs))).put 4 (if b.cur then b.slot1 else b.slot0)).put 5
              (if b.cur then b.slot0 else b.slot1)).put 6 b.hb).put 7 m) with
            bound := some (k, i), pc := if interp then b.ipc else b.upc }) ∧
  (∀ (k : Nat) (s : State) (x : Command) (f : FacePush) (rest : EngineQ), getQ s k 6 = .cmd x :: rest → x.face = some f →
    x.started = true →
    let mine := decide ((s.block k f.entry).defn = f.defn)
    (x.len ≤ x.off → settled true s x.cid = true → ∃ t, exec (.facePushComplete k) s = .next t ∧ t.mem = s.mem ∧
      getQ t k 6 = rest ∧ (t.block k f.entry).pushes = (s.block k f.entry).pushes - (if mine then 1 else 0) ∧
      SentTo t (idModule f.nid) (.level f.nid f.peer (blockId s k f.entry) f.l f.lp f.done)) ∧
    (∀ p st side, x.status = none → x.off < x.len → nextTurn s k = some p → rotationQ p = 6 → x.sync = none →
      f.edge < 6 → checkAccess s x.core x.rights .load (x.src + BitVec.ofNat 64 x.off) 1 = .error st →
      ∃ t, exec (.facePushFault k side) s = .next t ∧ t.mem = s.mem ∧ getQ t k 6 = rest ∧ t.flight = s.flight ∧
        t.outbox = s.outbox ∧ (t.block k f.entry).pushf = ((s.block k f.entry).pushf || mine) ∧
        (t.block k f.entry).pushes = (s.block k f.entry).pushes - (if mine then 1 else 0) ∧
        let e := (s.block k f.entry).edge f.edge
        (mine = true → e.used = true → e.nid = f.nid → (t.block k f.entry).edge f.edge =
          { e with pfc := causeCode st.cause, pfa := x.src + BitVec.ofNat 64 x.off }))) ∧
  (∀ (n block j fr : Nat) (s : State) (k i : Nat), blockAt s block = some (k, i) → j < 6 →
    let b := s.block k i
    let e := b.edge j
    (∀ l lp done, s.msg n = some (.level block j fr l lp done) → e.used = true → e.nid = fr →
      ∃ t, exec (.levelNotification n) s = .next t ∧ t.mem = s.mem ∧ t.flight = s.flight.eraseIdx n ∧
        (t.block k i).edge j = { e with nl := l, nlp := lp, nv := true, ndone := done } ∧
        (2 ^ 30 ≤ (levelDiff l b.l).natAbs → (t.block k i).spanf = true ∧ (t.cluster k).spanHit = true)) ∧
    (∀ l lp done l' lp' done', s.flight[n]? = some (.level block j fr l lp done) →
      .level block j fr l' lp' done' ∈ s.flight.take n → exec (.levelNotification n) s = .next s) ∧
    (∀ w, s.msg n = some (.linkClear block j fr w) → w ≠ 0 → wasPerformed s (idModule fr) (sendNo w) = false →
      ∃ t, exec (.asterLinkClear n) s = .next t ∧ t.mem = s.mem ∧ SentTo t (idModule fr) (.confirm w s.modId) ∧
        (t.block k i).edge j = if e.nid = fr then { e with used := false } else e) ∧
    (∀ free w, s.msg n = some (.rfree block j fr free w) → w ≠ 0 → wasPerformed s (idModule fr) (sendNo w) = false →
      ∃ t, exec (.asterRfreeUpdate n) s = .next t ∧ t.mem = s.mem ∧ SentTo t (idModule fr) (.confirm w s.modId) ∧
        (t.block k i).edge j = if e.used = true ∧ e.nid = fr then { e with rfree := free } else e) ∧
    (∀ h w, s.msg n = some (.linkInstall block j h w) → wasPerformed s (idModule h.nid) (sendNo w) = false →
      linkCrosses s k i j h = false →
      (b.st = .defined → b.dom = h.dom → e.used = false → namesBlock b h.nid = false → h.flenOther ≤ 64 * b.hsz →
        h.soff + h.flen ≤ 64 * b.ssz →
        (h.wr = true → ruleOvr h.ruleOther = true → ruleNeed h.ruleOther ≤ defaultNeed (2 ^ h.nlogs) b.step) →
        (h.rd = true → ruleOvr h.rule = true → ruleNeed h.rule ≤ defaultNeed b.step (2 ^ h.nlogs)) →
        ∃ t, exec (.asterLinkInstall n) s = .next t ∧ t.mem = s.mem ∧ OtherBlocksKept s t k i ∧
          t.block k i = { b with edges := b.edges.setIfInBounds j (halfEdge h) } ∧
          SentTo t (idModule h.nid)
            (.linked w s.modId h.nid b.logs b.hsz (b.hb + BitVec.ofNat 64 (128 * b.hsz * j)))) ∧
      (b.st ≠ .defined ∨ b.dom ≠ h.dom ∨ e.used = true ∨ namesBlock b h.nid = true →
        ∃ t, exec (.asterLinkInstall n) s = .next t ∧ t.clusters = s.clusters ∧
        SentTo t (idModule h.nid) (.linkRefused w s.modId ⟨.illOperand, h.xb, 0⟩)))) ∧
  ∀ (n w c m : Nat) (s : State) (op : WaitOp), waiterOf s w = some (c, m, op) →
    let k := c / 16
    let x := s.strand c m
    (∀ fr todo left d free, s.flight[n]? = some (.confirm w fr) → op = .confirm todo left d free →
      let rest := left.filter fun y => y.1 != w
      (todo ≠ [] ∨ rest ≠ [] → exec (.asterConfirm n) s =
        .next (((takeMsg n s).answered w).setState c m (.wait (.confirm todo rest d free)))) ∧
      (todo = [] → rest = [] → ∃ t, exec (.asterConfirm n) s = .next t ∧ t.mem = s.mem ∧
        t.waiting c m = none ∧
        t.strand c m = (match d with
          | some r => x.put r 0
          | none => x).goTo (x.pc + 4) ∧
        (∀ i, free = some i → t.block k i = Block.reset) ∧ (free = none → t.clusters = s.clusters))) ∧
    (∀ i e half f fr blk nlogs nhsz dst, s.flight[n]? = some (.linked w fr blk nlogs nhsz dst) → op = .link w i e half f → e < 6 →
      let b := s.block k i
      (b.st ≠ .free → b.defn = f → (b.edge e).used = false → namesBlock b half.nid = false →
        ∃ t, exec (.asterConfirm n) s = .next t ∧ t.mem = s.mem ∧ t.waiting c m = none ∧ t.strand c m = x.goTo (x.pc + 4) ∧
          (t.block k i).edge e = { half with nlogs := nlogs, nhsz := nhsz, dst := dst } ∧
          (b.st ≠ .defined → SentTo t (idModule half.nid)
            (.level half.nid half.peer (blockId s k i) b.l b.lp (decide (b.st = .done))))) ∧
      (b.st = .free ∨ b.defn ≠ f ∨ (b.edge e).used = true ∨ namesBlock b half.nid = true → (s.core c).tvec ≠ 0 → ∃ t, exec (.asterConfirm n) s = .next t ∧
        t.mem = s.mem ∧ t.waiting c m = none ∧ (t.strand c m).pc = (s.core c).tvec.setWidth 64 <<< 2 ∧
        (t.strand c m).xval = BitVec.ofNat 64 (blockId s k i) ∧
        SentTo t (idModule half.nid) (.linkClear half.nid half.peer (blockId s k i) 0))) ∧
    ∀ i e half f fr st, s.flight[n]? = some (.linkRefused w fr st) → op = .link w i e half f → e < 6 → isFpCause st.cause = false →
      (s.core c).tvec ≠ 0 →
      ∃ t, exec (.asterConfirm n) s = .next t ∧ t.waiting c m = none ∧ (t.block k i).edge e = (s.block k i).edge e ∧
        (t.strand c m).pc = (s.core c).tvec.setWidth 64 <<< 2 ∧ (t.strand c m).xpc = (x.redir <|> x.redirX).getD x.pc ∧
        (t.strand c m).xval = st.xval ∧
        (t.strand c m).xcause = BitVec.ofNat 64 (causeCode st.cause + if x.mode then 2 ^ 63 else 0)

/-- R255, R256, R313, R316, R322, R323, R379: writes of queue descriptors, tail pointers, MAP registers and TROOT take effect,
are held while a launch runs, or are ignored; a queue with packets is bound to the lowest free slot; a walk fills the TLB. The
model's choices (DEDUCED, log 36): a notification acts whatever EN and ERR hold, and a write of EN leaves the tail as it is. -/
def Obligations.HostWritesMapTheQueues : Prop :=
  (∀ (q : Nat) (w : Word) (s : State), q < 1024 → bitAt s.bootst 8 = true → settled true s 0 = true →
    let x := s.queue q
    let others (t : State) : Prop := ∀ p, p ≠ q → t.queue p = s.queue p
    let takes (y : Queue) (t : State) : Prop :=
      let u : State := { s with queues := tabSet s.queues q y }
      t = { u with maps := t.maps } ∧
        ∀ m < 32, t.map_ m = if runDry u m = true then setBit (s.map_ m) 15 false else s.map_ m
    (bits w 4 0 ≤ 16 → x.en = false ∨ (bitAt w 63 = false ∧ ∀ l ∈ s.launches, l.2.queue ≠ q) → s.mapWait = [] →
      ∃ t, exec (.queueDescriptorWrite q w) s = .next t ∧ takes
        { x with
          log2 := bits w 4 0, irq := bitAt w 5, base := bits w 42 6, en := bitAt w 63, disabling := none
          head := if bitAt w 63 then 0 else x.head
          err := if bitAt w 63 then false else x.err } t) ∧
    (bits w 4 0 ≤ 16 → x.en = true → bitAt w 63 = false → (∃ l ∈ s.launches, l.2.queue = q) →
      ∃ t, exec (.queueDescriptorWrite q w) s = .next t ∧ t = { s with queues := t.queues } ∧ others t ∧
        t.queue q = { x with disabling := some w }) ∧
    (16 < bits w 4 0 ∨ (x.en = true ∧ bitAt w 63 = true) → exec (.queueDescriptorWrite q w) s = .next s) ∧
    (let tail := bits w 15 0
      let count := (tail + 2 ^ 16 - x.head) % 2 ^ 16
      let y : Queue := if 2 ^ x.log2 < count then { x with err := true } else { x with tail := tail }
      ((boundSlot s q).isSome = true ∨ y.tail = x.head → s.mapWait = [] →
        ∃ t, exec (.queueNotify q w) s = .next t ∧ takes y t) ∧
      (boundSlot s q = none → y.tail ≠ x.head → s.mapWait = [] →
        (∀ m < 32, runDry { s with queues := tabSet s.queues q y } m = false) →
        ∃ t, exec (.queueNotify q w) s = .next t ∧ others t ∧ t.queue q = y ∧
          (∀ n < 32, mapBound (s.map_ n) = false → s.launch n = none →
            (∀ m < n, mapBound (s.map_ m) = true ∨ (s.launch m).isSome = true) →
            t.mapWait = [] ∧ t.maps = s.maps.setIfInBounds n (BitVec.ofNat 64 (q + 2 ^ 15))) ∧
          ((∀ m < 32, mapBound (s.map_ m) = true ∨ (s.launch m).isSome = true) →
            t.mapWait = [q] ∧ t.maps = s.maps)))) ∧
  (∀ (n : Nat) (w : Word) (s : State), n < 32 → bits w 63 16 = 0 → bits w 13 10 = 0 → s.mapWait = [] →
    settled true s 0 = true →
    (s.launch n = none → mapBound w = false ∨ boundSlot s (mapQueue w) = none ∨ boundSlot s (mapQueue w) = some n →
      let u : State := { s with maps := s.maps.setIfInBounds n w }
      ∃ t, exec (.mapWrite n w) s = .next t ∧ t = { s with maps := t.maps } ∧
        ∀ m < 32, t.map_ m = if runDry u m = true then setBit (u.map_ m) 15 false else u.map_ m) ∧
    (∀ m, s.launch n = none → mapBound w = true → boundSlot s (mapQueue w) = some m → m ≠ n →
      exec (.mapWrite n w) s = .next s) ∧
    ((s.launch n).isSome = true → mapBound w ≠ mapBound (s.map_ n) → ∃ t, exec (.mapWrite n w) s = .next t ∧
      t.maps = s.maps ∧ tabFind t.mapHeld n = some w)) ∧
  (∀ (w : Word) (s : State), settled true s 0 = true →
    (bits w 63 43 = 0 → bits w 17 0 = 0 → s.launches = [] → ∃ t, exec (.trootWrite w) s = .next t ∧ t.troot = w ∧
      t.mem = s.mem ∧ t.cores = s.cores ∧ (∀ k, (t.cluster k).tlb = []) ∧ (∀ d, (t.die d).tlb = []) ∧ t.ioTlbs = []) ∧
    (bits w 63 43 = 0 → bits w 17 0 = 0 → s.launches ≠ [] →
      exec (.trootWrite w) s = .next { s with trootHeld := some w }) ∧
    (bits w 63 43 ≠ 0 ∨ bits w 17 0 ≠ 0 → exec (.trootWrite w) s = .next s)) ∧
  ∀ (k : Nat) (va : Word) (s : State) (r : Range), rangeOf (localPart va) = some r → r.translated = true →
    isOwn s va = true →
    (∀ level e lines, walk s (localPart va) = .leaf level e lines → k < 768 → (s.cluster k).tlb.length < 512 →
      ∃ t, exec (.walkComplete k va) s = .next t ∧ t.mem = s.mem ∧ t.cores = s.cores ∧
        (∀ j, j ≠ k → t.cluster j = s.cluster j) ∧
        (t.cluster k).tlb = ((s.cluster k).tlb.filter fun x => x.base != (tlbEntry level (localPart va) e lines).base) ++
          [tlbEntry level (localPart va) e lines]) ∧
    ∀ level why, walk s (localPart va) = .fault level why → exec (.walkComplete k va) s = .next s

/-- R17, R25, R29-R31, R85, R255-R257, R339: the packet at the head of a bound queue starts or is rejected with its reason; a
launch fills the constant windows and puts its strands in the arrivals; when all that it started is done it leaves its slots
and stores its status; a checked one runs twice, and its digests are compared. The model's choices: the layout of the record
of a mismatch (DESIGN CHOICE, log 52), when all of a launch is done (DEDUCED, log 35), and the byte of an image that cannot be
read (DESIGN CHOICE, log 26). -/
def Obligations.LaunchesRunToTheirCompletion : Prop :=
  (∀ (n : Nat) (s : State), n < 32 → bitAt s.bootst 8 = true → s.fatal = false → mapBound (s.map_ n) = true →
    s.launch n = none →
    let q := mapQueue (s.map_ n)
    let x := s.queue q
    let w (i : Nat) : Word := BitVec.ofNat 64 (s.read (64 * x.base + 64 * (x.head % 2 ^ x.log2) + 8 * i) 8)
    let count := (x.taken + 1) % 2 ^ 32
    let first := bits (w 2) 13 0
    let ncores := bits (w 2) 29 16
    let per := bits (w 3) 3 0
    let clean : Prop := bits (w 2) 15 14 = 0 ∧ bits (w 2) 63 30 = 0 ∧ bits (w 3) 7 4 = 0 ∧ bits (w 3) 15 10 = 0 ∧
      bits (w 3) 31 24 = 0 ∧ bits (w 3) 63 48 = 0 ∧ w 5 = 0 ∧ w 6 = 0 ∧ w 7 = 0
    let l : Launch :=
      { queue := q, count := count, entry := w 0, image := w 1, first := first, ncores := ncores, n := per
        det := bitAt (w 3) 8, check := bitAt (w 3) 9, weight := bits (w 3) 23 16, domain := bits (w 3) 47 32
        compl := w 4, second := false, digestA := 0, away := 0 }
    queueBusy s q = false → x.en = true → x.err = false → x.disabling = none → x.head ≠ x.tail → s.mem.wf = true →
    s.held = [] →
    (1 ≤ per → per ≤ 8 → 1 ≤ ncores → first + ncores ≤ 12288 → clean →
      ∃ t, exec (.launchStart n) s = .next t ∧ t.launch n = some l ∧ (t.queue q).head = (x.head + 1) % 2 ^ 16 ∧
        (t.queue q).taken = x.taken + 1 ∧
        (∀ c, first ≤ c → c < first + ncores →
          ((∀ e ∈ (s.core c).arr, e.strand.mon = []) → ∃ xs : List ArrEntry, (t.core c).arr = (s.core c).arr ++ xs ∧
            xs.map (fun e => { e.strand with uid := 0 }) = (List.range per).map fun i =>
              { Strand.reset with
                pc := w 0, launch := q + count * 2 ^ 10, idx := i, q := n, set := some (first, ncores)
                g := ((Strand.reset.g.set 1 (BitVec.ofNat 64 i)).set 2 (BitVec.ofNat 64 ((c - first) * per + i))).set 14
                  (BitVec.ofNat 64 (0xFFFFFFFFFFFF8000 + 0x800 + (i + 1) * (0x7800 / per / 64 * 64) - 8)) }) ∧
          (t.core c).weights = (s.core c).weights.setIfInBounds n (BitVec.ofNat 8 l.weight) ∧
          (t.core c).reserved = (s.core c).reserved ++ (if l.det = true ∧ n ∉ (s.core c).reserved then [n] else []) ∧
          (∀ i < 1920, memByte t.mem (lsAddr c i) = imageByte s l i) ∧
          ∀ i, ∀ v, [c, c / 16, c / 16 / 96, s.modId, (c - first) * per, q + count * 2 ^ 10, per, c % 16, ncores, n, l.domain,
              (if l.det then 1 else 0) + (if l.check then 2 else 0), (w 1).toNat, 0xFFFFF00000000000 + c * 0x8000, 0,
              0][i]? = some v → t.read (lsAddr c (0x780 + 8 * i)) 8 = v % 2 ^ 64) ∧
        ((∀ c, first ≤ c → c < first + ncores → tierLoad s .queue c + per ≤ 16) →
          ∀ a, (∀ c, first ≤ c → c < first + ncores → a < lsAddr c 0 ∨ lsAddr c 0x800 ≤ a) →
            memByte t.mem a = memByte s.mem a)) ∧
    (per = 0 ∨ 8 < per ∨ ncores = 0 ∨ 12288 < first + ncores ∨ ¬clean →
      ∃ t, exec (.launchStart n) s = .next t ∧ t.launch n = none ∧ (t.queue q).head = (x.head + 1) % 2 ^ 16 ∧
        (t.queue q).taken = x.taken + 1 ∧ (w 4 = 0 → t.cores = s.cores ∧ t.mem = s.mem ∧ t.log = s.log) ∧
        let reason := if per = 0 ∨ 8 < per then 1 else if ncores = 0 then 2 else if 12288 < first + ncores then 3 else 4
        let v := 2 + reason * 2 ^ 8 + count * 2 ^ 16
        ∀ p a, w 4 ≠ 0 → checkAccess s 0 ⟨true, none⟩ (.store none) (w 4) 8 = .ok p → p.loc = .here a →
          regionAt s (localPart (w 4)) = none → ringWordAt a = none → t.read a 8 = v)) ∧
  (∀ (n : Nat) (s : State) (l : Launch),
    (∀ c i, i < 8 → (s.slot c i).state ≠ .empty → (s.strand c i).isOf n = true → s.waiting c i = some .idle) →
    (∀ x ∈ s.cores, x.2.deque = [] ∧ x.2.arr = [] ∧ x.2.sb = [] ∧ x.2.spill = [] ∧ x.2.avgQ = []) → s.flight = [] →
    s.pending = [] → s.stale = [] → l.away = 0 → (∀ x ∈ s.clusters, x.2.faceQ = [] ∧ ∀ q ∈ x.2.copyQ.toList, q = []) →
    (∀ x ∈ s.dies, ∀ q ∈ x.2.pq.toList, q = []) →
    kernelDone s n l = true) ∧
  ∀ (n : Nat) (s : State) (l : Launch), s.launch n = some l → kernelDone s n l = true → (s.pctlOf n).busy = false →
    tabRising s.launches = true →
    let ends (t : State) : Prop :=
      t.launch n = none ∧
        ∀ c i, i < 8 → (s.slot c i).state ≠ .empty → (s.strand c i).isOf n = true → (t.slot c i).state = .empty
    (l.check = false → l.compl = 0 → ∃ t, exec (.kernelCompletion n) s = .next t ∧ ends t ∧ t.mem = s.mem ∧
      t.log = s.log ∧
      t.msix = s.msix ++ if (s.queue l.queue).irq then [l.queue] else []) ∧
    (∀ p a, l.check = false → l.compl ≠ 0 → l.count < 2 ^ 32 →
      checkAccess s 0 ⟨true, none⟩ (.store none) l.compl 8 = .ok p → p.loc = .here a →
      regionAt s (localPart l.compl) = none → s.mem.wf = true → ringWordAt a = none → s.held = [] →
      ∃ t, exec (.kernelCompletion n) s = .next t ∧ t.launch n = none ∧ t.read a 8 = 1 + l.count * 2 ^ 16 ∧
        ∀ j, j < a ∨ a + 8 ≤ j → memByte t.mem j = memByte s.mem j) ∧
    (l.check = true → l.second = false → ∃ t, exec (.kernelCompletion n) s = .next t ∧ t.run = true ∧
      t.launch n = some { l with second := true, digestA := runDigest s l }) ∧
    (l.check = true → l.second = true → l.compl = 0 → s.log.length < 4096 →
      (l.digestA = runDigest s l → ∃ t, exec (.kernelCompletion n) s = .next t ∧ ends t ∧ t.mism = false ∧ t.log = s.log) ∧
      (l.digestA ≠ runDigest s l → ∃ t, exec (.kernelCompletion n) s = .next t ∧ ends t ∧ t.mism = true ∧
        t.log = s.log ++
          [⟨5, 0x1E, BitVec.ofNat 64 (l.queue + l.count % 2 ^ 32 * 2 ^ 10), l.digestA, runDigest s l, 0⟩]))

/-- R36, R275, R278, R308, R354-R359: a pre-emption freezes the launch's domain; its request, once the freeze is complete,
withdraws what waits and can be issued again; when nothing is left that cannot be saved, the contexts are saved and the
launch leaves; a resumption brings the contexts to the arrivals again. -/
def Obligations.PreemptionSavesAndResumes : Prop :=
  (∀ (n : Nat) (s : State) (l : Launch), s.launch n = some l → (s.pctlOf n).busy = false → tabFind s.saved n = none →
    settled true s 0 = true → ∃ t, exec (.preempt n) s = .next t ∧ t.cores = s.cores ∧ t.mem = s.mem ∧ (t.pctlOf n).op = 1 ∧ (t.pctlOf n).busy = true ∧
      (t.pctlOf n).reached = [] ∧
      (l.domain ∈ s.frozenDoms → t.clusters = s.clusters ∧ t.freezes = s.freezes ∧ (t.pctlOf n).froze = false) ∧
      (l.domain ∉ s.frozenDoms → t.frozenDoms = s.frozenDoms ++ [l.domain] ∧ (t.pctlOf n).froze = true ∧
        t.freezes = s.freezes ++ [⟨l.domain, s.cyc, [], 0⟩])) ∧
  (∀ (n c : Nat) (s : State) (l : Launch), s.launch n = some l → (s.pctlOf n).busy = true → (s.pctlOf n).op = 1 →
    c ∉ (s.pctlOf n).reached → l.first ≤ c → c < l.first + l.ncores →
    (∀ f ∈ s.freezes, f.dom ≠ l.domain) →
    (∀ i < 8, ∀ op, (s.strand c i).isOf n = true → s.waiting c i = some op →
      op = .bnext ∨ op = .idle ∨ (∃ d m lim, op = .recv d m lim) ∨ ∃ x b m, op = .amo x b m) →
    ∃ t, exec (.preemptRequestArrival n c) s = .next t ∧ t.mem = s.mem ∧ (t.core c).preempted = (s.core c).preempted ++ [n] ∧
      (t.pctlOf n).reached = (s.pctlOf n).reached ++ [c] ∧
      ∀ i < 8,
        ((s.strand c i).isOf n = false ∨ s.waiting c i = none ∨ s.waiting c i = some .idle ∨
          (∃ x b m, s.waiting c i = some (.amo x b m)) → t.slot c i = s.slot c i) ∧
        ((s.strand c i).isOf n = true → (s.waiting c i = some .bnext ∨ ∃ d m lim, s.waiting c i = some (.recv d m lim)) →
          (t.slot c i).state = .ready ∧ t.strand c i = (s.strand c i).goTo (s.strand c i).pc)) ∧
  (∀ (n : Nat) (s : State) (l : Launch), s.launch n = some l → tabRising s.launches = true → (s.pctlOf n).busy = true →
    (s.pctlOf n).op = 1 →
    (saveReady s n l = true → ∃ t sv, exec (.preemptSaveComplete n) s = .next t ∧ t.launch n = none ∧
      tabFind t.saved n = some sv ∧ sv.launch = l ∧ (t.pctlOf n).busy = false ∧ (t.pctlOf n).op = 1 ∧
      (∀ c i, i < 8 → l.first ≤ c → c < l.first + l.ncores → (s.slot c i).state ≠ .empty →
        (s.strand c i).isOf n = true → (t.slot c i).state = .empty ∧
        ∃ y, (c, y) ∈ sv.strands ∧ y.uid = (s.strand c i).uid ∧ y.pc = (s.strand c i).pc ∧ y.g = (s.strand c i).g ∧
          y.full = (s.strand c i).full ∧ y.p = (s.strand c i).p ∧ y.icnt = (s.strand c i).icnt ∧
          (y.idle = true ↔ s.waiting c i = some .idle)) ∧
      ∀ c, l.first ≤ c → c < l.first + l.ncores → (t.core c).deque = [] ∧ (t.core c).recvQ = [] ∧
        n ∉ (t.core c).preempted) ∧
    (saveReady s n l = false → exec (.preemptSaveComplete n) s = .next s)) ∧
  (∀ (n : Nat) (s : State) (sv : Saved), tabFind s.saved n = some sv → (s.pctlOf n).busy = false → s.launch n = none →
    settled true s 0 = true →
    ∃ t, exec (.resume n) s = .next t ∧ t.launch n = some sv.launch ∧ (t.pctlOf n).busy = true ∧ (t.pctlOf n).op = 2 ∧
      tabFind t.saved n = some { sv with items := [] } ∧ t.frozenDoms = s.frozenDoms ∧
      t.run = (if sv.launch.check then sv.launch.second else s.run) ∧
      (s.returning = [] → sv.items = [] → t.returning = []) ∧
      ∀ c, (t.core c).arr.map (fun e => { e.strand with latch := true }) =
        (s.core c).arr.map fun e => { e.strand with latch := true }) ∧
  ∀ (n : Nat) (s : State) (sv : Saved), tabFind s.saved n = some sv → (s.pctlOf n).busy = true → (s.pctlOf n).op = 2 →
    returns s n = false →
    ∃ t, resumeComplete n s = some t ∧ t.launches = s.launches ∧ (t.pctlOf n).busy = false ∧
      (tabRising s.saved = true → tabFind t.saved n = none) ∧
      (∀ c, (t.core c).arr.map (fun e => { e.strand with latch := true }) =
        (s.core c).arr.map (fun e => { e.strand with latch := true }) ++
          (sv.strands.filter fun x => x.1 == c).map fun x => { x.2 with latch := true }) ∧
      (sv.froze = true → sv.launch.domain ∉ t.frozenDoms) ∧ (sv.froze = false → t.frozenDoms = s.frozenDoms)

/-- R16, R152, R354, R375-R383: the host's writes of registers and of its own memory, its reads of five registers, its aperture,
multicast, attestation, boot and firmware. The kinds 8 and 9 of the log records and their layout are the model's choice (DESIGN
CHOICE, log 52), and so is that a failed check of versions leaves the stage as it is (log 41). -/
def Obligations.TheHostPortReadsAndWrites : Prop :=
  (∀ (s : State), settled true s 0 = true → exec .latecntClear s = .next { s with latecnt := 0 }) ∧
  (∀ (s : State) (off : Nat) (v : Word), s.fatal = true ∨ settled true s 0 = true →
    (off, v) ∈ [(0x20, s.latecnt), (0x40, s.mcctl), (0x60, s.mcstat), (0x100, s.troot), (0x800, s.bootst)] →
    step { s with agenda := [.registerRead off] } = .next { s with agenda := [], hostRead := v }) ∧
  (∀ (w : Word) (s : State), bitAt s.bootst 8 = true → settled true s 0 = true →
    (∀ f < 32, f = bits w 4 0 → exec (.registerWrite 0x8 w) s =
      .next (if 16 ≤ f ∧ f ≤ 24 then { s with fto := f, skid := bitAt w 8 } else s)) ∧
    exec (.registerWrite 0x48 w) s = .next { s with mclist := w } ∧
    exec (.registerWrite 0x50 w) s = .next { s with mcsrc := w } ∧
    exec (.registerWrite 0x58 w) s = .next { s with mcdst := w } ∧
    exec (.registerWrite 0x108 w) s = .next { s with apbase := BitVec.ofNat 64 (bits w 42 36 * 2 ^ 36) } ∧
    (∀ n < 32, ∃ t, exec (.registerWrite (0x408 + 16 * n) w) s = .next t ∧
      t = { s with pctl := t.pctl } ∧ t.pctlOf n = { s.pctlOf n with base := BitVec.ofNat 64 (bits w 42 18 * 2 ^ 18) } ∧
      ∀ m, m ≠ n → t.pctlOf m = s.pctlOf m) ∧
    (∀ n < 32, (s.pctlOf n).busy = false → bits w 1 0 = 0 ∨ bits w 1 0 = 3 →
      ∃ t, exec (.registerWrite (0x400 + 16 * n) w) s = .next t ∧ t = { s with pctl := t.pctl } ∧
        t.pctlOf n = { s.pctlOf n with op := bits w 1 0 } ∧ ∀ m, m ≠ n → t.pctlOf m = s.pctlOf m) ∧
    (∀ n < 32, (s.pctlOf n).busy = true → exec (.registerWrite (0x400 + 16 * n) w) s = .next s) ∧
    (∀ j < 4, ∃ v, exec (.registerWrite (0xC00 + 8 * j) w) s = .next { s with nonce := v } ∧
      ∀ i < 256, v.getLsbD i = if 64 * j ≤ i ∧ i < 64 * j + 64 then w.getLsbD (i - 64 * j) else s.nonce.getLsbD i)) ∧
  (∀ (off size : Nat) (w : Word) (s : State), bitAt s.bootst 8 = true →
    settled true s 0 = true → size ∈ [1, 2, 4, 8] → off % size = 0 →
    off + size ≤ 2 ^ 36 →
    let a := s.apbase.toNat + off
    (a + size ≤ 0x30000000000 → s.mem.wf = true → s.held = [] →
      (∃ t, exec (.apertureWrite off size w) s = .next t ∧ t.read a size = w.toNat % 2 ^ (8 * size) ∧
        ∀ j, j < a ∨ a + size ≤ j → memByte t.mem j = memByte s.mem j) ∧
      exec (.apertureRead off size) s = .next { s with hostRead := BitVec.ofNat 64 (s.read a size) }) ∧
    (0x30000000000 < a + size → s.log.length < 4096 →
      (∃ t, exec (.apertureWrite off size w) s = .next t ∧ t.mem = s.mem ∧
        t.log = s.log ++ [⟨8, 0, BitVec.ofNat 64 a, w, 1, 0⟩]) ∧
      ∃ t, exec (.apertureRead off size) s = .next t ∧ t.mem = s.mem ∧ t.log = s.log ++ [⟨8, 0, BitVec.ofNat 64 a, 0, 0, 0⟩] ∧
        t.hostRead = BitVec.ofNat 64 (2 ^ (8 * size) - 1))) ∧
  (∀ (w : Word) (s : State), bitAt w 8 = true → settled true s 0 = true →
    let member (k : Nat) : Nat := s.read (s.mclist.toNat + 8 * k) 8 % 2 ^ 17
    (bitAt s.mcctl 9 = false → poisoned s s.mcsrc.toNat 64 = false → ∃ t, exec (.multicastGo w) s = .next t ∧
      t.mem = s.mem ∧ bits t.mcctl 5 0 = bits w 5 0 ∧
      (∀ k ≤ bits w 5 0, inDomain s (member k) = true → bitAt t.mcctl 9 = true ∧
        SentTo t (member k)
          (.multicast s.modId s.serial s.mcdst.toNat ((List.range 64).map fun i => memByte s.mem (s.mcsrc.toNat + i)))) ∧
      ((∀ k ≤ bits w 5 0, inDomain s (member k) = false) → bitAt t.mcctl 9 = false ∧ bitAt t.mcctl 10 = true ∧
        ∀ j < 64, t.mcstat.getLsbD j = decide (j ≤ bits w 5 0))) ∧
    (bitAt s.mcctl 9 = true → exec (.multicastGo w) s = .next s)) ∧
  (∀ (n from_ no dst : Nat) (data : List Byte) (s : State), s.flight[n]? = some (.multicast from_ no dst data) →
    let fits : Prop := dst % 64 = 0 ∧ data.length = 64 ∧
      (dst + 64 ≤ 0x30000000000 ∨ 0x40000000000 ≤ dst ∧ dst + 64 ≤ 0x80000000000)
    let copy : Prop := from_ ≠ s.modId ∧ wasPerformed s from_ (multicastNo no) = true
    (copy → exec (.multicastLine n) s = .next { s with flight := s.flight.eraseIdx n }) ∧
    (¬copy → fits → s.mem.wf = true → s.held = [] → (dst < 2 ^ 40 → walkedPages s (linesOfRange dst 64) = []) →
      ∃ t, exec (.multicastLine n) s = .next t ∧ t.flight = s.flight.eraseIdx n ∧
        (∀ i < 64, memByte t.mem (dst + i) = data[i]?.getD 0) ∧
        (∀ j, j < dst ∨ dst + 64 ≤ j → memByte t.mem j = memByte s.mem j) ∧
        (from_ ≠ s.modId → t.outbox = s.outbox ++ [(from_, .multicastAck false)])) ∧
    (¬copy → ¬fits → ∃ t, exec (.multicastLine n) s = .next t ∧ t.flight = s.flight.eraseIdx n ∧ t.mem = s.mem ∧
      (from_ ≠ s.modId → t.outbox = s.outbox ++ [(from_, .multicastAck true)]))) ∧
  (∀ (failed : Word) (s : State),
    (bitAt s.mcctl 9 = true → s.mcWait ≠ 0 → ∃ t, exec (.multicastReply failed) s = .next t ∧
      t = { s with
        mcctl := t.mcctl, mcstat := t.mcstat, mcWait := 0, mcLines := [], mcFailed := s.mcFailed ||| (failed &&& s.mcWait) } ∧
      (s.mcOwn = 0 → t.mcstat = t.mcFailed ∧
        ∀ j < 64, t.mcctl.getLsbD j = (if j = 9 then false else if j = 10 then true else s.mcctl.getLsbD j)) ∧
      (s.mcOwn ≠ 0 → t.mcctl = s.mcctl ∧ t.mcstat = s.mcstat)) ∧
    (bitAt s.mcctl 9 = false ∨ s.mcWait = 0 → exec (.multicastReply failed) s = .next s)) ∧
  (∀ s : State, (s.attBusy = false → settled true s 0 = true → exec .attestationGo s = .next { s with attBusy := true }) ∧
    (s.attBusy = true → ∃ r, exec .attestationComplete s = .next { s with attBusy := false, report := r } ∧
      (∀ i < 256, r.getLsbD i = s.nonce.getLsbD i) ∧
      (∀ i < 17, r.getLsbD (768 + i) = (BitVec.ofNat 17 s.modId).getLsbD i) ∧
      ∀ i < 16, r.getLsbD (800 + i) = (BitVec.ofNat 16 s.domain).getLsbD i)) ∧
  (∀ (stage why : Nat) (s : State), bitAt s.bootst 8 = false → bits s.bootst 7 4 = 0 → stage ≤ 3 → why ≤ 3 →
    let now := bits s.bootst 3 0
    let stops (at_ reason : Nat) (t : State) : Prop := t.bootst = BitVec.ofNat 64 (at_ + reason * 2 ^ 4) ∧
      t.log = s.log ++ [⟨9, 0, BitVec.ofNat 64 at_, BitVec.ofNat 64 reason, 0, 0⟩]
    (now ≤ stage → stage ≤ now + 1 → s.log.length < 4096 → ∃ t, exec (.boot stage why) s = .next t ∧ t.mem = s.mem ∧
      (why ≠ 0 → stops stage why t) ∧
      (why = 0 → (∃ x ∈ s.firmware, x.2 < Config.fusedMinimum) → stops now 2 t) ∧
      (why = 0 → (∀ x ∈ s.firmware, Config.fusedMinimum ≤ x.2) →
        t.bootst = BitVec.ofNat 64 (stage + if stage = 3 then 2 ^ 8 else 0) ∧ t.log = s.log)) ∧
    (stage < now ∨ now + 1 < stage → exec (.boot stage why) s = .next s)) ∧
  (∀ (a : Nat) (data : List Byte) (s : State), 0x40000000000 ≤ a → a + data.length ≤ 0x80000000000 → s.mem.wf = true →
    s.held = [] → s.closing = false → ∃ t, step { s with agenda := [.hostWrite a data] } = .next t ∧
      (∀ i < data.length, memByte t.mem (a + i) = data[i]?.getD 0) ∧
      ∀ j, j < a ∨ a + data.length ≤ j → memByte t.mem j = memByte s.mem j) ∧
  ∀ (unit version why : Nat) (s : State), s.log.length < 4096 →
    (why = 0 → Config.fusedMinimum ≤ version → ∃ t, exec (.firmwareUpdate unit version why) s = .next t ∧
      t = { s with firmware := t.firmware } ∧ tabFind t.firmware unit = some version) ∧
    (why ≠ 0 ∨ version < Config.fusedMinimum → ∃ t, exec (.firmwareUpdate unit version why) s = .next t ∧
      t.firmware = s.firmware ∧ t.mem = s.mem ∧
      t.log = s.log ++
        [⟨9, 0, BitVec.ofNat 64 (unit + 2 ^ 32), BitVec.ofNat 64 (if why = 0 then 2 else why), BitVec.ofNat 64 version, 0⟩])

/-- R105, R206, R361-R363, R366, R367, R371-R374: frames deliver the packets of the module's domain in order; a frame whose tag fails
delivers nothing and is retried once before the link ends; links come up where the group's wiring leads, take a new key and go
down; a load that waits for a removed module ends with REMOTE_TIMEOUT, and the escrow toward it is forfeited; errors are logged and
counted, poison a line, trap the strand that reads a lost register, or hold the module, with what it dumps in the second tier (where there is the model's choice, log 39). The kinds 3, 4
and 6 of the log records, their layout and the numbers of the units are the model's choice too (DESIGN CHOICE, log 52). -/
def Obligations.LinksAndErrorsAreHandled : Prop :=
  (∀ (port : Nat) (msgs : List Msg) (s : State), port < Config.ports →
    let l := s.link port
    let again := ((openRequests s).filter fun x => Config.routeUses x.1 x.2.1 port).map fun x => (x.1, x.2.2)
    (l.up = true → l.retry = false →
      exec (.linkFrame port false msgs) s = .next (s.modLink port fun x => { x with retry := true })) ∧
    (l.up = true → l.retry = true → s.log.length < 4096 → ∃ t, exec (.linkFrame port false msgs) s = .next t ∧
      (t.link port).up = false ∧ t.flight = s.flight ∧ t.mem = s.mem ∧ t.cores = s.cores ∧
      t.log = s.log ++ [⟨4, 0x1F, BitVec.ofNat 64 (256 + port), 0, 0, 0⟩]) ∧
    (l.up = false → ∀ ok, exec (.linkFrame port ok msgs) s = .next s) ∧
    (l.up = true → l.frames + 1 < 2 ^ 48 →
      (∀ m ∈ msgs, (∀ la data, m ≠ .bytes la data) ∧ atPort port m = m ∧ reachesAgent m = true ∧ sameDomain l s m = true) →
      ∃ t, exec (.linkFrame port true msgs) s = .next t ∧ t.flight = s.flight ++ msgs ∧ t.mem = s.mem ∧
        t.cores = s.cores ∧ (t.link port).frames = l.frames + 1 ∧ (t.link port).heard = s.cyc ∧
        (t.link port).retry = false) ∧
    (l.up = true → l.frames + 1 = 2 ^ 48 → ∃ t, exec (.linkFrame port true []) s = .next t ∧ (t.link port).frames = 0 ∧
      (t.link port).key = Config.linkKey s.serial) ∧
    (l.up = true → (∀ m ∈ msgs, sameDomain l s (atPort port m) = false) → ∃ t, exec (.linkFrame port true msgs) s = .next t ∧ t.flight = s.flight ∧
      t.mem = s.mem ∧ t.cores = s.cores ∧ t.latecnt = s.latecnt + BitVec.ofNat 64 msgs.length ∧
      t.discards = s.discards + msgs.length) ∧
    (∀ far, port < 32 → wired s.modId port far = true → groupOfModule far = groupOfModule s.modId ∧ far ≠ s.modId ∧
      pointDot (indexOfModule s.modId) (indexOfModule far) = 0) ∧
    (∀ far dom boot, wired s.modId port far = false → exec (.linkBringUp port far dom boot) s = .next s) ∧
    (∀ far dom boot, l.up = false → wired s.modId port far = true → ∃ t, exec (.linkBringUp port far dom boot) s = .next t ∧ t.mem = s.mem ∧
      t.cores = s.cores ∧ (t.link port).up = true ∧ (t.link port).far = far ∧ (t.link port).dom = dom ∧
      (t.link port).boot = boot ∧ (t.link port).frames = 0 ∧ (t.link port).heard = s.cyc ∧
      (dom = s.domain → far ∈ t.peers ∧ far ∉ t.removed) ∧
      (dom ≠ s.domain → t.peers = s.peers ∧ t.removed = s.removed) ∧
      ∀ e r, tabFind s.regions e = some r → ∃ r', tabFind t.regions e = some r' ∧ r'.count = tabDel r.count port) ∧
    (l.up = true → ∃ t, exec (.linkRekey port) s = .next t ∧ (t.link port).up = true ∧ (t.link port).frames = 0 ∧
      (t.link port).key = Config.linkKey s.serial ∧ t.mem = s.mem ∧ t.cores = s.cores) ∧
    (l.up = true → l.heard + 2400 ≤ s.cyc → ∃ t, exec (.linkControlTimeout port) s = .next t ∧
      (t.link port).up = false ∧ t = { s with links := t.links, outbox := s.outbox ++ again }) ∧
    (s.cyc < l.heard + 2400 → exec (.linkControlTimeout port) s = .next s) ∧
    (l.up = true → ∃ t, exec (.linkDown port) s = .next t ∧ (t.link port).up = false ∧
      t = { s with links := t.links, outbox := s.outbox ++ again }) ∧
    (l.up = true → s.log.length < 4096 → ∀ lasting, ∃ t, exec (.fabricTransferError port lasting) s = .next t ∧
      t.mem = s.mem ∧ (t.link port).up = (!lasting) ∧
      t.log = s.log ++ [⟨if lasting then 4 else 3, 0x1F, BitVec.ofNat 64 (256 + port), 0, 0, 0⟩])) ∧
  (∀ (w : Word) (s : State), settled true s 0 = true →
    let m := bits w 16 0
    (m = s.modId → exec (.moduleRemove w) s = .next s) ∧
    (m ≠ s.modId → ∃ t, exec (.moduleRemove w) s = .next t ∧ m ∈ t.removed ∧ t.modId = s.modId ∧
      (s.mcLines = [] → (∀ x ∈ s.cores, x.2.claims = []) → (∀ k q, getQ s k q = []) → s.dies = [] →
        ((∀ p ∈ s.pending, p.module ≠ m) → (∀ c n, s.waiting c n = none) →
          t.cores = s.cores ∧ t.mem = s.mem ∧ t.pending = s.pending ∧
          (∀ port < Config.ports, (s.link port).far = m → (t.link port).unacked = []) ∧
          ∀ (port since : Nat) (k : LupPkt) (e : Nat) (r : Region), port < Config.ports → (s.link port).far = m →
            (s.link port).unacked = [(k, since)] → (∀ q, q ≠ port → (s.link q).unacked = []) →
            tabFind s.regions e = some r → regionAt s k.va = some (e, r) →
            let half (j : Nat) : Int := if j < 7 then (k.q[j]?.getD 0).toInt else ((k.q[j]?.getD 0).toNat : Int)
            ∃ r', tabFind t.regions e = some r' ∧ r'.applied = r.applied ∧ ∀ (j : Nat) (h : j < 8),
              r'.escrow[j] = r.escrow[j] - BitVec.ofInt 128 (half j) ∧
              r'.forfeit[j] = r.forfeit[j] + BitVec.ofInt 128 (half j)) ∧
        ∀ (c n : Nat) (p : Pending) (e : Elem) (d : BitVec 4) (signed plain : Bool), s.pending = [p] → p.module = m →
          p.store = false → s.find p.uid = some (c, n) → n < 9 →
          s.waiting c n = some (.load [e] (.scalar d signed plain) none) →
          (∀ c' n', (c', n') ≠ (c, n) → s.waiting c' n' = none) → (∃ a, e.loc = .there m a) → e.val = none →
          e.tag = p.tag → (∀ x ∈ s.flight, ∀ a, x ≠ .answer p.tag a) → (s.core c).sb = [] → 0 < e.size →
          (s.core c).tvec ≠ 0 →
          t.pending = [] ∧ t.waiting c n = none ∧ t.mem = s.mem ∧ (t.strand c n).g = (s.strand c n).g ∧
          (t.strand c n).xval = p.va ∧ (t.strand c n).xaux = BitVec.ofNat 64 m ∧
          (t.strand c n).xcause = BitVec.ofNat 64 (0x18 + if (s.strand c n).mode then 2 ^ 63 else 0) ∧
          (t.strand c n).pc = (s.core c).tvec.setWidth 64 <<< 2))) ∧
  (∀ (line : Nat) (lasting : Bool) (s : State), s.log.length < 4096 →
    ∃ t, exec (.memoryEccError line lasting) s = .next t ∧ t.mem = s.mem ∧ t.cores = s.cores ∧
      t.log = s.log ++ [⟨if lasting then 4 else 3, 0x19, 0, BitVec.ofNat 64 (64 * line), 0, 0⟩] ∧
      (lasting = true → line ∈ t.poison ∧ ∀ j, j ≠ line → (j ∈ t.poison ↔ j ∈ s.poison)) ∧
      (lasting = false → t.poison = s.poison ∧ tabGet 0 t.errors 0 = tabGet 0 s.errors 0 + 1)) ∧
  (∀ (c n : Nat) (r : BitVec 4) (syn : Word) (s : State), n < 9 → (s.slot c n).state = .ready → r ≠ 0 →
    (s.strand c n).isEmpty r = false → (s.core c).tvec ≠ 0 → s.log.length < 4096 →
    ∃ t, exec (.registerEccError c n r syn) s = .next t ∧ t.mem = s.mem ∧ (t.strand c n).get r = 0 ∧
      (∀ q, q ≠ r → (t.strand c n).get q = (s.strand c n).get q) ∧
      (t.strand c n).xcause = BitVec.ofNat 64 (0x1F + if (s.strand c n).mode then 2 ^ 63 else 0) ∧
      (t.strand c n).xval = r.setWidth 64 ∧ (t.strand c n).xaux = syn ∧
      (t.strand c n).xpc = ((s.strand c n).redir <|> (s.strand c n).redirX).getD (s.strand c n).pc ∧
      (t.strand c n).pc = (s.core c).tvec.setWidth 64 <<< 2 ∧
      (∀ w i, fetchWord { s with cur := (c, n) } = .ok w → decode w = .ok i → i.limits = true →
        guardHolds (s.strand c n) i.guardField = true → readsBeside i = true → (t.strand c n).viu = true) ∧
      t.log = s.log ++ [⟨4, 0x1F, 1, BitVec.ofNat 64 (n + c * 2 ^ 16), syn, 0⟩]) ∧
  (∀ (unit index : Nat) (syn : Word) (s : State), ∃ t, exec (.fatalError unit index syn) s = .next t ∧ t.fatal = true ∧
    t.log = s.log ∧ t.launches = s.launches ∧ step { t with agenda := [] } = .fault .moduleHeld ∧
    (s.mem.wf = true → s.held = [] →
      (∀ i < t.dump.length, memByte t.mem (0x10000000000 + Config.dumpArea.val + i) = t.dump[i]?.getD 0) ∧
      ∀ j < 0x10000000000, memByte t.mem j = memByte s.mem j)) ∧
  (∀ (c n : Nat) (syn : Word) (s : State), s.fatal = false → s.log.length < 4096 →
    ∃ t, step { s with agenda := [.registerRetried c n syn] } = .next t ∧ t.cores = s.cores ∧ t.mem = s.mem ∧
      tabGet 0 t.errors 1 = tabGet 0 s.errors 1 + 1 ∧
      t.log = s.log ++ [⟨3, 0x1F, 1, BitVec.ofNat 64 (n + c * 2 ^ 16), syn, 0⟩]) ∧
  (∀ (unit : Nat) (s : State), s.fatal = false → ∃ t, step { s with agenda := [.corrected unit] } = .next t ∧
    tabGet 0 t.corrections unit = tabGet 0 s.corrections unit + 1 ∧ t.mem = s.mem ∧ t.cores = s.cores) ∧
  (∀ (hold : Bool) (s : State), exec (.powerLimitHold hold) s = .next { s with powerHold := hold }) ∧
  ∀ s : State, s.log.length < 4096 →
    (s.minute + 144000000000 ≤ s.cyc → ∃ t, exec .discardCountRecord s = .next t ∧ t.discards = 0 ∧ t.minute = s.cyc ∧
      t.log = s.log ++ [⟨6, 0, BitVec.ofNat 64 s.discards, 0, 0, 0⟩] ∧ t.mem = s.mem) ∧
    (s.cyc < s.minute + 144000000000 → exec .discardCountRecord s = .next s)

/-- R207, R312, R364-R366: a core that has been idle for 16,384 cycles is gated, in steps; a wake before the commit point
stops the gating, one after it is latched, and one of a gated core brings it back; a module reset counts a boot, leaves the
cores, the clusters, the launches, TROOT, the MAP registers, the cycle count and the hold of a fatal error at their reset values,
and memory as it is but for the ring descriptors and trap records. That it keeps memory, the module's ID, its domain and the trap
log is the model's choice (DESIGN CHOICE, log 2). -/
def Obligations.CoresAreGatedAndTheModuleResets : Prop :=
  (∀ (c t0 : Nat) (s : State), c < 12288 → (s.core c).gating = .ungated → (s.core c).idleSince = some t0 → eligible (s.core c) = true →
    (t0 + 16384 ≤ s.cyc → exec (.gatingEntry c) s =
      .next (s.modCore c fun x => { x with gating := .gating s.cyc false false })) ∧
    (s.cyc < t0 + 16384 → exec (.gatingEntry c) s = .next s)) ∧
  (∀ (c t0 : Nat) (latched : Bool) (s : State),
    ((s.core c).gating = .gating t0 false latched → t0 + 64 ≤ s.cyc → exec (.gatingCommit c) s =
      .next (s.modCore c fun x => { x with gating := .gating t0 true latched })) ∧
    ((s.core c).gating = .gating t0 true latched → t0 + 96 ≤ s.cyc → exec (.gated c) s =
      .next (s.modCore c fun x => { x with gating := if latched then .waking s.cyc else .gated })) ∧
    ((s.core c).gating = .gating t0 false latched → s.cyc < t0 + 64 → exec (.wakeEvent c) s =
      .next (s.modCore c fun x => { x with gating := .ungated, idleSince := none })) ∧
    ((s.core c).gating = .gating t0 false false → t0 + 64 ≤ s.cyc → exec (.wakeEvent c) s =
      .next (s.modCore c fun x => { x with gating := .gating t0 false true })) ∧
    ((s.core c).gating = .gating t0 true false → exec (.wakeEvent c) s =
      .next (s.modCore c fun x => { x with gating := .gating t0 true true })) ∧
    ((s.core c).gating = .gated → exec (.wakeEvent c) s =
      .next (s.modCore c fun x => { x with gating := .waking s.cyc })) ∧
    ((s.core c).gating = .waking t0 → t0 < s.cyc → exec (.ungatingComplete c) s =
      .next (s.modCore c fun x => { x with gating := .ungated, idleSince := none }))) ∧
  ∀ s : State, s.mem.wf = true → ∃ t, exec .moduleReset s = .next t ∧ t.boots = s.boots + 1 ∧ t.cores = [] ∧
    t.clusters = [] ∧ t.launches = [] ∧ t.troot = 0 ∧ t.maps = Vector.replicate 32 0 ∧ t.cyc = 0 ∧ t.fatal = false ∧
    t.modId = s.modId ∧ t.domain = s.domain ∧ t.log = s.log ∧ t.mem.wf = true ∧
    ∀ a, memByte t.mem a =
      if 0x600000000000 ≤ a ∧ a < 0x600000000000 + 768 * 0x100000 ∧ (a - 0x600000000000) % 0x100000 / 0x100 = 0xEFF then 0
      else memByte s.mem a

/-- R139, R148, R149, R312, R362, R377-R379: what the module holds right after reset, and what a strand's context holds at
placement; that memory reads as zeros and lists nothing is the model's choice (log 1). -/
def Obligations.ResetLeavesTheStatedValues : Prop :=
  (∀ c, (State.reset.core c).tvec = 0 ∧ (State.reset.core c).splim = 64 ∧ (State.reset.core c).det = false ∧
    ∀ n, csrRead State.reset c n 0x030 = 0 ∧ csrRead State.reset c n 0x031 = 64 ∧ csrRead State.reset c n 0x033 = 0 ∧
      csrRead State.reset c n 0x040 = 4096 ∧ csrRead State.reset c n 0x041 = 0 ∧
      csrRead State.reset c n 0x050 = 0x20001 ∧ csrRead State.reset c n 0xC00 = 0 ∧
      (State.reset.slot c n).owner = none ∧ (State.reset.slot c n).state = .empty) ∧
  (Strand.reset.fpc = 0 ∧ Strand.reset.fps = 0 ∧ Strand.reset.ctxw = 16 ∧ Strand.reset.stdom = 1 ∧ Strand.reset.icnt = 0 ∧
    Strand.reset.xpc = 0 ∧ Strand.reset.xcause = 0 ∧ Strand.reset.xval = 0 ∧ Strand.reset.xaux = 0 ∧
    Strand.reset.mode = false ∧ Strand.reset.ridx = 0 ∧ Strand.reset.viu = false ∧ Strand.reset.spl = false ∧
    (∀ j, (Strand.reset.axisOf j).kind = 0 ∧ (Strand.reset.axisOf j).pos = 0 ∧ (Strand.reset.axisOf j).elem = 0) ∧
    ∀ r, Strand.reset.get r = 0 ∧ Strand.reset.isEmpty r = false ∧ Strand.reset.isClipped r = false) ∧
  (∀ n < 32, State.reset.map_ n = 0) ∧ (∀ k, (State.reset.cluster k).tlb = []) ∧ State.reset.fto = 22 ∧
  State.reset.skid = false ∧ State.reset.mcctl = 0 ∧
  (∀ q, State.reset.queue q = ⟨0, false, 0, false, 0, false, 0, 0, none⟩) ∧ State.reset.log = [] ∧
  State.reset.mem.wf = true ∧ ∀ a, memByte State.reset.mem a = 0

/-- R63, R72, R100: a step issues the instruction that the word at the PC decodes to; a word that no instruction has, and a
fetch that faults, take their traps; the word is the four bytes at the PC, little-endian, as its core finds them. What the
next step does is the head of the agenda, or the module's own choice (log 3). -/
def Obligations.AStepRunsTheDecodedInstruction : Prop :=
  (∀ (c n : Nat) (s : State) (rest : List Choice), s.agenda = .issue c :: rest → s.fatal = false →
    s.closing = false →
    let s1 : State := { s with agenda := rest, cur := (c, n) }
    pickSlot { s with agenda := rest } c = some n →
    (∀ w i, fetchWord s1 = .ok w → decode w = .ok i → step s = exec i s1) ∧
    (∀ w e, fetchWord s1 = .ok w → decode w = .error e → step s = exec (.wordNotAnInstruction w) s1) ∧
    ∀ st, fetchWord s1 = .error st → step s = exec .instructionFetchFault s1) ∧
  (∀ (c n : Nat) (s : State), s.agenda = [] → s.fatal = false → s.closing = false →
    firstEvent (earlyEvents s) s = none → firstResume s = none → firstIssue s = some (c, n) →
    let s1 : State := { s with cur := (c, n) }
    (∀ w i, fetchWord s1 = .ok w → decode w = .ok i → step s = exec i s1) ∧
    (∀ w e, fetchWord s1 = .ok w → decode w = .error e → step s = exec (.wordNotAnInstruction w) s1) ∧
    ∀ st, fetchWord s1 = .error st → step s = exec .instructionFetchFault s1) ∧
  (∀ (i : Instr) (s : State) (rest : List Choice), s.agenda = .happen i :: rest →
    let s1 : State := { s with agenda := rest }
    (s.fatal = false ∨ happensHeld (.happen i) = true → s.closing = false ∨ happensLast s (.happen i) = true →
      (limitOf i = none → step s = exec i s1) ∧
      ∀ f, limitOf i = some f → ∀ t, exec i s1 = .next t →
        step s = .next (if (f s1).isSome then { t with closing := true } else t)) ∧
    (s.fatal = true ∧ happensHeld (.happen i) = false ∨ s.closing = true ∧ happensLast s (.happen i) = false →
      step s = .next s1)) ∧
  ∀ (s : State) (p : Place) (a : Nat), checkAccess s s.cur.1 s.me.rights .fetch s.me.pc 4 = .ok p → p.loc = .here a →
    poisoned s a 4 = false → fetchWord s = .ok (BitVec.ofNat 32 (bytesHeld s s.cur.1 a 4))

/-- Words of the spec's worked encodings decode to the instructions that they stand for, and reserved ones to none. -/
def Obligations.WorkedEncodingsDecode : Prop :=
  decode 0x67144030 = .ok (.std 12 5 256 0) ∧ decode 0x68D14120 = .ok (.ldw 3 4 5 0) ∧
  decode 0x699C0230 = .ok (.lddAcq 6 7 0 0) ∧ decode 0x80A64000 = .ok (.vadd 1 2 3 1 0 0) ∧
  decode 0xB4D14000 = .ok (.gcfg 3 4 5 0) ∧ decode 0xC9D24000 = .ok (.cpy 7 4 9 0) ∧
  decode 0xD0A540B0 = .ok (.bfront 2 9 5 0) ∧ decode 0x04000000 = .ok .nop ∧
  decode 0x68000270 = .error .illFn ∧ decode 0x6E914200 = .error .illMbz

/-- R63-R72: no bit of an encoding is dropped: the word of every instruction that a word can hold, with every operand at every
value that its encoding admits, decodes to that instruction. -/
def Obligations.DecodeUndoesEncode : Prop :=
  ∀ i : Instr, i.Encodable → decode (encode i) = .ok i

/-- R63-R72: a word has one meaning: a word that decodes to an instruction is the word of that instruction. -/
def Obligations.EncodeUndoesDecode : Prop :=
  ∀ (w : IWord) (i : Instr), decode w = .ok i → i.Encodable ∧ encode i = w

/-- Every step keeps memory in its one canonical form, so that equal memories are equal data. -/
def Obligations.StepsKeepMemoryCanonical : Prop :=
  ∀ s t : State, s.mem.wf = true → step s = .next t → t.mem.wf = true
end

