-- ==== Sys2Proof/Laws/Tables.lean ====
section
/-! SUPPORT. Reads after writes of the sparse tables. -/

namespace Sys2Proof.Machine

@[simp] theorem tabFind_tabSet_same {α : Type} (t : Tab α) (x : Nat) (v : α) : tabFind (tabSet t x v) x = some v := by
  induction t with
  | nil => simp [tabSet, tabFind]
  | cons p t ih =>
    unfold tabSet
    split
    · simp [tabFind]
    · split <;> simp_all [tabFind]

theorem tabFind_tabSet_other {α : Type} (t : Tab α) {x y : Nat} (v : α) (h : y ≠ x) :
    tabFind (tabSet t x v) y = tabFind t y := by
  induction t with
  | nil => simp [tabSet, tabFind, h]
  | cons p t ih =>
    unfold tabSet
    split
    · simp [tabFind, h]
    · split
      · rename_i e; subst e; simp [tabFind, h]
      · simp [tabFind, ih]

@[simp] theorem tabGet_tabSet_same {α : Type} (d : α) (t : Tab α) (x : Nat) (v : α) : tabGet d (tabSet t x v) x = v := by
  simp [tabGet]

theorem tabGet_tabSet_other {α : Type} (d : α) (t : Tab α) {x y : Nat} (v : α) (h : y ≠ x) :
    tabGet d (tabSet t x v) y = tabGet d t y := by
  simp [tabGet, tabFind_tabSet_other t v h]

@[simp] theorem tabSet_tabSet {α : Type} (t : Tab α) (x : Nat) (u v : α) : tabSet (tabSet t x u) x v = tabSet t x v := by
  induction t with
  | nil => simp [tabSet]
  | cons p t ih =>
    by_cases h1 : x < p.1
    · simp [tabSet, h1]
    · by_cases h2 : x = p.1
      · simp [tabSet, h2]
      · simp [tabSet, h1, h2, ih]

end Sys2Proof.Machine
end

