-- ==== Sys2Proof/Laws/State.lean ====
section
/-! SUPPORT. One lemma per field and update of the state: what the updates of one core, slot, strand, cluster, die and link
leave alone, and what they write. -/

namespace Sys2Proof.Machine

@[simp] theorem State.modCore_cyc (s : State) (c : Nat) (f : Core → Core) : (s.modCore c f).cyc = s.cyc := rfl
@[simp] theorem State.modCore_agenda (s : State) (c : Nat) (f : Core → Core) : (s.modCore c f).agenda = s.agenda := rfl
@[simp] theorem State.modCore_closing (s : State) (c : Nat) (f : Core → Core) : (s.modCore c f).closing = s.closing := rfl
@[simp] theorem State.modCore_cur (s : State) (c : Nat) (f : Core → Core) : (s.modCore c f).cur = s.cur := rfl
@[simp] theorem State.modCore_serial (s : State) (c : Nat) (f : Core → Core) : (s.modCore c f).serial = s.serial := rfl
@[simp] theorem State.modCore_mem (s : State) (c : Nat) (f : Core → Core) : (s.modCore c f).mem = s.mem := rfl
@[simp] theorem State.modCore_poison (s : State) (c : Nat) (f : Core → Core) : (s.modCore c f).poison = s.poison := rfl
@[simp] theorem State.modCore_clusters (s : State) (c : Nat) (f : Core → Core) : (s.modCore c f).clusters = s.clusters := rfl
@[simp] theorem State.modCore_amoQ (s : State) (c : Nat) (f : Core → Core) : (s.modCore c f).amoQ = s.amoQ := rfl
@[simp] theorem State.modCore_held (s : State) (c : Nat) (f : Core → Core) : (s.modCore c f).held = s.held := rfl
@[simp] theorem State.modCore_stale (s : State) (c : Nat) (f : Core → Core) : (s.modCore c f).stale = s.stale := rfl
@[simp] theorem State.modCore_replies (s : State) (c : Nat) (f : Core → Core) : (s.modCore c f).replies = s.replies := rfl
@[simp] theorem State.modCore_pending (s : State) (c : Nat) (f : Core → Core) : (s.modCore c f).pending = s.pending := rfl
@[simp] theorem State.modCore_asks (s : State) (c : Nat) (f : Core → Core) : (s.modCore c f).asks = s.asks := rfl
@[simp] theorem State.modCore_performed (s : State) (c : Nat) (f : Core → Core) : (s.modCore c f).performed = s.performed := rfl
@[simp] theorem State.modCore_returning (s : State) (c : Nat) (f : Core → Core) : (s.modCore c f).returning = s.returning := rfl
@[simp] theorem State.modCore_flight (s : State) (c : Nat) (f : Core → Core) : (s.modCore c f).flight = s.flight := rfl
@[simp] theorem State.modCore_farHeld (s : State) (c : Nat) (f : Core → Core) : (s.modCore c f).farHeld = s.farHeld := rfl
@[simp] theorem State.modCore_outbox (s : State) (c : Nat) (f : Core → Core) : (s.modCore c f).outbox = s.outbox := rfl
@[simp] theorem State.modCore_launches (s : State) (c : Nat) (f : Core → Core) : (s.modCore c f).launches = s.launches := rfl
@[simp] theorem State.modCore_troot (s : State) (c : Nat) (f : Core → Core) : (s.modCore c f).troot = s.troot := rfl
@[simp] theorem State.modCore_trootHeld (s : State) (c : Nat) (f : Core → Core) : (s.modCore c f).trootHeld = s.trootHeld := rfl
@[simp] theorem State.modCore_maps (s : State) (c : Nat) (f : Core → Core) : (s.modCore c f).maps = s.maps := rfl
@[simp] theorem State.modCore_rotated (s : State) (c : Nat) (f : Core → Core) : (s.modCore c f).rotated = s.rotated := rfl
@[simp] theorem State.modCore_modId (s : State) (c : Nat) (f : Core → Core) : (s.modCore c f).modId = s.modId := rfl
@[simp] theorem State.modCore_domain (s : State) (c : Nat) (f : Core → Core) : (s.modCore c f).domain = s.domain := rfl
@[simp] theorem State.modCore_peers (s : State) (c : Nat) (f : Core → Core) : (s.modCore c f).peers = s.peers := rfl
@[simp] theorem State.modCore_removed (s : State) (c : Nat) (f : Core → Core) : (s.modCore c f).removed = s.removed := rfl
@[simp] theorem State.modCore_record (s : State) (c : Nat) (f : Core → Core) : (s.modCore c f).record = s.record := rfl
@[simp] theorem State.modCore_fto (s : State) (c : Nat) (f : Core → Core) : (s.modCore c f).fto = s.fto := rfl
@[simp] theorem State.modCore_skid (s : State) (c : Nat) (f : Core → Core) : (s.modCore c f).skid = s.skid := rfl
@[simp] theorem State.modCore_latecnt (s : State) (c : Nat) (f : Core → Core) : (s.modCore c f).latecnt = s.latecnt := rfl
@[simp] theorem State.modCore_apbase (s : State) (c : Nat) (f : Core → Core) : (s.modCore c f).apbase = s.apbase := rfl
@[simp] theorem State.modCore_bootst (s : State) (c : Nat) (f : Core → Core) : (s.modCore c f).bootst = s.bootst := rfl
@[simp] theorem State.modCore_log (s : State) (c : Nat) (f : Core → Core) : (s.modCore c f).log = s.log := rfl
@[simp] theorem State.modCore_logHead (s : State) (c : Nat) (f : Core → Core) : (s.modCore c f).logHead = s.logHead := rfl
@[simp] theorem State.modCore_logOvf (s : State) (c : Nat) (f : Core → Core) : (s.modCore c f).logOvf = s.logOvf := rfl
@[simp] theorem State.modCore_fatal (s : State) (c : Nat) (f : Core → Core) : (s.modCore c f).fatal = s.fatal := rfl
@[simp] theorem State.modCore_dump (s : State) (c : Nat) (f : Core → Core) : (s.modCore c f).dump = s.dump := rfl
@[simp] theorem State.modCore_dies (s : State) (c : Nat) (f : Core → Core) : (s.modCore c f).dies = s.dies := rfl
@[simp] theorem State.modCore_ioTlbs (s : State) (c : Nat) (f : Core → Core) : (s.modCore c f).ioTlbs = s.ioTlbs := rfl
@[simp] theorem State.modCore_regions (s : State) (c : Nat) (f : Core → Core) : (s.modCore c f).regions = s.regions := rfl
@[simp] theorem State.modCore_boots (s : State) (c : Nat) (f : Core → Core) : (s.modCore c f).boots = s.boots := rfl
@[simp] theorem State.modCore_links (s : State) (c : Nat) (f : Core → Core) : (s.modCore c f).links = s.links := rfl
@[simp] theorem State.modCore_bars (s : State) (c : Nat) (f : Core → Core) : (s.modCore c f).bars = s.bars := rfl
@[simp] theorem State.modCore_seedA (s : State) (c : Nat) (f : Core → Core) : (s.modCore c f).seedA = s.seedA := rfl
@[simp] theorem State.modCore_seedB (s : State) (c : Nat) (f : Core → Core) : (s.modCore c f).seedB = s.seedB := rfl
@[simp] theorem State.modCore_run (s : State) (c : Nat) (f : Core → Core) : (s.modCore c f).run = s.run := rfl
@[simp] theorem State.modCore_mism (s : State) (c : Nat) (f : Core → Core) : (s.modCore c f).mism = s.mism := rfl
@[simp] theorem State.modCore_saved (s : State) (c : Nat) (f : Core → Core) : (s.modCore c f).saved = s.saved := rfl
@[simp] theorem State.modCore_pctl (s : State) (c : Nat) (f : Core → Core) : (s.modCore c f).pctl = s.pctl := rfl
@[simp] theorem State.modCore_queues (s : State) (c : Nat) (f : Core → Core) : (s.modCore c f).queues = s.queues := rfl
@[simp] theorem State.modCore_mapWait (s : State) (c : Nat) (f : Core → Core) : (s.modCore c f).mapWait = s.mapWait := rfl
@[simp] theorem State.modCore_mapHeld (s : State) (c : Nat) (f : Core → Core) : (s.modCore c f).mapHeld = s.mapHeld := rfl
@[simp] theorem State.modCore_msix (s : State) (c : Nat) (f : Core → Core) : (s.modCore c f).msix = s.msix := rfl
@[simp] theorem State.modCore_freezes (s : State) (c : Nat) (f : Core → Core) : (s.modCore c f).freezes = s.freezes := rfl
@[simp] theorem State.modCore_frozenDoms (s : State) (c : Nat) (f : Core → Core) : (s.modCore c f).frozenDoms = s.frozenDoms := rfl
@[simp] theorem State.modCore_mcctl (s : State) (c : Nat) (f : Core → Core) : (s.modCore c f).mcctl = s.mcctl := rfl
@[simp] theorem State.modCore_mclist (s : State) (c : Nat) (f : Core → Core) : (s.modCore c f).mclist = s.mclist := rfl
@[simp] theorem State.modCore_mcsrc (s : State) (c : Nat) (f : Core → Core) : (s.modCore c f).mcsrc = s.mcsrc := rfl
@[simp] theorem State.modCore_mcdst (s : State) (c : Nat) (f : Core → Core) : (s.modCore c f).mcdst = s.mcdst := rfl
@[simp] theorem State.modCore_mcstat (s : State) (c : Nat) (f : Core → Core) : (s.modCore c f).mcstat = s.mcstat := rfl
@[simp] theorem State.modCore_mcOwn (s : State) (c : Nat) (f : Core → Core) : (s.modCore c f).mcOwn = s.mcOwn := rfl
@[simp] theorem State.modCore_mcWait (s : State) (c : Nat) (f : Core → Core) : (s.modCore c f).mcWait = s.mcWait := rfl
@[simp] theorem State.modCore_mcFailed (s : State) (c : Nat) (f : Core → Core) : (s.modCore c f).mcFailed = s.mcFailed := rfl
@[simp] theorem State.modCore_mcSince (s : State) (c : Nat) (f : Core → Core) : (s.modCore c f).mcSince = s.mcSince := rfl
@[simp] theorem State.modCore_mcLines (s : State) (c : Nat) (f : Core → Core) : (s.modCore c f).mcLines = s.mcLines := rfl
@[simp] theorem State.modCore_hostRead (s : State) (c : Nat) (f : Core → Core) : (s.modCore c f).hostRead = s.hostRead := rfl
@[simp] theorem State.modCore_nonce (s : State) (c : Nat) (f : Core → Core) : (s.modCore c f).nonce = s.nonce := rfl
@[simp] theorem State.modCore_attBusy (s : State) (c : Nat) (f : Core → Core) : (s.modCore c f).attBusy = s.attBusy := rfl
@[simp] theorem State.modCore_report (s : State) (c : Nat) (f : Core → Core) : (s.modCore c f).report = s.report := rfl
@[simp] theorem State.modCore_discards (s : State) (c : Nat) (f : Core → Core) : (s.modCore c f).discards = s.discards := rfl
@[simp] theorem State.modCore_minute (s : State) (c : Nat) (f : Core → Core) : (s.modCore c f).minute = s.minute := rfl
@[simp] theorem State.modCore_errors (s : State) (c : Nat) (f : Core → Core) : (s.modCore c f).errors = s.errors := rfl
@[simp] theorem State.modCore_corrections (s : State) (c : Nat) (f : Core → Core) : (s.modCore c f).corrections = s.corrections := rfl
@[simp] theorem State.modCore_firmware (s : State) (c : Nat) (f : Core → Core) : (s.modCore c f).firmware = s.firmware := rfl
@[simp] theorem State.modCore_powerHold (s : State) (c : Nat) (f : Core → Core) : (s.modCore c f).powerHold = s.powerHold := rfl

@[simp] theorem State.modSlot_cyc (s : State) (c n : Nat) (f : Slot → Slot) : (s.modSlot c n f).cyc = s.cyc := rfl
@[simp] theorem State.modSlot_agenda (s : State) (c n : Nat) (f : Slot → Slot) : (s.modSlot c n f).agenda = s.agenda := rfl
@[simp] theorem State.modSlot_closing (s : State) (c n : Nat) (f : Slot → Slot) : (s.modSlot c n f).closing = s.closing := rfl
@[simp] theorem State.modSlot_cur (s : State) (c n : Nat) (f : Slot → Slot) : (s.modSlot c n f).cur = s.cur := rfl
@[simp] theorem State.modSlot_serial (s : State) (c n : Nat) (f : Slot → Slot) : (s.modSlot c n f).serial = s.serial := rfl
@[simp] theorem State.modSlot_mem (s : State) (c n : Nat) (f : Slot → Slot) : (s.modSlot c n f).mem = s.mem := rfl
@[simp] theorem State.modSlot_poison (s : State) (c n : Nat) (f : Slot → Slot) : (s.modSlot c n f).poison = s.poison := rfl
@[simp] theorem State.modSlot_clusters (s : State) (c n : Nat) (f : Slot → Slot) : (s.modSlot c n f).clusters = s.clusters := rfl
@[simp] theorem State.modSlot_amoQ (s : State) (c n : Nat) (f : Slot → Slot) : (s.modSlot c n f).amoQ = s.amoQ := rfl
@[simp] theorem State.modSlot_held (s : State) (c n : Nat) (f : Slot → Slot) : (s.modSlot c n f).held = s.held := rfl
@[simp] theorem State.modSlot_stale (s : State) (c n : Nat) (f : Slot → Slot) : (s.modSlot c n f).stale = s.stale := rfl
@[simp] theorem State.modSlot_replies (s : State) (c n : Nat) (f : Slot → Slot) : (s.modSlot c n f).replies = s.replies := rfl
@[simp] theorem State.modSlot_pending (s : State) (c n : Nat) (f : Slot → Slot) : (s.modSlot c n f).pending = s.pending := rfl
@[simp] theorem State.modSlot_asks (s : State) (c n : Nat) (f : Slot → Slot) : (s.modSlot c n f).asks = s.asks := rfl
@[simp] theorem State.modSlot_performed (s : State) (c n : Nat) (f : Slot → Slot) : (s.modSlot c n f).performed = s.performed := rfl
@[simp] theorem State.modSlot_returning (s : State) (c n : Nat) (f : Slot → Slot) : (s.modSlot c n f).returning = s.returning := rfl
@[simp] theorem State.modSlot_flight (s : State) (c n : Nat) (f : Slot → Slot) : (s.modSlot c n f).flight = s.flight := rfl
@[simp] theorem State.modSlot_farHeld (s : State) (c n : Nat) (f : Slot → Slot) : (s.modSlot c n f).farHeld = s.farHeld := rfl
@[simp] theorem State.modSlot_outbox (s : State) (c n : Nat) (f : Slot → Slot) : (s.modSlot c n f).outbox = s.outbox := rfl
@[simp] theorem State.modSlot_launches (s : State) (c n : Nat) (f : Slot → Slot) : (s.modSlot c n f).launches = s.launches := rfl
@[simp] theorem State.modSlot_troot (s : State) (c n : Nat) (f : Slot → Slot) : (s.modSlot c n f).troot = s.troot := rfl
@[simp] theorem State.modSlot_trootHeld (s : State) (c n : Nat) (f : Slot → Slot) : (s.modSlot c n f).trootHeld = s.trootHeld := rfl
@[simp] theorem State.modSlot_maps (s : State) (c n : Nat) (f : Slot → Slot) : (s.modSlot c n f).maps = s.maps := rfl
@[simp] theorem State.modSlot_rotated (s : State) (c n : Nat) (f : Slot → Slot) : (s.modSlot c n f).rotated = s.rotated := rfl
@[simp] theorem State.modSlot_modId (s : State) (c n : Nat) (f : Slot → Slot) : (s.modSlot c n f).modId = s.modId := rfl
@[simp] theorem State.modSlot_domain (s : State) (c n : Nat) (f : Slot → Slot) : (s.modSlot c n f).domain = s.domain := rfl
@[simp] theorem State.modSlot_peers (s : State) (c n : Nat) (f : Slot → Slot) : (s.modSlot c n f).peers = s.peers := rfl
@[simp] theorem State.modSlot_removed (s : State) (c n : Nat) (f : Slot → Slot) : (s.modSlot c n f).removed = s.removed := rfl
@[simp] theorem State.modSlot_record (s : State) (c n : Nat) (f : Slot → Slot) : (s.modSlot c n f).record = s.record := rfl
@[simp] theorem State.modSlot_fto (s : State) (c n : Nat) (f : Slot → Slot) : (s.modSlot c n f).fto = s.fto := rfl
@[simp] theorem State.modSlot_skid (s : State) (c n : Nat) (f : Slot → Slot) : (s.modSlot c n f).skid = s.skid := rfl
@[simp] theorem State.modSlot_latecnt (s : State) (c n : Nat) (f : Slot → Slot) : (s.modSlot c n f).latecnt = s.latecnt := rfl
@[simp] theorem State.modSlot_apbase (s : State) (c n : Nat) (f : Slot → Slot) : (s.modSlot c n f).apbase = s.apbase := rfl
@[simp] theorem State.modSlot_bootst (s : State) (c n : Nat) (f : Slot → Slot) : (s.modSlot c n f).bootst = s.bootst := rfl
@[simp] theorem State.modSlot_log (s : State) (c n : Nat) (f : Slot → Slot) : (s.modSlot c n f).log = s.log := rfl
@[simp] theorem State.modSlot_logHead (s : State) (c n : Nat) (f : Slot → Slot) : (s.modSlot c n f).logHead = s.logHead := rfl
@[simp] theorem State.modSlot_logOvf (s : State) (c n : Nat) (f : Slot → Slot) : (s.modSlot c n f).logOvf = s.logOvf := rfl
@[simp] theorem State.modSlot_fatal (s : State) (c n : Nat) (f : Slot → Slot) : (s.modSlot c n f).fatal = s.fatal := rfl
@[simp] theorem State.modSlot_dump (s : State) (c n : Nat) (f : Slot → Slot) : (s.modSlot c n f).dump = s.dump := rfl
@[simp] theorem State.modSlot_dies (s : State) (c n : Nat) (f : Slot → Slot) : (s.modSlot c n f).dies = s.dies := rfl
@[simp] theorem State.modSlot_ioTlbs (s : State) (c n : Nat) (f : Slot → Slot) : (s.modSlot c n f).ioTlbs = s.ioTlbs := rfl
@[simp] theorem State.modSlot_regions (s : State) (c n : Nat) (f : Slot → Slot) : (s.modSlot c n f).regions = s.regions := rfl
@[simp] theorem State.modSlot_boots (s : State) (c n : Nat) (f : Slot → Slot) : (s.modSlot c n f).boots = s.boots := rfl
@[simp] theorem State.modSlot_links (s : State) (c n : Nat) (f : Slot → Slot) : (s.modSlot c n f).links = s.links := rfl
@[simp] theorem State.modSlot_bars (s : State) (c n : Nat) (f : Slot → Slot) : (s.modSlot c n f).bars = s.bars := rfl
@[simp] theorem State.modSlot_seedA (s : State) (c n : Nat) (f : Slot → Slot) : (s.modSlot c n f).seedA = s.seedA := rfl
@[simp] theorem State.modSlot_seedB (s : State) (c n : Nat) (f : Slot → Slot) : (s.modSlot c n f).seedB = s.seedB := rfl
@[simp] theorem State.modSlot_run (s : State) (c n : Nat) (f : Slot → Slot) : (s.modSlot c n f).run = s.run := rfl
@[simp] theorem State.modSlot_mism (s : State) (c n : Nat) (f : Slot → Slot) : (s.modSlot c n f).mism = s.mism := rfl
@[simp] theorem State.modSlot_saved (s : State) (c n : Nat) (f : Slot → Slot) : (s.modSlot c n f).saved = s.saved := rfl
@[simp] theorem State.modSlot_pctl (s : State) (c n : Nat) (f : Slot → Slot) : (s.modSlot c n f).pctl = s.pctl := rfl
@[simp] theorem State.modSlot_queues (s : State) (c n : Nat) (f : Slot → Slot) : (s.modSlot c n f).queues = s.queues := rfl
@[simp] theorem State.modSlot_mapWait (s : State) (c n : Nat) (f : Slot → Slot) : (s.modSlot c n f).mapWait = s.mapWait := rfl
@[simp] theorem State.modSlot_mapHeld (s : State) (c n : Nat) (f : Slot → Slot) : (s.modSlot c n f).mapHeld = s.mapHeld := rfl
@[simp] theorem State.modSlot_msix (s : State) (c n : Nat) (f : Slot → Slot) : (s.modSlot c n f).msix = s.msix := rfl
@[simp] theorem State.modSlot_freezes (s : State) (c n : Nat) (f : Slot → Slot) : (s.modSlot c n f).freezes = s.freezes := rfl
@[simp] theorem State.modSlot_frozenDoms (s : State) (c n : Nat) (f : Slot → Slot) : (s.modSlot c n f).frozenDoms = s.frozenDoms := rfl
@[simp] theorem State.modSlot_mcctl (s : State) (c n : Nat) (f : Slot → Slot) : (s.modSlot c n f).mcctl = s.mcctl := rfl
@[simp] theorem State.modSlot_mclist (s : State) (c n : Nat) (f : Slot → Slot) : (s.modSlot c n f).mclist = s.mclist := rfl
@[simp] theorem State.modSlot_mcsrc (s : State) (c n : Nat) (f : Slot → Slot) : (s.modSlot c n f).mcsrc = s.mcsrc := rfl
@[simp] theorem State.modSlot_mcdst (s : State) (c n : Nat) (f : Slot → Slot) : (s.modSlot c n f).mcdst = s.mcdst := rfl
@[simp] theorem State.modSlot_mcstat (s : State) (c n : Nat) (f : Slot → Slot) : (s.modSlot c n f).mcstat = s.mcstat := rfl
@[simp] theorem State.modSlot_mcOwn (s : State) (c n : Nat) (f : Slot → Slot) : (s.modSlot c n f).mcOwn = s.mcOwn := rfl
@[simp] theorem State.modSlot_mcWait (s : State) (c n : Nat) (f : Slot → Slot) : (s.modSlot c n f).mcWait = s.mcWait := rfl
@[simp] theorem State.modSlot_mcFailed (s : State) (c n : Nat) (f : Slot → Slot) : (s.modSlot c n f).mcFailed = s.mcFailed := rfl
@[simp] theorem State.modSlot_mcSince (s : State) (c n : Nat) (f : Slot → Slot) : (s.modSlot c n f).mcSince = s.mcSince := rfl
@[simp] theorem State.modSlot_mcLines (s : State) (c n : Nat) (f : Slot → Slot) : (s.modSlot c n f).mcLines = s.mcLines := rfl
@[simp] theorem State.modSlot_hostRead (s : State) (c n : Nat) (f : Slot → Slot) : (s.modSlot c n f).hostRead = s.hostRead := rfl
@[simp] theorem State.modSlot_nonce (s : State) (c n : Nat) (f : Slot → Slot) : (s.modSlot c n f).nonce = s.nonce := rfl
@[simp] theorem State.modSlot_attBusy (s : State) (c n : Nat) (f : Slot → Slot) : (s.modSlot c n f).attBusy = s.attBusy := rfl
@[simp] theorem State.modSlot_report (s : State) (c n : Nat) (f : Slot → Slot) : (s.modSlot c n f).report = s.report := rfl
@[simp] theorem State.modSlot_discards (s : State) (c n : Nat) (f : Slot → Slot) : (s.modSlot c n f).discards = s.discards := rfl
@[simp] theorem State.modSlot_minute (s : State) (c n : Nat) (f : Slot → Slot) : (s.modSlot c n f).minute = s.minute := rfl
@[simp] theorem State.modSlot_errors (s : State) (c n : Nat) (f : Slot → Slot) : (s.modSlot c n f).errors = s.errors := rfl
@[simp] theorem State.modSlot_corrections (s : State) (c n : Nat) (f : Slot → Slot) : (s.modSlot c n f).corrections = s.corrections := rfl
@[simp] theorem State.modSlot_firmware (s : State) (c n : Nat) (f : Slot → Slot) : (s.modSlot c n f).firmware = s.firmware := rfl
@[simp] theorem State.modSlot_powerHold (s : State) (c n : Nat) (f : Slot → Slot) : (s.modSlot c n f).powerHold = s.powerHold := rfl

@[simp] theorem State.modStrand_cyc (s : State) (c n : Nat) (f : Strand → Strand) : (s.modStrand c n f).cyc = s.cyc := rfl
@[simp] theorem State.modStrand_agenda (s : State) (c n : Nat) (f : Strand → Strand) : (s.modStrand c n f).agenda = s.agenda := rfl
@[simp] theorem State.modStrand_closing (s : State) (c n : Nat) (f : Strand → Strand) : (s.modStrand c n f).closing = s.closing := rfl
@[simp] theorem State.modStrand_cur (s : State) (c n : Nat) (f : Strand → Strand) : (s.modStrand c n f).cur = s.cur := rfl
@[simp] theorem State.modStrand_serial (s : State) (c n : Nat) (f : Strand → Strand) : (s.modStrand c n f).serial = s.serial := rfl
@[simp] theorem State.modStrand_mem (s : State) (c n : Nat) (f : Strand → Strand) : (s.modStrand c n f).mem = s.mem := rfl
@[simp] theorem State.modStrand_poison (s : State) (c n : Nat) (f : Strand → Strand) : (s.modStrand c n f).poison = s.poison := rfl
@[simp] theorem State.modStrand_clusters (s : State) (c n : Nat) (f : Strand → Strand) : (s.modStrand c n f).clusters = s.clusters := rfl
@[simp] theorem State.modStrand_amoQ (s : State) (c n : Nat) (f : Strand → Strand) : (s.modStrand c n f).amoQ = s.amoQ := rfl
@[simp] theorem State.modStrand_held (s : State) (c n : Nat) (f : Strand → Strand) : (s.modStrand c n f).held = s.held := rfl
@[simp] theorem State.modStrand_stale (s : State) (c n : Nat) (f : Strand → Strand) : (s.modStrand c n f).stale = s.stale := rfl
@[simp] theorem State.modStrand_replies (s : State) (c n : Nat) (f : Strand → Strand) : (s.modStrand c n f).replies = s.replies := rfl
@[simp] theorem State.modStrand_pending (s : State) (c n : Nat) (f : Strand → Strand) : (s.modStrand c n f).pending = s.pending := rfl
@[simp] theorem State.modStrand_asks (s : State) (c n : Nat) (f : Strand → Strand) : (s.modStrand c n f).asks = s.asks := rfl
@[simp] theorem State.modStrand_performed (s : State) (c n : Nat) (f : Strand → Strand) : (s.modStrand c n f).performed = s.performed := rfl
@[simp] theorem State.modStrand_returning (s : State) (c n : Nat) (f : Strand → Strand) : (s.modStrand c n f).returning = s.returning := rfl
@[simp] theorem State.modStrand_flight (s : State) (c n : Nat) (f : Strand → Strand) : (s.modStrand c n f).flight = s.flight := rfl
@[simp] theorem State.modStrand_farHeld (s : State) (c n : Nat) (f : Strand → Strand) : (s.modStrand c n f).farHeld = s.farHeld := rfl
@[simp] theorem State.modStrand_outbox (s : State) (c n : Nat) (f : Strand → Strand) : (s.modStrand c n f).outbox = s.outbox := rfl
@[simp] theorem State.modStrand_launches (s : State) (c n : Nat) (f : Strand → Strand) : (s.modStrand c n f).launches = s.launches := rfl
@[simp] theorem State.modStrand_troot (s : State) (c n : Nat) (f : Strand → Strand) : (s.modStrand c n f).troot = s.troot := rfl
@[simp] theorem State.modStrand_trootHeld (s : State) (c n : Nat) (f : Strand → Strand) : (s.modStrand c n f).trootHeld = s.trootHeld := rfl
@[simp] theorem State.modStrand_maps (s : State) (c n : Nat) (f : Strand → Strand) : (s.modStrand c n f).maps = s.maps := rfl
@[simp] theorem State.modStrand_rotated (s : State) (c n : Nat) (f : Strand → Strand) : (s.modStrand c n f).rotated = s.rotated := rfl
@[simp] theorem State.modStrand_modId (s : State) (c n : Nat) (f : Strand → Strand) : (s.modStrand c n f).modId = s.modId := rfl
@[simp] theorem State.modStrand_domain (s : State) (c n : Nat) (f : Strand → Strand) : (s.modStrand c n f).domain = s.domain := rfl
@[simp] theorem State.modStrand_peers (s : State) (c n : Nat) (f : Strand → Strand) : (s.modStrand c n f).peers = s.peers := rfl
@[simp] theorem State.modStrand_removed (s : State) (c n : Nat) (f : Strand → Strand) : (s.modStrand c n f).removed = s.removed := rfl
@[simp] theorem State.modStrand_record (s : State) (c n : Nat) (f : Strand → Strand) : (s.modStrand c n f).record = s.record := rfl
@[simp] theorem State.modStrand_fto (s : State) (c n : Nat) (f : Strand → Strand) : (s.modStrand c n f).fto = s.fto := rfl
@[simp] theorem State.modStrand_skid (s : State) (c n : Nat) (f : Strand → Strand) : (s.modStrand c n f).skid = s.skid := rfl
@[simp] theorem State.modStrand_latecnt (s : State) (c n : Nat) (f : Strand → Strand) : (s.modStrand c n f).latecnt = s.latecnt := rfl
@[simp] theorem State.modStrand_apbase (s : State) (c n : Nat) (f : Strand → Strand) : (s.modStrand c n f).apbase = s.apbase := rfl
@[simp] theorem State.modStrand_bootst (s : State) (c n : Nat) (f : Strand → Strand) : (s.modStrand c n f).bootst = s.bootst := rfl
@[simp] theorem State.modStrand_log (s : State) (c n : Nat) (f : Strand → Strand) : (s.modStrand c n f).log = s.log := rfl
@[simp] theorem State.modStrand_logHead (s : State) (c n : Nat) (f : Strand → Strand) : (s.modStrand c n f).logHead = s.logHead := rfl
@[simp] theorem State.modStrand_logOvf (s : State) (c n : Nat) (f : Strand → Strand) : (s.modStrand c n f).logOvf = s.logOvf := rfl
@[simp] theorem State.modStrand_fatal (s : State) (c n : Nat) (f : Strand → Strand) : (s.modStrand c n f).fatal = s.fatal := rfl
@[simp] theorem State.modStrand_dump (s : State) (c n : Nat) (f : Strand → Strand) : (s.modStrand c n f).dump = s.dump := rfl
@[simp] theorem State.modStrand_dies (s : State) (c n : Nat) (f : Strand → Strand) : (s.modStrand c n f).dies = s.dies := rfl
@[simp] theorem State.modStrand_ioTlbs (s : State) (c n : Nat) (f : Strand → Strand) : (s.modStrand c n f).ioTlbs = s.ioTlbs := rfl
@[simp] theorem State.modStrand_regions (s : State) (c n : Nat) (f : Strand → Strand) : (s.modStrand c n f).regions = s.regions := rfl
@[simp] theorem State.modStrand_boots (s : State) (c n : Nat) (f : Strand → Strand) : (s.modStrand c n f).boots = s.boots := rfl
@[simp] theorem State.modStrand_links (s : State) (c n : Nat) (f : Strand → Strand) : (s.modStrand c n f).links = s.links := rfl
@[simp] theorem State.modStrand_bars (s : State) (c n : Nat) (f : Strand → Strand) : (s.modStrand c n f).bars = s.bars := rfl
@[simp] theorem State.modStrand_seedA (s : State) (c n : Nat) (f : Strand → Strand) : (s.modStrand c n f).seedA = s.seedA := rfl
@[simp] theorem State.modStrand_seedB (s : State) (c n : Nat) (f : Strand → Strand) : (s.modStrand c n f).seedB = s.seedB := rfl
@[simp] theorem State.modStrand_run (s : State) (c n : Nat) (f : Strand → Strand) : (s.modStrand c n f).run = s.run := rfl
@[simp] theorem State.modStrand_mism (s : State) (c n : Nat) (f : Strand → Strand) : (s.modStrand c n f).mism = s.mism := rfl
@[simp] theorem State.modStrand_saved (s : State) (c n : Nat) (f : Strand → Strand) : (s.modStrand c n f).saved = s.saved := rfl
@[simp] theorem State.modStrand_pctl (s : State) (c n : Nat) (f : Strand → Strand) : (s.modStrand c n f).pctl = s.pctl := rfl
@[simp] theorem State.modStrand_queues (s : State) (c n : Nat) (f : Strand → Strand) : (s.modStrand c n f).queues = s.queues := rfl
@[simp] theorem State.modStrand_mapWait (s : State) (c n : Nat) (f : Strand → Strand) : (s.modStrand c n f).mapWait = s.mapWait := rfl
@[simp] theorem State.modStrand_mapHeld (s : State) (c n : Nat) (f : Strand → Strand) : (s.modStrand c n f).mapHeld = s.mapHeld := rfl
@[simp] theorem State.modStrand_msix (s : State) (c n : Nat) (f : Strand → Strand) : (s.modStrand c n f).msix = s.msix := rfl
@[simp] theorem State.modStrand_freezes (s : State) (c n : Nat) (f : Strand → Strand) : (s.modStrand c n f).freezes = s.freezes := rfl
@[simp] theorem State.modStrand_frozenDoms (s : State) (c n : Nat) (f : Strand → Strand) : (s.modStrand c n f).frozenDoms = s.frozenDoms := rfl
@[simp] theorem State.modStrand_mcctl (s : State) (c n : Nat) (f : Strand → Strand) : (s.modStrand c n f).mcctl = s.mcctl := rfl
@[simp] theorem State.modStrand_mclist (s : State) (c n : Nat) (f : Strand → Strand) : (s.modStrand c n f).mclist = s.mclist := rfl
@[simp] theorem State.modStrand_mcsrc (s : State) (c n : Nat) (f : Strand → Strand) : (s.modStrand c n f).mcsrc = s.mcsrc := rfl
@[simp] theorem State.modStrand_mcdst (s : State) (c n : Nat) (f : Strand → Strand) : (s.modStrand c n f).mcdst = s.mcdst := rfl
@[simp] theorem State.modStrand_mcstat (s : State) (c n : Nat) (f : Strand → Strand) : (s.modStrand c n f).mcstat = s.mcstat := rfl
@[simp] theorem State.modStrand_mcOwn (s : State) (c n : Nat) (f : Strand → Strand) : (s.modStrand c n f).mcOwn = s.mcOwn := rfl
@[simp] theorem State.modStrand_mcWait (s : State) (c n : Nat) (f : Strand → Strand) : (s.modStrand c n f).mcWait = s.mcWait := rfl
@[simp] theorem State.modStrand_mcFailed (s : State) (c n : Nat) (f : Strand → Strand) : (s.modStrand c n f).mcFailed = s.mcFailed := rfl
@[simp] theorem State.modStrand_mcSince (s : State) (c n : Nat) (f : Strand → Strand) : (s.modStrand c n f).mcSince = s.mcSince := rfl
@[simp] theorem State.modStrand_mcLines (s : State) (c n : Nat) (f : Strand → Strand) : (s.modStrand c n f).mcLines = s.mcLines := rfl
@[simp] theorem State.modStrand_hostRead (s : State) (c n : Nat) (f : Strand → Strand) : (s.modStrand c n f).hostRead = s.hostRead := rfl
@[simp] theorem State.modStrand_nonce (s : State) (c n : Nat) (f : Strand → Strand) : (s.modStrand c n f).nonce = s.nonce := rfl
@[simp] theorem State.modStrand_attBusy (s : State) (c n : Nat) (f : Strand → Strand) : (s.modStrand c n f).attBusy = s.attBusy := rfl
@[simp] theorem State.modStrand_report (s : State) (c n : Nat) (f : Strand → Strand) : (s.modStrand c n f).report = s.report := rfl
@[simp] theorem State.modStrand_discards (s : State) (c n : Nat) (f : Strand → Strand) : (s.modStrand c n f).discards = s.discards := rfl
@[simp] theorem State.modStrand_minute (s : State) (c n : Nat) (f : Strand → Strand) : (s.modStrand c n f).minute = s.minute := rfl
@[simp] theorem State.modStrand_errors (s : State) (c n : Nat) (f : Strand → Strand) : (s.modStrand c n f).errors = s.errors := rfl
@[simp] theorem State.modStrand_corrections (s : State) (c n : Nat) (f : Strand → Strand) : (s.modStrand c n f).corrections = s.corrections := rfl
@[simp] theorem State.modStrand_firmware (s : State) (c n : Nat) (f : Strand → Strand) : (s.modStrand c n f).firmware = s.firmware := rfl
@[simp] theorem State.modStrand_powerHold (s : State) (c n : Nat) (f : Strand → Strand) : (s.modStrand c n f).powerHold = s.powerHold := rfl

@[simp] theorem State.modMe_cyc (s : State) (f : Strand → Strand) : (s.modMe f).cyc = s.cyc := rfl
@[simp] theorem State.modMe_agenda (s : State) (f : Strand → Strand) : (s.modMe f).agenda = s.agenda := rfl
@[simp] theorem State.modMe_closing (s : State) (f : Strand → Strand) : (s.modMe f).closing = s.closing := rfl
@[simp] theorem State.modMe_cur (s : State) (f : Strand → Strand) : (s.modMe f).cur = s.cur := rfl
@[simp] theorem State.modMe_serial (s : State) (f : Strand → Strand) : (s.modMe f).serial = s.serial := rfl
@[simp] theorem State.modMe_mem (s : State) (f : Strand → Strand) : (s.modMe f).mem = s.mem := rfl
@[simp] theorem State.modMe_poison (s : State) (f : Strand → Strand) : (s.modMe f).poison = s.poison := rfl
@[simp] theorem State.modMe_clusters (s : State) (f : Strand → Strand) : (s.modMe f).clusters = s.clusters := rfl
@[simp] theorem State.modMe_amoQ (s : State) (f : Strand → Strand) : (s.modMe f).amoQ = s.amoQ := rfl
@[simp] theorem State.modMe_held (s : State) (f : Strand → Strand) : (s.modMe f).held = s.held := rfl
@[simp] theorem State.modMe_stale (s : State) (f : Strand → Strand) : (s.modMe f).stale = s.stale := rfl
@[simp] theorem State.modMe_replies (s : State) (f : Strand → Strand) : (s.modMe f).replies = s.replies := rfl
@[simp] theorem State.modMe_pending (s : State) (f : Strand → Strand) : (s.modMe f).pending = s.pending := rfl
@[simp] theorem State.modMe_asks (s : State) (f : Strand → Strand) : (s.modMe f).asks = s.asks := rfl
@[simp] theorem State.modMe_performed (s : State) (f : Strand → Strand) : (s.modMe f).performed = s.performed := rfl
@[simp] theorem State.modMe_returning (s : State) (f : Strand → Strand) : (s.modMe f).returning = s.returning := rfl
@[simp] theorem State.modMe_flight (s : State) (f : Strand → Strand) : (s.modMe f).flight = s.flight := rfl
@[simp] theorem State.modMe_farHeld (s : State) (f : Strand → Strand) : (s.modMe f).farHeld = s.farHeld := rfl
@[simp] theorem State.modMe_outbox (s : State) (f : Strand → Strand) : (s.modMe f).outbox = s.outbox := rfl
@[simp] theorem State.modMe_launches (s : State) (f : Strand → Strand) : (s.modMe f).launches = s.launches := rfl
@[simp] theorem State.modMe_troot (s : State) (f : Strand → Strand) : (s.modMe f).troot = s.troot := rfl
@[simp] theorem State.modMe_trootHeld (s : State) (f : Strand → Strand) : (s.modMe f).trootHeld = s.trootHeld := rfl
@[simp] theorem State.modMe_maps (s : State) (f : Strand → Strand) : (s.modMe f).maps = s.maps := rfl
@[simp] theorem State.modMe_rotated (s : State) (f : Strand → Strand) : (s.modMe f).rotated = s.rotated := rfl
@[simp] theorem State.modMe_modId (s : State) (f : Strand → Strand) : (s.modMe f).modId = s.modId := rfl
@[simp] theorem State.modMe_domain (s : State) (f : Strand → Strand) : (s.modMe f).domain = s.domain := rfl
@[simp] theorem State.modMe_peers (s : State) (f : Strand → Strand) : (s.modMe f).peers = s.peers := rfl
@[simp] theorem State.modMe_removed (s : State) (f : Strand → Strand) : (s.modMe f).removed = s.removed := rfl
@[simp] theorem State.modMe_record (s : State) (f : Strand → Strand) : (s.modMe f).record = s.record := rfl
@[simp] theorem State.modMe_fto (s : State) (f : Strand → Strand) : (s.modMe f).fto = s.fto := rfl
@[simp] theorem State.modMe_skid (s : State) (f : Strand → Strand) : (s.modMe f).skid = s.skid := rfl
@[simp] theorem State.modMe_latecnt (s : State) (f : Strand → Strand) : (s.modMe f).latecnt = s.latecnt := rfl
@[simp] theorem State.modMe_apbase (s : State) (f : Strand → Strand) : (s.modMe f).apbase = s.apbase := rfl
@[simp] theorem State.modMe_bootst (s : State) (f : Strand → Strand) : (s.modMe f).bootst = s.bootst := rfl
@[simp] theorem State.modMe_log (s : State) (f : Strand → Strand) : (s.modMe f).log = s.log := rfl
@[simp] theorem State.modMe_logHead (s : State) (f : Strand → Strand) : (s.modMe f).logHead = s.logHead := rfl
@[simp] theorem State.modMe_logOvf (s : State) (f : Strand → Strand) : (s.modMe f).logOvf = s.logOvf := rfl
@[simp] theorem State.modMe_fatal (s : State) (f : Strand → Strand) : (s.modMe f).fatal = s.fatal := rfl
@[simp] theorem State.modMe_dump (s : State) (f : Strand → Strand) : (s.modMe f).dump = s.dump := rfl
@[simp] theorem State.modMe_dies (s : State) (f : Strand → Strand) : (s.modMe f).dies = s.dies := rfl
@[simp] theorem State.modMe_ioTlbs (s : State) (f : Strand → Strand) : (s.modMe f).ioTlbs = s.ioTlbs := rfl
@[simp] theorem State.modMe_regions (s : State) (f : Strand → Strand) : (s.modMe f).regions = s.regions := rfl
@[simp] theorem State.modMe_boots (s : State) (f : Strand → Strand) : (s.modMe f).boots = s.boots := rfl
@[simp] theorem State.modMe_links (s : State) (f : Strand → Strand) : (s.modMe f).links = s.links := rfl
@[simp] theorem State.modMe_bars (s : State) (f : Strand → Strand) : (s.modMe f).bars = s.bars := rfl
@[simp] theorem State.modMe_seedA (s : State) (f : Strand → Strand) : (s.modMe f).seedA = s.seedA := rfl
@[simp] theorem State.modMe_seedB (s : State) (f : Strand → Strand) : (s.modMe f).seedB = s.seedB := rfl
@[simp] theorem State.modMe_run (s : State) (f : Strand → Strand) : (s.modMe f).run = s.run := rfl
@[simp] theorem State.modMe_mism (s : State) (f : Strand → Strand) : (s.modMe f).mism = s.mism := rfl
@[simp] theorem State.modMe_saved (s : State) (f : Strand → Strand) : (s.modMe f).saved = s.saved := rfl
@[simp] theorem State.modMe_pctl (s : State) (f : Strand → Strand) : (s.modMe f).pctl = s.pctl := rfl
@[simp] theorem State.modMe_queues (s : State) (f : Strand → Strand) : (s.modMe f).queues = s.queues := rfl
@[simp] theorem State.modMe_mapWait (s : State) (f : Strand → Strand) : (s.modMe f).mapWait = s.mapWait := rfl
@[simp] theorem State.modMe_mapHeld (s : State) (f : Strand → Strand) : (s.modMe f).mapHeld = s.mapHeld := rfl
@[simp] theorem State.modMe_msix (s : State) (f : Strand → Strand) : (s.modMe f).msix = s.msix := rfl
@[simp] theorem State.modMe_freezes (s : State) (f : Strand → Strand) : (s.modMe f).freezes = s.freezes := rfl
@[simp] theorem State.modMe_frozenDoms (s : State) (f : Strand → Strand) : (s.modMe f).frozenDoms = s.frozenDoms := rfl
@[simp] theorem State.modMe_mcctl (s : State) (f : Strand → Strand) : (s.modMe f).mcctl = s.mcctl := rfl
@[simp] theorem State.modMe_mclist (s : State) (f : Strand → Strand) : (s.modMe f).mclist = s.mclist := rfl
@[simp] theorem State.modMe_mcsrc (s : State) (f : Strand → Strand) : (s.modMe f).mcsrc = s.mcsrc := rfl
@[simp] theorem State.modMe_mcdst (s : State) (f : Strand → Strand) : (s.modMe f).mcdst = s.mcdst := rfl
@[simp] theorem State.modMe_mcstat (s : State) (f : Strand → Strand) : (s.modMe f).mcstat = s.mcstat := rfl
@[simp] theorem State.modMe_mcOwn (s : State) (f : Strand → Strand) : (s.modMe f).mcOwn = s.mcOwn := rfl
@[simp] theorem State.modMe_mcWait (s : State) (f : Strand → Strand) : (s.modMe f).mcWait = s.mcWait := rfl
@[simp] theorem State.modMe_mcFailed (s : State) (f : Strand → Strand) : (s.modMe f).mcFailed = s.mcFailed := rfl
@[simp] theorem State.modMe_mcSince (s : State) (f : Strand → Strand) : (s.modMe f).mcSince = s.mcSince := rfl
@[simp] theorem State.modMe_mcLines (s : State) (f : Strand → Strand) : (s.modMe f).mcLines = s.mcLines := rfl
@[simp] theorem State.modMe_hostRead (s : State) (f : Strand → Strand) : (s.modMe f).hostRead = s.hostRead := rfl
@[simp] theorem State.modMe_nonce (s : State) (f : Strand → Strand) : (s.modMe f).nonce = s.nonce := rfl
@[simp] theorem State.modMe_attBusy (s : State) (f : Strand → Strand) : (s.modMe f).attBusy = s.attBusy := rfl
@[simp] theorem State.modMe_report (s : State) (f : Strand → Strand) : (s.modMe f).report = s.report := rfl
@[simp] theorem State.modMe_discards (s : State) (f : Strand → Strand) : (s.modMe f).discards = s.discards := rfl
@[simp] theorem State.modMe_minute (s : State) (f : Strand → Strand) : (s.modMe f).minute = s.minute := rfl
@[simp] theorem State.modMe_errors (s : State) (f : Strand → Strand) : (s.modMe f).errors = s.errors := rfl
@[simp] theorem State.modMe_corrections (s : State) (f : Strand → Strand) : (s.modMe f).corrections = s.corrections := rfl
@[simp] theorem State.modMe_firmware (s : State) (f : Strand → Strand) : (s.modMe f).firmware = s.firmware := rfl
@[simp] theorem State.modMe_powerHold (s : State) (f : Strand → Strand) : (s.modMe f).powerHold = s.powerHold := rfl

@[simp] theorem State.setState_cyc (s : State) (c n : Nat) (f : SlotState) : (s.setState c n f).cyc = s.cyc := rfl
@[simp] theorem State.setState_agenda (s : State) (c n : Nat) (f : SlotState) : (s.setState c n f).agenda = s.agenda := rfl
@[simp] theorem State.setState_closing (s : State) (c n : Nat) (f : SlotState) : (s.setState c n f).closing = s.closing := rfl
@[simp] theorem State.setState_cur (s : State) (c n : Nat) (f : SlotState) : (s.setState c n f).cur = s.cur := rfl
@[simp] theorem State.setState_serial (s : State) (c n : Nat) (f : SlotState) : (s.setState c n f).serial = s.serial := rfl
@[simp] theorem State.setState_mem (s : State) (c n : Nat) (f : SlotState) : (s.setState c n f).mem = s.mem := rfl
@[simp] theorem State.setState_poison (s : State) (c n : Nat) (f : SlotState) : (s.setState c n f).poison = s.poison := rfl
@[simp] theorem State.setState_clusters (s : State) (c n : Nat) (f : SlotState) : (s.setState c n f).clusters = s.clusters := rfl
@[simp] theorem State.setState_amoQ (s : State) (c n : Nat) (f : SlotState) : (s.setState c n f).amoQ = s.amoQ := rfl
@[simp] theorem State.setState_held (s : State) (c n : Nat) (f : SlotState) : (s.setState c n f).held = s.held := rfl
@[simp] theorem State.setState_stale (s : State) (c n : Nat) (f : SlotState) : (s.setState c n f).stale = s.stale := rfl
@[simp] theorem State.setState_replies (s : State) (c n : Nat) (f : SlotState) : (s.setState c n f).replies = s.replies := rfl
@[simp] theorem State.setState_pending (s : State) (c n : Nat) (f : SlotState) : (s.setState c n f).pending = s.pending := rfl
@[simp] theorem State.setState_asks (s : State) (c n : Nat) (f : SlotState) : (s.setState c n f).asks = s.asks := rfl
@[simp] theorem State.setState_performed (s : State) (c n : Nat) (f : SlotState) : (s.setState c n f).performed = s.performed := rfl
@[simp] theorem State.setState_returning (s : State) (c n : Nat) (f : SlotState) : (s.setState c n f).returning = s.returning := rfl
@[simp] theorem State.setState_flight (s : State) (c n : Nat) (f : SlotState) : (s.setState c n f).flight = s.flight := rfl
@[simp] theorem State.setState_farHeld (s : State) (c n : Nat) (f : SlotState) : (s.setState c n f).farHeld = s.farHeld := rfl
@[simp] theorem State.setState_outbox (s : State) (c n : Nat) (f : SlotState) : (s.setState c n f).outbox = s.outbox := rfl
@[simp] theorem State.setState_launches (s : State) (c n : Nat) (f : SlotState) : (s.setState c n f).launches = s.launches := rfl
@[simp] theorem State.setState_troot (s : State) (c n : Nat) (f : SlotState) : (s.setState c n f).troot = s.troot := rfl
@[simp] theorem State.setState_trootHeld (s : State) (c n : Nat) (f : SlotState) : (s.setState c n f).trootHeld = s.trootHeld := rfl
@[simp] theorem State.setState_maps (s : State) (c n : Nat) (f : SlotState) : (s.setState c n f).maps = s.maps := rfl
@[simp] theorem State.setState_rotated (s : State) (c n : Nat) (f : SlotState) : (s.setState c n f).rotated = s.rotated := rfl
@[simp] theorem State.setState_modId (s : State) (c n : Nat) (f : SlotState) : (s.setState c n f).modId = s.modId := rfl
@[simp] theorem State.setState_domain (s : State) (c n : Nat) (f : SlotState) : (s.setState c n f).domain = s.domain := rfl
@[simp] theorem State.setState_peers (s : State) (c n : Nat) (f : SlotState) : (s.setState c n f).peers = s.peers := rfl
@[simp] theorem State.setState_removed (s : State) (c n : Nat) (f : SlotState) : (s.setState c n f).removed = s.removed := rfl
@[simp] theorem State.setState_record (s : State) (c n : Nat) (f : SlotState) : (s.setState c n f).record = s.record := rfl
@[simp] theorem State.setState_fto (s : State) (c n : Nat) (f : SlotState) : (s.setState c n f).fto = s.fto := rfl
@[simp] theorem State.setState_skid (s : State) (c n : Nat) (f : SlotState) : (s.setState c n f).skid = s.skid := rfl
@[simp] theorem State.setState_latecnt (s : State) (c n : Nat) (f : SlotState) : (s.setState c n f).latecnt = s.latecnt := rfl
@[simp] theorem State.setState_apbase (s : State) (c n : Nat) (f : SlotState) : (s.setState c n f).apbase = s.apbase := rfl
@[simp] theorem State.setState_bootst (s : State) (c n : Nat) (f : SlotState) : (s.setState c n f).bootst = s.bootst := rfl
@[simp] theorem State.setState_log (s : State) (c n : Nat) (f : SlotState) : (s.setState c n f).log = s.log := rfl
@[simp] theorem State.setState_logHead (s : State) (c n : Nat) (f : SlotState) : (s.setState c n f).logHead = s.logHead := rfl
@[simp] theorem State.setState_logOvf (s : State) (c n : Nat) (f : SlotState) : (s.setState c n f).logOvf = s.logOvf := rfl
@[simp] theorem State.setState_fatal (s : State) (c n : Nat) (f : SlotState) : (s.setState c n f).fatal = s.fatal := rfl
@[simp] theorem State.setState_dump (s : State) (c n : Nat) (f : SlotState) : (s.setState c n f).dump = s.dump := rfl
@[simp] theorem State.setState_dies (s : State) (c n : Nat) (f : SlotState) : (s.setState c n f).dies = s.dies := rfl
@[simp] theorem State.setState_ioTlbs (s : State) (c n : Nat) (f : SlotState) : (s.setState c n f).ioTlbs = s.ioTlbs := rfl
@[simp] theorem State.setState_regions (s : State) (c n : Nat) (f : SlotState) : (s.setState c n f).regions = s.regions := rfl
@[simp] theorem State.setState_boots (s : State) (c n : Nat) (f : SlotState) : (s.setState c n f).boots = s.boots := rfl
@[simp] theorem State.setState_links (s : State) (c n : Nat) (f : SlotState) : (s.setState c n f).links = s.links := rfl
@[simp] theorem State.setState_bars (s : State) (c n : Nat) (f : SlotState) : (s.setState c n f).bars = s.bars := rfl
@[simp] theorem State.setState_seedA (s : State) (c n : Nat) (f : SlotState) : (s.setState c n f).seedA = s.seedA := rfl
@[simp] theorem State.setState_seedB (s : State) (c n : Nat) (f : SlotState) : (s.setState c n f).seedB = s.seedB := rfl
@[simp] theorem State.setState_run (s : State) (c n : Nat) (f : SlotState) : (s.setState c n f).run = s.run := rfl
@[simp] theorem State.setState_mism (s : State) (c n : Nat) (f : SlotState) : (s.setState c n f).mism = s.mism := rfl
@[simp] theorem State.setState_saved (s : State) (c n : Nat) (f : SlotState) : (s.setState c n f).saved = s.saved := rfl
@[simp] theorem State.setState_pctl (s : State) (c n : Nat) (f : SlotState) : (s.setState c n f).pctl = s.pctl := rfl
@[simp] theorem State.setState_queues (s : State) (c n : Nat) (f : SlotState) : (s.setState c n f).queues = s.queues := rfl
@[simp] theorem State.setState_mapWait (s : State) (c n : Nat) (f : SlotState) : (s.setState c n f).mapWait = s.mapWait := rfl
@[simp] theorem State.setState_mapHeld (s : State) (c n : Nat) (f : SlotState) : (s.setState c n f).mapHeld = s.mapHeld := rfl
@[simp] theorem State.setState_msix (s : State) (c n : Nat) (f : SlotState) : (s.setState c n f).msix = s.msix := rfl
@[simp] theorem State.setState_freezes (s : State) (c n : Nat) (f : SlotState) : (s.setState c n f).freezes = s.freezes := rfl
@[simp] theorem State.setState_frozenDoms (s : State) (c n : Nat) (f : SlotState) : (s.setState c n f).frozenDoms = s.frozenDoms := rfl
@[simp] theorem State.setState_mcctl (s : State) (c n : Nat) (f : SlotState) : (s.setState c n f).mcctl = s.mcctl := rfl
@[simp] theorem State.setState_mclist (s : State) (c n : Nat) (f : SlotState) : (s.setState c n f).mclist = s.mclist := rfl
@[simp] theorem State.setState_mcsrc (s : State) (c n : Nat) (f : SlotState) : (s.setState c n f).mcsrc = s.mcsrc := rfl
@[simp] theorem State.setState_mcdst (s : State) (c n : Nat) (f : SlotState) : (s.setState c n f).mcdst = s.mcdst := rfl
@[simp] theorem State.setState_mcstat (s : State) (c n : Nat) (f : SlotState) : (s.setState c n f).mcstat = s.mcstat := rfl
@[simp] theorem State.setState_mcOwn (s : State) (c n : Nat) (f : SlotState) : (s.setState c n f).mcOwn = s.mcOwn := rfl
@[simp] theorem State.setState_mcWait (s : State) (c n : Nat) (f : SlotState) : (s.setState c n f).mcWait = s.mcWait := rfl
@[simp] theorem State.setState_mcFailed (s : State) (c n : Nat) (f : SlotState) : (s.setState c n f).mcFailed = s.mcFailed := rfl
@[simp] theorem State.setState_mcSince (s : State) (c n : Nat) (f : SlotState) : (s.setState c n f).mcSince = s.mcSince := rfl
@[simp] theorem State.setState_mcLines (s : State) (c n : Nat) (f : SlotState) : (s.setState c n f).mcLines = s.mcLines := rfl
@[simp] theorem State.setState_hostRead (s : State) (c n : Nat) (f : SlotState) : (s.setState c n f).hostRead = s.hostRead := rfl
@[simp] theorem State.setState_nonce (s : State) (c n : Nat) (f : SlotState) : (s.setState c n f).nonce = s.nonce := rfl
@[simp] theorem State.setState_attBusy (s : State) (c n : Nat) (f : SlotState) : (s.setState c n f).attBusy = s.attBusy := rfl
@[simp] theorem State.setState_report (s : State) (c n : Nat) (f : SlotState) : (s.setState c n f).report = s.report := rfl
@[simp] theorem State.setState_discards (s : State) (c n : Nat) (f : SlotState) : (s.setState c n f).discards = s.discards := rfl
@[simp] theorem State.setState_minute (s : State) (c n : Nat) (f : SlotState) : (s.setState c n f).minute = s.minute := rfl
@[simp] theorem State.setState_errors (s : State) (c n : Nat) (f : SlotState) : (s.setState c n f).errors = s.errors := rfl
@[simp] theorem State.setState_corrections (s : State) (c n : Nat) (f : SlotState) : (s.setState c n f).corrections = s.corrections := rfl
@[simp] theorem State.setState_firmware (s : State) (c n : Nat) (f : SlotState) : (s.setState c n f).firmware = s.firmware := rfl
@[simp] theorem State.setState_powerHold (s : State) (c n : Nat) (f : SlotState) : (s.setState c n f).powerHold = s.powerHold := rfl

@[simp] theorem State.modCluster_cyc (s : State) (c : Nat) (f : Cluster → Cluster) : (s.modCluster c f).cyc = s.cyc := rfl
@[simp] theorem State.modCluster_agenda (s : State) (c : Nat) (f : Cluster → Cluster) : (s.modCluster c f).agenda = s.agenda := rfl
@[simp] theorem State.modCluster_closing (s : State) (c : Nat) (f : Cluster → Cluster) : (s.modCluster c f).closing = s.closing := rfl
@[simp] theorem State.modCluster_cur (s : State) (c : Nat) (f : Cluster → Cluster) : (s.modCluster c f).cur = s.cur := rfl
@[simp] theorem State.modCluster_serial (s : State) (c : Nat) (f : Cluster → Cluster) : (s.modCluster c f).serial = s.serial := rfl
@[simp] theorem State.modCluster_mem (s : State) (c : Nat) (f : Cluster → Cluster) : (s.modCluster c f).mem = s.mem := rfl
@[simp] theorem State.modCluster_poison (s : State) (c : Nat) (f : Cluster → Cluster) : (s.modCluster c f).poison = s.poison := rfl
@[simp] theorem State.modCluster_cores (s : State) (c : Nat) (f : Cluster → Cluster) : (s.modCluster c f).cores = s.cores := rfl
@[simp] theorem State.modCluster_amoQ (s : State) (c : Nat) (f : Cluster → Cluster) : (s.modCluster c f).amoQ = s.amoQ := rfl
@[simp] theorem State.modCluster_held (s : State) (c : Nat) (f : Cluster → Cluster) : (s.modCluster c f).held = s.held := rfl
@[simp] theorem State.modCluster_stale (s : State) (c : Nat) (f : Cluster → Cluster) : (s.modCluster c f).stale = s.stale := rfl
@[simp] theorem State.modCluster_replies (s : State) (c : Nat) (f : Cluster → Cluster) : (s.modCluster c f).replies = s.replies := rfl
@[simp] theorem State.modCluster_pending (s : State) (c : Nat) (f : Cluster → Cluster) : (s.modCluster c f).pending = s.pending := rfl
@[simp] theorem State.modCluster_asks (s : State) (c : Nat) (f : Cluster → Cluster) : (s.modCluster c f).asks = s.asks := rfl
@[simp] theorem State.modCluster_performed (s : State) (c : Nat) (f : Cluster → Cluster) : (s.modCluster c f).performed = s.performed := rfl
@[simp] theorem State.modCluster_returning (s : State) (c : Nat) (f : Cluster → Cluster) : (s.modCluster c f).returning = s.returning := rfl
@[simp] theorem State.modCluster_flight (s : State) (c : Nat) (f : Cluster → Cluster) : (s.modCluster c f).flight = s.flight := rfl
@[simp] theorem State.modCluster_farHeld (s : State) (c : Nat) (f : Cluster → Cluster) : (s.modCluster c f).farHeld = s.farHeld := rfl
@[simp] theorem State.modCluster_outbox (s : State) (c : Nat) (f : Cluster → Cluster) : (s.modCluster c f).outbox = s.outbox := rfl
@[simp] theorem State.modCluster_launches (s : State) (c : Nat) (f : Cluster → Cluster) : (s.modCluster c f).launches = s.launches := rfl
@[simp] theorem State.modCluster_troot (s : State) (c : Nat) (f : Cluster → Cluster) : (s.modCluster c f).troot = s.troot := rfl
@[simp] theorem State.modCluster_trootHeld (s : State) (c : Nat) (f : Cluster → Cluster) : (s.modCluster c f).trootHeld = s.trootHeld := rfl
@[simp] theorem State.modCluster_maps (s : State) (c : Nat) (f : Cluster → Cluster) : (s.modCluster c f).maps = s.maps := rfl
@[simp] theorem State.modCluster_rotated (s : State) (c : Nat) (f : Cluster → Cluster) : (s.modCluster c f).rotated = s.rotated := rfl
@[simp] theorem State.modCluster_modId (s : State) (c : Nat) (f : Cluster → Cluster) : (s.modCluster c f).modId = s.modId := rfl
@[simp] theorem State.modCluster_domain (s : State) (c : Nat) (f : Cluster → Cluster) : (s.modCluster c f).domain = s.domain := rfl
@[simp] theorem State.modCluster_peers (s : State) (c : Nat) (f : Cluster → Cluster) : (s.modCluster c f).peers = s.peers := rfl
@[simp] theorem State.modCluster_removed (s : State) (c : Nat) (f : Cluster → Cluster) : (s.modCluster c f).removed = s.removed := rfl
@[simp] theorem State.modCluster_record (s : State) (c : Nat) (f : Cluster → Cluster) : (s.modCluster c f).record = s.record := rfl
@[simp] theorem State.modCluster_fto (s : State) (c : Nat) (f : Cluster → Cluster) : (s.modCluster c f).fto = s.fto := rfl
@[simp] theorem State.modCluster_skid (s : State) (c : Nat) (f : Cluster → Cluster) : (s.modCluster c f).skid = s.skid := rfl
@[simp] theorem State.modCluster_latecnt (s : State) (c : Nat) (f : Cluster → Cluster) : (s.modCluster c f).latecnt = s.latecnt := rfl
@[simp] theorem State.modCluster_apbase (s : State) (c : Nat) (f : Cluster → Cluster) : (s.modCluster c f).apbase = s.apbase := rfl
@[simp] theorem State.modCluster_bootst (s : State) (c : Nat) (f : Cluster → Cluster) : (s.modCluster c f).bootst = s.bootst := rfl
@[simp] theorem State.modCluster_log (s : State) (c : Nat) (f : Cluster → Cluster) : (s.modCluster c f).log = s.log := rfl
@[simp] theorem State.modCluster_logHead (s : State) (c : Nat) (f : Cluster → Cluster) : (s.modCluster c f).logHead = s.logHead := rfl
@[simp] theorem State.modCluster_logOvf (s : State) (c : Nat) (f : Cluster → Cluster) : (s.modCluster c f).logOvf = s.logOvf := rfl
@[simp] theorem State.modCluster_fatal (s : State) (c : Nat) (f : Cluster → Cluster) : (s.modCluster c f).fatal = s.fatal := rfl
@[simp] theorem State.modCluster_dump (s : State) (c : Nat) (f : Cluster → Cluster) : (s.modCluster c f).dump = s.dump := rfl
@[simp] theorem State.modCluster_dies (s : State) (c : Nat) (f : Cluster → Cluster) : (s.modCluster c f).dies = s.dies := rfl
@[simp] theorem State.modCluster_ioTlbs (s : State) (c : Nat) (f : Cluster → Cluster) : (s.modCluster c f).ioTlbs = s.ioTlbs := rfl
@[simp] theorem State.modCluster_regions (s : State) (c : Nat) (f : Cluster → Cluster) : (s.modCluster c f).regions = s.regions := rfl
@[simp] theorem State.modCluster_boots (s : State) (c : Nat) (f : Cluster → Cluster) : (s.modCluster c f).boots = s.boots := rfl
@[simp] theorem State.modCluster_links (s : State) (c : Nat) (f : Cluster → Cluster) : (s.modCluster c f).links = s.links := rfl
@[simp] theorem State.modCluster_bars (s : State) (c : Nat) (f : Cluster → Cluster) : (s.modCluster c f).bars = s.bars := rfl
@[simp] theorem State.modCluster_seedA (s : State) (c : Nat) (f : Cluster → Cluster) : (s.modCluster c f).seedA = s.seedA := rfl
@[simp] theorem State.modCluster_seedB (s : State) (c : Nat) (f : Cluster → Cluster) : (s.modCluster c f).seedB = s.seedB := rfl
@[simp] theorem State.modCluster_run (s : State) (c : Nat) (f : Cluster → Cluster) : (s.modCluster c f).run = s.run := rfl
@[simp] theorem State.modCluster_mism (s : State) (c : Nat) (f : Cluster → Cluster) : (s.modCluster c f).mism = s.mism := rfl
@[simp] theorem State.modCluster_saved (s : State) (c : Nat) (f : Cluster → Cluster) : (s.modCluster c f).saved = s.saved := rfl
@[simp] theorem State.modCluster_pctl (s : State) (c : Nat) (f : Cluster → Cluster) : (s.modCluster c f).pctl = s.pctl := rfl
@[simp] theorem State.modCluster_queues (s : State) (c : Nat) (f : Cluster → Cluster) : (s.modCluster c f).queues = s.queues := rfl
@[simp] theorem State.modCluster_mapWait (s : State) (c : Nat) (f : Cluster → Cluster) : (s.modCluster c f).mapWait = s.mapWait := rfl
@[simp] theorem State.modCluster_mapHeld (s : State) (c : Nat) (f : Cluster → Cluster) : (s.modCluster c f).mapHeld = s.mapHeld := rfl
@[simp] theorem State.modCluster_msix (s : State) (c : Nat) (f : Cluster → Cluster) : (s.modCluster c f).msix = s.msix := rfl
@[simp] theorem State.modCluster_freezes (s : State) (c : Nat) (f : Cluster → Cluster) : (s.modCluster c f).freezes = s.freezes := rfl
@[simp] theorem State.modCluster_frozenDoms (s : State) (c : Nat) (f : Cluster → Cluster) : (s.modCluster c f).frozenDoms = s.frozenDoms := rfl
@[simp] theorem State.modCluster_mcctl (s : State) (c : Nat) (f : Cluster → Cluster) : (s.modCluster c f).mcctl = s.mcctl := rfl
@[simp] theorem State.modCluster_mclist (s : State) (c : Nat) (f : Cluster → Cluster) : (s.modCluster c f).mclist = s.mclist := rfl
@[simp] theorem State.modCluster_mcsrc (s : State) (c : Nat) (f : Cluster → Cluster) : (s.modCluster c f).mcsrc = s.mcsrc := rfl
@[simp] theorem State.modCluster_mcdst (s : State) (c : Nat) (f : Cluster → Cluster) : (s.modCluster c f).mcdst = s.mcdst := rfl
@[simp] theorem State.modCluster_mcstat (s : State) (c : Nat) (f : Cluster → Cluster) : (s.modCluster c f).mcstat = s.mcstat := rfl
@[simp] theorem State.modCluster_mcOwn (s : State) (c : Nat) (f : Cluster → Cluster) : (s.modCluster c f).mcOwn = s.mcOwn := rfl
@[simp] theorem State.modCluster_mcWait (s : State) (c : Nat) (f : Cluster → Cluster) : (s.modCluster c f).mcWait = s.mcWait := rfl
@[simp] theorem State.modCluster_mcFailed (s : State) (c : Nat) (f : Cluster → Cluster) : (s.modCluster c f).mcFailed = s.mcFailed := rfl
@[simp] theorem State.modCluster_mcSince (s : State) (c : Nat) (f : Cluster → Cluster) : (s.modCluster c f).mcSince = s.mcSince := rfl
@[simp] theorem State.modCluster_mcLines (s : State) (c : Nat) (f : Cluster → Cluster) : (s.modCluster c f).mcLines = s.mcLines := rfl
@[simp] theorem State.modCluster_hostRead (s : State) (c : Nat) (f : Cluster → Cluster) : (s.modCluster c f).hostRead = s.hostRead := rfl
@[simp] theorem State.modCluster_nonce (s : State) (c : Nat) (f : Cluster → Cluster) : (s.modCluster c f).nonce = s.nonce := rfl
@[simp] theorem State.modCluster_attBusy (s : State) (c : Nat) (f : Cluster → Cluster) : (s.modCluster c f).attBusy = s.attBusy := rfl
@[simp] theorem State.modCluster_report (s : State) (c : Nat) (f : Cluster → Cluster) : (s.modCluster c f).report = s.report := rfl
@[simp] theorem State.modCluster_discards (s : State) (c : Nat) (f : Cluster → Cluster) : (s.modCluster c f).discards = s.discards := rfl
@[simp] theorem State.modCluster_minute (s : State) (c : Nat) (f : Cluster → Cluster) : (s.modCluster c f).minute = s.minute := rfl
@[simp] theorem State.modCluster_errors (s : State) (c : Nat) (f : Cluster → Cluster) : (s.modCluster c f).errors = s.errors := rfl
@[simp] theorem State.modCluster_corrections (s : State) (c : Nat) (f : Cluster → Cluster) : (s.modCluster c f).corrections = s.corrections := rfl
@[simp] theorem State.modCluster_firmware (s : State) (c : Nat) (f : Cluster → Cluster) : (s.modCluster c f).firmware = s.firmware := rfl
@[simp] theorem State.modCluster_powerHold (s : State) (c : Nat) (f : Cluster → Cluster) : (s.modCluster c f).powerHold = s.powerHold := rfl

@[simp] theorem State.modDie_cyc (s : State) (c : Nat) (f : Die → Die) : (s.modDie c f).cyc = s.cyc := rfl
@[simp] theorem State.modDie_agenda (s : State) (c : Nat) (f : Die → Die) : (s.modDie c f).agenda = s.agenda := rfl
@[simp] theorem State.modDie_closing (s : State) (c : Nat) (f : Die → Die) : (s.modDie c f).closing = s.closing := rfl
@[simp] theorem State.modDie_cur (s : State) (c : Nat) (f : Die → Die) : (s.modDie c f).cur = s.cur := rfl
@[simp] theorem State.modDie_serial (s : State) (c : Nat) (f : Die → Die) : (s.modDie c f).serial = s.serial := rfl
@[simp] theorem State.modDie_mem (s : State) (c : Nat) (f : Die → Die) : (s.modDie c f).mem = s.mem := rfl
@[simp] theorem State.modDie_poison (s : State) (c : Nat) (f : Die → Die) : (s.modDie c f).poison = s.poison := rfl
@[simp] theorem State.modDie_cores (s : State) (c : Nat) (f : Die → Die) : (s.modDie c f).cores = s.cores := rfl
@[simp] theorem State.modDie_clusters (s : State) (c : Nat) (f : Die → Die) : (s.modDie c f).clusters = s.clusters := rfl
@[simp] theorem State.modDie_amoQ (s : State) (c : Nat) (f : Die → Die) : (s.modDie c f).amoQ = s.amoQ := rfl
@[simp] theorem State.modDie_held (s : State) (c : Nat) (f : Die → Die) : (s.modDie c f).held = s.held := rfl
@[simp] theorem State.modDie_stale (s : State) (c : Nat) (f : Die → Die) : (s.modDie c f).stale = s.stale := rfl
@[simp] theorem State.modDie_replies (s : State) (c : Nat) (f : Die → Die) : (s.modDie c f).replies = s.replies := rfl
@[simp] theorem State.modDie_pending (s : State) (c : Nat) (f : Die → Die) : (s.modDie c f).pending = s.pending := rfl
@[simp] theorem State.modDie_asks (s : State) (c : Nat) (f : Die → Die) : (s.modDie c f).asks = s.asks := rfl
@[simp] theorem State.modDie_performed (s : State) (c : Nat) (f : Die → Die) : (s.modDie c f).performed = s.performed := rfl
@[simp] theorem State.modDie_returning (s : State) (c : Nat) (f : Die → Die) : (s.modDie c f).returning = s.returning := rfl
@[simp] theorem State.modDie_flight (s : State) (c : Nat) (f : Die → Die) : (s.modDie c f).flight = s.flight := rfl
@[simp] theorem State.modDie_farHeld (s : State) (c : Nat) (f : Die → Die) : (s.modDie c f).farHeld = s.farHeld := rfl
@[simp] theorem State.modDie_outbox (s : State) (c : Nat) (f : Die → Die) : (s.modDie c f).outbox = s.outbox := rfl
@[simp] theorem State.modDie_launches (s : State) (c : Nat) (f : Die → Die) : (s.modDie c f).launches = s.launches := rfl
@[simp] theorem State.modDie_troot (s : State) (c : Nat) (f : Die → Die) : (s.modDie c f).troot = s.troot := rfl
@[simp] theorem State.modDie_trootHeld (s : State) (c : Nat) (f : Die → Die) : (s.modDie c f).trootHeld = s.trootHeld := rfl
@[simp] theorem State.modDie_maps (s : State) (c : Nat) (f : Die → Die) : (s.modDie c f).maps = s.maps := rfl
@[simp] theorem State.modDie_rotated (s : State) (c : Nat) (f : Die → Die) : (s.modDie c f).rotated = s.rotated := rfl
@[simp] theorem State.modDie_modId (s : State) (c : Nat) (f : Die → Die) : (s.modDie c f).modId = s.modId := rfl
@[simp] theorem State.modDie_domain (s : State) (c : Nat) (f : Die → Die) : (s.modDie c f).domain = s.domain := rfl
@[simp] theorem State.modDie_peers (s : State) (c : Nat) (f : Die → Die) : (s.modDie c f).peers = s.peers := rfl
@[simp] theorem State.modDie_removed (s : State) (c : Nat) (f : Die → Die) : (s.modDie c f).removed = s.removed := rfl
@[simp] theorem State.modDie_record (s : State) (c : Nat) (f : Die → Die) : (s.modDie c f).record = s.record := rfl
@[simp] theorem State.modDie_fto (s : State) (c : Nat) (f : Die → Die) : (s.modDie c f).fto = s.fto := rfl
@[simp] theorem State.modDie_skid (s : State) (c : Nat) (f : Die → Die) : (s.modDie c f).skid = s.skid := rfl
@[simp] theorem State.modDie_latecnt (s : State) (c : Nat) (f : Die → Die) : (s.modDie c f).latecnt = s.latecnt := rfl
@[simp] theorem State.modDie_apbase (s : State) (c : Nat) (f : Die → Die) : (s.modDie c f).apbase = s.apbase := rfl
@[simp] theorem State.modDie_bootst (s : State) (c : Nat) (f : Die → Die) : (s.modDie c f).bootst = s.bootst := rfl
@[simp] theorem State.modDie_log (s : State) (c : Nat) (f : Die → Die) : (s.modDie c f).log = s.log := rfl
@[simp] theorem State.modDie_logHead (s : State) (c : Nat) (f : Die → Die) : (s.modDie c f).logHead = s.logHead := rfl
@[simp] theorem State.modDie_logOvf (s : State) (c : Nat) (f : Die → Die) : (s.modDie c f).logOvf = s.logOvf := rfl
@[simp] theorem State.modDie_fatal (s : State) (c : Nat) (f : Die → Die) : (s.modDie c f).fatal = s.fatal := rfl
@[simp] theorem State.modDie_dump (s : State) (c : Nat) (f : Die → Die) : (s.modDie c f).dump = s.dump := rfl
@[simp] theorem State.modDie_ioTlbs (s : State) (c : Nat) (f : Die → Die) : (s.modDie c f).ioTlbs = s.ioTlbs := rfl
@[simp] theorem State.modDie_regions (s : State) (c : Nat) (f : Die → Die) : (s.modDie c f).regions = s.regions := rfl
@[simp] theorem State.modDie_boots (s : State) (c : Nat) (f : Die → Die) : (s.modDie c f).boots = s.boots := rfl
@[simp] theorem State.modDie_links (s : State) (c : Nat) (f : Die → Die) : (s.modDie c f).links = s.links := rfl
@[simp] theorem State.modDie_bars (s : State) (c : Nat) (f : Die → Die) : (s.modDie c f).bars = s.bars := rfl
@[simp] theorem State.modDie_seedA (s : State) (c : Nat) (f : Die → Die) : (s.modDie c f).seedA = s.seedA := rfl
@[simp] theorem State.modDie_seedB (s : State) (c : Nat) (f : Die → Die) : (s.modDie c f).seedB = s.seedB := rfl
@[simp] theorem State.modDie_run (s : State) (c : Nat) (f : Die → Die) : (s.modDie c f).run = s.run := rfl
@[simp] theorem State.modDie_mism (s : State) (c : Nat) (f : Die → Die) : (s.modDie c f).mism = s.mism := rfl
@[simp] theorem State.modDie_saved (s : State) (c : Nat) (f : Die → Die) : (s.modDie c f).saved = s.saved := rfl
@[simp] theorem State.modDie_pctl (s : State) (c : Nat) (f : Die → Die) : (s.modDie c f).pctl = s.pctl := rfl
@[simp] theorem State.modDie_queues (s : State) (c : Nat) (f : Die → Die) : (s.modDie c f).queues = s.queues := rfl
@[simp] theorem State.modDie_mapWait (s : State) (c : Nat) (f : Die → Die) : (s.modDie c f).mapWait = s.mapWait := rfl
@[simp] theorem State.modDie_mapHeld (s : State) (c : Nat) (f : Die → Die) : (s.modDie c f).mapHeld = s.mapHeld := rfl
@[simp] theorem State.modDie_msix (s : State) (c : Nat) (f : Die → Die) : (s.modDie c f).msix = s.msix := rfl
@[simp] theorem State.modDie_freezes (s : State) (c : Nat) (f : Die → Die) : (s.modDie c f).freezes = s.freezes := rfl
@[simp] theorem State.modDie_frozenDoms (s : State) (c : Nat) (f : Die → Die) : (s.modDie c f).frozenDoms = s.frozenDoms := rfl
@[simp] theorem State.modDie_mcctl (s : State) (c : Nat) (f : Die → Die) : (s.modDie c f).mcctl = s.mcctl := rfl
@[simp] theorem State.modDie_mclist (s : State) (c : Nat) (f : Die → Die) : (s.modDie c f).mclist = s.mclist := rfl
@[simp] theorem State.modDie_mcsrc (s : State) (c : Nat) (f : Die → Die) : (s.modDie c f).mcsrc = s.mcsrc := rfl
@[simp] theorem State.modDie_mcdst (s : State) (c : Nat) (f : Die → Die) : (s.modDie c f).mcdst = s.mcdst := rfl
@[simp] theorem State.modDie_mcstat (s : State) (c : Nat) (f : Die → Die) : (s.modDie c f).mcstat = s.mcstat := rfl
@[simp] theorem State.modDie_mcOwn (s : State) (c : Nat) (f : Die → Die) : (s.modDie c f).mcOwn = s.mcOwn := rfl
@[simp] theorem State.modDie_mcWait (s : State) (c : Nat) (f : Die → Die) : (s.modDie c f).mcWait = s.mcWait := rfl
@[simp] theorem State.modDie_mcFailed (s : State) (c : Nat) (f : Die → Die) : (s.modDie c f).mcFailed = s.mcFailed := rfl
@[simp] theorem State.modDie_mcSince (s : State) (c : Nat) (f : Die → Die) : (s.modDie c f).mcSince = s.mcSince := rfl
@[simp] theorem State.modDie_mcLines (s : State) (c : Nat) (f : Die → Die) : (s.modDie c f).mcLines = s.mcLines := rfl
@[simp] theorem State.modDie_hostRead (s : State) (c : Nat) (f : Die → Die) : (s.modDie c f).hostRead = s.hostRead := rfl
@[simp] theorem State.modDie_nonce (s : State) (c : Nat) (f : Die → Die) : (s.modDie c f).nonce = s.nonce := rfl
@[simp] theorem State.modDie_attBusy (s : State) (c : Nat) (f : Die → Die) : (s.modDie c f).attBusy = s.attBusy := rfl
@[simp] theorem State.modDie_report (s : State) (c : Nat) (f : Die → Die) : (s.modDie c f).report = s.report := rfl
@[simp] theorem State.modDie_discards (s : State) (c : Nat) (f : Die → Die) : (s.modDie c f).discards = s.discards := rfl
@[simp] theorem State.modDie_minute (s : State) (c : Nat) (f : Die → Die) : (s.modDie c f).minute = s.minute := rfl
@[simp] theorem State.modDie_errors (s : State) (c : Nat) (f : Die → Die) : (s.modDie c f).errors = s.errors := rfl
@[simp] theorem State.modDie_corrections (s : State) (c : Nat) (f : Die → Die) : (s.modDie c f).corrections = s.corrections := rfl
@[simp] theorem State.modDie_firmware (s : State) (c : Nat) (f : Die → Die) : (s.modDie c f).firmware = s.firmware := rfl
@[simp] theorem State.modDie_powerHold (s : State) (c : Nat) (f : Die → Die) : (s.modDie c f).powerHold = s.powerHold := rfl

@[simp] theorem State.modLink_cyc (s : State) (c : Nat) (f : Link → Link) : (s.modLink c f).cyc = s.cyc := rfl
@[simp] theorem State.modLink_agenda (s : State) (c : Nat) (f : Link → Link) : (s.modLink c f).agenda = s.agenda := rfl
@[simp] theorem State.modLink_closing (s : State) (c : Nat) (f : Link → Link) : (s.modLink c f).closing = s.closing := rfl
@[simp] theorem State.modLink_cur (s : State) (c : Nat) (f : Link → Link) : (s.modLink c f).cur = s.cur := rfl
@[simp] theorem State.modLink_serial (s : State) (c : Nat) (f : Link → Link) : (s.modLink c f).serial = s.serial := rfl
@[simp] theorem State.modLink_mem (s : State) (c : Nat) (f : Link → Link) : (s.modLink c f).mem = s.mem := rfl
@[simp] theorem State.modLink_poison (s : State) (c : Nat) (f : Link → Link) : (s.modLink c f).poison = s.poison := rfl
@[simp] theorem State.modLink_cores (s : State) (c : Nat) (f : Link → Link) : (s.modLink c f).cores = s.cores := rfl
@[simp] theorem State.modLink_clusters (s : State) (c : Nat) (f : Link → Link) : (s.modLink c f).clusters = s.clusters := rfl
@[simp] theorem State.modLink_amoQ (s : State) (c : Nat) (f : Link → Link) : (s.modLink c f).amoQ = s.amoQ := rfl
@[simp] theorem State.modLink_held (s : State) (c : Nat) (f : Link → Link) : (s.modLink c f).held = s.held := rfl
@[simp] theorem State.modLink_stale (s : State) (c : Nat) (f : Link → Link) : (s.modLink c f).stale = s.stale := rfl
@[simp] theorem State.modLink_replies (s : State) (c : Nat) (f : Link → Link) : (s.modLink c f).replies = s.replies := rfl
@[simp] theorem State.modLink_pending (s : State) (c : Nat) (f : Link → Link) : (s.modLink c f).pending = s.pending := rfl
@[simp] theorem State.modLink_asks (s : State) (c : Nat) (f : Link → Link) : (s.modLink c f).asks = s.asks := rfl
@[simp] theorem State.modLink_performed (s : State) (c : Nat) (f : Link → Link) : (s.modLink c f).performed = s.performed := rfl
@[simp] theorem State.modLink_returning (s : State) (c : Nat) (f : Link → Link) : (s.modLink c f).returning = s.returning := rfl
@[simp] theorem State.modLink_flight (s : State) (c : Nat) (f : Link → Link) : (s.modLink c f).flight = s.flight := rfl
@[simp] theorem State.modLink_farHeld (s : State) (c : Nat) (f : Link → Link) : (s.modLink c f).farHeld = s.farHeld := rfl
@[simp] theorem State.modLink_outbox (s : State) (c : Nat) (f : Link → Link) : (s.modLink c f).outbox = s.outbox := rfl
@[simp] theorem State.modLink_launches (s : State) (c : Nat) (f : Link → Link) : (s.modLink c f).launches = s.launches := rfl
@[simp] theorem State.modLink_troot (s : State) (c : Nat) (f : Link → Link) : (s.modLink c f).troot = s.troot := rfl
@[simp] theorem State.modLink_trootHeld (s : State) (c : Nat) (f : Link → Link) : (s.modLink c f).trootHeld = s.trootHeld := rfl
@[simp] theorem State.modLink_maps (s : State) (c : Nat) (f : Link → Link) : (s.modLink c f).maps = s.maps := rfl
@[simp] theorem State.modLink_rotated (s : State) (c : Nat) (f : Link → Link) : (s.modLink c f).rotated = s.rotated := rfl
@[simp] theorem State.modLink_modId (s : State) (c : Nat) (f : Link → Link) : (s.modLink c f).modId = s.modId := rfl
@[simp] theorem State.modLink_domain (s : State) (c : Nat) (f : Link → Link) : (s.modLink c f).domain = s.domain := rfl
@[simp] theorem State.modLink_peers (s : State) (c : Nat) (f : Link → Link) : (s.modLink c f).peers = s.peers := rfl
@[simp] theorem State.modLink_removed (s : State) (c : Nat) (f : Link → Link) : (s.modLink c f).removed = s.removed := rfl
@[simp] theorem State.modLink_record (s : State) (c : Nat) (f : Link → Link) : (s.modLink c f).record = s.record := rfl
@[simp] theorem State.modLink_fto (s : State) (c : Nat) (f : Link → Link) : (s.modLink c f).fto = s.fto := rfl
@[simp] theorem State.modLink_skid (s : State) (c : Nat) (f : Link → Link) : (s.modLink c f).skid = s.skid := rfl
@[simp] theorem State.modLink_latecnt (s : State) (c : Nat) (f : Link → Link) : (s.modLink c f).latecnt = s.latecnt := rfl
@[simp] theorem State.modLink_apbase (s : State) (c : Nat) (f : Link → Link) : (s.modLink c f).apbase = s.apbase := rfl
@[simp] theorem State.modLink_bootst (s : State) (c : Nat) (f : Link → Link) : (s.modLink c f).bootst = s.bootst := rfl
@[simp] theorem State.modLink_log (s : State) (c : Nat) (f : Link → Link) : (s.modLink c f).log = s.log := rfl
@[simp] theorem State.modLink_logHead (s : State) (c : Nat) (f : Link → Link) : (s.modLink c f).logHead = s.logHead := rfl
@[simp] theorem State.modLink_logOvf (s : State) (c : Nat) (f : Link → Link) : (s.modLink c f).logOvf = s.logOvf := rfl
@[simp] theorem State.modLink_fatal (s : State) (c : Nat) (f : Link → Link) : (s.modLink c f).fatal = s.fatal := rfl
@[simp] theorem State.modLink_dump (s : State) (c : Nat) (f : Link → Link) : (s.modLink c f).dump = s.dump := rfl
@[simp] theorem State.modLink_dies (s : State) (c : Nat) (f : Link → Link) : (s.modLink c f).dies = s.dies := rfl
@[simp] theorem State.modLink_ioTlbs (s : State) (c : Nat) (f : Link → Link) : (s.modLink c f).ioTlbs = s.ioTlbs := rfl
@[simp] theorem State.modLink_regions (s : State) (c : Nat) (f : Link → Link) : (s.modLink c f).regions = s.regions := rfl
@[simp] theorem State.modLink_boots (s : State) (c : Nat) (f : Link → Link) : (s.modLink c f).boots = s.boots := rfl
@[simp] theorem State.modLink_bars (s : State) (c : Nat) (f : Link → Link) : (s.modLink c f).bars = s.bars := rfl
@[simp] theorem State.modLink_seedA (s : State) (c : Nat) (f : Link → Link) : (s.modLink c f).seedA = s.seedA := rfl
@[simp] theorem State.modLink_seedB (s : State) (c : Nat) (f : Link → Link) : (s.modLink c f).seedB = s.seedB := rfl
@[simp] theorem State.modLink_run (s : State) (c : Nat) (f : Link → Link) : (s.modLink c f).run = s.run := rfl
@[simp] theorem State.modLink_mism (s : State) (c : Nat) (f : Link → Link) : (s.modLink c f).mism = s.mism := rfl
@[simp] theorem State.modLink_saved (s : State) (c : Nat) (f : Link → Link) : (s.modLink c f).saved = s.saved := rfl
@[simp] theorem State.modLink_pctl (s : State) (c : Nat) (f : Link → Link) : (s.modLink c f).pctl = s.pctl := rfl
@[simp] theorem State.modLink_queues (s : State) (c : Nat) (f : Link → Link) : (s.modLink c f).queues = s.queues := rfl
@[simp] theorem State.modLink_mapWait (s : State) (c : Nat) (f : Link → Link) : (s.modLink c f).mapWait = s.mapWait := rfl
@[simp] theorem State.modLink_mapHeld (s : State) (c : Nat) (f : Link → Link) : (s.modLink c f).mapHeld = s.mapHeld := rfl
@[simp] theorem State.modLink_msix (s : State) (c : Nat) (f : Link → Link) : (s.modLink c f).msix = s.msix := rfl
@[simp] theorem State.modLink_freezes (s : State) (c : Nat) (f : Link → Link) : (s.modLink c f).freezes = s.freezes := rfl
@[simp] theorem State.modLink_frozenDoms (s : State) (c : Nat) (f : Link → Link) : (s.modLink c f).frozenDoms = s.frozenDoms := rfl
@[simp] theorem State.modLink_mcctl (s : State) (c : Nat) (f : Link → Link) : (s.modLink c f).mcctl = s.mcctl := rfl
@[simp] theorem State.modLink_mclist (s : State) (c : Nat) (f : Link → Link) : (s.modLink c f).mclist = s.mclist := rfl
@[simp] theorem State.modLink_mcsrc (s : State) (c : Nat) (f : Link → Link) : (s.modLink c f).mcsrc = s.mcsrc := rfl
@[simp] theorem State.modLink_mcdst (s : State) (c : Nat) (f : Link → Link) : (s.modLink c f).mcdst = s.mcdst := rfl
@[simp] theorem State.modLink_mcstat (s : State) (c : Nat) (f : Link → Link) : (s.modLink c f).mcstat = s.mcstat := rfl
@[simp] theorem State.modLink_mcOwn (s : State) (c : Nat) (f : Link → Link) : (s.modLink c f).mcOwn = s.mcOwn := rfl
@[simp] theorem State.modLink_mcWait (s : State) (c : Nat) (f : Link → Link) : (s.modLink c f).mcWait = s.mcWait := rfl
@[simp] theorem State.modLink_mcFailed (s : State) (c : Nat) (f : Link → Link) : (s.modLink c f).mcFailed = s.mcFailed := rfl
@[simp] theorem State.modLink_mcSince (s : State) (c : Nat) (f : Link → Link) : (s.modLink c f).mcSince = s.mcSince := rfl
@[simp] theorem State.modLink_mcLines (s : State) (c : Nat) (f : Link → Link) : (s.modLink c f).mcLines = s.mcLines := rfl
@[simp] theorem State.modLink_hostRead (s : State) (c : Nat) (f : Link → Link) : (s.modLink c f).hostRead = s.hostRead := rfl
@[simp] theorem State.modLink_nonce (s : State) (c : Nat) (f : Link → Link) : (s.modLink c f).nonce = s.nonce := rfl
@[simp] theorem State.modLink_attBusy (s : State) (c : Nat) (f : Link → Link) : (s.modLink c f).attBusy = s.attBusy := rfl
@[simp] theorem State.modLink_report (s : State) (c : Nat) (f : Link → Link) : (s.modLink c f).report = s.report := rfl
@[simp] theorem State.modLink_discards (s : State) (c : Nat) (f : Link → Link) : (s.modLink c f).discards = s.discards := rfl
@[simp] theorem State.modLink_minute (s : State) (c : Nat) (f : Link → Link) : (s.modLink c f).minute = s.minute := rfl
@[simp] theorem State.modLink_errors (s : State) (c : Nat) (f : Link → Link) : (s.modLink c f).errors = s.errors := rfl
@[simp] theorem State.modLink_corrections (s : State) (c : Nat) (f : Link → Link) : (s.modLink c f).corrections = s.corrections := rfl
@[simp] theorem State.modLink_firmware (s : State) (c : Nat) (f : Link → Link) : (s.modLink c f).firmware = s.firmware := rfl
@[simp] theorem State.modLink_powerHold (s : State) (c : Nat) (f : Link → Link) : (s.modLink c f).powerHold = s.powerHold := rfl

@[simp] theorem Core.modSlot_lastSlot (k : Core) (n : Nat) (f : Slot → Slot) : (k.modSlot n f).lastSlot = k.lastSlot := rfl
@[simp] theorem Core.modSlot_restarted (k : Core) (n : Nat) (f : Slot → Slot) : (k.modSlot n f).restarted = k.restarted := rfl
@[simp] theorem Core.modSlot_lastIssue (k : Core) (n : Nat) (f : Slot → Slot) : (k.modSlot n f).lastIssue = k.lastIssue := rfl
@[simp] theorem Core.modSlot_svcSince (k : Core) (n : Nat) (f : Slot → Slot) : (k.modSlot n f).svcSince = k.svcSince := rfl
@[simp] theorem Core.modSlot_svcForced (k : Core) (n : Nat) (f : Slot → Slot) : (k.modSlot n f).svcForced = k.svcForced := rfl
@[simp] theorem Core.modSlot_forceNow (k : Core) (n : Nat) (f : Slot → Slot) : (k.modSlot n f).forceNow = k.forceNow := rfl
@[simp] theorem Core.modSlot_det (k : Core) (n : Nat) (f : Slot → Slot) : (k.modSlot n f).det = k.det := rfl
@[simp] theorem Core.modSlot_turnZero (k : Core) (n : Nat) (f : Slot → Slot) : (k.modSlot n f).turnZero = k.turnZero := rfl
@[simp] theorem Core.modSlot_reserved (k : Core) (n : Nat) (f : Slot → Slot) : (k.modSlot n f).reserved = k.reserved := rfl
@[simp] theorem Core.modSlot_tvec (k : Core) (n : Nat) (f : Slot → Slot) : (k.modSlot n f).tvec = k.tvec := rfl
@[simp] theorem Core.modSlot_splim (k : Core) (n : Nat) (f : Slot → Slot) : (k.modSlot n f).splim = k.splim := rfl
@[simp] theorem Core.modSlot_weights (k : Core) (n : Nat) (f : Slot → Slot) : (k.modSlot n f).weights = k.weights := rfl
@[simp] theorem Core.modSlot_sb (k : Core) (n : Nat) (f : Slot → Slot) : (k.modSlot n f).sb = k.sb := rfl
@[simp] theorem Core.modSlot_spill (k : Core) (n : Nat) (f : Slot → Slot) : (k.modSlot n f).spill = k.spill := rfl
@[simp] theorem Core.modSlot_deque (k : Core) (n : Nat) (f : Slot → Slot) : (k.modSlot n f).deque = k.deque := rfl
@[simp] theorem Core.modSlot_steal (k : Core) (n : Nat) (f : Slot → Slot) : (k.modSlot n f).steal = k.steal := rfl
@[simp] theorem Core.modSlot_lastVictim (k : Core) (n : Nat) (f : Slot → Slot) : (k.modSlot n f).lastVictim = k.lastVictim := rfl
@[simp] theorem Core.modSlot_stealCursor (k : Core) (n : Nat) (f : Slot → Slot) : (k.modSlot n f).stealCursor = k.stealCursor := rfl
@[simp] theorem Core.modSlot_stealAt (k : Core) (n : Nat) (f : Slot → Slot) : (k.modSlot n f).stealAt = k.stealAt := rfl
@[simp] theorem Core.modSlot_stolen (k : Core) (n : Nat) (f : Slot → Slot) : (k.modSlot n f).stolen = k.stolen := rfl
@[simp] theorem Core.modSlot_recvQ (k : Core) (n : Nat) (f : Slot → Slot) : (k.modSlot n f).recvQ = k.recvQ := rfl
@[simp] theorem Core.modSlot_claims (k : Core) (n : Nat) (f : Slot → Slot) : (k.modSlot n f).claims = k.claims := rfl
@[simp] theorem Core.modSlot_recvHead (k : Core) (n : Nat) (f : Slot → Slot) : (k.modSlot n f).recvHead = k.recvHead := rfl
@[simp] theorem Core.modSlot_svcQ (k : Core) (n : Nat) (f : Slot → Slot) : (k.modSlot n f).svcQ = k.svcQ := rfl
@[simp] theorem Core.modSlot_svcHead (k : Core) (n : Nat) (f : Slot → Slot) : (k.modSlot n f).svcHead = k.svcHead := rfl
@[simp] theorem Core.modSlot_arr (k : Core) (n : Nat) (f : Slot → Slot) : (k.modSlot n f).arr = k.arr := rfl
@[simp] theorem Core.modSlot_places (k : Core) (n : Nat) (f : Slot → Slot) : (k.modSlot n f).places = k.places := rfl
@[simp] theorem Core.modSlot_digests (k : Core) (n : Nat) (f : Slot → Slot) : (k.modSlot n f).digests = k.digests := rfl
@[simp] theorem Core.modSlot_gating (k : Core) (n : Nat) (f : Slot → Slot) : (k.modSlot n f).gating = k.gating := rfl
@[simp] theorem Core.modSlot_idleSince (k : Core) (n : Nat) (f : Slot → Slot) : (k.modSlot n f).idleSince = k.idleSince := rfl
@[simp] theorem Core.modSlot_preempted (k : Core) (n : Nat) (f : Slot → Slot) : (k.modSlot n f).preempted = k.preempted := rfl
@[simp] theorem Core.modSlot_placeFrom (k : Core) (n : Nat) (f : Slot → Slot) : (k.modSlot n f).placeFrom = k.placeFrom := rfl
@[simp] theorem Core.modSlot_avgQ (k : Core) (n : Nat) (f : Slot → Slot) : (k.modSlot n f).avgQ = k.avgQ := rfl
@[simp] theorem Core.modSlot_tags (k : Core) (n : Nat) (f : Slot → Slot) : (k.modSlot n f).tags = k.tags := rfl

@[simp] theorem State.core_modCore_same (s : State) (c : Nat) (f : Core → Core) : (s.modCore c f).core c = f (s.core c) := by
  simp [State.core, State.modCore]

theorem State.core_modCore_other (s : State) {c d : Nat} (f : Core → Core) (h : d ≠ c) : (s.modCore c f).core d = s.core d := by
  simp [State.core, State.modCore, tabGet_tabSet_other _ _ _ h]

@[simp] theorem State.cluster_modCluster_same (s : State) (k : Nat) (f : Cluster → Cluster) :
    (s.modCluster k f).cluster k = f (s.cluster k) := by
  simp [State.cluster, State.modCluster]

theorem State.cluster_modCluster_other (s : State) {k d : Nat} (f : Cluster → Cluster) (h : d ≠ k) :
    (s.modCluster k f).cluster d = s.cluster d := by
  simp [State.cluster, State.modCluster, tabGet_tabSet_other _ _ _ h]

@[simp] theorem State.die_modDie_same (s : State) (d : Nat) (f : Die → Die) : (s.modDie d f).die d = f (s.die d) := by
  simp [State.die, State.modDie]

@[simp] theorem State.link_modLink_same (s : State) (p : Nat) (f : Link → Link) : (s.modLink p f).link p = f (s.link p) := by
  simp [State.link, State.modLink]

theorem State.link_modLink_other (s : State) {p q : Nat} (f : Link → Link) (h : q ≠ p) : (s.modLink p f).link q = s.link q := by
  simp [State.link, State.modLink, tabGet_tabSet_other _ _ _ h]

theorem Core.slot_modSlot_same (k : Core) {n : Nat} (f : Slot → Slot) (h : n < 9) : (k.modSlot n f).slot n = f (k.slot n) := by
  simp [Core.slot, Core.modSlot, h]

theorem Core.slot_modSlot_other (k : Core) {n m : Nat} (f : Slot → Slot) (h : m ≠ n) : (k.modSlot n f).slot m = k.slot m := by
  simp [Core.slot, Core.modSlot, Ne.symm h]

theorem State.slot_modSlot_same (s : State) (c : Nat) {n : Nat} (f : Slot → Slot) (h : n < 9) :
    (s.modSlot c n f).slot c n = f (s.slot c n) := by
  simp [State.slot, State.modSlot, Core.slot_modSlot_same _ _ h]

theorem State.slot_modSlot_other (s : State) {c d n m : Nat} (f : Slot → Slot) (h : d ≠ c ∨ m ≠ n) :
    (s.modSlot c n f).slot d m = s.slot d m := by
  by_cases e : d = c
  · subst e
    simp [State.slot, State.modSlot, Core.slot_modSlot_other _ _ (h.resolve_left (by simp))]
  · simp [State.slot, State.modSlot, State.core_modCore_other _ _ e]

theorem State.strand_modStrand_same (s : State) (c : Nat) {n : Nat} (f : Strand → Strand) (h : n < 9) :
    (s.modStrand c n f).strand c n = f (s.strand c n) := by
  simp [State.strand, State.modStrand, State.slot_modSlot_same _ _ _ h]

theorem State.me_modMe (s : State) (f : Strand → Strand) (h : s.cur.2 < 9) : (s.modMe f).me = f s.me := by
  simp [State.me, State.modMe, State.strand_modStrand_same _ _ _ h]

@[simp] theorem State.core_modCluster (s : State) (k c : Nat) (f : Cluster → Cluster) : (s.modCluster k f).core c = s.core c := rfl
@[simp] theorem State.slot_modCluster (s : State) (k c n : Nat) (f : Cluster → Cluster) : (s.modCluster k f).slot c n = s.slot c n := rfl
@[simp] theorem State.me_modCluster (s : State) (k : Nat) (f : Cluster → Cluster) : (s.modCluster k f).me = s.me := rfl
@[simp] theorem State.cluster_modCore (s : State) (k c : Nat) (f : Core → Core) : (s.modCore c f).cluster k = s.cluster k := rfl
@[simp] theorem State.cluster_modSlot (s : State) (k c n : Nat) (f : Slot → Slot) : (s.modSlot c n f).cluster k = s.cluster k := rfl
@[simp] theorem State.cluster_modMe (s : State) (k : Nat) (f : Strand → Strand) : (s.modMe f).cluster k = s.cluster k := rfl

theorem State.modCore_modCore (s : State) (c : Nat) (f g : Core → Core) : (s.modCore c f).modCore c g = s.modCore c fun k => g (f k) := by
  simp [State.modCore, State.core]

theorem Core.modSlot_modSlot (k : Core) (n : Nat) (f g : Slot → Slot) :
    (k.modSlot n f).modSlot n g = k.modSlot n fun x => g (f x) := by
  by_cases h : n < 9
  · rw [Core.modSlot, Core.slot_modSlot_same _ _ h]
    simp [Core.modSlot]
  · simp [Core.modSlot, Vector.setIfInBounds_eq_of_size_le (Nat.le_of_not_lt h)]

theorem State.modSlot_modSlot (s : State) (c n : Nat) (f g : Slot → Slot) :
    (s.modSlot c n f).modSlot c n g = s.modSlot c n fun x => g (f x) := by
  simp [State.modSlot, State.modCore_modCore, Core.modSlot_modSlot]

theorem State.modMe_modMe (s : State) (f g : Strand → Strand) : (s.modMe f).modMe g = s.modMe fun x => g (f x) := by
  simp [State.modMe, State.modStrand, State.modSlot_modSlot]

end Sys2Proof.Machine
end

