-- ==== Sys2Proof/Laws/Ops.lean ====
section
/-! SUPPORT. What the shared operations of an issue do: the issue itself, registers that must be full, going on, WAIT,
PARK, traps (R19-R23, R64, R72, R80, R343). -/

namespace Sys2Proof.Machine

theorem State.modMe_congr {s : State} {f g : Strand → Strand} (h : f s.me = g s.me) : s.modMe f = s.modMe g := by
  simp only [State.modMe, State.modStrand, State.modSlot, State.modCore, Core.modSlot]
  simp only [State.me, State.strand, State.slot] at h
  rw [h]

@[simp] theorem cur_markIssue (s : State) : (markIssue s).cur = s.cur := rfl

theorem me_markIssue {s : State} (h : s.cur.2 < 9) : (markIssue s).me = { s.me with entry := false } := by
  simp only [State.me, State.strand, State.slot, markIssue, State.core_modCore_same, State.modSlot, State.modCore_modCore]
  split <;>
    simp [Core.slot, Core.modSlot, h]

@[simp] theorem Strand.get_entry (x : Strand) (b : Bool) (r : BitVec 4) : { x with entry := b }.get r = x.get r := rfl
@[simp] theorem Strand.isEmpty_entry (x : Strand) (b : Bool) (r : BitVec 4) :
    { x with entry := b }.isEmpty r = x.isEmpty r := rfl
@[simp] theorem Strand.isClipped_entry (x : Strand) (b : Bool) (r : BitVec 4) :
    { x with entry := b }.isClipped r = x.isClipped r := rfl
@[simp] theorem Strand.pred_entry (x : Strand) (b : Bool) (n : BitVec 3) : { x with entry := b }.pred n = x.pred n := rfl
@[simp] theorem guardHolds_entry (x : Strand) (b : Bool) (p : BitVec 4) :
    guardHolds { x with entry := b } p = guardHolds x p := rfl

theorem isEmpty_markIssue {s : State} (h : s.cur.2 < 9) : (markIssue s).me.isEmpty = s.me.isEmpty := by
  rw [me_markIssue h]; rfl

theorem isClipped_markIssue {s : State} (h : s.cur.2 < 9) : (markIssue s).me.isClipped = s.me.isClipped := by
  rw [me_markIssue h]; rfl

/-- An instruction that passes checks 4 and 5 and its guard has its own effect. -/
theorem issue_runs {i : Instr} {s : State} (body : State → State) (h : Runs i s) :
    issue i body s = .next (body (markIssue s)) := by
  have e := me_markIssue h.slot
  have hm : (i.privileged && !(markIssue s).me.mode) = false := by
    rw [e]; cases hp : i.privileged
    · rfl
    · simp [h.mode hp]
  have hg : guardHolds (markIssue s).me i.guardField = true := by rw [e]; exact h.guard
  simp [issue, hm, h.limits, hg]

/-- Registers that are full and not clipped let the effect of an instruction happen. -/
theorem needs_readable {reads writes : List (BitVec 4)} {s : State} (body : State → State)
    (h : Readable reads writes s) (hs : s.cur.2 < 9) :
    needs reads writes body (markIssue s) = body (markIssue s) := by
  have h1 : (reads ++ writes).filter s.me.isEmpty = [] :=
    List.filter_eq_nil_iff.mpr fun r hr => by simp [h.full r hr]
  have h2 : reads.find? s.me.isClipped = none := List.find?_eq_none.mpr fun r hr => by simp [h.kept r hr]
  simp only [needs, parksOr, unclipped, isEmpty_markIssue hs, isClipped_markIssue hs, h1, h2]

/-- The same of an instruction that names a v or k register: the in-use flag is set (R105). -/
theorem needsVec_readable {reads writes : List (BitVec 4)} {s : State} (body : State → State)
    (h : Readable reads writes s) (hs : s.cur.2 < 9) :
    needsVec reads writes body (markIssue s) = body (useVec (markIssue s)) := by
  have h1 : (reads ++ writes).filter s.me.isEmpty = [] :=
    List.filter_eq_nil_iff.mpr fun r hr => by simp [h.full r hr]
  have hk : (useVec (markIssue s)).me.isClipped = s.me.isClipped := by
    have e : (useVec (markIssue s)).me = { (markIssue s).me with viu := true } := State.me_modMe _ _ hs
    rw [e, me_markIssue hs]; rfl
  have h2 : reads.find? s.me.isClipped = none := List.find?_eq_none.mpr fun r hr => by simp [h.kept r hr]
  simp only [needsVec, parksOr, unclipped, isEmpty_markIssue hs, hk, h1, h2]

/-- An instruction that only updates its strand leaves ran. -/
theorem finish_markIssue {f : Strand → Strand} {s : State} (h : s.cur.2 < 9) : finish f (markIssue s) = ran f s := by
  have e : ((markIssue s).modMe f).me = f (markIssue s).me := State.me_modMe _ _ h
  rw [finish, advance, goOn, State.modMe_modMe, e, ran]
  exact State.modMe_congr rfl

theorem setG_markIssue {d : BitVec 4} {v : Word} {s : State} (h : s.cur.2 < 9) :
    setG d v (markIssue s) = ran (fun x => x.put d v) s :=
  finish_markIssue h

theorem advance_markIssue {s : State} (h : s.cur.2 < 9) : advance (markIssue s) = ran id s := by
  rw [advance, goOn, ran]
  exact State.modMe_congr rfl

/-- ran depends on what the update does to the executing strand only. -/
theorem ran_congr {f g : Strand → Strand} {s : State} (h : f (markIssue s).me = g (markIssue s).me) : ran f s = ran g s := by
  rw [ran, ran]
  exact State.modMe_congr (by simp only [h])

/-- What an instruction with two register sources does. -/
theorem alu2_markIssue {d a b : BitVec 4} {f : Word → Word → Word} {s : State} (h : Readable [a, b] [d] s)
    (hs : s.cur.2 < 9) : alu2 d a b f (markIssue s) = ran (fun x => x.put d (f (x.get a) (x.get b))) s := by
  rw [alu2, needs_readable _ h hs, setG_markIssue hs]
  exact ran_congr rfl

/-- What an instruction with one register source does. -/
theorem alu1_markIssue {d a : BitVec 4} {f : Word → Word} {s : State} (h : Readable [a] [d] s)
    (hs : s.cur.2 < 9) : alu1 d a f (markIssue s) = ran (fun x => x.put d (f (x.get a))) s := by
  rw [alu1, needs_readable _ h hs, setG_markIssue hs]
  exact ran_congr rfl

end Sys2Proof.Machine
end

