-- ==== Sys2Proof/Laws/Runs.lean ====
section
/-! SUPPORT. What an issue leaves when its instruction enters WAIT, and when it leaves WAIT in the same step (R19, R156,
R162). -/

namespace Sys2Proof.Machine

theorem CoreFrame.refl_markIssue (s : State) : CoreFrame id s (markIssue s) where
  others c h := by
    simp only [markIssue, State.modSlot]
    rw [State.core_modCore_other _ _ h, State.core_modCore_other _ _ h]
  core := by
    simp only [markIssue, State.modSlot, State.core_modCore_same]
    split <;> rfl
  slots n h := by
    simp only [markIssue, State.modSlot, State.slot, State.core_modCore_same]
    have e := Core.slot_modSlot_other (s.core s.cur.1)
      (fun x : Slot => { x with state := .interval (s.cyc + 8), lastIssue := some s.cyc,
                                strand := { x.strand with entry := false } }) h
    split <;> exact e

theorem Frame.refl_markIssue (s : State) : Frame id s (markIssue s) where
  toCoreFrame := CoreFrame.refl_markIssue s
  rest := by simp only [markIssue, State.modSlot, State.modCore]

/-- Updating the executing strand's slot keeps a frame of the cores. -/
theorem CoreFrame.modSlot {g : Core → Core} {s t : State} (h : CoreFrame g s t) (f : Slot → Slot) :
    CoreFrame g s (t.modSlot s.cur.1 s.cur.2 f) where
  others c hc := by
    simp only [State.modSlot]
    rw [State.core_modCore_other _ _ hc, h.others c hc]
  core := by
    simp only [State.modSlot, State.core_modCore_same, Core.modSlot]
    rw [h.core]
  slots n hn := by
    have e : (t.modSlot s.cur.1 s.cur.2 f).slot s.cur.1 n = t.slot s.cur.1 n :=
      State.slot_modSlot_other _ _ (Or.inr hn)
    rw [e, h.slots n hn]

/-- Updating the executing strand's slot keeps a frame. -/
theorem Frame.modSlot {g : Core → Core} {s t : State} (h : Frame g s t) (f : Slot → Slot) :
    Frame g s (t.modSlot s.cur.1 s.cur.2 f) where
  toCoreFrame := h.toCoreFrame.modSlot f
  rest := by
    have := h.rest
    simp only [State.modSlot, State.modCore]
    rw [this]

/-- A new serial number keeps a frame. -/
theorem Frame.serial {g : Core → Core} {s t : State} (h : Frame g s t) (n : Nat) : Frame g s { t with serial := n } where
  toCoreFrame := ⟨h.others, h.core, h.slots⟩
  rest := by rw [h.rest]

theorem Frame.cur {g : Core → Core} {s t : State} (h : Frame g s t) : t.cur = s.cur := by rw [h.rest]

/-- The executing instruction enters WAIT. -/
theorem waits_enterWait {op : WaitOp} {s : State} (h : s.cur.2 < 9) : Waits id op s (enterWait op (markIssue s)) where
  toFrame := ((Frame.refl_markIssue s).modSlot _).modSlot _
  waits := by
    simp [enterWait, State.slot_modSlot_same _ _ _ h]
  me := by
    have e := me_markIssue h
    simp only [State.me, State.strand] at e ⊢
    simp only [enterWait, State.modMe, State.modStrand, State.modSlot_cur, cur_markIssue] at e ⊢
    rw [State.slot_modSlot_same _ _ _ h, State.slot_modSlot_same _ _ _ h]
    exact congrArg (fun x : Strand => { x with icnt := x.icnt + 1 }) e

/-- The executing strand leaves WAIT: its instruction has run to its end. -/
theorem Waits.wake {g : Core → Core} {op : WaitOp} {s t : State} (h : Waits g op s t) (f : Strand → Strand)
    (hs : s.cur.2 < 9) : Does g f s (wake s.cur.1 s.cur.2 f t) where
  toFrame := h.toFrame.modSlot _
  goes := ⟨_, by rw [Sys2Proof.Machine.wake, State.slot_modSlot_same _ _ _ hs]⟩
  me := by
    have hm := h.me
    have c := h.toFrame.cur
    simp only [State.me, State.strand, Sys2Proof.Machine.wake, State.modSlot_cur, c] at hm ⊢
    rw [State.slot_modSlot_same _ _ _ hs, hm]
    rfl

/-- The executing instruction parks on empty registers. -/
theorem parks_park {rs : List (BitVec 4)} {s : State} (h : s.cur.2 < 9) : Parks rs s (park rs (markIssue s)) where
  toFrame := ((Frame.refl_markIssue s).modSlot _).modSlot _
  parks := by
    simp only [park, State.setState, cur_markIssue]
    rw [State.slot_modSlot_same _ _ _ h]
  me := by
    have e := me_markIssue h
    simp only [State.me, State.strand] at e ⊢
    simp only [park, State.setState, State.modMe, State.modStrand, State.modSlot_cur, cur_markIssue] at e ⊢
    rw [State.slot_modSlot_same _ _ _ h, State.slot_modSlot_same _ _ _ h]
    exact congrArg (fun x : Strand => { x with icnt := x.icnt + 1 }) e

/-- Changes of clusters keep a frame of the cores. -/
theorem CoreFrame.clusters {g : Core → Core} {s t u : State} (h : CoreFrame g s t) (e : u.cores = t.cores) :
    CoreFrame g s u := by
  have hc : ∀ c, u.core c = t.core c := fun c => by simp only [State.core, e]
  exact ⟨fun c n => (hc c).trans (h.others c n), by rw [hc]; exact h.core,
    fun n hn => by rw [← h.slots n hn, State.slot, State.slot, hc]⟩

@[simp] theorem tvec_markIssue (s : State) (c : Nat) : ((markIssue s).core c).tvec = (s.core c).tvec := by
  by_cases hc : c = s.cur.1
  · subst hc
    rw [(CoreFrame.refl_markIssue s).core]; rfl
  · rw [(CoreFrame.refl_markIssue s).others c hc]

/-- What a trap entry at an issue makes of the strand's slot. -/
theorem traps_of_slot {xpc : Word} {stop : Stop} {s u : State} {f : Slot → Slot} (h : s.cur.2 < 9)
    (hu : u = { (markIssue s).modSlot s.cur.1 s.cur.2 f with clusters := u.clusters })
    (hc : s.me.bound = none → u.clusters = s.clusters)
    (hs : ∀ x : Slot, x.strand = { s.me with entry := false } → (∃ n, (f x).state = .interval n) ∧ (f x).strand =
      { s.me with
        xpc := (s.me.redir <|> s.me.redirX).getD xpc, redir := none, redirX := none, xval := stop.xval, xaux := stop.xaux
        mode := true, entry := true
        xcause := BitVec.ofNat 64 (causeCode stop.cause + if s.me.mode then 2 ^ 63 else 0)
        pc := (s.core s.cur.1).tvec.setWidth 64 <<< 2 }) : Traps xpc stop s u := by
  have e : ((markIssue s).slot s.cur.1 s.cur.2).strand = { s.me with entry := false } := me_markIssue h
  have hk := hs _ e
  have ecores : u.cores = ((markIssue s).modSlot s.cur.1 s.cur.2 f).cores := by rw [hu]
  have ecur : u.cur = s.cur := by rw [hu]; rfl
  have eslot : u.slot s.cur.1 s.cur.2 = f ((markIssue s).slot s.cur.1 s.cur.2) := by
    rw [← State.slot_modSlot_same (markIssue s) s.cur.1 f h]
    simp only [State.slot, State.core, ecores]
  have hfr := (CoreFrame.refl_markIssue s).modSlot f
  have hcl := hfr.clusters ecores
  exact
    { others := hcl.others, core := hcl.core, slots := hcl.slots
      rest := by
        have := (Frame.refl_markIssue s).rest
        rw [hu]
        simp only [State.modSlot, State.modCore, markIssue]
      free := hc
      goes := by rw [eslot]; exact hk.1
      me := by simp only [State.me, State.strand, ecur]; rw [eslot]; exact hk.2 }

/-- Trap entry at an issue for every cause but those of floating point (R343). -/
theorem traps_takeTrap {xpc : Word} {stop : Stop} {s : State} (h : s.cur.2 < 9) (hf : isFpCause stop.cause = false)
    (ht : (s.core s.cur.1).tvec ≠ 0) : Traps xpc stop s (takeTrap s.cur.1 s.cur.2 xpc stop false (markIssue s)) := by
  have e : (markIssue s).strand s.cur.1 s.cur.2 = { s.me with entry := false } := me_markIssue h
  unfold takeTrap
  simp only [hf, Bool.false_eq_true, if_false, tvec_markIssue, if_neg ht, e]
  cases hb : s.me.bound with
  | none =>
    refine traps_of_slot h rfl (fun _ => rfl) fun x hx => ⟨⟨_, rfl⟩, ?_⟩
    simp only [hx, b2n]
    cases s.me.mode <;> simp
  | some i =>
    refine traps_of_slot h rfl (fun n => by rw [hb] at n; cases n) fun x hx => ⟨⟨_, rfl⟩, ?_⟩
    simp only [hx, b2n]
    cases s.me.mode <;> simp

/-- A trap at an issue, the saved PC at the instruction. -/
theorem traps_trapHere {stop : Stop} {s : State} (h : s.cur.2 < 9) (hf : isFpCause stop.cause = false)
    (ht : (s.core s.cur.1).tvec ≠ 0) : Traps s.me.pc stop s (trapHere stop (markIssue s)) := by
  have e : (markIssue s).me.pc = s.me.pc := by rw [me_markIssue h]
  simp only [trapHere, e]
  exact traps_takeTrap h hf ht

end Sys2Proof.Machine
end

