-- ==== Sys2Proof/Laws/Translate.lean ====
section
/-! SUPPORT. What the checks of an access depend on (R154). -/

namespace Sys2Proof.Machine

/-- A walk reads memory only. -/
theorem walkFrom_congr {s t : State} (h : t.mem = s.mem) (la f l tb : Nat) (ls : List Nat) :
    walkFrom t la f l tb ls = walkFrom s la f l tb ls := by
  induction f generalizing l tb ls with
  | zero => rfl
  | succ f ih => unfold walkFrom State.read; rw [h]; simp only [ih]

/-- The checks of an access depend on memory, the module's identity and peers, TROOT and the region table only. -/
theorem checkWith_congr {s t : State} (h2 : t.mem = s.mem) (h3 : t.modId = s.modId) (h4 : t.peers = s.peers)
    (h5 : t.removed = s.removed) (h6 : t.troot = s.troot) (h7 : t.regions = s.regions) (tb : List TlbEntry) (c : Nat)
    (rt : Rights) (k : Acc) (va : Word) : checkWith t tb c rt k va = checkWith s tb c rt k va := by
  have e1 : isOwn t va = isOwn s va := by unfold isOwn; rw [h3]
  have e2 : ∀ tb la, translate t tb la = translate s tb la := fun tb la => by
    unfold translate walk; rw [h6]; simp only [walkFrom_congr h2]
  have e3 : ∀ a, isRedCell t a = isRedCell s a := fun a => by unfold isRedCell cellMode State.read; rw [h2]
  have e4 : ∀ la, quiescing t la = quiescing s la := fun la => by unfold quiescing regionAt; rw [h7]
  have e5 : ∀ k la pa e, classOk t k la pa e = classOk s k la pa e := fun k la pa e => by
    unfold classOk; simp only [e3, e4]
  have e6 : ∀ k pa off, ringClassOk t k pa off = ringClassOk s k pa off := fun k pa off => by
    unfold ringClassOk State.read; rw [h2]
  unfold checkWith
  simp only [e1, e2, e5, e6, h4, h5]

/-- The same, with the TLB of the core's cluster. -/
theorem checkAccess_congr {s t : State} (h1 : t.clusters = s.clusters) (h2 : t.mem = s.mem) (h3 : t.modId = s.modId)
    (h4 : t.peers = s.peers) (h5 : t.removed = s.removed) (h6 : t.troot = s.troot) (h7 : t.regions = s.regions) (c : Nat)
    (rt : Rights) (k : Acc) (va : Word) (n : Nat) : checkAccess t c rt k va n = checkAccess s c rt k va n := by
  unfold checkAccess
  rw [checkWith_congr h2 h3 h4 h5 h6 h7, State.cluster, State.cluster, h1]

end Sys2Proof.Machine
end

