-- ==== Sys2Proof/Laws/Access.lean ====
section
/-! SUPPORT. What the shared loads and stores leave (R155-R164). -/

namespace Sys2Proof.Machine

theorem dropTags_nil (s : State) : dropTags [] s = s := by
  have h : ∀ f : Msg → Bool, (∀ m, f m = true) → s.flight.filter f = s.flight := fun f hf =>
    List.filter_eq_self.mpr fun m _ => hf m
  have p : (s.pending.filter fun p => !([] : List Nat).contains p.tag) = s.pending :=
    List.filter_eq_self.mpr fun _ _ => rfl
  rw [dropTags, h _ (fun m => by cases m <;> rfl), p]

/-- The core of a state whose cores, but for slots, are those of s in a frame. -/
theorem Frame.sb {g : Core → Core} {s t : State} (h : Frame g s t) : (t.core s.cur.1).sb = (g (s.core s.cur.1)).sb := by
  rw [h.core]

theorem Frame.avgQ {g : Core → Core} {s t : State} (h : Frame g s t) :
    (t.core s.cur.1).avgQ = (g (s.core s.cur.1)).avgQ := by
  rw [h.core]

theorem Frame.mem {g : Core → Core} {s t : State} (h : Frame g s t) : t.mem = s.mem := by rw [h.rest]

theorem Frame.poison {g : Core → Core} {s t : State} (h : Frame g s t) : t.poison = s.poison := by rw [h.rest]

/-- What an element of a load finds depends on the core's buffer and averaging queue, memory and its poison only. -/
theorem loadElem_congr {s t : State} {c uid : Nat} {e : Elem} (h1 : (t.core c).sb = (s.core c).sb)
    (h2 : (t.core c).avgQ = (s.core c).avgQ) (h3 : t.mem = s.mem) (h4 : t.poison = s.poison) :
    loadElem t c uid e = loadElem s c uid e := by
  have hr : ∀ a n, t.read a n = s.read a n := fun a n => by rw [State.read, State.read, h3]
  have hs : ∀ f c a acc, redSum t a f c acc = redSum s a f c acc := by
    intro f
    induction f with
    | zero => intros; rfl
    | succ f ih => intro c a acc; simp only [redSum, hr, ih]
  have hc : ∀ a, isRedCell t a = isRedCell s a := fun a => by unfold isRedCell cellMode; rw [hr]
  have hm : ∀ ord a n, loadMem t ord a n = loadMem s ord a n := fun ord a n => by
    simp only [loadMem, hr, hc, hs]
  have hp : ∀ a n, poisoned t a n = poisoned s a n := fun a n => by simp only [poisoned, h4]
  have ha : avgPending t c uid e = avgPending s c uid e := by unfold avgPending releasedTo; rw [h1, h2]
  have hh : heldBytes t c e = heldBytes s c e := by unfold heldBytes; rw [h1]
  unfold loadElem
  rw [ha, hh]
  cases e.loc with
  | here a => simp only [hp, hm, h3]
  | there m a => rfl

theorem sb_markIssue (s : State) : ((markIssue s).core s.cur.1).sb = (s.core s.cur.1).sb :=
  (Frame.refl_markIssue s).sb

theorem avgQ_markIssue (s : State) : ((markIssue s).core s.cur.1).avgQ = (s.core s.cur.1).avgQ :=
  (Frame.refl_markIssue s).avgQ

theorem loadElem_markIssue (s : State) (uid : Nat) (e : Elem) :
    loadElem (markIssue s) s.cur.1 uid e = loadElem s s.cur.1 uid e :=
  loadElem_congr (sb_markIssue s) (avgQ_markIssue s) rfl rfl

theorem avgPending_of_settled {s : State} {e : Elem} {a : Nat} (h : Settled s a) (he : e.loc = .here a) :
    avgPending s s.cur.1 s.me.uid e = false := by
  simp only [avgPending, he, List.any_eq_false, Bool.and_eq_true, Bool.or_eq_true, beq_iff_eq, not_and]
  exact h

/-- The bytes of an element that needs no WAIT. -/
theorem loadElem_atOnce {s : State} {e : Elem} {a : Nat} (he : e.loc = .here a) (hs : Settled s a)
    (hp : poisoned s a e.size = false) (ha : AtOnce s a e.size) :
    loadElem s s.cur.1 s.me.uid e = .val (bytesHeld s s.cur.1 a e.size) := by
  have hall : ((List.range e.size).map fun i => sbByte (s.core s.cur.1).sb (.here (a + i))).all Option.isSome = true →
      (((List.range e.size).map fun i => sbByte (s.core s.cur.1).sb (.here (a + i))).map (·.getD 0)) =
        (List.range e.size).map fun i => (sbByte (s.core s.cur.1).sb (.here (a + i))).getD (memByte s.mem (a + i)) := by
    intro h
    rw [List.map_map]
    refine List.map_congr_left fun i hi => ?_
    have := List.all_eq_true.mp h _ (List.mem_map_of_mem hi)
    obtain ⟨b, hb⟩ := Option.isSome_iff_exists.mp this
    simp [hb]
  unfold loadElem
  rw [avgPending_of_settled hs he]
  simp only [Bool.false_eq_true, if_false, heldBytes, he, Loc.plus]
  by_cases h : ((List.range e.size).map fun i => sbByte (s.core s.cur.1).sb (.here (a + i))).all Option.isSome = true
  · rw [if_pos h, hall h]; rfl
  · rw [if_neg h]
    have hl : inLocal s.cur.1 (.here a) = true := by
      rcases ha with ha | ha
      · exact ha
      · refine absurd (List.all_eq_true.mpr fun x hx => ?_) h
        obtain ⟨i, hi, rfl⟩ := List.mem_map.mp hx
        exact ha i (List.mem_range.mp hi)
    rw [if_pos hl, hp]
    simp only [Bool.false_eq_true, if_false, bytesHeld]
    refine congrArg (fun l => LoadRes.val (leNat l)) (List.map_congr_left fun i hi => ?_)
    have hi' := List.mem_range.mp hi
    simp [List.getD, hi']

theorem elemAtOnce_iff {s : State} {e : Elem} {a : Nat} (he : e.loc = .here a) (hs : Settled s a) :
    elemAtOnce s s.cur.1 s.me.uid e = true ↔ AtOnce s a e.size := by
  unfold elemAtOnce AtOnce
  rw [avgPending_of_settled hs he]
  simp [heldBytes, he, Loc.plus]

theorem elemAtOnce_markIssue {s : State} (h : s.cur.2 < 9) (e : Elem) :
    elemAtOnce (markIssue s) s.cur.1 (markIssue s).me.uid e = elemAtOnce s s.cur.1 s.me.uid e := by
  have ha : avgPending (markIssue s) s.cur.1 s.me.uid e = avgPending s s.cur.1 s.me.uid e := by
    unfold avgPending releasedTo; rw [avgQ_markIssue, sb_markIssue]
  have hh : heldBytes (markIssue s) s.cur.1 e = heldBytes s s.cur.1 e := by unfold heldBytes; rw [sb_markIssue]
  rw [me_markIssue h]
  simp only [elemAtOnce, ha, hh]

theorem Strand.get_icnt (x : Strand) (n : Word) (r : BitVec 4) : { x with icnt := n }.get r = x.get r := rfl

/-- What markSeen makes of an entry, and of the core. -/
def seenBy (uid : Nat) (els : List Elem) (x : SbEntry) : SbEntry :=
  if newlySeen uid els x then { x with readers := x.readers ++ [uid] } else x

def sees (uid : Nat) (els : List Elem) (k : Core) : Core :=
  { k with sb := k.sb.map (seenBy uid els) }

theorem sees_of_none {uid : Nat} {els : List Elem} {k : Core} (h : (k.sb.any (newlySeen uid els)) = false) :
    sees uid els k = k := by
  have e : k.sb.map (seenBy uid els) = k.sb := by
    refine (List.map_congr_left fun x hx => ?_).trans (List.map_id _)
    have := List.any_eq_false.mp h x hx
    rw [seenBy, if_neg this]; rfl
  rw [sees, e]

theorem markSeen_eq (c uid : Nat) (els : List Elem) (t : State) :
    markSeen c uid els t = if (t.core c).sb.any (newlySeen uid els) then t.modCore c (sees uid els) else t := rfl

/-- A load marks the stores of other strands that it has forwarded, and changes nothing else. -/
theorem Waits.markSeen {g : Core → Core} {op : WaitOp} {s t : State} (h : Waits g op s t) (uid : Nat) (els : List Elem) :
    Waits (fun k => sees uid els (g k)) op s (markSeen s.cur.1 uid els t) := by
  have hsb : (t.core s.cur.1).sb = (g (s.core s.cur.1)).sb := h.toFrame.sb
  rw [markSeen_eq]
  split
  · have hc := State.core_modCore_same t s.cur.1 (sees uid els)
    have hsl : ∀ n, (t.modCore s.cur.1 (sees uid els)).slot s.cur.1 n = t.slot s.cur.1 n := fun n => by
      rw [State.slot, hc]; rfl
    exact
      { others := fun c n => (State.core_modCore_other _ _ n).trans (h.others c n)
        core := by rw [hc, h.core]; rfl
        slots := fun n hn => (hsl n).trans (h.slots n hn)
        rest := by
          have := h.rest
          simp only [State.modCore]
          rw [this]
        waits := by rw [hsl]; exact h.waits
        me := by
          have hm := h.me
          have hcur := h.toFrame.cur
          simp only [State.me, State.strand] at hm ⊢
          rw [show (t.modCore s.cur.1 (sees uid els)).cur = t.cur from rfl, hcur, hsl]
          rw [hcur] at hm
          exact hm }
  · rename_i hn
    have e : sees uid els (g (s.core s.cur.1)) = g (s.core s.cur.1) :=
      sees_of_none (by rw [← hsb]; exact Bool.eq_false_iff.mpr hn)
    exact { others := h.others, core := by rw [h.core, e], slots := h.slots, rest := h.rest, waits := h.waits, me := h.me }

theorem Does.congr {g g' : Core → Core} {f : Strand → Strand} {s t : State} (h : Does g f s t)
    (e : g' (s.core s.cur.1) = g (s.core s.cur.1)) : Does g' f s t :=
  { others := h.others, core := by rw [h.core, e], slots := h.slots, rest := h.rest, goes := h.goes, me := h.me }

/-- A load in WAIT whose elements have all been read ends, and writes what dst says. -/
theorem loadComplete_read {g : Core → Core} {s t : State} {els : List Elem} {vals : List Nat} {dst : LoadDst}
    {f : Strand → Strand} (hw : Waits g (.load els dst none) s t) (hs : s.cur.2 < 9)
    (hv : els.map Elem.val = vals.map some) (ht : ∀ e ∈ els, e.tag = 0) (hd : dst.home = none)
    (hf : ∀ u, writeLoaded s.cur.1 s.cur.2 dst (els.zip vals) u = u.modStrand s.cur.1 s.cur.2 f) :
    ∃ u, loadComplete s.cur.1 s.cur.2 t = some u ∧ Does (fun k => sees s.me.uid els (g k)) f s u := by
  have hg : ∀ (uid : Nat) (els : List Elem) (vals : List Nat), els.map Elem.val = vals.map some →
      gather t s.cur.1 uid els = (els.zip vals, none) := by
    intro uid els
    induction els with
    | nil => intro vals h; rfl
    | cons e es ih =>
      intro vals h
      cases vals with
      | nil => simp at h
      | cons v vs =>
        simp only [List.map_cons, List.cons.injEq] at h
        simp only [gather, elemAnswer, h.1, ih vs h.2, List.zip_cons_cons]
  have hwait : t.waiting s.cur.1 s.cur.2 = some (.load els dst none) := by
    unfold State.waiting; rw [hw.waits]
  have htags : elemTags els = [] := by
    unfold elemTags
    rw [List.filter_eq_nil_iff]
    intro x hx
    obtain ⟨e, he, rfl⟩ := List.mem_map.mp hx
    simp [ht e he]
  have hw' := hw.markSeen s.me.uid els
  have huid : (t.strand s.cur.1 s.cur.2).uid = s.me.uid := by
    have hm := hw.me
    have hcur := hw.toFrame.cur
    simp only [State.me, hcur] at hm ⊢
    rw [hm]
  refine ⟨wake s.cur.1 s.cur.2 id ((markSeen s.cur.1 s.me.uid els t).modStrand s.cur.1 s.cur.2 f), ?_, ?_⟩
  · unfold loadComplete
    simp only [hwait, hg _ _ _ hv, loadEnd, htags, dropTags_nil, hd, hf, huid]
  · generalize Sys2Proof.Machine.markSeen s.cur.1 s.me.uid els t = t' at hw'
    have e : wake s.cur.1 s.cur.2 id (t'.modStrand s.cur.1 s.cur.2 f) = wake s.cur.1 s.cur.2 f t' := by
      have hl : (t'.modStrand s.cur.1 s.cur.2 f).slot s.cur.1 s.cur.2 =
          { t'.slot s.cur.1 s.cur.2 with strand := f (t'.strand s.cur.1 s.cur.2) } := by
        rw [State.modStrand, State.slot_modSlot_same _ _ _ hs]; rfl
      have ht : wakeAt (t'.modStrand s.cur.1 s.cur.2 f) s.cur.1 s.cur.2 = wakeAt t' s.cur.1 s.cur.2 := by
        simp only [wakeAt, hl]; rfl
      rw [wake, wake, ht, State.modStrand, State.modSlot_modSlot]
      rfl
    rw [e]
    exact hw'.wake f hs

/-- The marks of a load of one element of this module, made once or twice. -/
theorem sees_sawStores (uid : Nat) (e : Elem) {a : Nat} (he : e.loc = .here a) (v : Option Nat) (k : Core) :
    sees uid [{ e with val := v }] (sees uid [{ e with val := v }] k) = sawStores uid [(a, e.size)] k := by
  simp only [sees, sawStores, List.map_map]
  congr 1
  refine List.map_congr_left fun x _ => ?_
  have hn : newlySeen uid [{ e with val := v }] x = (x.uid != uid && !x.readers.contains uid &&
      [(a, e.size)].any fun q => (List.range q.2).any fun j => (x.byte (.here (q.1 + j))).isSome) := by
    simp only [newlySeen, forwards, List.any_cons, List.any_nil, he, Loc.plus]
  rw [← hn, Function.comp]
  cases hx : newlySeen uid [{ e with val := v }] x
  · simp [seenBy, hx]
  · have once : newlySeen uid [{ e with val := v }] { x with readers := x.readers ++ [uid] } = false := by simp [newlySeen]
    have h1 : seenBy uid [{ e with val := v }] x = { x with readers := x.readers ++ [uid] } := by rw [seenBy, hx]; rfl
    rw [h1, seenBy, once]; rfl

/-- A scalar load whose bytes are at hand completes in its issue (R156). -/
theorem does_startLoad {s : State} {e : Elem} {a : Nat} {d : BitVec 4} {signed plain : Bool} (h : s.cur.2 < 9)
    (he : e.loc = .here a) (hv : e.val = none) (ht : e.tag = 0) (hs : Settled s a) (hp : poisoned s a e.size = false)
    (ha : AtOnce s a e.size) :
    Does (sawStores s.me.uid [(a, e.size)]) (fun x => x.put d (extend signed e.size (bytesHeld s s.cur.1 a e.size))) s
      (startLoad [e] (.scalar d signed plain) none (markIssue s)) := by
  have h1 : elemAtOnce (markIssue s) s.cur.1 (markIssue s).me.uid e = true := by
    rw [elemAtOnce_markIssue h]; exact (elemAtOnce_iff he hs).mpr ha
  have h2 : elemAnswer (markIssue s) s.cur.1 (markIssue s).me.uid e = some (.ok (bytesHeld s s.cur.1 a e.size)) := by
    rw [elemAnswer, hv, me_markIssue h]
    simp only [loadElem_markIssue, loadElem_atOnce he hs hp ha]
  have h3 : readNow (markIssue s) e = { e with val := some (bytesHeld s s.cur.1 a e.size) } := by
    simp only [readNow, cur_markIssue, h1, h2, if_true]
  obtain ⟨u, hu, hd⟩ := loadComplete_read (vals := [bytesHeld s s.cur.1 a e.size]) (dst := .scalar d signed plain)
    (f := fun x => x.put d (extend signed e.size (bytesHeld s s.cur.1 a e.size)))
    ((waits_enterWait (op := .load [{ e with val := some (bytesHeld s s.cur.1 a e.size) }] (.scalar d signed plain) none)
      h).markSeen s.me.uid [{ e with val := some (bytesHeld s s.cur.1 a e.size) }]) h
    rfl (by simp [ht]) rfl (fun u => rfl)
  have : startLoad [e] (.scalar d signed plain) none (markIssue s) = u := by
    rw [me_markIssue h] at h1
    simp [startLoad, LoadDst.ascends, h3, show elemAtOnce (markIssue s) s.cur.1 s.me.uid e = true from h1, hu, me_markIssue h]
  rw [this]
  exact hd.congr (sees_sawStores _ e he _ _).symm

/-- A scalar load of this module whose bytes are not at hand waits for them (R156). -/
theorem waits_startLoad {s : State} {e : Elem} {a : Nat} {d : BitVec 4} {signed plain : Bool} (h : s.cur.2 < 9)
    (he : e.loc = .here a) (hv : e.val = none) (hs : Settled s a) (ha : ¬AtOnce s a e.size) :
    Waits id (.load [e] (.scalar d signed plain) none) s (startLoad [e] (.scalar d signed plain) none (markIssue s)) := by
  have h1 : elemAtOnce (markIssue s) s.cur.1 (markIssue s).me.uid e = false := by
    rw [elemAtOnce_markIssue h, Bool.eq_false_iff]
    exact fun hc => ha ((elemAtOnce_iff he hs).mp hc)
  have h3 : readNow (markIssue s) e = e := by simp [readNow, h1]
  have hw := waits_enterWait (op := .load [e] (.scalar d signed plain) none) h
  have h2 : loadResume s.cur.1 s.cur.2 (enterWait (.load [e] (.scalar d signed plain) none) (markIssue s)) = none := by
    have : State.waiting (enterWait (.load [e] (.scalar d signed plain) none) (markIssue s)) s.cur.1 s.cur.2 =
        some (.load [e] (.scalar d signed plain) none) := by
      unfold State.waiting; rw [hw.waits]
    simp [loadResume, this, sendable, he, LoadDst.ascends]
  have h4 : ∀ u t, markSeen s.cur.1 u [] t = t := fun u t => by simp [markSeen, newlySeen]
  have : startLoad [e] (.scalar d signed plain) none (markIssue s) =
      enterWait (.load [e] (.scalar d signed plain) none) (markIssue s) := by
    simp [startLoad, LoadDst.ascends, h3, hv, h4, h1, h2]
  rw [this]
  exact hw

@[simp] theorem checkAccess_markIssue (s : State) (c : Nat) (rt : Rights) (k : Acc) (va : Word) (n : Nat) :
    checkAccess (markIssue s) c rt k va n = checkAccess s c rt k va n :=
  checkAccess_congr rfl rfl rfl rfl rfl rfl rfl _ _ _ _ _

theorem rights_markIssue {s : State} (h : s.cur.2 < 9) : (markIssue s).me.rights = s.me.rights := by
  rw [me_markIssue h]; rfl

theorem migHome_markIssue (s : State) (p : Place) : migHome (markIssue s) p = migHome s p := by
  have h : ((markIssue s).core s.cur.1).det = (s.core s.cur.1).det := by rw [(Frame.refl_markIssue s).core]; rfl
  unfold migHome inHandler
  rw [cur_markIssue, h]

/-- The stop of a failed check names a cause that is none of floating point. -/
theorem isFpCause_checkAccess {s : State} {c : Nat} {rt : Rights} {k : Acc} {va : Word} {n : Nat} {st : Stop}
    (h : checkAccess s c rt k va n = .error st) : isFpCause st.cause = false := by
  unfold checkAccess at h
  split at h
  · cases h; rfl
  · unfold checkWith at h
    dsimp only at h
    repeat' split at h
    all_goals first
      | (cases h; done)
      | (cases h; rfl)
      | skip
    rename_i heq
    repeat' split at heq
    all_goals first
      | (cases heq; done)
      | (cases heq; cases h; rfl)

/-- An entry enters the buffer with room, when no store waits before it (R162, R163). -/
theorem storeResume_room {c n : Nat} {e : SbEntry} {fin : StoreFin} {stop : Option Stop} {s : State}
    (hw : s.waiting c n = some (.storeRoom [e] fin stop false)) (hr : (s.core c).sb.length < 32)
    (hb : storesBefore s c n = false) (hf : fin.folds = true) : storeResume c n s =
      let s1 := (pushEntry c n e s).setState c n (.wait (.storeRoom [] fin stop true))
      some ((storeEnd c n fin stop s1).getD s1) := by
  simp [storeResume, hw, pushEntries, hr, hf, hb]

end Sys2Proof.Machine
end

