-- ==== Sys2Proof/Laws/Memory.lean ====
section
/-! SUPPORT. The bytes of memory: what a write leaves at every address, and that every operation on memory keeps its
canonical form. -/

namespace Sys2Proof.Machine

theorem memWfFrom_mono {m : Memory} {a b : Nat} (hab : a ≤ b) (h : memWfFrom b m = true) : memWfFrom a m = true := by
  cases m with
  | nil => rfl
  | cons x m =>
    simp only [memWfFrom, Bool.and_eq_true, decide_eq_true_eq] at h ⊢
    exact ⟨⟨Nat.le_trans hab h.1.1, h.1.2⟩, h.2⟩

/-- An address below every entry reads as an unlisted byte. -/
theorem memByte_below {m : Memory} {lo a : Nat} (h : memWfFrom lo m = true) (ha : a < lo) : memByte m a = unlistedByte := by
  cases m with
  | nil => rfl
  | cons x m =>
    simp only [memWfFrom, Bool.and_eq_true, decide_eq_true_eq] at h
    have h1 : a ≠ x.1 := by omega
    have h2 : a < x.1 := by omega
    simp [memByte, h1, h2]

theorem memWfFrom_memPut {m : Memory} {lo a : Nat} {v : Byte} (h : memWfFrom lo m = true) (ha : lo ≤ a) :
    memWfFrom lo (memPut m a v) = true := by
  induction m generalizing lo with
  | nil => by_cases hv : v = unlistedByte <;> simp [memPut, memWfFrom, hv, ha]
  | cons x m ih =>
    have hx := h
    simp only [memWfFrom, Bool.and_eq_true, decide_eq_true_eq] at hx
    obtain ⟨⟨h1, h2⟩, h3⟩ := hx
    by_cases hlt : a < x.1
    · by_cases hv : v = unlistedByte
      · rw [memPut, if_pos hlt, if_pos hv]; exact h
      · rw [memPut, if_pos hlt, if_neg hv]
        simp only [memWfFrom, Bool.and_eq_true, decide_eq_true_eq]
        exact ⟨⟨ha, hv⟩, ⟨by omega, h2⟩, h3⟩
    · by_cases he : a = x.1
      · by_cases hv : v = unlistedByte
        · rw [memPut, if_neg hlt, if_pos he, if_pos hv]
          exact memWfFrom_mono (by omega) h3
        · rw [memPut, if_neg hlt, if_pos he, if_neg hv]
          simp only [memWfFrom, Bool.and_eq_true, decide_eq_true_eq]
          exact ⟨⟨ha, hv⟩, he ▸ h3⟩
      · rw [memPut, if_neg hlt, if_neg he]
        simp only [memWfFrom, Bool.and_eq_true, decide_eq_true_eq]
        exact ⟨⟨h1, h2⟩, ih h3 (by omega)⟩

/-- Writing one byte keeps the canonical form. -/
theorem Memory.wf_memPut {m : Memory} (h : m.wf = true) (a : Nat) (v : Byte) : Memory.wf (memPut m a v) = true :=
  memWfFrom_memPut h (Nat.zero_le a)

theorem memByte_memPut_from {m : Memory} {lo : Nat} (h : memWfFrom lo m = true) (a b : Nat) (v : Byte) :
    memByte (memPut m a v) b = if b = a then v else memByte m b := by
  induction m generalizing lo with
  | nil =>
    by_cases hv : v = unlistedByte <;> by_cases hb : b = a <;> simp [memPut, memByte, hv, hb]
  | cons x m ih =>
    simp only [memWfFrom, Bool.and_eq_true, decide_eq_true_eq] at h
    obtain ⟨⟨h1, h2⟩, h3⟩ := h
    by_cases hlt : a < x.1
    · by_cases hv : v = unlistedByte
      · rw [memPut, if_pos hlt, if_pos hv]
        by_cases hb : b = a
        · subst hb
          have : b ≠ x.1 := by omega
          simp [memByte, this, hlt, hv]
        · rw [if_neg hb]
      · rw [memPut, if_pos hlt, if_neg hv, memByte]
        by_cases hb : b = a
        · simp [hb]
        · rw [if_neg hb, if_neg hb]
          by_cases hba : b < a
          · have e1 : b ≠ x.1 := by omega
            have e2 : b < x.1 := by omega
            simp [memByte, hba, e1, e2]
          · rw [if_neg hba]
    · by_cases he : a = x.1
      · by_cases hv : v = unlistedByte
        · rw [memPut, if_neg hlt, if_pos he, if_pos hv, memByte]
          by_cases hb : b = a
          · rw [if_pos hb, hb, hv]
            exact memByte_below h3 (by omega)
          · rw [if_neg hb, if_neg (by omega)]
            by_cases hbx : b < x.1
            · rw [if_pos hbx]
              exact memByte_below h3 (by omega)
            · rw [if_neg hbx]
        · rw [memPut, if_neg hlt, if_pos he, if_neg hv, memByte, memByte, ← he]
          by_cases hb : b = a <;> simp [hb]
      · rw [memPut, if_neg hlt, if_neg he, memByte, memByte, ih h3]
        by_cases hbx : b = x.1
        · have : b ≠ a := by omega
          simp [hbx, Ne.symm he]
        · by_cases hbl : b < x.1
          · have : b ≠ a := by omega
            simp [hbx, hbl, this]
          · simp [hbx, hbl]

/-- The read of every byte after the write of one. -/
theorem memByte_memPut {m : Memory} (h : m.wf = true) (a b : Nat) (v : Byte) :
    memByte (memPut m a v) b = if b = a then v else memByte m b :=
  memByte_memPut_from h a b v

/-- Writing bytes keeps the canonical form. -/
theorem Memory.wf_memPutAll {m : Memory} (h : m.wf = true) (a : Nat) (bs : List Byte) :
    Memory.wf (memPutAll m a bs) = true := by
  induction bs generalizing m a with
  | nil => exact h
  | cons b bs ih => exact ih (Memory.wf_memPut h a b) _

/-- The read of every byte after the write of a list of bytes. -/
theorem memByte_memPutAll {m : Memory} (h : m.wf = true) (a : Nat) (bs : List Byte) (b : Nat) :
    memByte (memPutAll m a bs) b = if a ≤ b ∧ b < a + bs.length then bs.getD (b - a) 0 else memByte m b := by
  induction bs generalizing m a with
  | nil =>
    rw [if_neg (by simp only [List.length_nil]; omega)]
    rfl
  | cons x bs ih =>
    rw [memPutAll, ih (Memory.wf_memPut h a x), memByte_memPut h]
    by_cases hb : b = a
    · subst hb
      rw [if_neg (by omega), if_pos rfl, if_pos (by simp only [List.length_cons]; omega), Nat.sub_self]
      rfl
    · by_cases hr : a + 1 ≤ b ∧ b < a + 1 + bs.length
      · rw [if_pos hr, if_pos (by simp only [List.length_cons]; omega)]
        obtain ⟨n, hn⟩ : ∃ n, b - a = n + 1 := ⟨b - a - 1, by omega⟩
        have hn' : b - (a + 1) = n := by omega
        rw [hn, hn', List.getD_cons_succ]
      · rw [if_neg hr, if_neg hb, if_neg (by simp only [List.length_cons]; omega)]

/-- Writing a number keeps the canonical form. -/
theorem Memory.wf_memWrite {m : Memory} (h : m.wf = true) (a n x : Nat) : Memory.wf (memWrite m a n x) = true := by
  induction n generalizing m a x with
  | zero => exact h
  | succ n ih => exact ih (Memory.wf_memPut h a _) _ _

theorem memWfFrom_filter {m : Memory} {lo : Nat} (f : Host.Cell → Bool) (h : memWfFrom lo m = true) :
    memWfFrom lo (m.filter f) = true := by
  induction m generalizing lo with
  | nil => rfl
  | cons x m ih =>
    simp only [memWfFrom, Bool.and_eq_true, decide_eq_true_eq] at h
    obtain ⟨⟨h1, h2⟩, h3⟩ := h
    rw [List.filter_cons]
    cases f x
    · exact memWfFrom_mono (by omega) (ih h3)
    · simp only [if_true, memWfFrom, Bool.and_eq_true, decide_eq_true_eq]
      exact ⟨⟨h1, h2⟩, ih h3⟩

/-- Removing entries keeps the canonical form. -/
theorem Memory.wf_filter {m : Memory} (f : Host.Cell → Bool) (h : m.wf = true) : Memory.wf (m.filter f) = true :=
  memWfFrom_filter f h

theorem Memory.wf_reset : Memory.wf State.reset.mem = true := rfl

theorem Memory.wf_resetMemory {m : Memory} (h : m.wf = true) : Memory.wf (resetMemory m) = true :=
  Memory.wf_filter _ h

@[simp] theorem mem_dropTlb (ls : List Nat) (s : State) : (dropTlb ls s).mem = s.mem := rfl
@[simp] theorem mem_latchLines (ls : List Nat) (s : State) : (latchLines ls s).mem = s.mem := rfl
@[simp] theorem mem_wakeStored (a n : Nat) (s : State) : (wakeStored a n s).mem = s.mem := rfl

@[simp] theorem mem_writeRaw (a : Nat) (bs : List Byte) (s : State) : (writeRaw a bs s).mem = memPutAll s.mem a bs := rfl

theorem wf_writeRaw {s : State} (h : s.mem.wf = true) (a : Nat) (bs : List Byte) : (writeRaw a bs s).mem.wf = true :=
  Memory.wf_memPutAll h a bs

theorem wf_clearRange {s : State} (h : s.mem.wf = true) (a n : Nat) : (clearRange a n s).mem.wf = true :=
  Memory.wf_filter _ h

theorem wf_ringStored {s : State} (h : s.mem.wf = true) (a old : Nat) : (ringStored a old s).mem.wf = true := by
  unfold ringStored
  split
  · exact h
  · dsimp only
    split
    · exact Memory.wf_memWrite h _ _ _
    · split <;> exact h

theorem wf_ordApplyOne {s : State} (h : s.mem.wf = true) (c n : Nat) (op : OrdOp) :
    (ordApplyOne c n op s).mem.wf = true :=
  wf_writeRaw h _ _

theorem wf_ordChain {s : State} (h : s.mem.wf = true) (cell f : Nat) : (ordChain cell f s).mem.wf = true := by
  induction f generalizing s with
  | zero => exact h
  | succ f ih =>
    unfold ordChain
    split
    · exact ih (wf_ordApplyOne h _ _ _)
    · exact h

theorem wf_ordRecheck {s : State} (h : s.mem.wf = true) (next c n : Nat) (op : OrdOp) :
    (ordRecheck next c n op s).mem.wf = true := by
  unfold ordRecheck
  split
  · exact h
  · split <;> exact h

theorem wf_foldl {α : Type} (f : State → α → State) (hf : ∀ s x, s.mem.wf = true → (f s x).mem.wf = true) (l : List α)
    {s : State} (h : s.mem.wf = true) : (l.foldl f s).mem.wf = true := by
  induction l generalizing s with
  | nil => exact h
  | cons x l ih => exact ih (hf s x h)

theorem wf_ordSweep {s : State} (h : s.mem.wf = true) (a n : Nat) (old : State) : (ordSweep a n old s).mem.wf = true :=
  wf_foldl _ (fun _ _ h => wf_ordChain h _ _) _ (wf_foldl _ (fun _ _ h => wf_ordRecheck h _ _ _ _) _ h)

/-- Every performed write keeps the canonical form. -/
theorem wf_perform {s : State} (h : s.mem.wf = true) (a : Nat) (bs : List Byte) : (perform a bs s).mem.wf = true :=
  wf_ordSweep (wf_ringStored (wf_writeRaw h a bs) a _) a _ s

theorem wf_putAll_foldl {α : Type} (at_ : α → Nat) (bs : α → List Byte) (l : List α) {m : Memory} (h : m.wf = true) :
    (l.foldl (fun m x => memPutAll m (at_ x) (bs x)) m).wf = true := by
  induction l generalizing m with
  | nil => exact h
  | cons x l ih => exact ih (Memory.wf_memPutAll h _ _)

theorem wf_spoilSlot {s : State} (h : s.mem.wf = true) (uid core : Nat) (b : Block) :
    (spoilSlot uid core b s).mem.wf = true :=
  wf_putAll_foldl (fun x : Nat × Nat => x.1) (fun x => (List.range x.2).map fun i => Config.abandonedByte s.serial (x.1 + i))
    b.wrote h

theorem wf_withFetchWord {s : State} (h : s.mem.wf = true) (nbits w : Nat) : (s.withFetchWord nbits w).mem.wf = true :=
  Memory.wf_memWrite (Memory.wf_memWrite h _ _ _) _ _ _

end Sys2Proof.Machine
end

