-- ==== Sys2Proof/Laws/PerInstr.lean ====
section
/-! SUPPORT. The per-instruction family RoundTrip: decoding the word of an instruction that a word can hold gives the
instruction back (R63-R72). -/

namespace Sys2Proof.Laws

/-- Decoding the word of an instruction gives the instruction back, whenever a word can hold it. -/
def RoundTrip.Statement (i : Instr) : Prop :=
  i.Encodable → decode (encode i) = .ok i

/-- The word of an instruction whose number is known. -/
theorem RoundTrip.decode_encode (i : Instr) (w : Nat) (h : encodeNat i = w) (hw : w < 2 ^ 32) :
    decode (encode i) = decodeNat w := by
  unfold decode encode; rw [h, BitVec.toNat_ofNat, Nat.mod_eq_of_lt hw]

/-- A field of a word is the value that was put there. -/
theorem RoundTrip.ofNat_field {n : Nat} (x : BitVec n) (y : Nat) (h : y % 2 ^ n = x.toNat) : BitVec.ofNat n y = x :=
  BitVec.eq_of_toNat_eq (by rw [BitVec.toNat_ofNat, h])

theorem RoundTrip.major01 {w : Nat} (h0 : w ≠ 0x04000000) (h : fld w 26 6 = 0x01) :
    decodeNat w = decodeMajor01 w := by unfold decodeNat; rw [if_neg h0, h]; rfl

theorem RoundTrip.major02 {w : Nat} (h0 : w ≠ 0x04000000) (h : fld w 26 6 = 0x02) :
    decodeNat w = decodeMajor02 w := by unfold decodeNat; rw [if_neg h0, h]; rfl

theorem RoundTrip.major03 {w : Nat} (h0 : w ≠ 0x04000000) (h : fld w 26 6 = 0x03) :
    decodeNat w = decodeMajor03 w := by unfold decodeNat; rw [if_neg h0, h]; rfl

theorem RoundTrip.major04 {w : Nat} (h0 : w ≠ 0x04000000) (h : fld w 26 6 = 0x04) :
    decodeNat w = decodeMajor04 w := by unfold decodeNat; rw [if_neg h0, h]; rfl

theorem RoundTrip.major05 {w : Nat} (h0 : w ≠ 0x04000000) (h : fld w 26 6 = 0x05) :
    decodeNat w = decodeMajor05 w := by unfold decodeNat; rw [if_neg h0, h]; rfl

theorem RoundTrip.major06 {w : Nat} (h0 : w ≠ 0x04000000) (h : fld w 26 6 = 0x06) :
    decodeNat w = decodeMajor06 w := by unfold decodeNat; rw [if_neg h0, h]; rfl

theorem RoundTrip.major07 {w : Nat} (h0 : w ≠ 0x04000000) (h : fld w 26 6 = 0x07) :
    decodeNat w = decodeMajor07 w := by unfold decodeNat; rw [if_neg h0, h]; rfl

theorem RoundTrip.major08 {w : Nat} (h0 : w ≠ 0x04000000) (h : fld w 26 6 = 0x08) :
    decodeNat w = decodeMajor08 w := by unfold decodeNat; rw [if_neg h0, h]; rfl

theorem RoundTrip.major09 {w : Nat} (h0 : w ≠ 0x04000000) (h : fld w 26 6 = 0x09) :
    decodeNat w = decodeMajor09 w := by unfold decodeNat; rw [if_neg h0, h]; rfl

theorem RoundTrip.major0A {w : Nat} (h0 : w ≠ 0x04000000) (h : fld w 26 6 = 0x0A) :
    decodeNat w = decodeMajor0A w := by unfold decodeNat; rw [if_neg h0, h]; rfl

theorem RoundTrip.major0B {w : Nat} (h0 : w ≠ 0x04000000) (h : fld w 26 6 = 0x0B) :
    decodeNat w = decodeMajor0B w := by unfold decodeNat; rw [if_neg h0, h]; rfl

theorem RoundTrip.major0C {w : Nat} (h0 : w ≠ 0x04000000) (h : fld w 26 6 = 0x0C) :
    decodeNat w = decodeMajor0C w := by unfold decodeNat; rw [if_neg h0, h]; rfl

theorem RoundTrip.major0D {w : Nat} (h0 : w ≠ 0x04000000) (h : fld w 26 6 = 0x0D) :
    decodeNat w = decodeMajor0D w := by unfold decodeNat; rw [if_neg h0, h]; rfl

theorem RoundTrip.major10 {w : Nat} (h0 : w ≠ 0x04000000) (h : fld w 26 6 = 0x10) :
    decodeNat w = decodeMajor10 w := by unfold decodeNat; rw [if_neg h0, h]; rfl

theorem RoundTrip.major11 {w : Nat} (h0 : w ≠ 0x04000000) (h : fld w 26 6 = 0x11) :
    decodeNat w = decodeMajor11 w := by unfold decodeNat; rw [if_neg h0, h]; rfl

theorem RoundTrip.major12 {w : Nat} (h0 : w ≠ 0x04000000) (h : fld w 26 6 = 0x12) :
    decodeNat w = decodeMajor12 w := by unfold decodeNat; rw [if_neg h0, h]; rfl

theorem RoundTrip.major13 {w : Nat} (h0 : w ≠ 0x04000000) (h : fld w 26 6 = 0x13) :
    decodeNat w = decodeMajor13 w := by unfold decodeNat; rw [if_neg h0, h]; rfl

theorem RoundTrip.major18 {w : Nat} (h0 : w ≠ 0x04000000) (h : fld w 26 6 = 0x18) :
    decodeNat w = decodeMajor18 w := by unfold decodeNat; rw [if_neg h0, h]; rfl

theorem RoundTrip.major19 {w : Nat} (h0 : w ≠ 0x04000000) (h : fld w 26 6 = 0x19) :
    decodeNat w = decodeMajor19 w := by unfold decodeNat; rw [if_neg h0, h]; rfl

theorem RoundTrip.major1A {w : Nat} (h0 : w ≠ 0x04000000) (h : fld w 26 6 = 0x1A) :
    decodeNat w = decodeMajor1A w := by unfold decodeNat; rw [if_neg h0, h]; rfl

theorem RoundTrip.major1B {w : Nat} (h0 : w ≠ 0x04000000) (h : fld w 26 6 = 0x1B) :
    decodeNat w = decodeMajor1B w := by unfold decodeNat; rw [if_neg h0, h]; rfl

theorem RoundTrip.major1C {w : Nat} (h0 : w ≠ 0x04000000) (h : fld w 26 6 = 0x1C) :
    decodeNat w = decodeMajor1C w := by unfold decodeNat; rw [if_neg h0, h]; rfl

theorem RoundTrip.major1D {w : Nat} (h0 : w ≠ 0x04000000) (h : fld w 26 6 = 0x1D) :
    decodeNat w = decodeMajor1D w := by unfold decodeNat; rw [if_neg h0, h]; rfl

theorem RoundTrip.major1E {w : Nat} (h0 : w ≠ 0x04000000) (h : fld w 26 6 = 0x1E) :
    decodeNat w = decodeMajor1E w := by unfold decodeNat; rw [if_neg h0, h]; rfl

theorem RoundTrip.major1F {w : Nat} (h0 : w ≠ 0x04000000) (h : fld w 26 6 = 0x1F) :
    decodeNat w = decodeMajor1F w := by unfold decodeNat; rw [if_neg h0, h]; rfl

theorem RoundTrip.major20 {w : Nat} (h0 : w ≠ 0x04000000) (h : fld w 26 6 = 0x20) :
    decodeNat w = decodeMajor20 w := by unfold decodeNat; rw [if_neg h0, h]; rfl

theorem RoundTrip.major21 {w : Nat} (h0 : w ≠ 0x04000000) (h : fld w 26 6 = 0x21) :
    decodeNat w = decodeMajor21 w := by unfold decodeNat; rw [if_neg h0, h]; rfl

theorem RoundTrip.major22 {w : Nat} (h0 : w ≠ 0x04000000) (h : fld w 26 6 = 0x22) :
    decodeNat w = decodeMajor22 w := by unfold decodeNat; rw [if_neg h0, h]; rfl

theorem RoundTrip.major23 {w : Nat} (h0 : w ≠ 0x04000000) (h : fld w 26 6 = 0x23) :
    decodeNat w = decodeMajor23 w := by unfold decodeNat; rw [if_neg h0, h]; rfl

theorem RoundTrip.major24 {w : Nat} (h0 : w ≠ 0x04000000) (h : fld w 26 6 = 0x24) :
    decodeNat w = decodeMajor24 w := by unfold decodeNat; rw [if_neg h0, h]; rfl

theorem RoundTrip.major28 {w : Nat} (h0 : w ≠ 0x04000000) (h : fld w 26 6 = 0x28) :
    decodeNat w = decodeMajor28 w := by unfold decodeNat; rw [if_neg h0, h]; rfl

theorem RoundTrip.major29 {w : Nat} (h0 : w ≠ 0x04000000) (h : fld w 26 6 = 0x29) :
    decodeNat w = decodeMajor29 w := by unfold decodeNat; rw [if_neg h0, h]; rfl

theorem RoundTrip.major2A {w : Nat} (h0 : w ≠ 0x04000000) (h : fld w 26 6 = 0x2A) :
    decodeNat w = decodeMajor2A w := by unfold decodeNat; rw [if_neg h0, h]; rfl

theorem RoundTrip.major2C {w : Nat} (h0 : w ≠ 0x04000000) (h : fld w 26 6 = 0x2C) :
    decodeNat w = decodeMajor2C w := by unfold decodeNat; rw [if_neg h0, h]; rfl

theorem RoundTrip.major2D {w : Nat} (h0 : w ≠ 0x04000000) (h : fld w 26 6 = 0x2D) :
    decodeNat w = decodeMajor2D w := by unfold decodeNat; rw [if_neg h0, h]; rfl

theorem RoundTrip.major30 {w : Nat} (h0 : w ≠ 0x04000000) (h : fld w 26 6 = 0x30) :
    decodeNat w = decodeMajor30 w := by unfold decodeNat; rw [if_neg h0, h]; rfl

theorem RoundTrip.major31 {w : Nat} (h0 : w ≠ 0x04000000) (h : fld w 26 6 = 0x31) :
    decodeNat w = decodeMajor31 w := by unfold decodeNat; rw [if_neg h0, h]; rfl

theorem RoundTrip.major32 {w : Nat} (h0 : w ≠ 0x04000000) (h : fld w 26 6 = 0x32) :
    decodeNat w = decodeMajor32 w := by unfold decodeNat; rw [if_neg h0, h]; rfl

theorem RoundTrip.major34 {w : Nat} (h0 : w ≠ 0x04000000) (h : fld w 26 6 = 0x34) :
    decodeNat w = decodeMajor34 w := by unfold decodeNat; rw [if_neg h0, h]; rfl

theorem RoundTrip.major38 {w : Nat} (h0 : w ≠ 0x04000000) (h : fld w 26 6 = 0x38) :
    decodeNat w = decodeMajor38 w := by unfold decodeNat; rw [if_neg h0, h]; rfl

theorem RoundTrip.major39 {w : Nat} (h0 : w ≠ 0x04000000) (h : fld w 26 6 = 0x39) :
    decodeNat w = decodeMajor39 w := by unfold decodeNat; rw [if_neg h0, h]; rfl

/-- The lowest field of a quotient of a word, and the quotient above it. -/
theorem RoundTrip.peel {w lo n x y : Nat} (h : w / 2 ^ lo = x + 2 ^ n * y) (hx : x < 2 ^ n) :
    w / 2 ^ lo % 2 ^ n = x ∧ w / 2 ^ (lo + n) = y := by
  constructor
  · rw [h, Nat.add_mul_mod_self_left, Nat.mod_eq_of_lt hx]
  · rw [Nat.pow_add, ← Nat.div_div_eq_div_mul, h, Nat.add_mul_div_left _ _ (Nat.two_pow_pos n), Nat.div_eq_of_lt hx,
      Nat.zero_add]

theorem RoundTrip.add (d : BitVec 4) (a : BitVec 4) (b : BitVec 4) (p : BitVec 4) :
    RoundTrip.Statement (.add d a b p) := by
  intro h
  obtain ⟨w, hw⟩ : ∃ w, w / 2 ^ 0 = p.toNat + 2 ^ 4 * (0x000 + 2 ^ 10 * (b.toNat + 2 ^ 4 * (a.toNat + 2 ^ 4 * (d.toNat + 2 ^ 4 * (0x01 + 2 ^ 6 * 0))))) := ⟨_, Nat.div_one _⟩
  have he : encodeNat (.add d a b p) = w := by
    rw [← Nat.div_one w]; refine Eq.trans ?_ hw.symm; show 0x04000000 + d.toNat * 4194304 + a.toNat * 262144 + b.toNat * 16384 + p.toNat = _; omega
  have ⟨f0, r0⟩ := RoundTrip.peel (lo := 0) (n := 4) hw p.isLt
  have ⟨f4, r4⟩ := RoundTrip.peel (lo := 4) (n := 10) r0 (by decide)
  have ⟨f14, r14⟩ := RoundTrip.peel (lo := 14) (n := 4) r4 b.isLt
  have ⟨f18, r18⟩ := RoundTrip.peel (lo := 18) (n := 4) r14 a.isLt
  have ⟨f22, r22⟩ := RoundTrip.peel (lo := 22) (n := 4) r18 d.isLt
  have ⟨f26, r26⟩ := RoundTrip.peel (lo := 26) (n := 6) r22 (by decide)
  have hl : ¬(d.toNat = 0 ∧ a.toNat = 0 ∧ b.toNat = 0 ∧ p.toNat = 0) := by
    have h2 := h.2
    simp [Instr.encodable, ← BitVec.toNat_inj] at h2; omega
  rw [RoundTrip.decode_encode _ _ he (by omega), RoundTrip.major01 (by omega) f26, decodeMajor01]
  have e : Instr.add (.ofNat 4 (w / 4194304)) (.ofNat 4 (w / 262144)) (.ofNat 4 (w / 16384)) (.ofNat 4 (w / 1)) = .add d a b p := by
    rw [RoundTrip.ofNat_field d (w / 4194304) f22, RoundTrip.ofNat_field a (w / 262144) f18, RoundTrip.ofNat_field b (w / 16384) f14, RoundTrip.ofNat_field p (w / 1) f0]
  rw [show fld w 4 10 = 0x000 from f4]
  exact congrArg Except.ok e

theorem RoundTrip.sub (d : BitVec 4) (a : BitVec 4) (b : BitVec 4) (p : BitVec 4) :
    RoundTrip.Statement (.sub d a b p) := by
  intro _
  obtain ⟨w, hw⟩ : ∃ w, w / 2 ^ 0 = p.toNat + 2 ^ 4 * (0x001 + 2 ^ 10 * (b.toNat + 2 ^ 4 * (a.toNat + 2 ^ 4 * (d.toNat + 2 ^ 4 * (0x01 + 2 ^ 6 * 0))))) := ⟨_, Nat.div_one _⟩
  have he : encodeNat (.sub d a b p) = w := by
    rw [← Nat.div_one w]; refine Eq.trans ?_ hw.symm; show 0x04000010 + d.toNat * 4194304 + a.toNat * 262144 + b.toNat * 16384 + p.toNat = _; omega
  have ⟨f0, r0⟩ := RoundTrip.peel (lo := 0) (n := 4) hw p.isLt
  have ⟨f4, r4⟩ := RoundTrip.peel (lo := 4) (n := 10) r0 (by decide)
  have ⟨f14, r14⟩ := RoundTrip.peel (lo := 14) (n := 4) r4 b.isLt
  have ⟨f18, r18⟩ := RoundTrip.peel (lo := 18) (n := 4) r14 a.isLt
  have ⟨f22, r22⟩ := RoundTrip.peel (lo := 22) (n := 4) r18 d.isLt
  have ⟨f26, r26⟩ := RoundTrip.peel (lo := 26) (n := 6) r22 (by decide)
  rw [RoundTrip.decode_encode _ _ he (by omega), RoundTrip.major01 (by omega) f26, decodeMajor01]
  have e : Instr.sub (.ofNat 4 (w / 4194304)) (.ofNat 4 (w / 262144)) (.ofNat 4 (w / 16384)) (.ofNat 4 (w / 1)) = .sub d a b p := by
    rw [RoundTrip.ofNat_field d (w / 4194304) f22, RoundTrip.ofNat_field a (w / 262144) f18, RoundTrip.ofNat_field b (w / 16384) f14, RoundTrip.ofNat_field p (w / 1) f0]
  rw [show fld w 4 10 = 0x001 from f4]
  exact congrArg Except.ok e

theorem RoundTrip.and (d : BitVec 4) (a : BitVec 4) (b : BitVec 4) (p : BitVec 4) :
    RoundTrip.Statement (.and d a b p) := by
  intro _
  obtain ⟨w, hw⟩ : ∃ w, w / 2 ^ 0 = p.toNat + 2 ^ 4 * (0x002 + 2 ^ 10 * (b.toNat + 2 ^ 4 * (a.toNat + 2 ^ 4 * (d.toNat + 2 ^ 4 * (0x01 + 2 ^ 6 * 0))))) := ⟨_, Nat.div_one _⟩
  have he : encodeNat (.and d a b p) = w := by
    rw [← Nat.div_one w]; refine Eq.trans ?_ hw.symm; show 0x04000020 + d.toNat * 4194304 + a.toNat * 262144 + b.toNat * 16384 + p.toNat = _; omega
  have ⟨f0, r0⟩ := RoundTrip.peel (lo := 0) (n := 4) hw p.isLt
  have ⟨f4, r4⟩ := RoundTrip.peel (lo := 4) (n := 10) r0 (by decide)
  have ⟨f14, r14⟩ := RoundTrip.peel (lo := 14) (n := 4) r4 b.isLt
  have ⟨f18, r18⟩ := RoundTrip.peel (lo := 18) (n := 4) r14 a.isLt
  have ⟨f22, r22⟩ := RoundTrip.peel (lo := 22) (n := 4) r18 d.isLt
  have ⟨f26, r26⟩ := RoundTrip.peel (lo := 26) (n := 6) r22 (by decide)
  rw [RoundTrip.decode_encode _ _ he (by omega), RoundTrip.major01 (by omega) f26, decodeMajor01]
  have e : Instr.and (.ofNat 4 (w / 4194304)) (.ofNat 4 (w / 262144)) (.ofNat 4 (w / 16384)) (.ofNat 4 (w / 1)) = .and d a b p := by
    rw [RoundTrip.ofNat_field d (w / 4194304) f22, RoundTrip.ofNat_field a (w / 262144) f18, RoundTrip.ofNat_field b (w / 16384) f14, RoundTrip.ofNat_field p (w / 1) f0]
  rw [show fld w 4 10 = 0x002 from f4]
  exact congrArg Except.ok e

theorem RoundTrip.or (d : BitVec 4) (a : BitVec 4) (b : BitVec 4) (p : BitVec 4) :
    RoundTrip.Statement (.or d a b p) := by
  intro _
  obtain ⟨w, hw⟩ : ∃ w, w / 2 ^ 0 = p.toNat + 2 ^ 4 * (0x003 + 2 ^ 10 * (b.toNat + 2 ^ 4 * (a.toNat + 2 ^ 4 * (d.toNat + 2 ^ 4 * (0x01 + 2 ^ 6 * 0))))) := ⟨_, Nat.div_one _⟩
  have he : encodeNat (.or d a b p) = w := by
    rw [← Nat.div_one w]; refine Eq.trans ?_ hw.symm; show 0x04000030 + d.toNat * 4194304 + a.toNat * 262144 + b.toNat * 16384 + p.toNat = _; omega
  have ⟨f0, r0⟩ := RoundTrip.peel (lo := 0) (n := 4) hw p.isLt
  have ⟨f4, r4⟩ := RoundTrip.peel (lo := 4) (n := 10) r0 (by decide)
  have ⟨f14, r14⟩ := RoundTrip.peel (lo := 14) (n := 4) r4 b.isLt
  have ⟨f18, r18⟩ := RoundTrip.peel (lo := 18) (n := 4) r14 a.isLt
  have ⟨f22, r22⟩ := RoundTrip.peel (lo := 22) (n := 4) r18 d.isLt
  have ⟨f26, r26⟩ := RoundTrip.peel (lo := 26) (n := 6) r22 (by decide)
  rw [RoundTrip.decode_encode _ _ he (by omega), RoundTrip.major01 (by omega) f26, decodeMajor01]
  have e : Instr.or (.ofNat 4 (w / 4194304)) (.ofNat 4 (w / 262144)) (.ofNat 4 (w / 16384)) (.ofNat 4 (w / 1)) = .or d a b p := by
    rw [RoundTrip.ofNat_field d (w / 4194304) f22, RoundTrip.ofNat_field a (w / 262144) f18, RoundTrip.ofNat_field b (w / 16384) f14, RoundTrip.ofNat_field p (w / 1) f0]
  rw [show fld w 4 10 = 0x003 from f4]
  exact congrArg Except.ok e

theorem RoundTrip.xor (d : BitVec 4) (a : BitVec 4) (b : BitVec 4) (p : BitVec 4) :
    RoundTrip.Statement (.xor d a b p) := by
  intro _
  obtain ⟨w, hw⟩ : ∃ w, w / 2 ^ 0 = p.toNat + 2 ^ 4 * (0x004 + 2 ^ 10 * (b.toNat + 2 ^ 4 * (a.toNat + 2 ^ 4 * (d.toNat + 2 ^ 4 * (0x01 + 2 ^ 6 * 0))))) := ⟨_, Nat.div_one _⟩
  have he : encodeNat (.xor d a b p) = w := by
    rw [← Nat.div_one w]; refine Eq.trans ?_ hw.symm; show 0x04000040 + d.toNat * 4194304 + a.toNat * 262144 + b.toNat * 16384 + p.toNat = _; omega
  have ⟨f0, r0⟩ := RoundTrip.peel (lo := 0) (n := 4) hw p.isLt
  have ⟨f4, r4⟩ := RoundTrip.peel (lo := 4) (n := 10) r0 (by decide)
  have ⟨f14, r14⟩ := RoundTrip.peel (lo := 14) (n := 4) r4 b.isLt
  have ⟨f18, r18⟩ := RoundTrip.peel (lo := 18) (n := 4) r14 a.isLt
  have ⟨f22, r22⟩ := RoundTrip.peel (lo := 22) (n := 4) r18 d.isLt
  have ⟨f26, r26⟩ := RoundTrip.peel (lo := 26) (n := 6) r22 (by decide)
  rw [RoundTrip.decode_encode _ _ he (by omega), RoundTrip.major01 (by omega) f26, decodeMajor01]
  have e : Instr.xor (.ofNat 4 (w / 4194304)) (.ofNat 4 (w / 262144)) (.ofNat 4 (w / 16384)) (.ofNat 4 (w / 1)) = .xor d a b p := by
    rw [RoundTrip.ofNat_field d (w / 4194304) f22, RoundTrip.ofNat_field a (w / 262144) f18, RoundTrip.ofNat_field b (w / 16384) f14, RoundTrip.ofNat_field p (w / 1) f0]
  rw [show fld w 4 10 = 0x004 from f4]
  exact congrArg Except.ok e

theorem RoundTrip.andn (d : BitVec 4) (a : BitVec 4) (b : BitVec 4) (p : BitVec 4) :
    RoundTrip.Statement (.andn d a b p) := by
  intro _
  obtain ⟨w, hw⟩ : ∃ w, w / 2 ^ 0 = p.toNat + 2 ^ 4 * (0x005 + 2 ^ 10 * (b.toNat + 2 ^ 4 * (a.toNat + 2 ^ 4 * (d.toNat + 2 ^ 4 * (0x01 + 2 ^ 6 * 0))))) := ⟨_, Nat.div_one _⟩
  have he : encodeNat (.andn d a b p) = w := by
    rw [← Nat.div_one w]; refine Eq.trans ?_ hw.symm; show 0x04000050 + d.toNat * 4194304 + a.toNat * 262144 + b.toNat * 16384 + p.toNat = _; omega
  have ⟨f0, r0⟩ := RoundTrip.peel (lo := 0) (n := 4) hw p.isLt
  have ⟨f4, r4⟩ := RoundTrip.peel (lo := 4) (n := 10) r0 (by decide)
  have ⟨f14, r14⟩ := RoundTrip.peel (lo := 14) (n := 4) r4 b.isLt
  have ⟨f18, r18⟩ := RoundTrip.peel (lo := 18) (n := 4) r14 a.isLt
  have ⟨f22, r22⟩ := RoundTrip.peel (lo := 22) (n := 4) r18 d.isLt
  have ⟨f26, r26⟩ := RoundTrip.peel (lo := 26) (n := 6) r22 (by decide)
  rw [RoundTrip.decode_encode _ _ he (by omega), RoundTrip.major01 (by omega) f26, decodeMajor01]
  have e : Instr.andn (.ofNat 4 (w / 4194304)) (.ofNat 4 (w / 262144)) (.ofNat 4 (w / 16384)) (.ofNat 4 (w / 1)) = .andn d a b p := by
    rw [RoundTrip.ofNat_field d (w / 4194304) f22, RoundTrip.ofNat_field a (w / 262144) f18, RoundTrip.ofNat_field b (w / 16384) f14, RoundTrip.ofNat_field p (w / 1) f0]
  rw [show fld w 4 10 = 0x005 from f4]
  exact congrArg Except.ok e

theorem RoundTrip.sll (d : BitVec 4) (a : BitVec 4) (b : BitVec 4) (p : BitVec 4) :
    RoundTrip.Statement (.sll d a b p) := by
  intro _
  obtain ⟨w, hw⟩ : ∃ w, w / 2 ^ 0 = p.toNat + 2 ^ 4 * (0x006 + 2 ^ 10 * (b.toNat + 2 ^ 4 * (a.toNat + 2 ^ 4 * (d.toNat + 2 ^ 4 * (0x01 + 2 ^ 6 * 0))))) := ⟨_, Nat.div_one _⟩
  have he : encodeNat (.sll d a b p) = w := by
    rw [← Nat.div_one w]; refine Eq.trans ?_ hw.symm; show 0x04000060 + d.toNat * 4194304 + a.toNat * 262144 + b.toNat * 16384 + p.toNat = _; omega
  have ⟨f0, r0⟩ := RoundTrip.peel (lo := 0) (n := 4) hw p.isLt
  have ⟨f4, r4⟩ := RoundTrip.peel (lo := 4) (n := 10) r0 (by decide)
  have ⟨f14, r14⟩ := RoundTrip.peel (lo := 14) (n := 4) r4 b.isLt
  have ⟨f18, r18⟩ := RoundTrip.peel (lo := 18) (n := 4) r14 a.isLt
  have ⟨f22, r22⟩ := RoundTrip.peel (lo := 22) (n := 4) r18 d.isLt
  have ⟨f26, r26⟩ := RoundTrip.peel (lo := 26) (n := 6) r22 (by decide)
  rw [RoundTrip.decode_encode _ _ he (by omega), RoundTrip.major01 (by omega) f26, decodeMajor01]
  have e : Instr.sll (.ofNat 4 (w / 4194304)) (.ofNat 4 (w / 262144)) (.ofNat 4 (w / 16384)) (.ofNat 4 (w / 1)) = .sll d a b p := by
    rw [RoundTrip.ofNat_field d (w / 4194304) f22, RoundTrip.ofNat_field a (w / 262144) f18, RoundTrip.ofNat_field b (w / 16384) f14, RoundTrip.ofNat_field p (w / 1) f0]
  rw [show fld w 4 10 = 0x006 from f4]
  exact congrArg Except.ok e

theorem RoundTrip.srl (d : BitVec 4) (a : BitVec 4) (b : BitVec 4) (p : BitVec 4) :
    RoundTrip.Statement (.srl d a b p) := by
  intro _
  obtain ⟨w, hw⟩ : ∃ w, w / 2 ^ 0 = p.toNat + 2 ^ 4 * (0x007 + 2 ^ 10 * (b.toNat + 2 ^ 4 * (a.toNat + 2 ^ 4 * (d.toNat + 2 ^ 4 * (0x01 + 2 ^ 6 * 0))))) := ⟨_, Nat.div_one _⟩
  have he : encodeNat (.srl d a b p) = w := by
    rw [← Nat.div_one w]; refine Eq.trans ?_ hw.symm; show 0x04000070 + d.toNat * 4194304 + a.toNat * 262144 + b.toNat * 16384 + p.toNat = _; omega
  have ⟨f0, r0⟩ := RoundTrip.peel (lo := 0) (n := 4) hw p.isLt
  have ⟨f4, r4⟩ := RoundTrip.peel (lo := 4) (n := 10) r0 (by decide)
  have ⟨f14, r14⟩ := RoundTrip.peel (lo := 14) (n := 4) r4 b.isLt
  have ⟨f18, r18⟩ := RoundTrip.peel (lo := 18) (n := 4) r14 a.isLt
  have ⟨f22, r22⟩ := RoundTrip.peel (lo := 22) (n := 4) r18 d.isLt
  have ⟨f26, r26⟩ := RoundTrip.peel (lo := 26) (n := 6) r22 (by decide)
  rw [RoundTrip.decode_encode _ _ he (by omega), RoundTrip.major01 (by omega) f26, decodeMajor01]
  have e : Instr.srl (.ofNat 4 (w / 4194304)) (.ofNat 4 (w / 262144)) (.ofNat 4 (w / 16384)) (.ofNat 4 (w / 1)) = .srl d a b p := by
    rw [RoundTrip.ofNat_field d (w / 4194304) f22, RoundTrip.ofNat_field a (w / 262144) f18, RoundTrip.ofNat_field b (w / 16384) f14, RoundTrip.ofNat_field p (w / 1) f0]
  rw [show fld w 4 10 = 0x007 from f4]
  exact congrArg Except.ok e

theorem RoundTrip.sra (d : BitVec 4) (a : BitVec 4) (b : BitVec 4) (p : BitVec 4) :
    RoundTrip.Statement (.sra d a b p) := by
  intro _
  obtain ⟨w, hw⟩ : ∃ w, w / 2 ^ 0 = p.toNat + 2 ^ 4 * (0x008 + 2 ^ 10 * (b.toNat + 2 ^ 4 * (a.toNat + 2 ^ 4 * (d.toNat + 2 ^ 4 * (0x01 + 2 ^ 6 * 0))))) := ⟨_, Nat.div_one _⟩
  have he : encodeNat (.sra d a b p) = w := by
    rw [← Nat.div_one w]; refine Eq.trans ?_ hw.symm; show 0x04000080 + d.toNat * 4194304 + a.toNat * 262144 + b.toNat * 16384 + p.toNat = _; omega
  have ⟨f0, r0⟩ := RoundTrip.peel (lo := 0) (n := 4) hw p.isLt
  have ⟨f4, r4⟩ := RoundTrip.peel (lo := 4) (n := 10) r0 (by decide)
  have ⟨f14, r14⟩ := RoundTrip.peel (lo := 14) (n := 4) r4 b.isLt
  have ⟨f18, r18⟩ := RoundTrip.peel (lo := 18) (n := 4) r14 a.isLt
  have ⟨f22, r22⟩ := RoundTrip.peel (lo := 22) (n := 4) r18 d.isLt
  have ⟨f26, r26⟩ := RoundTrip.peel (lo := 26) (n := 6) r22 (by decide)
  rw [RoundTrip.decode_encode _ _ he (by omega), RoundTrip.major01 (by omega) f26, decodeMajor01]
  have e : Instr.sra (.ofNat 4 (w / 4194304)) (.ofNat 4 (w / 262144)) (.ofNat 4 (w / 16384)) (.ofNat 4 (w / 1)) = .sra d a b p := by
    rw [RoundTrip.ofNat_field d (w / 4194304) f22, RoundTrip.ofNat_field a (w / 262144) f18, RoundTrip.ofNat_field b (w / 16384) f14, RoundTrip.ofNat_field p (w / 1) f0]
  rw [show fld w 4 10 = 0x008 from f4]
  exact congrArg Except.ok e

theorem RoundTrip.min (d : BitVec 4) (a : BitVec 4) (b : BitVec 4) (p : BitVec 4) :
    RoundTrip.Statement (.min d a b p) := by
  intro _
  obtain ⟨w, hw⟩ : ∃ w, w / 2 ^ 0 = p.toNat + 2 ^ 4 * (0x009 + 2 ^ 10 * (b.toNat + 2 ^ 4 * (a.toNat + 2 ^ 4 * (d.toNat + 2 ^ 4 * (0x01 + 2 ^ 6 * 0))))) := ⟨_, Nat.div_one _⟩
  have he : encodeNat (.min d a b p) = w := by
    rw [← Nat.div_one w]; refine Eq.trans ?_ hw.symm; show 0x04000090 + d.toNat * 4194304 + a.toNat * 262144 + b.toNat * 16384 + p.toNat = _; omega
  have ⟨f0, r0⟩ := RoundTrip.peel (lo := 0) (n := 4) hw p.isLt
  have ⟨f4, r4⟩ := RoundTrip.peel (lo := 4) (n := 10) r0 (by decide)
  have ⟨f14, r14⟩ := RoundTrip.peel (lo := 14) (n := 4) r4 b.isLt
  have ⟨f18, r18⟩ := RoundTrip.peel (lo := 18) (n := 4) r14 a.isLt
  have ⟨f22, r22⟩ := RoundTrip.peel (lo := 22) (n := 4) r18 d.isLt
  have ⟨f26, r26⟩ := RoundTrip.peel (lo := 26) (n := 6) r22 (by decide)
  rw [RoundTrip.decode_encode _ _ he (by omega), RoundTrip.major01 (by omega) f26, decodeMajor01]
  have e : Instr.min (.ofNat 4 (w / 4194304)) (.ofNat 4 (w / 262144)) (.ofNat 4 (w / 16384)) (.ofNat 4 (w / 1)) = .min d a b p := by
    rw [RoundTrip.ofNat_field d (w / 4194304) f22, RoundTrip.ofNat_field a (w / 262144) f18, RoundTrip.ofNat_field b (w / 16384) f14, RoundTrip.ofNat_field p (w / 1) f0]
  rw [show fld w 4 10 = 0x009 from f4]
  exact congrArg Except.ok e

theorem RoundTrip.max (d : BitVec 4) (a : BitVec 4) (b : BitVec 4) (p : BitVec 4) :
    RoundTrip.Statement (.max d a b p) := by
  intro _
  obtain ⟨w, hw⟩ : ∃ w, w / 2 ^ 0 = p.toNat + 2 ^ 4 * (0x00A + 2 ^ 10 * (b.toNat + 2 ^ 4 * (a.toNat + 2 ^ 4 * (d.toNat + 2 ^ 4 * (0x01 + 2 ^ 6 * 0))))) := ⟨_, Nat.div_one _⟩
  have he : encodeNat (.max d a b p) = w := by
    rw [← Nat.div_one w]; refine Eq.trans ?_ hw.symm; show 0x040000A0 + d.toNat * 4194304 + a.toNat * 262144 + b.toNat * 16384 + p.toNat = _; omega
  have ⟨f0, r0⟩ := RoundTrip.peel (lo := 0) (n := 4) hw p.isLt
  have ⟨f4, r4⟩ := RoundTrip.peel (lo := 4) (n := 10) r0 (by decide)
  have ⟨f14, r14⟩ := RoundTrip.peel (lo := 14) (n := 4) r4 b.isLt
  have ⟨f18, r18⟩ := RoundTrip.peel (lo := 18) (n := 4) r14 a.isLt
  have ⟨f22, r22⟩ := RoundTrip.peel (lo := 22) (n := 4) r18 d.isLt
  have ⟨f26, r26⟩ := RoundTrip.peel (lo := 26) (n := 6) r22 (by decide)
  rw [RoundTrip.decode_encode _ _ he (by omega), RoundTrip.major01 (by omega) f26, decodeMajor01]
  have e : Instr.max (.ofNat 4 (w / 4194304)) (.ofNat 4 (w / 262144)) (.ofNat 4 (w / 16384)) (.ofNat 4 (w / 1)) = .max d a b p := by
    rw [RoundTrip.ofNat_field d (w / 4194304) f22, RoundTrip.ofNat_field a (w / 262144) f18, RoundTrip.ofNat_field b (w / 16384) f14, RoundTrip.ofNat_field p (w / 1) f0]
  rw [show fld w 4 10 = 0x00A from f4]
  exact congrArg Except.ok e

theorem RoundTrip.minu (d : BitVec 4) (a : BitVec 4) (b : BitVec 4) (p : BitVec 4) :
    RoundTrip.Statement (.minu d a b p) := by
  intro _
  obtain ⟨w, hw⟩ : ∃ w, w / 2 ^ 0 = p.toNat + 2 ^ 4 * (0x00B + 2 ^ 10 * (b.toNat + 2 ^ 4 * (a.toNat + 2 ^ 4 * (d.toNat + 2 ^ 4 * (0x01 + 2 ^ 6 * 0))))) := ⟨_, Nat.div_one _⟩
  have he : encodeNat (.minu d a b p) = w := by
    rw [← Nat.div_one w]; refine Eq.trans ?_ hw.symm; show 0x040000B0 + d.toNat * 4194304 + a.toNat * 262144 + b.toNat * 16384 + p.toNat = _; omega
  have ⟨f0, r0⟩ := RoundTrip.peel (lo := 0) (n := 4) hw p.isLt
  have ⟨f4, r4⟩ := RoundTrip.peel (lo := 4) (n := 10) r0 (by decide)
  have ⟨f14, r14⟩ := RoundTrip.peel (lo := 14) (n := 4) r4 b.isLt
  have ⟨f18, r18⟩ := RoundTrip.peel (lo := 18) (n := 4) r14 a.isLt
  have ⟨f22, r22⟩ := RoundTrip.peel (lo := 22) (n := 4) r18 d.isLt
  have ⟨f26, r26⟩ := RoundTrip.peel (lo := 26) (n := 6) r22 (by decide)
  rw [RoundTrip.decode_encode _ _ he (by omega), RoundTrip.major01 (by omega) f26, decodeMajor01]
  have e : Instr.minu (.ofNat 4 (w / 4194304)) (.ofNat 4 (w / 262144)) (.ofNat 4 (w / 16384)) (.ofNat 4 (w / 1)) = .minu d a b p := by
    rw [RoundTrip.ofNat_field d (w / 4194304) f22, RoundTrip.ofNat_field a (w / 262144) f18, RoundTrip.ofNat_field b (w / 16384) f14, RoundTrip.ofNat_field p (w / 1) f0]
  rw [show fld w 4 10 = 0x00B from f4]
  exact congrArg Except.ok e

theorem RoundTrip.maxu (d : BitVec 4) (a : BitVec 4) (b : BitVec 4) (p : BitVec 4) :
    RoundTrip.Statement (.maxu d a b p) := by
  intro _
  obtain ⟨w, hw⟩ : ∃ w, w / 2 ^ 0 = p.toNat + 2 ^ 4 * (0x00C + 2 ^ 10 * (b.toNat + 2 ^ 4 * (a.toNat + 2 ^ 4 * (d.toNat + 2 ^ 4 * (0x01 + 2 ^ 6 * 0))))) := ⟨_, Nat.div_one _⟩
  have he : encodeNat (.maxu d a b p) = w := by
    rw [← Nat.div_one w]; refine Eq.trans ?_ hw.symm; show 0x040000C0 + d.toNat * 4194304 + a.toNat * 262144 + b.toNat * 16384 + p.toNat = _; omega
  have ⟨f0, r0⟩ := RoundTrip.peel (lo := 0) (n := 4) hw p.isLt
  have ⟨f4, r4⟩ := RoundTrip.peel (lo := 4) (n := 10) r0 (by decide)
  have ⟨f14, r14⟩ := RoundTrip.peel (lo := 14) (n := 4) r4 b.isLt
  have ⟨f18, r18⟩ := RoundTrip.peel (lo := 18) (n := 4) r14 a.isLt
  have ⟨f22, r22⟩ := RoundTrip.peel (lo := 22) (n := 4) r18 d.isLt
  have ⟨f26, r26⟩ := RoundTrip.peel (lo := 26) (n := 6) r22 (by decide)
  rw [RoundTrip.decode_encode _ _ he (by omega), RoundTrip.major01 (by omega) f26, decodeMajor01]
  have e : Instr.maxu (.ofNat 4 (w / 4194304)) (.ofNat 4 (w / 262144)) (.ofNat 4 (w / 16384)) (.ofNat 4 (w / 1)) = .maxu d a b p := by
    rw [RoundTrip.ofNat_field d (w / 4194304) f22, RoundTrip.ofNat_field a (w / 262144) f18, RoundTrip.ofNat_field b (w / 16384) f14, RoundTrip.ofNat_field p (w / 1) f0]
  rw [show fld w 4 10 = 0x00C from f4]
  exact congrArg Except.ok e

theorem RoundTrip.mul (d : BitVec 4) (a : BitVec 4) (b : BitVec 4) (p : BitVec 4) :
    RoundTrip.Statement (.mul d a b p) := by
  intro _
  obtain ⟨w, hw⟩ : ∃ w, w / 2 ^ 0 = p.toNat + 2 ^ 4 * (0x010 + 2 ^ 10 * (b.toNat + 2 ^ 4 * (a.toNat + 2 ^ 4 * (d.toNat + 2 ^ 4 * (0x01 + 2 ^ 6 * 0))))) := ⟨_, Nat.div_one _⟩
  have he : encodeNat (.mul d a b p) = w := by
    rw [← Nat.div_one w]; refine Eq.trans ?_ hw.symm; show 0x04000100 + d.toNat * 4194304 + a.toNat * 262144 + b.toNat * 16384 + p.toNat = _; omega
  have ⟨f0, r0⟩ := RoundTrip.peel (lo := 0) (n := 4) hw p.isLt
  have ⟨f4, r4⟩ := RoundTrip.peel (lo := 4) (n := 10) r0 (by decide)
  have ⟨f14, r14⟩ := RoundTrip.peel (lo := 14) (n := 4) r4 b.isLt
  have ⟨f18, r18⟩ := RoundTrip.peel (lo := 18) (n := 4) r14 a.isLt
  have ⟨f22, r22⟩ := RoundTrip.peel (lo := 22) (n := 4) r18 d.isLt
  have ⟨f26, r26⟩ := RoundTrip.peel (lo := 26) (n := 6) r22 (by decide)
  rw [RoundTrip.decode_encode _ _ he (by omega), RoundTrip.major01 (by omega) f26, decodeMajor01]
  have e : Instr.mul (.ofNat 4 (w / 4194304)) (.ofNat 4 (w / 262144)) (.ofNat 4 (w / 16384)) (.ofNat 4 (w / 1)) = .mul d a b p := by
    rw [RoundTrip.ofNat_field d (w / 4194304) f22, RoundTrip.ofNat_field a (w / 262144) f18, RoundTrip.ofNat_field b (w / 16384) f14, RoundTrip.ofNat_field p (w / 1) f0]
  rw [show fld w 4 10 = 0x010 from f4]
  exact congrArg Except.ok e

theorem RoundTrip.mulh (d : BitVec 4) (a : BitVec 4) (b : BitVec 4) (p : BitVec 4) :
    RoundTrip.Statement (.mulh d a b p) := by
  intro _
  obtain ⟨w, hw⟩ : ∃ w, w / 2 ^ 0 = p.toNat + 2 ^ 4 * (0x011 + 2 ^ 10 * (b.toNat + 2 ^ 4 * (a.toNat + 2 ^ 4 * (d.toNat + 2 ^ 4 * (0x01 + 2 ^ 6 * 0))))) := ⟨_, Nat.div_one _⟩
  have he : encodeNat (.mulh d a b p) = w := by
    rw [← Nat.div_one w]; refine Eq.trans ?_ hw.symm; show 0x04000110 + d.toNat * 4194304 + a.toNat * 262144 + b.toNat * 16384 + p.toNat = _; omega
  have ⟨f0, r0⟩ := RoundTrip.peel (lo := 0) (n := 4) hw p.isLt
  have ⟨f4, r4⟩ := RoundTrip.peel (lo := 4) (n := 10) r0 (by decide)
  have ⟨f14, r14⟩ := RoundTrip.peel (lo := 14) (n := 4) r4 b.isLt
  have ⟨f18, r18⟩ := RoundTrip.peel (lo := 18) (n := 4) r14 a.isLt
  have ⟨f22, r22⟩ := RoundTrip.peel (lo := 22) (n := 4) r18 d.isLt
  have ⟨f26, r26⟩ := RoundTrip.peel (lo := 26) (n := 6) r22 (by decide)
  rw [RoundTrip.decode_encode _ _ he (by omega), RoundTrip.major01 (by omega) f26, decodeMajor01]
  have e : Instr.mulh (.ofNat 4 (w / 4194304)) (.ofNat 4 (w / 262144)) (.ofNat 4 (w / 16384)) (.ofNat 4 (w / 1)) = .mulh d a b p := by
    rw [RoundTrip.ofNat_field d (w / 4194304) f22, RoundTrip.ofNat_field a (w / 262144) f18, RoundTrip.ofNat_field b (w / 16384) f14, RoundTrip.ofNat_field p (w / 1) f0]
  rw [show fld w 4 10 = 0x011 from f4]
  exact congrArg Except.ok e

theorem RoundTrip.mulhu (d : BitVec 4) (a : BitVec 4) (b : BitVec 4) (p : BitVec 4) :
    RoundTrip.Statement (.mulhu d a b p) := by
  intro _
  obtain ⟨w, hw⟩ : ∃ w, w / 2 ^ 0 = p.toNat + 2 ^ 4 * (0x012 + 2 ^ 10 * (b.toNat + 2 ^ 4 * (a.toNat + 2 ^ 4 * (d.toNat + 2 ^ 4 * (0x01 + 2 ^ 6 * 0))))) := ⟨_, Nat.div_one _⟩
  have he : encodeNat (.mulhu d a b p) = w := by
    rw [← Nat.div_one w]; refine Eq.trans ?_ hw.symm; show 0x04000120 + d.toNat * 4194304 + a.toNat * 262144 + b.toNat * 16384 + p.toNat = _; omega
  have ⟨f0, r0⟩ := RoundTrip.peel (lo := 0) (n := 4) hw p.isLt
  have ⟨f4, r4⟩ := RoundTrip.peel (lo := 4) (n := 10) r0 (by decide)
  have ⟨f14, r14⟩ := RoundTrip.peel (lo := 14) (n := 4) r4 b.isLt
  have ⟨f18, r18⟩ := RoundTrip.peel (lo := 18) (n := 4) r14 a.isLt
  have ⟨f22, r22⟩ := RoundTrip.peel (lo := 22) (n := 4) r18 d.isLt
  have ⟨f26, r26⟩ := RoundTrip.peel (lo := 26) (n := 6) r22 (by decide)
  rw [RoundTrip.decode_encode _ _ he (by omega), RoundTrip.major01 (by omega) f26, decodeMajor01]
  have e : Instr.mulhu (.ofNat 4 (w / 4194304)) (.ofNat 4 (w / 262144)) (.ofNat 4 (w / 16384)) (.ofNat 4 (w / 1)) = .mulhu d a b p := by
    rw [RoundTrip.ofNat_field d (w / 4194304) f22, RoundTrip.ofNat_field a (w / 262144) f18, RoundTrip.ofNat_field b (w / 16384) f14, RoundTrip.ofNat_field p (w / 1) f0]
  rw [show fld w 4 10 = 0x012 from f4]
  exact congrArg Except.ok e

theorem RoundTrip.div (d : BitVec 4) (a : BitVec 4) (b : BitVec 4) (p : BitVec 4) :
    RoundTrip.Statement (.div d a b p) := by
  intro _
  obtain ⟨w, hw⟩ : ∃ w, w / 2 ^ 0 = p.toNat + 2 ^ 4 * (0x014 + 2 ^ 10 * (b.toNat + 2 ^ 4 * (a.toNat + 2 ^ 4 * (d.toNat + 2 ^ 4 * (0x01 + 2 ^ 6 * 0))))) := ⟨_, Nat.div_one _⟩
  have he : encodeNat (.div d a b p) = w := by
    rw [← Nat.div_one w]; refine Eq.trans ?_ hw.symm; show 0x04000140 + d.toNat * 4194304 + a.toNat * 262144 + b.toNat * 16384 + p.toNat = _; omega
  have ⟨f0, r0⟩ := RoundTrip.peel (lo := 0) (n := 4) hw p.isLt
  have ⟨f4, r4⟩ := RoundTrip.peel (lo := 4) (n := 10) r0 (by decide)
  have ⟨f14, r14⟩ := RoundTrip.peel (lo := 14) (n := 4) r4 b.isLt
  have ⟨f18, r18⟩ := RoundTrip.peel (lo := 18) (n := 4) r14 a.isLt
  have ⟨f22, r22⟩ := RoundTrip.peel (lo := 22) (n := 4) r18 d.isLt
  have ⟨f26, r26⟩ := RoundTrip.peel (lo := 26) (n := 6) r22 (by decide)
  rw [RoundTrip.decode_encode _ _ he (by omega), RoundTrip.major01 (by omega) f26, decodeMajor01]
  have e : Instr.div (.ofNat 4 (w / 4194304)) (.ofNat 4 (w / 262144)) (.ofNat 4 (w / 16384)) (.ofNat 4 (w / 1)) = .div d a b p := by
    rw [RoundTrip.ofNat_field d (w / 4194304) f22, RoundTrip.ofNat_field a (w / 262144) f18, RoundTrip.ofNat_field b (w / 16384) f14, RoundTrip.ofNat_field p (w / 1) f0]
  rw [show fld w 4 10 = 0x014 from f4]
  exact congrArg Except.ok e

theorem RoundTrip.divu (d : BitVec 4) (a : BitVec 4) (b : BitVec 4) (p : BitVec 4) :
    RoundTrip.Statement (.divu d a b p) := by
  intro _
  obtain ⟨w, hw⟩ : ∃ w, w / 2 ^ 0 = p.toNat + 2 ^ 4 * (0x015 + 2 ^ 10 * (b.toNat + 2 ^ 4 * (a.toNat + 2 ^ 4 * (d.toNat + 2 ^ 4 * (0x01 + 2 ^ 6 * 0))))) := ⟨_, Nat.div_one _⟩
  have he : encodeNat (.divu d a b p) = w := by
    rw [← Nat.div_one w]; refine Eq.trans ?_ hw.symm; show 0x04000150 + d.toNat * 4194304 + a.toNat * 262144 + b.toNat * 16384 + p.toNat = _; omega
  have ⟨f0, r0⟩ := RoundTrip.peel (lo := 0) (n := 4) hw p.isLt
  have ⟨f4, r4⟩ := RoundTrip.peel (lo := 4) (n := 10) r0 (by decide)
  have ⟨f14, r14⟩ := RoundTrip.peel (lo := 14) (n := 4) r4 b.isLt
  have ⟨f18, r18⟩ := RoundTrip.peel (lo := 18) (n := 4) r14 a.isLt
  have ⟨f22, r22⟩ := RoundTrip.peel (lo := 22) (n := 4) r18 d.isLt
  have ⟨f26, r26⟩ := RoundTrip.peel (lo := 26) (n := 6) r22 (by decide)
  rw [RoundTrip.decode_encode _ _ he (by omega), RoundTrip.major01 (by omega) f26, decodeMajor01]
  have e : Instr.divu (.ofNat 4 (w / 4194304)) (.ofNat 4 (w / 262144)) (.ofNat 4 (w / 16384)) (.ofNat 4 (w / 1)) = .divu d a b p := by
    rw [RoundTrip.ofNat_field d (w / 4194304) f22, RoundTrip.ofNat_field a (w / 262144) f18, RoundTrip.ofNat_field b (w / 16384) f14, RoundTrip.ofNat_field p (w / 1) f0]
  rw [show fld w 4 10 = 0x015 from f4]
  exact congrArg Except.ok e

theorem RoundTrip.rem (d : BitVec 4) (a : BitVec 4) (b : BitVec 4) (p : BitVec 4) :
    RoundTrip.Statement (.rem d a b p) := by
  intro _
  obtain ⟨w, hw⟩ : ∃ w, w / 2 ^ 0 = p.toNat + 2 ^ 4 * (0x016 + 2 ^ 10 * (b.toNat + 2 ^ 4 * (a.toNat + 2 ^ 4 * (d.toNat + 2 ^ 4 * (0x01 + 2 ^ 6 * 0))))) := ⟨_, Nat.div_one _⟩
  have he : encodeNat (.rem d a b p) = w := by
    rw [← Nat.div_one w]; refine Eq.trans ?_ hw.symm; show 0x04000160 + d.toNat * 4194304 + a.toNat * 262144 + b.toNat * 16384 + p.toNat = _; omega
  have ⟨f0, r0⟩ := RoundTrip.peel (lo := 0) (n := 4) hw p.isLt
  have ⟨f4, r4⟩ := RoundTrip.peel (lo := 4) (n := 10) r0 (by decide)
  have ⟨f14, r14⟩ := RoundTrip.peel (lo := 14) (n := 4) r4 b.isLt
  have ⟨f18, r18⟩ := RoundTrip.peel (lo := 18) (n := 4) r14 a.isLt
  have ⟨f22, r22⟩ := RoundTrip.peel (lo := 22) (n := 4) r18 d.isLt
  have ⟨f26, r26⟩ := RoundTrip.peel (lo := 26) (n := 6) r22 (by decide)
  rw [RoundTrip.decode_encode _ _ he (by omega), RoundTrip.major01 (by omega) f26, decodeMajor01]
  have e : Instr.rem (.ofNat 4 (w / 4194304)) (.ofNat 4 (w / 262144)) (.ofNat 4 (w / 16384)) (.ofNat 4 (w / 1)) = .rem d a b p := by
    rw [RoundTrip.ofNat_field d (w / 4194304) f22, RoundTrip.ofNat_field a (w / 262144) f18, RoundTrip.ofNat_field b (w / 16384) f14, RoundTrip.ofNat_field p (w / 1) f0]
  rw [show fld w 4 10 = 0x016 from f4]
  exact congrArg Except.ok e

theorem RoundTrip.remu (d : BitVec 4) (a : BitVec 4) (b : BitVec 4) (p : BitVec 4) :
    RoundTrip.Statement (.remu d a b p) := by
  intro _
  obtain ⟨w, hw⟩ : ∃ w, w / 2 ^ 0 = p.toNat + 2 ^ 4 * (0x017 + 2 ^ 10 * (b.toNat + 2 ^ 4 * (a.toNat + 2 ^ 4 * (d.toNat + 2 ^ 4 * (0x01 + 2 ^ 6 * 0))))) := ⟨_, Nat.div_one _⟩
  have he : encodeNat (.remu d a b p) = w := by
    rw [← Nat.div_one w]; refine Eq.trans ?_ hw.symm; show 0x04000170 + d.toNat * 4194304 + a.toNat * 262144 + b.toNat * 16384 + p.toNat = _; omega
  have ⟨f0, r0⟩ := RoundTrip.peel (lo := 0) (n := 4) hw p.isLt
  have ⟨f4, r4⟩ := RoundTrip.peel (lo := 4) (n := 10) r0 (by decide)
  have ⟨f14, r14⟩ := RoundTrip.peel (lo := 14) (n := 4) r4 b.isLt
  have ⟨f18, r18⟩ := RoundTrip.peel (lo := 18) (n := 4) r14 a.isLt
  have ⟨f22, r22⟩ := RoundTrip.peel (lo := 22) (n := 4) r18 d.isLt
  have ⟨f26, r26⟩ := RoundTrip.peel (lo := 26) (n := 6) r22 (by decide)
  rw [RoundTrip.decode_encode _ _ he (by omega), RoundTrip.major01 (by omega) f26, decodeMajor01]
  have e : Instr.remu (.ofNat 4 (w / 4194304)) (.ofNat 4 (w / 262144)) (.ofNat 4 (w / 16384)) (.ofNat 4 (w / 1)) = .remu d a b p := by
    rw [RoundTrip.ofNat_field d (w / 4194304) f22, RoundTrip.ofNat_field a (w / 262144) f18, RoundTrip.ofNat_field b (w / 16384) f14, RoundTrip.ofNat_field p (w / 1) f0]
  rw [show fld w 4 10 = 0x017 from f4]
  exact congrArg Except.ok e

theorem RoundTrip.clz (d : BitVec 4) (a : BitVec 4) (p : BitVec 4) :
    RoundTrip.Statement (.clz d a p) := by
  intro _
  obtain ⟨w, hw⟩ : ∃ w, w / 2 ^ 0 = p.toNat + 2 ^ 4 * (0x020 + 2 ^ 10 * (0 + 2 ^ 4 * (a.toNat + 2 ^ 4 * (d.toNat + 2 ^ 4 * (0x01 + 2 ^ 6 * 0))))) := ⟨_, Nat.div_one _⟩
  have he : encodeNat (.clz d a p) = w := by
    rw [← Nat.div_one w]; refine Eq.trans ?_ hw.symm; show 0x04000200 + d.toNat * 4194304 + a.toNat * 262144 + p.toNat = _; omega
  have ⟨f0, r0⟩ := RoundTrip.peel (lo := 0) (n := 4) hw p.isLt
  have ⟨f4, r4⟩ := RoundTrip.peel (lo := 4) (n := 10) r0 (by decide)
  have ⟨f14, r14⟩ := RoundTrip.peel (lo := 14) (n := 4) r4 (by decide)
  have ⟨f18, r18⟩ := RoundTrip.peel (lo := 18) (n := 4) r14 a.isLt
  have ⟨f22, r22⟩ := RoundTrip.peel (lo := 22) (n := 4) r18 d.isLt
  have ⟨f26, r26⟩ := RoundTrip.peel (lo := 26) (n := 6) r22 (by decide)
  rw [RoundTrip.decode_encode _ _ he (by omega), RoundTrip.major01 (by omega) f26, decodeMajor01]
  have e : Instr.clz (.ofNat 4 (w / 4194304)) (.ofNat 4 (w / 262144)) (.ofNat 4 (w / 1)) = .clz d a p := by
    rw [RoundTrip.ofNat_field d (w / 4194304) f22, RoundTrip.ofNat_field a (w / 262144) f18, RoundTrip.ofNat_field p (w / 1) f0]
  rw [show fld w 4 10 = 0x020 from f4]
  exact (if_pos f14).trans (congrArg Except.ok e)

theorem RoundTrip.popc (d : BitVec 4) (a : BitVec 4) (p : BitVec 4) :
    RoundTrip.Statement (.popc d a p) := by
  intro _
  obtain ⟨w, hw⟩ : ∃ w, w / 2 ^ 0 = p.toNat + 2 ^ 4 * (0x021 + 2 ^ 10 * (0 + 2 ^ 4 * (a.toNat + 2 ^ 4 * (d.toNat + 2 ^ 4 * (0x01 + 2 ^ 6 * 0))))) := ⟨_, Nat.div_one _⟩
  have he : encodeNat (.popc d a p) = w := by
    rw [← Nat.div_one w]; refine Eq.trans ?_ hw.symm; show 0x04000210 + d.toNat * 4194304 + a.toNat * 262144 + p.toNat = _; omega
  have ⟨f0, r0⟩ := RoundTrip.peel (lo := 0) (n := 4) hw p.isLt
  have ⟨f4, r4⟩ := RoundTrip.peel (lo := 4) (n := 10) r0 (by decide)
  have ⟨f14, r14⟩ := RoundTrip.peel (lo := 14) (n := 4) r4 (by decide)
  have ⟨f18, r18⟩ := RoundTrip.peel (lo := 18) (n := 4) r14 a.isLt
  have ⟨f22, r22⟩ := RoundTrip.peel (lo := 22) (n := 4) r18 d.isLt
  have ⟨f26, r26⟩ := RoundTrip.peel (lo := 26) (n := 6) r22 (by decide)
  rw [RoundTrip.decode_encode _ _ he (by omega), RoundTrip.major01 (by omega) f26, decodeMajor01]
  have e : Instr.popc (.ofNat 4 (w / 4194304)) (.ofNat 4 (w / 262144)) (.ofNat 4 (w / 1)) = .popc d a p := by
    rw [RoundTrip.ofNat_field d (w / 4194304) f22, RoundTrip.ofNat_field a (w / 262144) f18, RoundTrip.ofNat_field p (w / 1) f0]
  rw [show fld w 4 10 = 0x021 from f4]
  exact (if_pos f14).trans (congrArg Except.ok e)

theorem RoundTrip.sextB (d : BitVec 4) (a : BitVec 4) (p : BitVec 4) :
    RoundTrip.Statement (.sextB d a p) := by
  intro _
  obtain ⟨w, hw⟩ : ∃ w, w / 2 ^ 0 = p.toNat + 2 ^ 4 * (0x024 + 2 ^ 10 * (0 + 2 ^ 4 * (a.toNat + 2 ^ 4 * (d.toNat + 2 ^ 4 * (0x01 + 2 ^ 6 * 0))))) := ⟨_, Nat.div_one _⟩
  have he : encodeNat (.sextB d a p) = w := by
    rw [← Nat.div_one w]; refine Eq.trans ?_ hw.symm; show 0x04000240 + d.toNat * 4194304 + a.toNat * 262144 + p.toNat = _; omega
  have ⟨f0, r0⟩ := RoundTrip.peel (lo := 0) (n := 4) hw p.isLt
  have ⟨f4, r4⟩ := RoundTrip.peel (lo := 4) (n := 10) r0 (by decide)
  have ⟨f14, r14⟩ := RoundTrip.peel (lo := 14) (n := 4) r4 (by decide)
  have ⟨f18, r18⟩ := RoundTrip.peel (lo := 18) (n := 4) r14 a.isLt
  have ⟨f22, r22⟩ := RoundTrip.peel (lo := 22) (n := 4) r18 d.isLt
  have ⟨f26, r26⟩ := RoundTrip.peel (lo := 26) (n := 6) r22 (by decide)
  rw [RoundTrip.decode_encode _ _ he (by omega), RoundTrip.major01 (by omega) f26, decodeMajor01]
  have e : Instr.sextB (.ofNat 4 (w / 4194304)) (.ofNat 4 (w / 262144)) (.ofNat 4 (w / 1)) = .sextB d a p := by
    rw [RoundTrip.ofNat_field d (w / 4194304) f22, RoundTrip.ofNat_field a (w / 262144) f18, RoundTrip.ofNat_field p (w / 1) f0]
  rw [show fld w 4 10 = 0x024 from f4]
  exact (if_pos f14).trans (congrArg Except.ok e)

theorem RoundTrip.sextH (d : BitVec 4) (a : BitVec 4) (p : BitVec 4) :
    RoundTrip.Statement (.sextH d a p) := by
  intro _
  obtain ⟨w, hw⟩ : ∃ w, w / 2 ^ 0 = p.toNat + 2 ^ 4 * (0x025 + 2 ^ 10 * (0 + 2 ^ 4 * (a.toNat + 2 ^ 4 * (d.toNat + 2 ^ 4 * (0x01 + 2 ^ 6 * 0))))) := ⟨_, Nat.div_one _⟩
  have he : encodeNat (.sextH d a p) = w := by
    rw [← Nat.div_one w]; refine Eq.trans ?_ hw.symm; show 0x04000250 + d.toNat * 4194304 + a.toNat * 262144 + p.toNat = _; omega
  have ⟨f0, r0⟩ := RoundTrip.peel (lo := 0) (n := 4) hw p.isLt
  have ⟨f4, r4⟩ := RoundTrip.peel (lo := 4) (n := 10) r0 (by decide)
  have ⟨f14, r14⟩ := RoundTrip.peel (lo := 14) (n := 4) r4 (by decide)
  have ⟨f18, r18⟩ := RoundTrip.peel (lo := 18) (n := 4) r14 a.isLt
  have ⟨f22, r22⟩ := RoundTrip.peel (lo := 22) (n := 4) r18 d.isLt
  have ⟨f26, r26⟩ := RoundTrip.peel (lo := 26) (n := 6) r22 (by decide)
  rw [RoundTrip.decode_encode _ _ he (by omega), RoundTrip.major01 (by omega) f26, decodeMajor01]
  have e : Instr.sextH (.ofNat 4 (w / 4194304)) (.ofNat 4 (w / 262144)) (.ofNat 4 (w / 1)) = .sextH d a p := by
    rw [RoundTrip.ofNat_field d (w / 4194304) f22, RoundTrip.ofNat_field a (w / 262144) f18, RoundTrip.ofNat_field p (w / 1) f0]
  rw [show fld w 4 10 = 0x025 from f4]
  exact (if_pos f14).trans (congrArg Except.ok e)

theorem RoundTrip.sextW (d : BitVec 4) (a : BitVec 4) (p : BitVec 4) :
    RoundTrip.Statement (.sextW d a p) := by
  intro _
  obtain ⟨w, hw⟩ : ∃ w, w / 2 ^ 0 = p.toNat + 2 ^ 4 * (0x026 + 2 ^ 10 * (0 + 2 ^ 4 * (a.toNat + 2 ^ 4 * (d.toNat + 2 ^ 4 * (0x01 + 2 ^ 6 * 0))))) := ⟨_, Nat.div_one _⟩
  have he : encodeNat (.sextW d a p) = w := by
    rw [← Nat.div_one w]; refine Eq.trans ?_ hw.symm; show 0x04000260 + d.toNat * 4194304 + a.toNat * 262144 + p.toNat = _; omega
  have ⟨f0, r0⟩ := RoundTrip.peel (lo := 0) (n := 4) hw p.isLt
  have ⟨f4, r4⟩ := RoundTrip.peel (lo := 4) (n := 10) r0 (by decide)
  have ⟨f14, r14⟩ := RoundTrip.peel (lo := 14) (n := 4) r4 (by decide)
  have ⟨f18, r18⟩ := RoundTrip.peel (lo := 18) (n := 4) r14 a.isLt
  have ⟨f22, r22⟩ := RoundTrip.peel (lo := 22) (n := 4) r18 d.isLt
  have ⟨f26, r26⟩ := RoundTrip.peel (lo := 26) (n := 6) r22 (by decide)
  rw [RoundTrip.decode_encode _ _ he (by omega), RoundTrip.major01 (by omega) f26, decodeMajor01]
  have e : Instr.sextW (.ofNat 4 (w / 4194304)) (.ofNat 4 (w / 262144)) (.ofNat 4 (w / 1)) = .sextW d a p := by
    rw [RoundTrip.ofNat_field d (w / 4194304) f22, RoundTrip.ofNat_field a (w / 262144) f18, RoundTrip.ofNat_field p (w / 1) f0]
  rw [show fld w 4 10 = 0x026 from f4]
  exact (if_pos f14).trans (congrArg Except.ok e)

theorem RoundTrip.zextB (d : BitVec 4) (a : BitVec 4) (p : BitVec 4) :
    RoundTrip.Statement (.zextB d a p) := by
  intro _
  obtain ⟨w, hw⟩ : ∃ w, w / 2 ^ 0 = p.toNat + 2 ^ 4 * (0x028 + 2 ^ 10 * (0 + 2 ^ 4 * (a.toNat + 2 ^ 4 * (d.toNat + 2 ^ 4 * (0x01 + 2 ^ 6 * 0))))) := ⟨_, Nat.div_one _⟩
  have he : encodeNat (.zextB d a p) = w := by
    rw [← Nat.div_one w]; refine Eq.trans ?_ hw.symm; show 0x04000280 + d.toNat * 4194304 + a.toNat * 262144 + p.toNat = _; omega
  have ⟨f0, r0⟩ := RoundTrip.peel (lo := 0) (n := 4) hw p.isLt
  have ⟨f4, r4⟩ := RoundTrip.peel (lo := 4) (n := 10) r0 (by decide)
  have ⟨f14, r14⟩ := RoundTrip.peel (lo := 14) (n := 4) r4 (by decide)
  have ⟨f18, r18⟩ := RoundTrip.peel (lo := 18) (n := 4) r14 a.isLt
  have ⟨f22, r22⟩ := RoundTrip.peel (lo := 22) (n := 4) r18 d.isLt
  have ⟨f26, r26⟩ := RoundTrip.peel (lo := 26) (n := 6) r22 (by decide)
  rw [RoundTrip.decode_encode _ _ he (by omega), RoundTrip.major01 (by omega) f26, decodeMajor01]
  have e : Instr.zextB (.ofNat 4 (w / 4194304)) (.ofNat 4 (w / 262144)) (.ofNat 4 (w / 1)) = .zextB d a p := by
    rw [RoundTrip.ofNat_field d (w / 4194304) f22, RoundTrip.ofNat_field a (w / 262144) f18, RoundTrip.ofNat_field p (w / 1) f0]
  rw [show fld w 4 10 = 0x028 from f4]
  exact (if_pos f14).trans (congrArg Except.ok e)

theorem RoundTrip.zextH (d : BitVec 4) (a : BitVec 4) (p : BitVec 4) :
    RoundTrip.Statement (.zextH d a p) := by
  intro _
  obtain ⟨w, hw⟩ : ∃ w, w / 2 ^ 0 = p.toNat + 2 ^ 4 * (0x029 + 2 ^ 10 * (0 + 2 ^ 4 * (a.toNat + 2 ^ 4 * (d.toNat + 2 ^ 4 * (0x01 + 2 ^ 6 * 0))))) := ⟨_, Nat.div_one _⟩
  have he : encodeNat (.zextH d a p) = w := by
    rw [← Nat.div_one w]; refine Eq.trans ?_ hw.symm; show 0x04000290 + d.toNat * 4194304 + a.toNat * 262144 + p.toNat = _; omega
  have ⟨f0, r0⟩ := RoundTrip.peel (lo := 0) (n := 4) hw p.isLt
  have ⟨f4, r4⟩ := RoundTrip.peel (lo := 4) (n := 10) r0 (by decide)
  have ⟨f14, r14⟩ := RoundTrip.peel (lo := 14) (n := 4) r4 (by decide)
  have ⟨f18, r18⟩ := RoundTrip.peel (lo := 18) (n := 4) r14 a.isLt
  have ⟨f22, r22⟩ := RoundTrip.peel (lo := 22) (n := 4) r18 d.isLt
  have ⟨f26, r26⟩ := RoundTrip.peel (lo := 26) (n := 6) r22 (by decide)
  rw [RoundTrip.decode_encode _ _ he (by omega), RoundTrip.major01 (by omega) f26, decodeMajor01]
  have e : Instr.zextH (.ofNat 4 (w / 4194304)) (.ofNat 4 (w / 262144)) (.ofNat 4 (w / 1)) = .zextH d a p := by
    rw [RoundTrip.ofNat_field d (w / 4194304) f22, RoundTrip.ofNat_field a (w / 262144) f18, RoundTrip.ofNat_field p (w / 1) f0]
  rw [show fld w 4 10 = 0x029 from f4]
  exact (if_pos f14).trans (congrArg Except.ok e)

theorem RoundTrip.zextW (d : BitVec 4) (a : BitVec 4) (p : BitVec 4) :
    RoundTrip.Statement (.zextW d a p) := by
  intro _
  obtain ⟨w, hw⟩ : ∃ w, w / 2 ^ 0 = p.toNat + 2 ^ 4 * (0x02A + 2 ^ 10 * (0 + 2 ^ 4 * (a.toNat + 2 ^ 4 * (d.toNat + 2 ^ 4 * (0x01 + 2 ^ 6 * 0))))) := ⟨_, Nat.div_one _⟩
  have he : encodeNat (.zextW d a p) = w := by
    rw [← Nat.div_one w]; refine Eq.trans ?_ hw.symm; show 0x040002A0 + d.toNat * 4194304 + a.toNat * 262144 + p.toNat = _; omega
  have ⟨f0, r0⟩ := RoundTrip.peel (lo := 0) (n := 4) hw p.isLt
  have ⟨f4, r4⟩ := RoundTrip.peel (lo := 4) (n := 10) r0 (by decide)
  have ⟨f14, r14⟩ := RoundTrip.peel (lo := 14) (n := 4) r4 (by decide)
  have ⟨f18, r18⟩ := RoundTrip.peel (lo := 18) (n := 4) r14 a.isLt
  have ⟨f22, r22⟩ := RoundTrip.peel (lo := 22) (n := 4) r18 d.isLt
  have ⟨f26, r26⟩ := RoundTrip.peel (lo := 26) (n := 6) r22 (by decide)
  rw [RoundTrip.decode_encode _ _ he (by omega), RoundTrip.major01 (by omega) f26, decodeMajor01]
  have e : Instr.zextW (.ofNat 4 (w / 4194304)) (.ofNat 4 (w / 262144)) (.ofNat 4 (w / 1)) = .zextW d a p := by
    rw [RoundTrip.ofNat_field d (w / 4194304) f22, RoundTrip.ofNat_field a (w / 262144) f18, RoundTrip.ofNat_field p (w / 1) f0]
  rw [show fld w 4 10 = 0x02A from f4]
  exact (if_pos f14).trans (congrArg Except.ok e)

theorem RoundTrip.sel (d : BitVec 4) (a : BitVec 4) (b : BitVec 4) (n : BitVec 3) (p : BitVec 4) :
    RoundTrip.Statement (.sel d a b n p) := by
  intro _
  obtain ⟨w, hw⟩ : ∃ w, w / 2 ^ 0 = p.toNat + 2 ^ 4 * (n.toNat + 2 ^ 3 * (0x8 + 2 ^ 7 * (b.toNat + 2 ^ 4 * (a.toNat + 2 ^ 4 * (d.toNat + 2 ^ 4 * (0x01 + 2 ^ 6 * 0)))))) := ⟨_, Nat.div_one _⟩
  have he : encodeNat (.sel d a b n p) = w := by
    rw [← Nat.div_one w]; refine Eq.trans ?_ hw.symm; show 0x04000400 + d.toNat * 4194304 + a.toNat * 262144 + b.toNat * 16384 + n.toNat * 16 + p.toNat = _; omega
  have ⟨f0, r0⟩ := RoundTrip.peel (lo := 0) (n := 4) hw p.isLt
  have ⟨f4, r4⟩ := RoundTrip.peel (lo := 4) (n := 3) r0 n.isLt
  have ⟨f7, r7⟩ := RoundTrip.peel (lo := 7) (n := 7) r4 (by decide)
  have ⟨f14, r14⟩ := RoundTrip.peel (lo := 14) (n := 4) r7 b.isLt
  have ⟨f18, r18⟩ := RoundTrip.peel (lo := 18) (n := 4) r14 a.isLt
  have ⟨f22, r22⟩ := RoundTrip.peel (lo := 22) (n := 4) r18 d.isLt
  have ⟨f26, r26⟩ := RoundTrip.peel (lo := 26) (n := 6) r22 (by decide)
  rw [RoundTrip.decode_encode _ _ he (by omega), RoundTrip.major01 (by omega) f26, decodeMajor01]
  have e : Instr.sel (.ofNat 4 (w / 4194304)) (.ofNat 4 (w / 262144)) (.ofNat 4 (w / 16384)) (.ofNat 3 (w / 16)) (.ofNat 4 (w / 1)) = .sel d a b n p := by
    rw [RoundTrip.ofNat_field d (w / 4194304) f22, RoundTrip.ofNat_field a (w / 262144) f18, RoundTrip.ofNat_field b (w / 16384) f14, RoundTrip.ofNat_field n (w / 16) f4, RoundTrip.ofNat_field p (w / 1) f0]
  rcases (show fld w 4 10 = 0x040 ∨ fld w 4 10 = 0x041 ∨ fld w 4 10 = 0x042 ∨ fld w 4 10 = 0x043 ∨ fld w 4 10 = 0x044 ∨ fld w 4 10 = 0x045 ∨ fld w 4 10 = 0x046 ∨ fld w 4 10 = 0x047 by unfold fld; omega) with hs | hs | hs | hs | hs | hs | hs | hs <;>
    (rw [hs]; exact congrArg Except.ok e)

theorem RoundTrip.nop : RoundTrip.Statement .nop := fun _ => rfl

theorem RoundTrip.addi (d : BitVec 4) (a : BitVec 4) (i : BitVec 14) (p : BitVec 4) :
    RoundTrip.Statement (.addi d a i p) := by
  intro _
  obtain ⟨w, hw⟩ : ∃ w, w / 2 ^ 0 = p.toNat + 2 ^ 4 * (i.toNat + 2 ^ 14 * (a.toNat + 2 ^ 4 * (d.toNat + 2 ^ 4 * (0x02 + 2 ^ 6 * 0)))) := ⟨_, Nat.div_one _⟩
  have he : encodeNat (.addi d a i p) = w := by
    rw [← Nat.div_one w]; refine Eq.trans ?_ hw.symm; show 0x08000000 + d.toNat * 4194304 + a.toNat * 262144 + i.toNat * 16 + p.toNat = _; omega
  have ⟨f0, r0⟩ := RoundTrip.peel (lo := 0) (n := 4) hw p.isLt
  have ⟨f4, r4⟩ := RoundTrip.peel (lo := 4) (n := 14) r0 i.isLt
  have ⟨f18, r18⟩ := RoundTrip.peel (lo := 18) (n := 4) r4 a.isLt
  have ⟨f22, r22⟩ := RoundTrip.peel (lo := 22) (n := 4) r18 d.isLt
  have ⟨f26, r26⟩ := RoundTrip.peel (lo := 26) (n := 6) r22 (by decide)
  rw [RoundTrip.decode_encode _ _ he (by omega), RoundTrip.major02 (by rintro rfl; cases f26) f26, decodeMajor02]
  have e : Instr.addi (.ofNat 4 (w / 4194304)) (.ofNat 4 (w / 262144)) (.ofNat 14 (w / 16)) (.ofNat 4 (w / 1)) = .addi d a i p := by
    rw [RoundTrip.ofNat_field d (w / 4194304) f22, RoundTrip.ofNat_field a (w / 262144) f18, RoundTrip.ofNat_field i (w / 16) f4, RoundTrip.ofNat_field p (w / 1) f0]
  exact congrArg Except.ok e

theorem RoundTrip.andi (d : BitVec 4) (a : BitVec 4) (i : BitVec 14) (p : BitVec 4) :
    RoundTrip.Statement (.andi d a i p) := by
  intro _
  obtain ⟨w, hw⟩ : ∃ w, w / 2 ^ 0 = p.toNat + 2 ^ 4 * (i.toNat + 2 ^ 14 * (a.toNat + 2 ^ 4 * (d.toNat + 2 ^ 4 * (0x03 + 2 ^ 6 * 0)))) := ⟨_, Nat.div_one _⟩
  have he : encodeNat (.andi d a i p) = w := by
    rw [← Nat.div_one w]; refine Eq.trans ?_ hw.symm; show 0x0C000000 + d.toNat * 4194304 + a.toNat * 262144 + i.toNat * 16 + p.toNat = _; omega
  have ⟨f0, r0⟩ := RoundTrip.peel (lo := 0) (n := 4) hw p.isLt
  have ⟨f4, r4⟩ := RoundTrip.peel (lo := 4) (n := 14) r0 i.isLt
  have ⟨f18, r18⟩ := RoundTrip.peel (lo := 18) (n := 4) r4 a.isLt
  have ⟨f22, r22⟩ := RoundTrip.peel (lo := 22) (n := 4) r18 d.isLt
  have ⟨f26, r26⟩ := RoundTrip.peel (lo := 26) (n := 6) r22 (by decide)
  rw [RoundTrip.decode_encode _ _ he (by omega), RoundTrip.major03 (by rintro rfl; cases f26) f26, decodeMajor03]
  have e : Instr.andi (.ofNat 4 (w / 4194304)) (.ofNat 4 (w / 262144)) (.ofNat 14 (w / 16)) (.ofNat 4 (w / 1)) = .andi d a i p := by
    rw [RoundTrip.ofNat_field d (w / 4194304) f22, RoundTrip.ofNat_field a (w / 262144) f18, RoundTrip.ofNat_field i (w / 16) f4, RoundTrip.ofNat_field p (w / 1) f0]
  exact congrArg Except.ok e

theorem RoundTrip.ori (d : BitVec 4) (a : BitVec 4) (i : BitVec 14) (p : BitVec 4) :
    RoundTrip.Statement (.ori d a i p) := by
  intro _
  obtain ⟨w, hw⟩ : ∃ w, w / 2 ^ 0 = p.toNat + 2 ^ 4 * (i.toNat + 2 ^ 14 * (a.toNat + 2 ^ 4 * (d.toNat + 2 ^ 4 * (0x04 + 2 ^ 6 * 0)))) := ⟨_, Nat.div_one _⟩
  have he : encodeNat (.ori d a i p) = w := by
    rw [← Nat.div_one w]; refine Eq.trans ?_ hw.symm; show 0x10000000 + d.toNat * 4194304 + a.toNat * 262144 + i.toNat * 16 + p.toNat = _; omega
  have ⟨f0, r0⟩ := RoundTrip.peel (lo := 0) (n := 4) hw p.isLt
  have ⟨f4, r4⟩ := RoundTrip.peel (lo := 4) (n := 14) r0 i.isLt
  have ⟨f18, r18⟩ := RoundTrip.peel (lo := 18) (n := 4) r4 a.isLt
  have ⟨f22, r22⟩ := RoundTrip.peel (lo := 22) (n := 4) r18 d.isLt
  have ⟨f26, r26⟩ := RoundTrip.peel (lo := 26) (n := 6) r22 (by decide)
  rw [RoundTrip.decode_encode _ _ he (by omega), RoundTrip.major04 (by rintro rfl; cases f26) f26, decodeMajor04]
  have e : Instr.ori (.ofNat 4 (w / 4194304)) (.ofNat 4 (w / 262144)) (.ofNat 14 (w / 16)) (.ofNat 4 (w / 1)) = .ori d a i p := by
    rw [RoundTrip.ofNat_field d (w / 4194304) f22, RoundTrip.ofNat_field a (w / 262144) f18, RoundTrip.ofNat_field i (w / 16) f4, RoundTrip.ofNat_field p (w / 1) f0]
  exact congrArg Except.ok e

theorem RoundTrip.xori (d : BitVec 4) (a : BitVec 4) (i : BitVec 14) (p : BitVec 4) :
    RoundTrip.Statement (.xori d a i p) := by
  intro _
  obtain ⟨w, hw⟩ : ∃ w, w / 2 ^ 0 = p.toNat + 2 ^ 4 * (i.toNat + 2 ^ 14 * (a.toNat + 2 ^ 4 * (d.toNat + 2 ^ 4 * (0x05 + 2 ^ 6 * 0)))) := ⟨_, Nat.div_one _⟩
  have he : encodeNat (.xori d a i p) = w := by
    rw [← Nat.div_one w]; refine Eq.trans ?_ hw.symm; show 0x14000000 + d.toNat * 4194304 + a.toNat * 262144 + i.toNat * 16 + p.toNat = _; omega
  have ⟨f0, r0⟩ := RoundTrip.peel (lo := 0) (n := 4) hw p.isLt
  have ⟨f4, r4⟩ := RoundTrip.peel (lo := 4) (n := 14) r0 i.isLt
  have ⟨f18, r18⟩ := RoundTrip.peel (lo := 18) (n := 4) r4 a.isLt
  have ⟨f22, r22⟩ := RoundTrip.peel (lo := 22) (n := 4) r18 d.isLt
  have ⟨f26, r26⟩ := RoundTrip.peel (lo := 26) (n := 6) r22 (by decide)
  rw [RoundTrip.decode_encode _ _ he (by omega), RoundTrip.major05 (by rintro rfl; cases f26) f26, decodeMajor05]
  have e : Instr.xori (.ofNat 4 (w / 4194304)) (.ofNat 4 (w / 262144)) (.ofNat 14 (w / 16)) (.ofNat 4 (w / 1)) = .xori d a i p := by
    rw [RoundTrip.ofNat_field d (w / 4194304) f22, RoundTrip.ofNat_field a (w / 262144) f18, RoundTrip.ofNat_field i (w / 16) f4, RoundTrip.ofNat_field p (w / 1) f0]
  exact congrArg Except.ok e

theorem RoundTrip.slli (d : BitVec 4) (a : BitVec 4) (s : BitVec 6) (p : BitVec 4) :
    RoundTrip.Statement (.slli d a s p) := by
  intro _
  obtain ⟨w, hw⟩ : ∃ w, w / 2 ^ 0 = p.toNat + 2 ^ 4 * (s.toNat + 2 ^ 6 * (0x000 + 2 ^ 2 * (0 + 2 ^ 6 * (a.toNat + 2 ^ 4 * (d.toNat + 2 ^ 4 * (0x06 + 2 ^ 6 * 0)))))) := ⟨_, Nat.div_one _⟩
  have he : encodeNat (.slli d a s p) = w := by
    rw [← Nat.div_one w]; refine Eq.trans ?_ hw.symm; show 0x18000000 + d.toNat * 4194304 + a.toNat * 262144 + s.toNat * 16 + p.toNat = _; omega
  have ⟨f0, r0⟩ := RoundTrip.peel (lo := 0) (n := 4) hw p.isLt
  have ⟨f4, r4⟩ := RoundTrip.peel (lo := 4) (n := 6) r0 s.isLt
  have ⟨f10, r10⟩ := RoundTrip.peel (lo := 10) (n := 2) r4 (by decide)
  have ⟨f12, r12⟩ := RoundTrip.peel (lo := 12) (n := 6) r10 (by decide)
  have ⟨f18, r18⟩ := RoundTrip.peel (lo := 18) (n := 4) r12 a.isLt
  have ⟨f22, r22⟩ := RoundTrip.peel (lo := 22) (n := 4) r18 d.isLt
  have ⟨f26, r26⟩ := RoundTrip.peel (lo := 26) (n := 6) r22 (by decide)
  rw [RoundTrip.decode_encode _ _ he (by omega), RoundTrip.major06 (by rintro rfl; cases f26) f26, decodeMajor06]
  have e : Instr.slli (.ofNat 4 (w / 4194304)) (.ofNat 4 (w / 262144)) (.ofNat 6 (w / 16)) (.ofNat 4 (w / 1)) = .slli d a s p := by
    rw [RoundTrip.ofNat_field d (w / 4194304) f22, RoundTrip.ofNat_field a (w / 262144) f18, RoundTrip.ofNat_field s (w / 16) f4, RoundTrip.ofNat_field p (w / 1) f0]
  rw [show fld w 10 2 = 0x000 from f10]
  exact (if_pos f12).trans (congrArg Except.ok e)

theorem RoundTrip.srli (d : BitVec 4) (a : BitVec 4) (s : BitVec 6) (p : BitVec 4) :
    RoundTrip.Statement (.srli d a s p) := by
  intro _
  obtain ⟨w, hw⟩ : ∃ w, w / 2 ^ 0 = p.toNat + 2 ^ 4 * (s.toNat + 2 ^ 6 * (0x001 + 2 ^ 2 * (0 + 2 ^ 6 * (a.toNat + 2 ^ 4 * (d.toNat + 2 ^ 4 * (0x06 + 2 ^ 6 * 0)))))) := ⟨_, Nat.div_one _⟩
  have he : encodeNat (.srli d a s p) = w := by
    rw [← Nat.div_one w]; refine Eq.trans ?_ hw.symm; show 0x18000400 + d.toNat * 4194304 + a.toNat * 262144 + s.toNat * 16 + p.toNat = _; omega
  have ⟨f0, r0⟩ := RoundTrip.peel (lo := 0) (n := 4) hw p.isLt
  have ⟨f4, r4⟩ := RoundTrip.peel (lo := 4) (n := 6) r0 s.isLt
  have ⟨f10, r10⟩ := RoundTrip.peel (lo := 10) (n := 2) r4 (by decide)
  have ⟨f12, r12⟩ := RoundTrip.peel (lo := 12) (n := 6) r10 (by decide)
  have ⟨f18, r18⟩ := RoundTrip.peel (lo := 18) (n := 4) r12 a.isLt
  have ⟨f22, r22⟩ := RoundTrip.peel (lo := 22) (n := 4) r18 d.isLt
  have ⟨f26, r26⟩ := RoundTrip.peel (lo := 26) (n := 6) r22 (by decide)
  rw [RoundTrip.decode_encode _ _ he (by omega), RoundTrip.major06 (by rintro rfl; cases f26) f26, decodeMajor06]
  have e : Instr.srli (.ofNat 4 (w / 4194304)) (.ofNat 4 (w / 262144)) (.ofNat 6 (w / 16)) (.ofNat 4 (w / 1)) = .srli d a s p := by
    rw [RoundTrip.ofNat_field d (w / 4194304) f22, RoundTrip.ofNat_field a (w / 262144) f18, RoundTrip.ofNat_field s (w / 16) f4, RoundTrip.ofNat_field p (w / 1) f0]
  rw [show fld w 10 2 = 0x001 from f10]
  exact (if_pos f12).trans (congrArg Except.ok e)

theorem RoundTrip.srai (d : BitVec 4) (a : BitVec 4) (s : BitVec 6) (p : BitVec 4) :
    RoundTrip.Statement (.srai d a s p) := by
  intro _
  obtain ⟨w, hw⟩ : ∃ w, w / 2 ^ 0 = p.toNat + 2 ^ 4 * (s.toNat + 2 ^ 6 * (0x002 + 2 ^ 2 * (0 + 2 ^ 6 * (a.toNat + 2 ^ 4 * (d.toNat + 2 ^ 4 * (0x06 + 2 ^ 6 * 0)))))) := ⟨_, Nat.div_one _⟩
  have he : encodeNat (.srai d a s p) = w := by
    rw [← Nat.div_one w]; refine Eq.trans ?_ hw.symm; show 0x18000800 + d.toNat * 4194304 + a.toNat * 262144 + s.toNat * 16 + p.toNat = _; omega
  have ⟨f0, r0⟩ := RoundTrip.peel (lo := 0) (n := 4) hw p.isLt
  have ⟨f4, r4⟩ := RoundTrip.peel (lo := 4) (n := 6) r0 s.isLt
  have ⟨f10, r10⟩ := RoundTrip.peel (lo := 10) (n := 2) r4 (by decide)
  have ⟨f12, r12⟩ := RoundTrip.peel (lo := 12) (n := 6) r10 (by decide)
  have ⟨f18, r18⟩ := RoundTrip.peel (lo := 18) (n := 4) r12 a.isLt
  have ⟨f22, r22⟩ := RoundTrip.peel (lo := 22) (n := 4) r18 d.isLt
  have ⟨f26, r26⟩ := RoundTrip.peel (lo := 26) (n := 6) r22 (by decide)
  rw [RoundTrip.decode_encode _ _ he (by omega), RoundTrip.major06 (by rintro rfl; cases f26) f26, decodeMajor06]
  have e : Instr.srai (.ofNat 4 (w / 4194304)) (.ofNat 4 (w / 262144)) (.ofNat 6 (w / 16)) (.ofNat 4 (w / 1)) = .srai d a s p := by
    rw [RoundTrip.ofNat_field d (w / 4194304) f22, RoundTrip.ofNat_field a (w / 262144) f18, RoundTrip.ofNat_field s (w / 16) f4, RoundTrip.ofNat_field p (w / 1) f0]
  rw [show fld w 10 2 = 0x002 from f10]
  exact (if_pos f12).trans (congrArg Except.ok e)

theorem RoundTrip.movi (d : BitVec 4) (i : BitVec 18) (p : BitVec 4) :
    RoundTrip.Statement (.movi d i p) := by
  intro _
  obtain ⟨w, hw⟩ : ∃ w, w / 2 ^ 0 = p.toNat + 2 ^ 4 * (i.toNat + 2 ^ 18 * (d.toNat + 2 ^ 4 * (0x07 + 2 ^ 6 * 0))) := ⟨_, Nat.div_one _⟩
  have he : encodeNat (.movi d i p) = w := by
    rw [← Nat.div_one w]; refine Eq.trans ?_ hw.symm; show 0x1C000000 + d.toNat * 4194304 + i.toNat * 16 + p.toNat = _; omega
  have ⟨f0, r0⟩ := RoundTrip.peel (lo := 0) (n := 4) hw p.isLt
  have ⟨f4, r4⟩ := RoundTrip.peel (lo := 4) (n := 18) r0 i.isLt
  have ⟨f22, r22⟩ := RoundTrip.peel (lo := 22) (n := 4) r4 d.isLt
  have ⟨f26, r26⟩ := RoundTrip.peel (lo := 26) (n := 6) r22 (by decide)
  rw [RoundTrip.decode_encode _ _ he (by omega), RoundTrip.major07 (by rintro rfl; cases f26) f26, decodeMajor07]
  have e : Instr.movi (.ofNat 4 (w / 4194304)) (.ofNat 18 (w / 16)) (.ofNat 4 (w / 1)) = .movi d i p := by
    rw [RoundTrip.ofNat_field d (w / 4194304) f22, RoundTrip.ofNat_field i (w / 16) f4, RoundTrip.ofNat_field p (w / 1) f0]
  exact congrArg Except.ok e

theorem RoundTrip.movhi (d : BitVec 4) (i : BitVec 18) (p : BitVec 4) :
    RoundTrip.Statement (.movhi d i p) := by
  intro _
  obtain ⟨w, hw⟩ : ∃ w, w / 2 ^ 0 = p.toNat + 2 ^ 4 * (i.toNat + 2 ^ 18 * (d.toNat + 2 ^ 4 * (0x08 + 2 ^ 6 * 0))) := ⟨_, Nat.div_one _⟩
  have he : encodeNat (.movhi d i p) = w := by
    rw [← Nat.div_one w]; refine Eq.trans ?_ hw.symm; show 0x20000000 + d.toNat * 4194304 + i.toNat * 16 + p.toNat = _; omega
  have ⟨f0, r0⟩ := RoundTrip.peel (lo := 0) (n := 4) hw p.isLt
  have ⟨f4, r4⟩ := RoundTrip.peel (lo := 4) (n := 18) r0 i.isLt
  have ⟨f22, r22⟩ := RoundTrip.peel (lo := 22) (n := 4) r4 d.isLt
  have ⟨f26, r26⟩ := RoundTrip.peel (lo := 26) (n := 6) r22 (by decide)
  rw [RoundTrip.decode_encode _ _ he (by omega), RoundTrip.major08 (by rintro rfl; cases f26) f26, decodeMajor08]
  have e : Instr.movhi (.ofNat 4 (w / 4194304)) (.ofNat 18 (w / 16)) (.ofNat 4 (w / 1)) = .movhi d i p := by
    rw [RoundTrip.ofNat_field d (w / 4194304) f22, RoundTrip.ofNat_field i (w / 16) f4, RoundTrip.ofNat_field p (w / 1) f0]
  exact congrArg Except.ok e

theorem RoundTrip.ldk (d : BitVec 4) (k : BitVec 8) (p : BitVec 4) :
    RoundTrip.Statement (.ldk d k p) := by
  intro _
  obtain ⟨w, hw⟩ : ∃ w, w / 2 ^ 0 = p.toNat + 2 ^ 4 * (0x000 + 2 ^ 6 * (k.toNat + 2 ^ 8 * (0 + 2 ^ 4 * (d.toNat + 2 ^ 4 * (0x09 + 2 ^ 6 * 0))))) := ⟨_, Nat.div_one _⟩
  have he : encodeNat (.ldk d k p) = w := by
    rw [← Nat.div_one w]; refine Eq.trans ?_ hw.symm; show 0x24000000 + d.toNat * 4194304 + k.toNat * 1024 + p.toNat = _; omega
  have ⟨f0, r0⟩ := RoundTrip.peel (lo := 0) (n := 4) hw p.isLt
  have ⟨f4, r4⟩ := RoundTrip.peel (lo := 4) (n := 6) r0 (by decide)
  have ⟨f10, r10⟩ := RoundTrip.peel (lo := 10) (n := 8) r4 k.isLt
  have ⟨f18, r18⟩ := RoundTrip.peel (lo := 18) (n := 4) r10 (by decide)
  have ⟨f22, r22⟩ := RoundTrip.peel (lo := 22) (n := 4) r18 d.isLt
  have ⟨f26, r26⟩ := RoundTrip.peel (lo := 26) (n := 6) r22 (by decide)
  rw [RoundTrip.decode_encode _ _ he (by omega), RoundTrip.major09 (by rintro rfl; cases f26) f26, decodeMajor09]
  have e : Instr.ldk (.ofNat 4 (w / 4194304)) (.ofNat 8 (w / 1024)) (.ofNat 4 (w / 1)) = .ldk d k p := by
    rw [RoundTrip.ofNat_field d (w / 4194304) f22, RoundTrip.ofNat_field k (w / 1024) f10, RoundTrip.ofNat_field p (w / 1) f0]
  rw [show fld w 4 6 = 0x000 from f4]
  exact (if_pos f18).trans (congrArg Except.ok e)

theorem RoundTrip.addk (d : BitVec 4) (a : BitVec 4) (k : BitVec 8) (p : BitVec 4) :
    RoundTrip.Statement (.addk d a k p) := by
  intro _
  obtain ⟨w, hw⟩ : ∃ w, w / 2 ^ 0 = p.toNat + 2 ^ 4 * (0x001 + 2 ^ 6 * (k.toNat + 2 ^ 8 * (a.toNat + 2 ^ 4 * (d.toNat + 2 ^ 4 * (0x09 + 2 ^ 6 * 0))))) := ⟨_, Nat.div_one _⟩
  have he : encodeNat (.addk d a k p) = w := by
    rw [← Nat.div_one w]; refine Eq.trans ?_ hw.symm; show 0x24000010 + d.toNat * 4194304 + a.toNat * 262144 + k.toNat * 1024 + p.toNat = _; omega
  have ⟨f0, r0⟩ := RoundTrip.peel (lo := 0) (n := 4) hw p.isLt
  have ⟨f4, r4⟩ := RoundTrip.peel (lo := 4) (n := 6) r0 (by decide)
  have ⟨f10, r10⟩ := RoundTrip.peel (lo := 10) (n := 8) r4 k.isLt
  have ⟨f18, r18⟩ := RoundTrip.peel (lo := 18) (n := 4) r10 a.isLt
  have ⟨f22, r22⟩ := RoundTrip.peel (lo := 22) (n := 4) r18 d.isLt
  have ⟨f26, r26⟩ := RoundTrip.peel (lo := 26) (n := 6) r22 (by decide)
  rw [RoundTrip.decode_encode _ _ he (by omega), RoundTrip.major09 (by rintro rfl; cases f26) f26, decodeMajor09]
  have e : Instr.addk (.ofNat 4 (w / 4194304)) (.ofNat 4 (w / 262144)) (.ofNat 8 (w / 1024)) (.ofNat 4 (w / 1)) = .addk d a k p := by
    rw [RoundTrip.ofNat_field d (w / 4194304) f22, RoundTrip.ofNat_field a (w / 262144) f18, RoundTrip.ofNat_field k (w / 1024) f10, RoundTrip.ofNat_field p (w / 1) f0]
  rw [show fld w 4 6 = 0x001 from f4]
  exact congrArg Except.ok e

theorem RoundTrip.cmp (d : BitVec 3) (a : BitVec 4) (b : BitVec 4) (c : BitVec 3) (p : BitVec 4) :
    RoundTrip.Statement (.cmp d a b c p) := by
  intro h
  obtain ⟨w, hw⟩ : ∃ w, w / 2 ^ 0 = p.toNat + 2 ^ 4 * (c.toNat + 2 ^ 3 * (0x0 + 2 ^ 7 * (b.toNat + 2 ^ 4 * (a.toNat + 2 ^ 4 * (d.toNat + 2 ^ 3 * (0 + 2 ^ 1 * (0x0A + 2 ^ 6 * 0))))))) := ⟨_, Nat.div_one _⟩
  have he : encodeNat (.cmp d a b c p) = w := by
    rw [← Nat.div_one w]; refine Eq.trans ?_ hw.symm; show 0x28000000 + d.toNat * 4194304 + a.toNat * 262144 + b.toNat * 16384 + c.toNat * 16 + p.toNat = _; omega
  have ⟨f0, r0⟩ := RoundTrip.peel (lo := 0) (n := 4) hw p.isLt
  have ⟨f4, r4⟩ := RoundTrip.peel (lo := 4) (n := 3) r0 c.isLt
  have ⟨f7, r7⟩ := RoundTrip.peel (lo := 7) (n := 7) r4 (by decide)
  have ⟨f14, r14⟩ := RoundTrip.peel (lo := 14) (n := 4) r7 b.isLt
  have ⟨f18, r18⟩ := RoundTrip.peel (lo := 18) (n := 4) r14 a.isLt
  have ⟨f22, r22⟩ := RoundTrip.peel (lo := 22) (n := 3) r18 d.isLt
  have ⟨f25, r25⟩ := RoundTrip.peel (lo := 25) (n := 1) r22 (by decide)
  have ⟨f26, r26⟩ := RoundTrip.peel (lo := 26) (n := 6) r25 (by decide)
  have hl : c.toNat < 6 := of_decide_eq_true h.2
  rw [RoundTrip.decode_encode _ _ he (by omega), RoundTrip.major0A (by rintro rfl; cases f26) f26, decodeMajor0A]
  have e : Instr.cmp (.ofNat 3 (w / 4194304)) (.ofNat 4 (w / 262144)) (.ofNat 4 (w / 16384)) (.ofNat 3 (w / 16)) (.ofNat 4 (w / 1)) = .cmp d a b c p := by
    rw [RoundTrip.ofNat_field d (w / 4194304) f22, RoundTrip.ofNat_field a (w / 262144) f18, RoundTrip.ofNat_field b (w / 16384) f14, RoundTrip.ofNat_field c (w / 16) f4, RoundTrip.ofNat_field p (w / 1) f0]
  rcases (show fld w 4 10 = 0x000 ∨ fld w 4 10 = 0x001 ∨ fld w 4 10 = 0x002 ∨ fld w 4 10 = 0x003 ∨ fld w 4 10 = 0x004 ∨ fld w 4 10 = 0x005 by unfold fld; omega) with hs | hs | hs | hs | hs | hs <;>
    (rw [hs]; exact (if_pos f25).trans (congrArg Except.ok e))

theorem RoundTrip.cmpi (d : BitVec 3) (a : BitVec 4) (c : BitVec 3) (i : BitVec 11) (p : BitVec 4) :
    RoundTrip.Statement (.cmpi d a c i p) := by
  intro h
  obtain ⟨w, hw⟩ : ∃ w, w / 2 ^ 0 = p.toNat + 2 ^ 4 * (i.toNat + 2 ^ 11 * (c.toNat + 2 ^ 3 * (a.toNat + 2 ^ 4 * (d.toNat + 2 ^ 3 * (0 + 2 ^ 1 * (0x0B + 2 ^ 6 * 0)))))) := ⟨_, Nat.div_one _⟩
  have he : encodeNat (.cmpi d a c i p) = w := by
    rw [← Nat.div_one w]; refine Eq.trans ?_ hw.symm; show 0x2C000000 + d.toNat * 4194304 + a.toNat * 262144 + c.toNat * 32768 + i.toNat * 16 + p.toNat = _; omega
  have ⟨f0, r0⟩ := RoundTrip.peel (lo := 0) (n := 4) hw p.isLt
  have ⟨f4, r4⟩ := RoundTrip.peel (lo := 4) (n := 11) r0 i.isLt
  have ⟨f15, r15⟩ := RoundTrip.peel (lo := 15) (n := 3) r4 c.isLt
  have ⟨f18, r18⟩ := RoundTrip.peel (lo := 18) (n := 4) r15 a.isLt
  have ⟨f22, r22⟩ := RoundTrip.peel (lo := 22) (n := 3) r18 d.isLt
  have ⟨f25, r25⟩ := RoundTrip.peel (lo := 25) (n := 1) r22 (by decide)
  have ⟨f26, r26⟩ := RoundTrip.peel (lo := 26) (n := 6) r25 (by decide)
  have hl : c.toNat < 6 := of_decide_eq_true h.2
  rw [RoundTrip.decode_encode _ _ he (by omega), RoundTrip.major0B (by rintro rfl; cases f26) f26, decodeMajor0B]
  have e : Instr.cmpi (.ofNat 3 (w / 4194304)) (.ofNat 4 (w / 262144)) (.ofNat 3 (w / 32768)) (.ofNat 11 (w / 16)) (.ofNat 4 (w / 1)) = .cmpi d a c i p := by
    rw [RoundTrip.ofNat_field d (w / 4194304) f22, RoundTrip.ofNat_field a (w / 262144) f18, RoundTrip.ofNat_field c (w / 32768) f15, RoundTrip.ofNat_field i (w / 16) f4, RoundTrip.ofNat_field p (w / 1) f0]
  rcases (show fld w 15 3 = 0x000 ∨ fld w 15 3 = 0x001 ∨ fld w 15 3 = 0x002 ∨ fld w 15 3 = 0x003 ∨ fld w 15 3 = 0x004 ∨ fld w 15 3 = 0x005 by unfold fld; omega) with hs | hs | hs | hs | hs | hs <;>
    (rw [hs]; exact (if_pos f25).trans (congrArg Except.ok e))

theorem RoundTrip.pand (d : BitVec 3) (a : BitVec 3) (b : BitVec 3) (p : BitVec 4) :
    RoundTrip.Statement (.pand d a b p) := by
  intro _
  obtain ⟨w, hw⟩ : ∃ w, w / 2 ^ 0 = p.toNat + 2 ^ 4 * (0x000 + 2 ^ 10 * (b.toNat + 2 ^ 3 * (0 + 2 ^ 1 * (a.toNat + 2 ^ 3 * (0 + 2 ^ 1 * (d.toNat + 2 ^ 3 * (0 + 2 ^ 1 * (0x0C + 2 ^ 6 * 0)))))))) := ⟨_, Nat.div_one _⟩
  have he : encodeNat (.pand d a b p) = w := by
    rw [← Nat.div_one w]; refine Eq.trans ?_ hw.symm; show 0x30000000 + d.toNat * 4194304 + a.toNat * 262144 + b.toNat * 16384 + p.toNat = _; omega
  have ⟨f0, r0⟩ := RoundTrip.peel (lo := 0) (n := 4) hw p.isLt
  have ⟨f4, r4⟩ := RoundTrip.peel (lo := 4) (n := 10) r0 (by decide)
  have ⟨f14, r14⟩ := RoundTrip.peel (lo := 14) (n := 3) r4 b.isLt
  have ⟨f17, r17⟩ := RoundTrip.peel (lo := 17) (n := 1) r14 (by decide)
  have ⟨f18, r18⟩ := RoundTrip.peel (lo := 18) (n := 3) r17 a.isLt
  have ⟨f21, r21⟩ := RoundTrip.peel (lo := 21) (n := 1) r18 (by decide)
  have ⟨f22, r22⟩ := RoundTrip.peel (lo := 22) (n := 3) r21 d.isLt
  have ⟨f25, r25⟩ := RoundTrip.peel (lo := 25) (n := 1) r22 (by decide)
  have ⟨f26, r26⟩ := RoundTrip.peel (lo := 26) (n := 6) r25 (by decide)
  rw [RoundTrip.decode_encode _ _ he (by omega), RoundTrip.major0C (by rintro rfl; cases f26) f26, decodeMajor0C]
  have e : Instr.pand (.ofNat 3 (w / 4194304)) (.ofNat 3 (w / 262144)) (.ofNat 3 (w / 16384)) (.ofNat 4 (w / 1)) = .pand d a b p := by
    rw [RoundTrip.ofNat_field d (w / 4194304) f22, RoundTrip.ofNat_field a (w / 262144) f18, RoundTrip.ofNat_field b (w / 16384) f14, RoundTrip.ofNat_field p (w / 1) f0]
  rw [show fld w 4 10 = 0x000 from f4]
  exact (if_pos ⟨f17, f21, f25⟩).trans (congrArg Except.ok e)

theorem RoundTrip.por (d : BitVec 3) (a : BitVec 3) (b : BitVec 3) (p : BitVec 4) :
    RoundTrip.Statement (.por d a b p) := by
  intro _
  obtain ⟨w, hw⟩ : ∃ w, w / 2 ^ 0 = p.toNat + 2 ^ 4 * (0x001 + 2 ^ 10 * (b.toNat + 2 ^ 3 * (0 + 2 ^ 1 * (a.toNat + 2 ^ 3 * (0 + 2 ^ 1 * (d.toNat + 2 ^ 3 * (0 + 2 ^ 1 * (0x0C + 2 ^ 6 * 0)))))))) := ⟨_, Nat.div_one _⟩
  have he : encodeNat (.por d a b p) = w := by
    rw [← Nat.div_one w]; refine Eq.trans ?_ hw.symm; show 0x30000010 + d.toNat * 4194304 + a.toNat * 262144 + b.toNat * 16384 + p.toNat = _; omega
  have ⟨f0, r0⟩ := RoundTrip.peel (lo := 0) (n := 4) hw p.isLt
  have ⟨f4, r4⟩ := RoundTrip.peel (lo := 4) (n := 10) r0 (by decide)
  have ⟨f14, r14⟩ := RoundTrip.peel (lo := 14) (n := 3) r4 b.isLt
  have ⟨f17, r17⟩ := RoundTrip.peel (lo := 17) (n := 1) r14 (by decide)
  have ⟨f18, r18⟩ := RoundTrip.peel (lo := 18) (n := 3) r17 a.isLt
  have ⟨f21, r21⟩ := RoundTrip.peel (lo := 21) (n := 1) r18 (by decide)
  have ⟨f22, r22⟩ := RoundTrip.peel (lo := 22) (n := 3) r21 d.isLt
  have ⟨f25, r25⟩ := RoundTrip.peel (lo := 25) (n := 1) r22 (by decide)
  have ⟨f26, r26⟩ := RoundTrip.peel (lo := 26) (n := 6) r25 (by decide)
  rw [RoundTrip.decode_encode _ _ he (by omega), RoundTrip.major0C (by rintro rfl; cases f26) f26, decodeMajor0C]
  have e : Instr.por (.ofNat 3 (w / 4194304)) (.ofNat 3 (w / 262144)) (.ofNat 3 (w / 16384)) (.ofNat 4 (w / 1)) = .por d a b p := by
    rw [RoundTrip.ofNat_field d (w / 4194304) f22, RoundTrip.ofNat_field a (w / 262144) f18, RoundTrip.ofNat_field b (w / 16384) f14, RoundTrip.ofNat_field p (w / 1) f0]
  rw [show fld w 4 10 = 0x001 from f4]
  exact (if_pos ⟨f17, f21, f25⟩).trans (congrArg Except.ok e)

theorem RoundTrip.pxor (d : BitVec 3) (a : BitVec 3) (b : BitVec 3) (p : BitVec 4) :
    RoundTrip.Statement (.pxor d a b p) := by
  intro _
  obtain ⟨w, hw⟩ : ∃ w, w / 2 ^ 0 = p.toNat + 2 ^ 4 * (0x002 + 2 ^ 10 * (b.toNat + 2 ^ 3 * (0 + 2 ^ 1 * (a.toNat + 2 ^ 3 * (0 + 2 ^ 1 * (d.toNat + 2 ^ 3 * (0 + 2 ^ 1 * (0x0C + 2 ^ 6 * 0)))))))) := ⟨_, Nat.div_one _⟩
  have he : encodeNat (.pxor d a b p) = w := by
    rw [← Nat.div_one w]; refine Eq.trans ?_ hw.symm; show 0x30000020 + d.toNat * 4194304 + a.toNat * 262144 + b.toNat * 16384 + p.toNat = _; omega
  have ⟨f0, r0⟩ := RoundTrip.peel (lo := 0) (n := 4) hw p.isLt
  have ⟨f4, r4⟩ := RoundTrip.peel (lo := 4) (n := 10) r0 (by decide)
  have ⟨f14, r14⟩ := RoundTrip.peel (lo := 14) (n := 3) r4 b.isLt
  have ⟨f17, r17⟩ := RoundTrip.peel (lo := 17) (n := 1) r14 (by decide)
  have ⟨f18, r18⟩ := RoundTrip.peel (lo := 18) (n := 3) r17 a.isLt
  have ⟨f21, r21⟩ := RoundTrip.peel (lo := 21) (n := 1) r18 (by decide)
  have ⟨f22, r22⟩ := RoundTrip.peel (lo := 22) (n := 3) r21 d.isLt
  have ⟨f25, r25⟩ := RoundTrip.peel (lo := 25) (n := 1) r22 (by decide)
  have ⟨f26, r26⟩ := RoundTrip.peel (lo := 26) (n := 6) r25 (by decide)
  rw [RoundTrip.decode_encode _ _ he (by omega), RoundTrip.major0C (by rintro rfl; cases f26) f26, decodeMajor0C]
  have e : Instr.pxor (.ofNat 3 (w / 4194304)) (.ofNat 3 (w / 262144)) (.ofNat 3 (w / 16384)) (.ofNat 4 (w / 1)) = .pxor d a b p := by
    rw [RoundTrip.ofNat_field d (w / 4194304) f22, RoundTrip.ofNat_field a (w / 262144) f18, RoundTrip.ofNat_field b (w / 16384) f14, RoundTrip.ofNat_field p (w / 1) f0]
  rw [show fld w 4 10 = 0x002 from f4]
  exact (if_pos ⟨f17, f21, f25⟩).trans (congrArg Except.ok e)

theorem RoundTrip.pnot (d : BitVec 3) (a : BitVec 3) (p : BitVec 4) :
    RoundTrip.Statement (.pnot d a p) := by
  intro _
  obtain ⟨w, hw⟩ : ∃ w, w / 2 ^ 0 = p.toNat + 2 ^ 4 * (0x003 + 2 ^ 10 * (0 + 2 ^ 4 * (a.toNat + 2 ^ 3 * (0 + 2 ^ 1 * (d.toNat + 2 ^ 3 * (0 + 2 ^ 1 * (0x0C + 2 ^ 6 * 0))))))) := ⟨_, Nat.div_one _⟩
  have he : encodeNat (.pnot d a p) = w := by
    rw [← Nat.div_one w]; refine Eq.trans ?_ hw.symm; show 0x30000030 + d.toNat * 4194304 + a.toNat * 262144 + p.toNat = _; omega
  have ⟨f0, r0⟩ := RoundTrip.peel (lo := 0) (n := 4) hw p.isLt
  have ⟨f4, r4⟩ := RoundTrip.peel (lo := 4) (n := 10) r0 (by decide)
  have ⟨f14, r14⟩ := RoundTrip.peel (lo := 14) (n := 4) r4 (by decide)
  have ⟨f18, r18⟩ := RoundTrip.peel (lo := 18) (n := 3) r14 a.isLt
  have ⟨f21, r21⟩ := RoundTrip.peel (lo := 21) (n := 1) r18 (by decide)
  have ⟨f22, r22⟩ := RoundTrip.peel (lo := 22) (n := 3) r21 d.isLt
  have ⟨f25, r25⟩ := RoundTrip.peel (lo := 25) (n := 1) r22 (by decide)
  have ⟨f26, r26⟩ := RoundTrip.peel (lo := 26) (n := 6) r25 (by decide)
  rw [RoundTrip.decode_encode _ _ he (by omega), RoundTrip.major0C (by rintro rfl; cases f26) f26, decodeMajor0C]
  have e : Instr.pnot (.ofNat 3 (w / 4194304)) (.ofNat 3 (w / 262144)) (.ofNat 4 (w / 1)) = .pnot d a p := by
    rw [RoundTrip.ofNat_field d (w / 4194304) f22, RoundTrip.ofNat_field a (w / 262144) f18, RoundTrip.ofNat_field p (w / 1) f0]
  rw [show fld w 4 10 = 0x003 from f4]
  exact (if_pos ⟨f14, f21, f25⟩).trans (congrArg Except.ok e)

theorem RoundTrip.prd (d : BitVec 4) (p : BitVec 4) :
    RoundTrip.Statement (.prd d p) := by
  intro _
  obtain ⟨w, hw⟩ : ∃ w, w / 2 ^ 0 = p.toNat + 2 ^ 4 * (0x004 + 2 ^ 10 * (0 + 2 ^ 8 * (d.toNat + 2 ^ 4 * (0x0C + 2 ^ 6 * 0)))) := ⟨_, Nat.div_one _⟩
  have he : encodeNat (.prd d p) = w := by
    rw [← Nat.div_one w]; refine Eq.trans ?_ hw.symm; show 0x30000040 + d.toNat * 4194304 + p.toNat = _; omega
  have ⟨f0, r0⟩ := RoundTrip.peel (lo := 0) (n := 4) hw p.isLt
  have ⟨f4, r4⟩ := RoundTrip.peel (lo := 4) (n := 10) r0 (by decide)
  have ⟨f14, r14⟩ := RoundTrip.peel (lo := 14) (n := 8) r4 (by decide)
  have ⟨f22, r22⟩ := RoundTrip.peel (lo := 22) (n := 4) r14 d.isLt
  have ⟨f26, r26⟩ := RoundTrip.peel (lo := 26) (n := 6) r22 (by decide)
  rw [RoundTrip.decode_encode _ _ he (by omega), RoundTrip.major0C (by rintro rfl; cases f26) f26, decodeMajor0C]
  have e : Instr.prd (.ofNat 4 (w / 4194304)) (.ofNat 4 (w / 1)) = .prd d p := by
    rw [RoundTrip.ofNat_field d (w / 4194304) f22, RoundTrip.ofNat_field p (w / 1) f0]
  rw [show fld w 4 10 = 0x004 from f4]
  exact (if_pos f14).trans (congrArg Except.ok e)

theorem RoundTrip.pwr (m : BitVec 3) (a : BitVec 4) (p : BitVec 4) :
    RoundTrip.Statement (.pwr m a p) := by
  intro _
  obtain ⟨w, hw⟩ : ∃ w, w / 2 ^ 0 = p.toNat + 2 ^ 4 * (0x005 + 2 ^ 10 * (0 + 2 ^ 4 * (a.toNat + 2 ^ 4 * (m.toNat + 2 ^ 3 * (0 + 2 ^ 1 * (0x0C + 2 ^ 6 * 0)))))) := ⟨_, Nat.div_one _⟩
  have he : encodeNat (.pwr m a p) = w := by
    rw [← Nat.div_one w]; refine Eq.trans ?_ hw.symm; show 0x30000050 + m.toNat * 4194304 + a.toNat * 262144 + p.toNat = _; omega
  have ⟨f0, r0⟩ := RoundTrip.peel (lo := 0) (n := 4) hw p.isLt
  have ⟨f4, r4⟩ := RoundTrip.peel (lo := 4) (n := 10) r0 (by decide)
  have ⟨f14, r14⟩ := RoundTrip.peel (lo := 14) (n := 4) r4 (by decide)
  have ⟨f18, r18⟩ := RoundTrip.peel (lo := 18) (n := 4) r14 a.isLt
  have ⟨f22, r22⟩ := RoundTrip.peel (lo := 22) (n := 3) r18 m.isLt
  have ⟨f25, r25⟩ := RoundTrip.peel (lo := 25) (n := 1) r22 (by decide)
  have ⟨f26, r26⟩ := RoundTrip.peel (lo := 26) (n := 6) r25 (by decide)
  rw [RoundTrip.decode_encode _ _ he (by omega), RoundTrip.major0C (by rintro rfl; cases f26) f26, decodeMajor0C]
  have e : Instr.pwr (.ofNat 3 (w / 4194304)) (.ofNat 4 (w / 262144)) (.ofNat 4 (w / 1)) = .pwr m a p := by
    rw [RoundTrip.ofNat_field m (w / 4194304) f22, RoundTrip.ofNat_field a (w / 262144) f18, RoundTrip.ofNat_field p (w / 1) f0]
  rw [show fld w 4 10 = 0x005 from f4]
  exact (if_pos ⟨f14, f25⟩).trans (congrArg Except.ok e)

theorem RoundTrip.bfx (d : BitVec 4) (a : BitVec 4) (s : BitVec 6) (w : BitVec 6) (p : BitVec 4) :
    RoundTrip.Statement (.bfx d a s w p) := by
  intro _
  obtain ⟨y, hw⟩ : ∃ y, y / 2 ^ 0 = p.toNat + 2 ^ 4 * (0x000 + 2 ^ 2 * (w.toNat + 2 ^ 6 * (s.toNat + 2 ^ 6 * (a.toNat + 2 ^ 4 * (d.toNat + 2 ^ 4 * (0x0D + 2 ^ 6 * 0)))))) := ⟨_, Nat.div_one _⟩
  have he : encodeNat (.bfx d a s w p) = y := by
    rw [← Nat.div_one y]; refine Eq.trans ?_ hw.symm; show 0x34000000 + d.toNat * 4194304 + a.toNat * 262144 + s.toNat * 4096 + w.toNat * 64 + p.toNat = _; omega
  have ⟨f0, r0⟩ := RoundTrip.peel (lo := 0) (n := 4) hw p.isLt
  have ⟨f4, r4⟩ := RoundTrip.peel (lo := 4) (n := 2) r0 (by decide)
  have ⟨f6, r6⟩ := RoundTrip.peel (lo := 6) (n := 6) r4 w.isLt
  have ⟨f12, r12⟩ := RoundTrip.peel (lo := 12) (n := 6) r6 s.isLt
  have ⟨f18, r18⟩ := RoundTrip.peel (lo := 18) (n := 4) r12 a.isLt
  have ⟨f22, r22⟩ := RoundTrip.peel (lo := 22) (n := 4) r18 d.isLt
  have ⟨f26, r26⟩ := RoundTrip.peel (lo := 26) (n := 6) r22 (by decide)
  rw [RoundTrip.decode_encode _ _ he (by omega), RoundTrip.major0D (by rintro rfl; cases f26) f26, decodeMajor0D]
  have e : Instr.bfx (.ofNat 4 (y / 4194304)) (.ofNat 4 (y / 262144)) (.ofNat 6 (y / 4096)) (.ofNat 6 (y / 64)) (.ofNat 4 (y / 1)) = .bfx d a s w p := by
    rw [RoundTrip.ofNat_field d (y / 4194304) f22, RoundTrip.ofNat_field a (y / 262144) f18, RoundTrip.ofNat_field s (y / 4096) f12, RoundTrip.ofNat_field w (y / 64) f6, RoundTrip.ofNat_field p (y / 1) f0]
  rw [show fld y 4 2 = 0x000 from f4]
  exact congrArg Except.ok e

theorem RoundTrip.bfi (d : BitVec 4) (a : BitVec 4) (s : BitVec 6) (w : BitVec 6) (p : BitVec 4) :
    RoundTrip.Statement (.bfi d a s w p) := by
  intro _
  obtain ⟨y, hw⟩ : ∃ y, y / 2 ^ 0 = p.toNat + 2 ^ 4 * (0x001 + 2 ^ 2 * (w.toNat + 2 ^ 6 * (s.toNat + 2 ^ 6 * (a.toNat + 2 ^ 4 * (d.toNat + 2 ^ 4 * (0x0D + 2 ^ 6 * 0)))))) := ⟨_, Nat.div_one _⟩
  have he : encodeNat (.bfi d a s w p) = y := by
    rw [← Nat.div_one y]; refine Eq.trans ?_ hw.symm; show 0x34000010 + d.toNat * 4194304 + a.toNat * 262144 + s.toNat * 4096 + w.toNat * 64 + p.toNat = _; omega
  have ⟨f0, r0⟩ := RoundTrip.peel (lo := 0) (n := 4) hw p.isLt
  have ⟨f4, r4⟩ := RoundTrip.peel (lo := 4) (n := 2) r0 (by decide)
  have ⟨f6, r6⟩ := RoundTrip.peel (lo := 6) (n := 6) r4 w.isLt
  have ⟨f12, r12⟩ := RoundTrip.peel (lo := 12) (n := 6) r6 s.isLt
  have ⟨f18, r18⟩ := RoundTrip.peel (lo := 18) (n := 4) r12 a.isLt
  have ⟨f22, r22⟩ := RoundTrip.peel (lo := 22) (n := 4) r18 d.isLt
  have ⟨f26, r26⟩ := RoundTrip.peel (lo := 26) (n := 6) r22 (by decide)
  rw [RoundTrip.decode_encode _ _ he (by omega), RoundTrip.major0D (by rintro rfl; cases f26) f26, decodeMajor0D]
  have e : Instr.bfi (.ofNat 4 (y / 4194304)) (.ofNat 4 (y / 262144)) (.ofNat 6 (y / 4096)) (.ofNat 6 (y / 64)) (.ofNat 4 (y / 1)) = .bfi d a s w p := by
    rw [RoundTrip.ofNat_field d (y / 4194304) f22, RoundTrip.ofNat_field a (y / 262144) f18, RoundTrip.ofNat_field s (y / 4096) f12, RoundTrip.ofNat_field w (y / 64) f6, RoundTrip.ofNat_field p (y / 1) f0]
  rw [show fld y 4 2 = 0x001 from f4]
  exact congrArg Except.ok e

theorem RoundTrip.br (i : BitVec 22) (p : BitVec 4) :
    RoundTrip.Statement (.br i p) := by
  intro _
  obtain ⟨w, hw⟩ : ∃ w, w / 2 ^ 0 = p.toNat + 2 ^ 4 * (i.toNat + 2 ^ 22 * (0x10 + 2 ^ 6 * 0)) := ⟨_, Nat.div_one _⟩
  have he : encodeNat (.br i p) = w := by
    rw [← Nat.div_one w]; refine Eq.trans ?_ hw.symm; show 0x40000000 + i.toNat * 16 + p.toNat = _; omega
  have ⟨f0, r0⟩ := RoundTrip.peel (lo := 0) (n := 4) hw p.isLt
  have ⟨f4, r4⟩ := RoundTrip.peel (lo := 4) (n := 22) r0 i.isLt
  have ⟨f26, r26⟩ := RoundTrip.peel (lo := 26) (n := 6) r4 (by decide)
  rw [RoundTrip.decode_encode _ _ he (by omega), RoundTrip.major10 (by rintro rfl; cases f26) f26, decodeMajor10]
  have e : Instr.br (.ofNat 22 (w / 16)) (.ofNat 4 (w / 1)) = .br i p := by
    rw [RoundTrip.ofNat_field i (w / 16) f4, RoundTrip.ofNat_field p (w / 1) f0]
  exact congrArg Except.ok e

theorem RoundTrip.call (i : BitVec 22) (p : BitVec 4) :
    RoundTrip.Statement (.call i p) := by
  intro _
  obtain ⟨w, hw⟩ : ∃ w, w / 2 ^ 0 = p.toNat + 2 ^ 4 * (i.toNat + 2 ^ 22 * (0x11 + 2 ^ 6 * 0)) := ⟨_, Nat.div_one _⟩
  have he : encodeNat (.call i p) = w := by
    rw [← Nat.div_one w]; refine Eq.trans ?_ hw.symm; show 0x44000000 + i.toNat * 16 + p.toNat = _; omega
  have ⟨f0, r0⟩ := RoundTrip.peel (lo := 0) (n := 4) hw p.isLt
  have ⟨f4, r4⟩ := RoundTrip.peel (lo := 4) (n := 22) r0 i.isLt
  have ⟨f26, r26⟩ := RoundTrip.peel (lo := 26) (n := 6) r4 (by decide)
  rw [RoundTrip.decode_encode _ _ he (by omega), RoundTrip.major11 (by rintro rfl; cases f26) f26, decodeMajor11]
  have e : Instr.call (.ofNat 22 (w / 16)) (.ofNat 4 (w / 1)) = .call i p := by
    rw [RoundTrip.ofNat_field i (w / 16) f4, RoundTrip.ofNat_field p (w / 1) f0]
  exact congrArg Except.ok e

theorem RoundTrip.jmpr (a : BitVec 4) (p : BitVec 4) :
    RoundTrip.Statement (.jmpr a p) := by
  intro _
  obtain ⟨w, hw⟩ : ∃ w, w / 2 ^ 0 = p.toNat + 2 ^ 4 * (0x000 + 2 ^ 10 * (0 + 2 ^ 4 * (a.toNat + 2 ^ 4 * (0 + 2 ^ 4 * (0x12 + 2 ^ 6 * 0))))) := ⟨_, Nat.div_one _⟩
  have he : encodeNat (.jmpr a p) = w := by
    rw [← Nat.div_one w]; refine Eq.trans ?_ hw.symm; show 0x48000000 + a.toNat * 262144 + p.toNat = _; omega
  have ⟨f0, r0⟩ := RoundTrip.peel (lo := 0) (n := 4) hw p.isLt
  have ⟨f4, r4⟩ := RoundTrip.peel (lo := 4) (n := 10) r0 (by decide)
  have ⟨f14, r14⟩ := RoundTrip.peel (lo := 14) (n := 4) r4 (by decide)
  have ⟨f18, r18⟩ := RoundTrip.peel (lo := 18) (n := 4) r14 a.isLt
  have ⟨f22, r22⟩ := RoundTrip.peel (lo := 22) (n := 4) r18 (by decide)
  have ⟨f26, r26⟩ := RoundTrip.peel (lo := 26) (n := 6) r22 (by decide)
  rw [RoundTrip.decode_encode _ _ he (by omega), RoundTrip.major12 (by rintro rfl; cases f26) f26, decodeMajor12]
  have e : Instr.jmpr (.ofNat 4 (w / 262144)) (.ofNat 4 (w / 1)) = .jmpr a p := by
    rw [RoundTrip.ofNat_field a (w / 262144) f18, RoundTrip.ofNat_field p (w / 1) f0]
  rw [show fld w 4 10 = 0x000 from f4]
  exact (if_pos ⟨f14, f22⟩).trans (congrArg Except.ok e)

theorem RoundTrip.callr (a : BitVec 4) (p : BitVec 4) :
    RoundTrip.Statement (.callr a p) := by
  intro _
  obtain ⟨w, hw⟩ : ∃ w, w / 2 ^ 0 = p.toNat + 2 ^ 4 * (0x001 + 2 ^ 10 * (0 + 2 ^ 4 * (a.toNat + 2 ^ 4 * (0 + 2 ^ 4 * (0x12 + 2 ^ 6 * 0))))) := ⟨_, Nat.div_one _⟩
  have he : encodeNat (.callr a p) = w := by
    rw [← Nat.div_one w]; refine Eq.trans ?_ hw.symm; show 0x48000010 + a.toNat * 262144 + p.toNat = _; omega
  have ⟨f0, r0⟩ := RoundTrip.peel (lo := 0) (n := 4) hw p.isLt
  have ⟨f4, r4⟩ := RoundTrip.peel (lo := 4) (n := 10) r0 (by decide)
  have ⟨f14, r14⟩ := RoundTrip.peel (lo := 14) (n := 4) r4 (by decide)
  have ⟨f18, r18⟩ := RoundTrip.peel (lo := 18) (n := 4) r14 a.isLt
  have ⟨f22, r22⟩ := RoundTrip.peel (lo := 22) (n := 4) r18 (by decide)
  have ⟨f26, r26⟩ := RoundTrip.peel (lo := 26) (n := 6) r22 (by decide)
  rw [RoundTrip.decode_encode _ _ he (by omega), RoundTrip.major12 (by rintro rfl; cases f26) f26, decodeMajor12]
  have e : Instr.callr (.ofNat 4 (w / 262144)) (.ofNat 4 (w / 1)) = .callr a p := by
    rw [RoundTrip.ofNat_field a (w / 262144) f18, RoundTrip.ofNat_field p (w / 1) f0]
  rw [show fld w 4 10 = 0x001 from f4]
  exact (if_pos ⟨f14, f22⟩).trans (congrArg Except.ok e)

theorem RoundTrip.ret (p : BitVec 4) :
    RoundTrip.Statement (.ret p) := by
  intro _
  obtain ⟨w, hw⟩ : ∃ w, w / 2 ^ 0 = p.toNat + 2 ^ 4 * (0x002 + 2 ^ 10 * (0 + 2 ^ 12 * (0x12 + 2 ^ 6 * 0))) := ⟨_, Nat.div_one _⟩
  have he : encodeNat (.ret p) = w := by
    rw [← Nat.div_one w]; refine Eq.trans ?_ hw.symm; show 0x48000020 + p.toNat = _; omega
  have ⟨f0, r0⟩ := RoundTrip.peel (lo := 0) (n := 4) hw p.isLt
  have ⟨f4, r4⟩ := RoundTrip.peel (lo := 4) (n := 10) r0 (by decide)
  have ⟨f14, r14⟩ := RoundTrip.peel (lo := 14) (n := 12) r4 (by decide)
  have ⟨f26, r26⟩ := RoundTrip.peel (lo := 26) (n := 6) r14 (by decide)
  rw [RoundTrip.decode_encode _ _ he (by omega), RoundTrip.major12 (by rintro rfl; cases f26) f26, decodeMajor12]
  have e : Instr.ret (.ofNat 4 (w / 1)) = .ret p := by
    rw [RoundTrip.ofNat_field p (w / 1) f0]
  rw [show fld w 4 10 = 0x002 from f4]
  exact (if_pos f14).trans (congrArg Except.ok e)

theorem RoundTrip.leaB (d : BitVec 4) (a : BitVec 4) (o : BitVec 12) (p : BitVec 4) :
    RoundTrip.Statement (.leaB d a o p) := by
  intro _
  obtain ⟨w, hw⟩ : ∃ w, w / 2 ^ 0 = p.toNat + 2 ^ 4 * (0x000 + 2 ^ 2 * (o.toNat + 2 ^ 12 * (a.toNat + 2 ^ 4 * (d.toNat + 2 ^ 4 * (0x13 + 2 ^ 6 * 0))))) := ⟨_, Nat.div_one _⟩
  have he : encodeNat (.leaB d a o p) = w := by
    rw [← Nat.div_one w]; refine Eq.trans ?_ hw.symm; show 0x4C000000 + d.toNat * 4194304 + a.toNat * 262144 + o.toNat * 64 + p.toNat = _; omega
  have ⟨f0, r0⟩ := RoundTrip.peel (lo := 0) (n := 4) hw p.isLt
  have ⟨f4, r4⟩ := RoundTrip.peel (lo := 4) (n := 2) r0 (by decide)
  have ⟨f6, r6⟩ := RoundTrip.peel (lo := 6) (n := 12) r4 o.isLt
  have ⟨f18, r18⟩ := RoundTrip.peel (lo := 18) (n := 4) r6 a.isLt
  have ⟨f22, r22⟩ := RoundTrip.peel (lo := 22) (n := 4) r18 d.isLt
  have ⟨f26, r26⟩ := RoundTrip.peel (lo := 26) (n := 6) r22 (by decide)
  rw [RoundTrip.decode_encode _ _ he (by omega), RoundTrip.major13 (by rintro rfl; cases f26) f26, decodeMajor13]
  have e : Instr.leaB (.ofNat 4 (w / 4194304)) (.ofNat 4 (w / 262144)) (.ofNat 12 (w / 64)) (.ofNat 4 (w / 1)) = .leaB d a o p := by
    rw [RoundTrip.ofNat_field d (w / 4194304) f22, RoundTrip.ofNat_field a (w / 262144) f18, RoundTrip.ofNat_field o (w / 64) f6, RoundTrip.ofNat_field p (w / 1) f0]
  rw [show fld w 4 2 = 0x000 from f4]
  exact congrArg Except.ok e

theorem RoundTrip.leaH (d : BitVec 4) (a : BitVec 4) (o : BitVec 12) (p : BitVec 4) :
    RoundTrip.Statement (.leaH d a o p) := by
  intro _
  obtain ⟨w, hw⟩ : ∃ w, w / 2 ^ 0 = p.toNat + 2 ^ 4 * (0x001 + 2 ^ 2 * (o.toNat + 2 ^ 12 * (a.toNat + 2 ^ 4 * (d.toNat + 2 ^ 4 * (0x13 + 2 ^ 6 * 0))))) := ⟨_, Nat.div_one _⟩
  have he : encodeNat (.leaH d a o p) = w := by
    rw [← Nat.div_one w]; refine Eq.trans ?_ hw.symm; show 0x4C000010 + d.toNat * 4194304 + a.toNat * 262144 + o.toNat * 64 + p.toNat = _; omega
  have ⟨f0, r0⟩ := RoundTrip.peel (lo := 0) (n := 4) hw p.isLt
  have ⟨f4, r4⟩ := RoundTrip.peel (lo := 4) (n := 2) r0 (by decide)
  have ⟨f6, r6⟩ := RoundTrip.peel (lo := 6) (n := 12) r4 o.isLt
  have ⟨f18, r18⟩ := RoundTrip.peel (lo := 18) (n := 4) r6 a.isLt
  have ⟨f22, r22⟩ := RoundTrip.peel (lo := 22) (n := 4) r18 d.isLt
  have ⟨f26, r26⟩ := RoundTrip.peel (lo := 26) (n := 6) r22 (by decide)
  rw [RoundTrip.decode_encode _ _ he (by omega), RoundTrip.major13 (by rintro rfl; cases f26) f26, decodeMajor13]
  have e : Instr.leaH (.ofNat 4 (w / 4194304)) (.ofNat 4 (w / 262144)) (.ofNat 12 (w / 64)) (.ofNat 4 (w / 1)) = .leaH d a o p := by
    rw [RoundTrip.ofNat_field d (w / 4194304) f22, RoundTrip.ofNat_field a (w / 262144) f18, RoundTrip.ofNat_field o (w / 64) f6, RoundTrip.ofNat_field p (w / 1) f0]
  rw [show fld w 4 2 = 0x001 from f4]
  exact congrArg Except.ok e

theorem RoundTrip.leaW (d : BitVec 4) (a : BitVec 4) (o : BitVec 12) (p : BitVec 4) :
    RoundTrip.Statement (.leaW d a o p) := by
  intro _
  obtain ⟨w, hw⟩ : ∃ w, w / 2 ^ 0 = p.toNat + 2 ^ 4 * (0x002 + 2 ^ 2 * (o.toNat + 2 ^ 12 * (a.toNat + 2 ^ 4 * (d.toNat + 2 ^ 4 * (0x13 + 2 ^ 6 * 0))))) := ⟨_, Nat.div_one _⟩
  have he : encodeNat (.leaW d a o p) = w := by
    rw [← Nat.div_one w]; refine Eq.trans ?_ hw.symm; show 0x4C000020 + d.toNat * 4194304 + a.toNat * 262144 + o.toNat * 64 + p.toNat = _; omega
  have ⟨f0, r0⟩ := RoundTrip.peel (lo := 0) (n := 4) hw p.isLt
  have ⟨f4, r4⟩ := RoundTrip.peel (lo := 4) (n := 2) r0 (by decide)
  have ⟨f6, r6⟩ := RoundTrip.peel (lo := 6) (n := 12) r4 o.isLt
  have ⟨f18, r18⟩ := RoundTrip.peel (lo := 18) (n := 4) r6 a.isLt
  have ⟨f22, r22⟩ := RoundTrip.peel (lo := 22) (n := 4) r18 d.isLt
  have ⟨f26, r26⟩ := RoundTrip.peel (lo := 26) (n := 6) r22 (by decide)
  rw [RoundTrip.decode_encode _ _ he (by omega), RoundTrip.major13 (by rintro rfl; cases f26) f26, decodeMajor13]
  have e : Instr.leaW (.ofNat 4 (w / 4194304)) (.ofNat 4 (w / 262144)) (.ofNat 12 (w / 64)) (.ofNat 4 (w / 1)) = .leaW d a o p := by
    rw [RoundTrip.ofNat_field d (w / 4194304) f22, RoundTrip.ofNat_field a (w / 262144) f18, RoundTrip.ofNat_field o (w / 64) f6, RoundTrip.ofNat_field p (w / 1) f0]
  rw [show fld w 4 2 = 0x002 from f4]
  exact congrArg Except.ok e

theorem RoundTrip.leaD (d : BitVec 4) (a : BitVec 4) (o : BitVec 12) (p : BitVec 4) :
    RoundTrip.Statement (.leaD d a o p) := by
  intro _
  obtain ⟨w, hw⟩ : ∃ w, w / 2 ^ 0 = p.toNat + 2 ^ 4 * (0x003 + 2 ^ 2 * (o.toNat + 2 ^ 12 * (a.toNat + 2 ^ 4 * (d.toNat + 2 ^ 4 * (0x13 + 2 ^ 6 * 0))))) := ⟨_, Nat.div_one _⟩
  have he : encodeNat (.leaD d a o p) = w := by
    rw [← Nat.div_one w]; refine Eq.trans ?_ hw.symm; show 0x4C000030 + d.toNat * 4194304 + a.toNat * 262144 + o.toNat * 64 + p.toNat = _; omega
  have ⟨f0, r0⟩ := RoundTrip.peel (lo := 0) (n := 4) hw p.isLt
  have ⟨f4, r4⟩ := RoundTrip.peel (lo := 4) (n := 2) r0 (by decide)
  have ⟨f6, r6⟩ := RoundTrip.peel (lo := 6) (n := 12) r4 o.isLt
  have ⟨f18, r18⟩ := RoundTrip.peel (lo := 18) (n := 4) r6 a.isLt
  have ⟨f22, r22⟩ := RoundTrip.peel (lo := 22) (n := 4) r18 d.isLt
  have ⟨f26, r26⟩ := RoundTrip.peel (lo := 26) (n := 6) r22 (by decide)
  rw [RoundTrip.decode_encode _ _ he (by omega), RoundTrip.major13 (by rintro rfl; cases f26) f26, decodeMajor13]
  have e : Instr.leaD (.ofNat 4 (w / 4194304)) (.ofNat 4 (w / 262144)) (.ofNat 12 (w / 64)) (.ofNat 4 (w / 1)) = .leaD d a o p := by
    rw [RoundTrip.ofNat_field d (w / 4194304) f22, RoundTrip.ofNat_field a (w / 262144) f18, RoundTrip.ofNat_field o (w / 64) f6, RoundTrip.ofNat_field p (w / 1) f0]
  rw [show fld w 4 2 = 0x003 from f4]
  exact congrArg Except.ok e

theorem RoundTrip.ldbu (d : BitVec 4) (a : BitVec 4) (o : BitVec 12) (p : BitVec 4) :
    RoundTrip.Statement (.ldbu d a o p) := by
  intro _
  obtain ⟨w, hw⟩ : ∃ w, w / 2 ^ 0 = p.toNat + 2 ^ 4 * (0x000 + 2 ^ 2 * (o.toNat + 2 ^ 12 * (a.toNat + 2 ^ 4 * (d.toNat + 2 ^ 4 * (0x18 + 2 ^ 6 * 0))))) := ⟨_, Nat.div_one _⟩
  have he : encodeNat (.ldbu d a o p) = w := by
    rw [← Nat.div_one w]; refine Eq.trans ?_ hw.symm; show 0x60000000 + d.toNat * 4194304 + a.toNat * 262144 + o.toNat * 64 + p.toNat = _; omega
  have ⟨f0, r0⟩ := RoundTrip.peel (lo := 0) (n := 4) hw p.isLt
  have ⟨f4, r4⟩ := RoundTrip.peel (lo := 4) (n := 2) r0 (by decide)
  have ⟨f6, r6⟩ := RoundTrip.peel (lo := 6) (n := 12) r4 o.isLt
  have ⟨f18, r18⟩ := RoundTrip.peel (lo := 18) (n := 4) r6 a.isLt
  have ⟨f22, r22⟩ := RoundTrip.peel (lo := 22) (n := 4) r18 d.isLt
  have ⟨f26, r26⟩ := RoundTrip.peel (lo := 26) (n := 6) r22 (by decide)
  rw [RoundTrip.decode_encode _ _ he (by omega), RoundTrip.major18 (by rintro rfl; cases f26) f26, decodeMajor18]
  have e : Instr.ldbu (.ofNat 4 (w / 4194304)) (.ofNat 4 (w / 262144)) (.ofNat 12 (w / 64)) (.ofNat 4 (w / 1)) = .ldbu d a o p := by
    rw [RoundTrip.ofNat_field d (w / 4194304) f22, RoundTrip.ofNat_field a (w / 262144) f18, RoundTrip.ofNat_field o (w / 64) f6, RoundTrip.ofNat_field p (w / 1) f0]
  rw [show fld w 4 2 = 0x000 from f4]
  exact congrArg Except.ok e

theorem RoundTrip.ldhu (d : BitVec 4) (a : BitVec 4) (o : BitVec 12) (p : BitVec 4) :
    RoundTrip.Statement (.ldhu d a o p) := by
  intro _
  obtain ⟨w, hw⟩ : ∃ w, w / 2 ^ 0 = p.toNat + 2 ^ 4 * (0x001 + 2 ^ 2 * (o.toNat + 2 ^ 12 * (a.toNat + 2 ^ 4 * (d.toNat + 2 ^ 4 * (0x18 + 2 ^ 6 * 0))))) := ⟨_, Nat.div_one _⟩
  have he : encodeNat (.ldhu d a o p) = w := by
    rw [← Nat.div_one w]; refine Eq.trans ?_ hw.symm; show 0x60000010 + d.toNat * 4194304 + a.toNat * 262144 + o.toNat * 64 + p.toNat = _; omega
  have ⟨f0, r0⟩ := RoundTrip.peel (lo := 0) (n := 4) hw p.isLt
  have ⟨f4, r4⟩ := RoundTrip.peel (lo := 4) (n := 2) r0 (by decide)
  have ⟨f6, r6⟩ := RoundTrip.peel (lo := 6) (n := 12) r4 o.isLt
  have ⟨f18, r18⟩ := RoundTrip.peel (lo := 18) (n := 4) r6 a.isLt
  have ⟨f22, r22⟩ := RoundTrip.peel (lo := 22) (n := 4) r18 d.isLt
  have ⟨f26, r26⟩ := RoundTrip.peel (lo := 26) (n := 6) r22 (by decide)
  rw [RoundTrip.decode_encode _ _ he (by omega), RoundTrip.major18 (by rintro rfl; cases f26) f26, decodeMajor18]
  have e : Instr.ldhu (.ofNat 4 (w / 4194304)) (.ofNat 4 (w / 262144)) (.ofNat 12 (w / 64)) (.ofNat 4 (w / 1)) = .ldhu d a o p := by
    rw [RoundTrip.ofNat_field d (w / 4194304) f22, RoundTrip.ofNat_field a (w / 262144) f18, RoundTrip.ofNat_field o (w / 64) f6, RoundTrip.ofNat_field p (w / 1) f0]
  rw [show fld w 4 2 = 0x001 from f4]
  exact congrArg Except.ok e

theorem RoundTrip.ldwu (d : BitVec 4) (a : BitVec 4) (o : BitVec 12) (p : BitVec 4) :
    RoundTrip.Statement (.ldwu d a o p) := by
  intro _
  obtain ⟨w, hw⟩ : ∃ w, w / 2 ^ 0 = p.toNat + 2 ^ 4 * (0x002 + 2 ^ 2 * (o.toNat + 2 ^ 12 * (a.toNat + 2 ^ 4 * (d.toNat + 2 ^ 4 * (0x18 + 2 ^ 6 * 0))))) := ⟨_, Nat.div_one _⟩
  have he : encodeNat (.ldwu d a o p) = w := by
    rw [← Nat.div_one w]; refine Eq.trans ?_ hw.symm; show 0x60000020 + d.toNat * 4194304 + a.toNat * 262144 + o.toNat * 64 + p.toNat = _; omega
  have ⟨f0, r0⟩ := RoundTrip.peel (lo := 0) (n := 4) hw p.isLt
  have ⟨f4, r4⟩ := RoundTrip.peel (lo := 4) (n := 2) r0 (by decide)
  have ⟨f6, r6⟩ := RoundTrip.peel (lo := 6) (n := 12) r4 o.isLt
  have ⟨f18, r18⟩ := RoundTrip.peel (lo := 18) (n := 4) r6 a.isLt
  have ⟨f22, r22⟩ := RoundTrip.peel (lo := 22) (n := 4) r18 d.isLt
  have ⟨f26, r26⟩ := RoundTrip.peel (lo := 26) (n := 6) r22 (by decide)
  rw [RoundTrip.decode_encode _ _ he (by omega), RoundTrip.major18 (by rintro rfl; cases f26) f26, decodeMajor18]
  have e : Instr.ldwu (.ofNat 4 (w / 4194304)) (.ofNat 4 (w / 262144)) (.ofNat 12 (w / 64)) (.ofNat 4 (w / 1)) = .ldwu d a o p := by
    rw [RoundTrip.ofNat_field d (w / 4194304) f22, RoundTrip.ofNat_field a (w / 262144) f18, RoundTrip.ofNat_field o (w / 64) f6, RoundTrip.ofNat_field p (w / 1) f0]
  rw [show fld w 4 2 = 0x002 from f4]
  exact congrArg Except.ok e

theorem RoundTrip.ldd (d : BitVec 4) (a : BitVec 4) (o : BitVec 12) (p : BitVec 4) :
    RoundTrip.Statement (.ldd d a o p) := by
  intro _
  obtain ⟨w, hw⟩ : ∃ w, w / 2 ^ 0 = p.toNat + 2 ^ 4 * (0x003 + 2 ^ 2 * (o.toNat + 2 ^ 12 * (a.toNat + 2 ^ 4 * (d.toNat + 2 ^ 4 * (0x18 + 2 ^ 6 * 0))))) := ⟨_, Nat.div_one _⟩
  have he : encodeNat (.ldd d a o p) = w := by
    rw [← Nat.div_one w]; refine Eq.trans ?_ hw.symm; show 0x60000030 + d.toNat * 4194304 + a.toNat * 262144 + o.toNat * 64 + p.toNat = _; omega
  have ⟨f0, r0⟩ := RoundTrip.peel (lo := 0) (n := 4) hw p.isLt
  have ⟨f4, r4⟩ := RoundTrip.peel (lo := 4) (n := 2) r0 (by decide)
  have ⟨f6, r6⟩ := RoundTrip.peel (lo := 6) (n := 12) r4 o.isLt
  have ⟨f18, r18⟩ := RoundTrip.peel (lo := 18) (n := 4) r6 a.isLt
  have ⟨f22, r22⟩ := RoundTrip.peel (lo := 22) (n := 4) r18 d.isLt
  have ⟨f26, r26⟩ := RoundTrip.peel (lo := 26) (n := 6) r22 (by decide)
  rw [RoundTrip.decode_encode _ _ he (by omega), RoundTrip.major18 (by rintro rfl; cases f26) f26, decodeMajor18]
  have e : Instr.ldd (.ofNat 4 (w / 4194304)) (.ofNat 4 (w / 262144)) (.ofNat 12 (w / 64)) (.ofNat 4 (w / 1)) = .ldd d a o p := by
    rw [RoundTrip.ofNat_field d (w / 4194304) f22, RoundTrip.ofNat_field a (w / 262144) f18, RoundTrip.ofNat_field o (w / 64) f6, RoundTrip.ofNat_field p (w / 1) f0]
  rw [show fld w 4 2 = 0x003 from f4]
  exact congrArg Except.ok e

theorem RoundTrip.stb (s : BitVec 4) (a : BitVec 4) (o : BitVec 12) (p : BitVec 4) :
    RoundTrip.Statement (.stb s a o p) := by
  intro _
  obtain ⟨w, hw⟩ : ∃ w, w / 2 ^ 0 = p.toNat + 2 ^ 4 * (0x000 + 2 ^ 2 * (o.toNat + 2 ^ 12 * (a.toNat + 2 ^ 4 * (s.toNat + 2 ^ 4 * (0x19 + 2 ^ 6 * 0))))) := ⟨_, Nat.div_one _⟩
  have he : encodeNat (.stb s a o p) = w := by
    rw [← Nat.div_one w]; refine Eq.trans ?_ hw.symm; show 0x64000000 + s.toNat * 4194304 + a.toNat * 262144 + o.toNat * 64 + p.toNat = _; omega
  have ⟨f0, r0⟩ := RoundTrip.peel (lo := 0) (n := 4) hw p.isLt
  have ⟨f4, r4⟩ := RoundTrip.peel (lo := 4) (n := 2) r0 (by decide)
  have ⟨f6, r6⟩ := RoundTrip.peel (lo := 6) (n := 12) r4 o.isLt
  have ⟨f18, r18⟩ := RoundTrip.peel (lo := 18) (n := 4) r6 a.isLt
  have ⟨f22, r22⟩ := RoundTrip.peel (lo := 22) (n := 4) r18 s.isLt
  have ⟨f26, r26⟩ := RoundTrip.peel (lo := 26) (n := 6) r22 (by decide)
  rw [RoundTrip.decode_encode _ _ he (by omega), RoundTrip.major19 (by rintro rfl; cases f26) f26, decodeMajor19]
  have e : Instr.stb (.ofNat 4 (w / 4194304)) (.ofNat 4 (w / 262144)) (.ofNat 12 (w / 64)) (.ofNat 4 (w / 1)) = .stb s a o p := by
    rw [RoundTrip.ofNat_field s (w / 4194304) f22, RoundTrip.ofNat_field a (w / 262144) f18, RoundTrip.ofNat_field o (w / 64) f6, RoundTrip.ofNat_field p (w / 1) f0]
  rw [show fld w 4 2 = 0x000 from f4]
  exact congrArg Except.ok e

theorem RoundTrip.sth (s : BitVec 4) (a : BitVec 4) (o : BitVec 12) (p : BitVec 4) :
    RoundTrip.Statement (.sth s a o p) := by
  intro _
  obtain ⟨w, hw⟩ : ∃ w, w / 2 ^ 0 = p.toNat + 2 ^ 4 * (0x001 + 2 ^ 2 * (o.toNat + 2 ^ 12 * (a.toNat + 2 ^ 4 * (s.toNat + 2 ^ 4 * (0x19 + 2 ^ 6 * 0))))) := ⟨_, Nat.div_one _⟩
  have he : encodeNat (.sth s a o p) = w := by
    rw [← Nat.div_one w]; refine Eq.trans ?_ hw.symm; show 0x64000010 + s.toNat * 4194304 + a.toNat * 262144 + o.toNat * 64 + p.toNat = _; omega
  have ⟨f0, r0⟩ := RoundTrip.peel (lo := 0) (n := 4) hw p.isLt
  have ⟨f4, r4⟩ := RoundTrip.peel (lo := 4) (n := 2) r0 (by decide)
  have ⟨f6, r6⟩ := RoundTrip.peel (lo := 6) (n := 12) r4 o.isLt
  have ⟨f18, r18⟩ := RoundTrip.peel (lo := 18) (n := 4) r6 a.isLt
  have ⟨f22, r22⟩ := RoundTrip.peel (lo := 22) (n := 4) r18 s.isLt
  have ⟨f26, r26⟩ := RoundTrip.peel (lo := 26) (n := 6) r22 (by decide)
  rw [RoundTrip.decode_encode _ _ he (by omega), RoundTrip.major19 (by rintro rfl; cases f26) f26, decodeMajor19]
  have e : Instr.sth (.ofNat 4 (w / 4194304)) (.ofNat 4 (w / 262144)) (.ofNat 12 (w / 64)) (.ofNat 4 (w / 1)) = .sth s a o p := by
    rw [RoundTrip.ofNat_field s (w / 4194304) f22, RoundTrip.ofNat_field a (w / 262144) f18, RoundTrip.ofNat_field o (w / 64) f6, RoundTrip.ofNat_field p (w / 1) f0]
  rw [show fld w 4 2 = 0x001 from f4]
  exact congrArg Except.ok e

theorem RoundTrip.stw (s : BitVec 4) (a : BitVec 4) (o : BitVec 12) (p : BitVec 4) :
    RoundTrip.Statement (.stw s a o p) := by
  intro _
  obtain ⟨w, hw⟩ : ∃ w, w / 2 ^ 0 = p.toNat + 2 ^ 4 * (0x002 + 2 ^ 2 * (o.toNat + 2 ^ 12 * (a.toNat + 2 ^ 4 * (s.toNat + 2 ^ 4 * (0x19 + 2 ^ 6 * 0))))) := ⟨_, Nat.div_one _⟩
  have he : encodeNat (.stw s a o p) = w := by
    rw [← Nat.div_one w]; refine Eq.trans ?_ hw.symm; show 0x64000020 + s.toNat * 4194304 + a.toNat * 262144 + o.toNat * 64 + p.toNat = _; omega
  have ⟨f0, r0⟩ := RoundTrip.peel (lo := 0) (n := 4) hw p.isLt
  have ⟨f4, r4⟩ := RoundTrip.peel (lo := 4) (n := 2) r0 (by decide)
  have ⟨f6, r6⟩ := RoundTrip.peel (lo := 6) (n := 12) r4 o.isLt
  have ⟨f18, r18⟩ := RoundTrip.peel (lo := 18) (n := 4) r6 a.isLt
  have ⟨f22, r22⟩ := RoundTrip.peel (lo := 22) (n := 4) r18 s.isLt
  have ⟨f26, r26⟩ := RoundTrip.peel (lo := 26) (n := 6) r22 (by decide)
  rw [RoundTrip.decode_encode _ _ he (by omega), RoundTrip.major19 (by rintro rfl; cases f26) f26, decodeMajor19]
  have e : Instr.stw (.ofNat 4 (w / 4194304)) (.ofNat 4 (w / 262144)) (.ofNat 12 (w / 64)) (.ofNat 4 (w / 1)) = .stw s a o p := by
    rw [RoundTrip.ofNat_field s (w / 4194304) f22, RoundTrip.ofNat_field a (w / 262144) f18, RoundTrip.ofNat_field o (w / 64) f6, RoundTrip.ofNat_field p (w / 1) f0]
  rw [show fld w 4 2 = 0x002 from f4]
  exact congrArg Except.ok e

theorem RoundTrip.std (s : BitVec 4) (a : BitVec 4) (o : BitVec 12) (p : BitVec 4) :
    RoundTrip.Statement (.std s a o p) := by
  intro _
  obtain ⟨w, hw⟩ : ∃ w, w / 2 ^ 0 = p.toNat + 2 ^ 4 * (0x003 + 2 ^ 2 * (o.toNat + 2 ^ 12 * (a.toNat + 2 ^ 4 * (s.toNat + 2 ^ 4 * (0x19 + 2 ^ 6 * 0))))) := ⟨_, Nat.div_one _⟩
  have he : encodeNat (.std s a o p) = w := by
    rw [← Nat.div_one w]; refine Eq.trans ?_ hw.symm; show 0x64000030 + s.toNat * 4194304 + a.toNat * 262144 + o.toNat * 64 + p.toNat = _; omega
  have ⟨f0, r0⟩ := RoundTrip.peel (lo := 0) (n := 4) hw p.isLt
  have ⟨f4, r4⟩ := RoundTrip.peel (lo := 4) (n := 2) r0 (by decide)
  have ⟨f6, r6⟩ := RoundTrip.peel (lo := 6) (n := 12) r4 o.isLt
  have ⟨f18, r18⟩ := RoundTrip.peel (lo := 18) (n := 4) r6 a.isLt
  have ⟨f22, r22⟩ := RoundTrip.peel (lo := 22) (n := 4) r18 s.isLt
  have ⟨f26, r26⟩ := RoundTrip.peel (lo := 26) (n := 6) r22 (by decide)
  rw [RoundTrip.decode_encode _ _ he (by omega), RoundTrip.major19 (by rintro rfl; cases f26) f26, decodeMajor19]
  have e : Instr.std (.ofNat 4 (w / 4194304)) (.ofNat 4 (w / 262144)) (.ofNat 12 (w / 64)) (.ofNat 4 (w / 1)) = .std s a o p := by
    rw [RoundTrip.ofNat_field s (w / 4194304) f22, RoundTrip.ofNat_field a (w / 262144) f18, RoundTrip.ofNat_field o (w / 64) f6, RoundTrip.ofNat_field p (w / 1) f0]
  rw [show fld w 4 2 = 0x003 from f4]
  exact congrArg Except.ok e

theorem RoundTrip.ldm (d : BitVec 4) (a : BitVec 4) (b : BitVec 4) (p : BitVec 4) :
    RoundTrip.Statement (.ldm d a b p) := by
  intro _
  obtain ⟨w, hw⟩ : ∃ w, w / 2 ^ 0 = p.toNat + 2 ^ 4 * (0x000 + 2 ^ 10 * (b.toNat + 2 ^ 4 * (a.toNat + 2 ^ 4 * (d.toNat + 2 ^ 4 * (0x1A + 2 ^ 6 * 0))))) := ⟨_, Nat.div_one _⟩
  have he : encodeNat (.ldm d a b p) = w := by
    rw [← Nat.div_one w]; refine Eq.trans ?_ hw.symm; show 0x68000000 + d.toNat * 4194304 + a.toNat * 262144 + b.toNat * 16384 + p.toNat = _; omega
  have ⟨f0, r0⟩ := RoundTrip.peel (lo := 0) (n := 4) hw p.isLt
  have ⟨f4, r4⟩ := RoundTrip.peel (lo := 4) (n := 10) r0 (by decide)
  have ⟨f14, r14⟩ := RoundTrip.peel (lo := 14) (n := 4) r4 b.isLt
  have ⟨f18, r18⟩ := RoundTrip.peel (lo := 18) (n := 4) r14 a.isLt
  have ⟨f22, r22⟩ := RoundTrip.peel (lo := 22) (n := 4) r18 d.isLt
  have ⟨f26, r26⟩ := RoundTrip.peel (lo := 26) (n := 6) r22 (by decide)
  rw [RoundTrip.decode_encode _ _ he (by omega), RoundTrip.major1A (by rintro rfl; cases f26) f26, decodeMajor1A]
  have e : Instr.ldm (.ofNat 4 (w / 4194304)) (.ofNat 4 (w / 262144)) (.ofNat 4 (w / 16384)) (.ofNat 4 (w / 1)) = .ldm d a b p := by
    rw [RoundTrip.ofNat_field d (w / 4194304) f22, RoundTrip.ofNat_field a (w / 262144) f18, RoundTrip.ofNat_field b (w / 16384) f14, RoundTrip.ofNat_field p (w / 1) f0]
  rw [show fld w 4 10 = 0x000 from f4]
  exact congrArg Except.ok e

theorem RoundTrip.stm (d : BitVec 4) (a : BitVec 4) (b : BitVec 4) (p : BitVec 4) :
    RoundTrip.Statement (.stm d a b p) := by
  intro _
  obtain ⟨w, hw⟩ : ∃ w, w / 2 ^ 0 = p.toNat + 2 ^ 4 * (0x001 + 2 ^ 10 * (b.toNat + 2 ^ 4 * (a.toNat + 2 ^ 4 * (d.toNat + 2 ^ 4 * (0x1A + 2 ^ 6 * 0))))) := ⟨_, Nat.div_one _⟩
  have he : encodeNat (.stm d a b p) = w := by
    rw [← Nat.div_one w]; refine Eq.trans ?_ hw.symm; show 0x68000010 + d.toNat * 4194304 + a.toNat * 262144 + b.toNat * 16384 + p.toNat = _; omega
  have ⟨f0, r0⟩ := RoundTrip.peel (lo := 0) (n := 4) hw p.isLt
  have ⟨f4, r4⟩ := RoundTrip.peel (lo := 4) (n := 10) r0 (by decide)
  have ⟨f14, r14⟩ := RoundTrip.peel (lo := 14) (n := 4) r4 b.isLt
  have ⟨f18, r18⟩ := RoundTrip.peel (lo := 18) (n := 4) r14 a.isLt
  have ⟨f22, r22⟩ := RoundTrip.peel (lo := 22) (n := 4) r18 d.isLt
  have ⟨f26, r26⟩ := RoundTrip.peel (lo := 26) (n := 6) r22 (by decide)
  rw [RoundTrip.decode_encode _ _ he (by omega), RoundTrip.major1A (by rintro rfl; cases f26) f26, decodeMajor1A]
  have e : Instr.stm (.ofNat 4 (w / 4194304)) (.ofNat 4 (w / 262144)) (.ofNat 4 (w / 16384)) (.ofNat 4 (w / 1)) = .stm d a b p := by
    rw [RoundTrip.ofNat_field d (w / 4194304) f22, RoundTrip.ofNat_field a (w / 262144) f18, RoundTrip.ofNat_field b (w / 16384) f14, RoundTrip.ofNat_field p (w / 1) f0]
  rw [show fld w 4 10 = 0x001 from f4]
  exact congrArg Except.ok e

theorem RoundTrip.ldb (d : BitVec 4) (a : BitVec 4) (b : BitVec 4) (p : BitVec 4) :
    RoundTrip.Statement (.ldb d a b p) := by
  intro _
  obtain ⟨w, hw⟩ : ∃ w, w / 2 ^ 0 = p.toNat + 2 ^ 4 * (0x010 + 2 ^ 10 * (b.toNat + 2 ^ 4 * (a.toNat + 2 ^ 4 * (d.toNat + 2 ^ 4 * (0x1A + 2 ^ 6 * 0))))) := ⟨_, Nat.div_one _⟩
  have he : encodeNat (.ldb d a b p) = w := by
    rw [← Nat.div_one w]; refine Eq.trans ?_ hw.symm; show 0x68000100 + d.toNat * 4194304 + a.toNat * 262144 + b.toNat * 16384 + p.toNat = _; omega
  have ⟨f0, r0⟩ := RoundTrip.peel (lo := 0) (n := 4) hw p.isLt
  have ⟨f4, r4⟩ := RoundTrip.peel (lo := 4) (n := 10) r0 (by decide)
  have ⟨f14, r14⟩ := RoundTrip.peel (lo := 14) (n := 4) r4 b.isLt
  have ⟨f18, r18⟩ := RoundTrip.peel (lo := 18) (n := 4) r14 a.isLt
  have ⟨f22, r22⟩ := RoundTrip.peel (lo := 22) (n := 4) r18 d.isLt
  have ⟨f26, r26⟩ := RoundTrip.peel (lo := 26) (n := 6) r22 (by decide)
  rw [RoundTrip.decode_encode _ _ he (by omega), RoundTrip.major1A (by rintro rfl; cases f26) f26, decodeMajor1A]
  have e : Instr.ldb (.ofNat 4 (w / 4194304)) (.ofNat 4 (w / 262144)) (.ofNat 4 (w / 16384)) (.ofNat 4 (w / 1)) = .ldb d a b p := by
    rw [RoundTrip.ofNat_field d (w / 4194304) f22, RoundTrip.ofNat_field a (w / 262144) f18, RoundTrip.ofNat_field b (w / 16384) f14, RoundTrip.ofNat_field p (w / 1) f0]
  rw [show fld w 4 10 = 0x010 from f4]
  exact congrArg Except.ok e

theorem RoundTrip.ldh (d : BitVec 4) (a : BitVec 4) (b : BitVec 4) (p : BitVec 4) :
    RoundTrip.Statement (.ldh d a b p) := by
  intro _
  obtain ⟨w, hw⟩ : ∃ w, w / 2 ^ 0 = p.toNat + 2 ^ 4 * (0x011 + 2 ^ 10 * (b.toNat + 2 ^ 4 * (a.toNat + 2 ^ 4 * (d.toNat + 2 ^ 4 * (0x1A + 2 ^ 6 * 0))))) := ⟨_, Nat.div_one _⟩
  have he : encodeNat (.ldh d a b p) = w := by
    rw [← Nat.div_one w]; refine Eq.trans ?_ hw.symm; show 0x68000110 + d.toNat * 4194304 + a.toNat * 262144 + b.toNat * 16384 + p.toNat = _; omega
  have ⟨f0, r0⟩ := RoundTrip.peel (lo := 0) (n := 4) hw p.isLt
  have ⟨f4, r4⟩ := RoundTrip.peel (lo := 4) (n := 10) r0 (by decide)
  have ⟨f14, r14⟩ := RoundTrip.peel (lo := 14) (n := 4) r4 b.isLt
  have ⟨f18, r18⟩ := RoundTrip.peel (lo := 18) (n := 4) r14 a.isLt
  have ⟨f22, r22⟩ := RoundTrip.peel (lo := 22) (n := 4) r18 d.isLt
  have ⟨f26, r26⟩ := RoundTrip.peel (lo := 26) (n := 6) r22 (by decide)
  rw [RoundTrip.decode_encode _ _ he (by omega), RoundTrip.major1A (by rintro rfl; cases f26) f26, decodeMajor1A]
  have e : Instr.ldh (.ofNat 4 (w / 4194304)) (.ofNat 4 (w / 262144)) (.ofNat 4 (w / 16384)) (.ofNat 4 (w / 1)) = .ldh d a b p := by
    rw [RoundTrip.ofNat_field d (w / 4194304) f22, RoundTrip.ofNat_field a (w / 262144) f18, RoundTrip.ofNat_field b (w / 16384) f14, RoundTrip.ofNat_field p (w / 1) f0]
  rw [show fld w 4 10 = 0x011 from f4]
  exact congrArg Except.ok e

theorem RoundTrip.ldw (d : BitVec 4) (a : BitVec 4) (b : BitVec 4) (p : BitVec 4) :
    RoundTrip.Statement (.ldw d a b p) := by
  intro _
  obtain ⟨w, hw⟩ : ∃ w, w / 2 ^ 0 = p.toNat + 2 ^ 4 * (0x012 + 2 ^ 10 * (b.toNat + 2 ^ 4 * (a.toNat + 2 ^ 4 * (d.toNat + 2 ^ 4 * (0x1A + 2 ^ 6 * 0))))) := ⟨_, Nat.div_one _⟩
  have he : encodeNat (.ldw d a b p) = w := by
    rw [← Nat.div_one w]; refine Eq.trans ?_ hw.symm; show 0x68000120 + d.toNat * 4194304 + a.toNat * 262144 + b.toNat * 16384 + p.toNat = _; omega
  have ⟨f0, r0⟩ := RoundTrip.peel (lo := 0) (n := 4) hw p.isLt
  have ⟨f4, r4⟩ := RoundTrip.peel (lo := 4) (n := 10) r0 (by decide)
  have ⟨f14, r14⟩ := RoundTrip.peel (lo := 14) (n := 4) r4 b.isLt
  have ⟨f18, r18⟩ := RoundTrip.peel (lo := 18) (n := 4) r14 a.isLt
  have ⟨f22, r22⟩ := RoundTrip.peel (lo := 22) (n := 4) r18 d.isLt
  have ⟨f26, r26⟩ := RoundTrip.peel (lo := 26) (n := 6) r22 (by decide)
  rw [RoundTrip.decode_encode _ _ he (by omega), RoundTrip.major1A (by rintro rfl; cases f26) f26, decodeMajor1A]
  have e : Instr.ldw (.ofNat 4 (w / 4194304)) (.ofNat 4 (w / 262144)) (.ofNat 4 (w / 16384)) (.ofNat 4 (w / 1)) = .ldw d a b p := by
    rw [RoundTrip.ofNat_field d (w / 4194304) f22, RoundTrip.ofNat_field a (w / 262144) f18, RoundTrip.ofNat_field b (w / 16384) f14, RoundTrip.ofNat_field p (w / 1) f0]
  rw [show fld w 4 10 = 0x012 from f4]
  exact congrArg Except.ok e

theorem RoundTrip.ldbAcq (d : BitVec 4) (a : BitVec 4) (b : BitVec 4) (p : BitVec 4) :
    RoundTrip.Statement (.ldbAcq d a b p) := by
  intro _
  obtain ⟨w, hw⟩ : ∃ w, w / 2 ^ 0 = p.toNat + 2 ^ 4 * (0x020 + 2 ^ 10 * (b.toNat + 2 ^ 4 * (a.toNat + 2 ^ 4 * (d.toNat + 2 ^ 4 * (0x1A + 2 ^ 6 * 0))))) := ⟨_, Nat.div_one _⟩
  have he : encodeNat (.ldbAcq d a b p) = w := by
    rw [← Nat.div_one w]; refine Eq.trans ?_ hw.symm; show 0x68000200 + d.toNat * 4194304 + a.toNat * 262144 + b.toNat * 16384 + p.toNat = _; omega
  have ⟨f0, r0⟩ := RoundTrip.peel (lo := 0) (n := 4) hw p.isLt
  have ⟨f4, r4⟩ := RoundTrip.peel (lo := 4) (n := 10) r0 (by decide)
  have ⟨f14, r14⟩ := RoundTrip.peel (lo := 14) (n := 4) r4 b.isLt
  have ⟨f18, r18⟩ := RoundTrip.peel (lo := 18) (n := 4) r14 a.isLt
  have ⟨f22, r22⟩ := RoundTrip.peel (lo := 22) (n := 4) r18 d.isLt
  have ⟨f26, r26⟩ := RoundTrip.peel (lo := 26) (n := 6) r22 (by decide)
  rw [RoundTrip.decode_encode _ _ he (by omega), RoundTrip.major1A (by rintro rfl; cases f26) f26, decodeMajor1A]
  have e : Instr.ldbAcq (.ofNat 4 (w / 4194304)) (.ofNat 4 (w / 262144)) (.ofNat 4 (w / 16384)) (.ofNat 4 (w / 1)) = .ldbAcq d a b p := by
    rw [RoundTrip.ofNat_field d (w / 4194304) f22, RoundTrip.ofNat_field a (w / 262144) f18, RoundTrip.ofNat_field b (w / 16384) f14, RoundTrip.ofNat_field p (w / 1) f0]
  rw [show fld w 4 10 = 0x020 from f4]
  exact congrArg Except.ok e

theorem RoundTrip.ldhAcq (d : BitVec 4) (a : BitVec 4) (b : BitVec 4) (p : BitVec 4) :
    RoundTrip.Statement (.ldhAcq d a b p) := by
  intro _
  obtain ⟨w, hw⟩ : ∃ w, w / 2 ^ 0 = p.toNat + 2 ^ 4 * (0x021 + 2 ^ 10 * (b.toNat + 2 ^ 4 * (a.toNat + 2 ^ 4 * (d.toNat + 2 ^ 4 * (0x1A + 2 ^ 6 * 0))))) := ⟨_, Nat.div_one _⟩
  have he : encodeNat (.ldhAcq d a b p) = w := by
    rw [← Nat.div_one w]; refine Eq.trans ?_ hw.symm; show 0x68000210 + d.toNat * 4194304 + a.toNat * 262144 + b.toNat * 16384 + p.toNat = _; omega
  have ⟨f0, r0⟩ := RoundTrip.peel (lo := 0) (n := 4) hw p.isLt
  have ⟨f4, r4⟩ := RoundTrip.peel (lo := 4) (n := 10) r0 (by decide)
  have ⟨f14, r14⟩ := RoundTrip.peel (lo := 14) (n := 4) r4 b.isLt
  have ⟨f18, r18⟩ := RoundTrip.peel (lo := 18) (n := 4) r14 a.isLt
  have ⟨f22, r22⟩ := RoundTrip.peel (lo := 22) (n := 4) r18 d.isLt
  have ⟨f26, r26⟩ := RoundTrip.peel (lo := 26) (n := 6) r22 (by decide)
  rw [RoundTrip.decode_encode _ _ he (by omega), RoundTrip.major1A (by rintro rfl; cases f26) f26, decodeMajor1A]
  have e : Instr.ldhAcq (.ofNat 4 (w / 4194304)) (.ofNat 4 (w / 262144)) (.ofNat 4 (w / 16384)) (.ofNat 4 (w / 1)) = .ldhAcq d a b p := by
    rw [RoundTrip.ofNat_field d (w / 4194304) f22, RoundTrip.ofNat_field a (w / 262144) f18, RoundTrip.ofNat_field b (w / 16384) f14, RoundTrip.ofNat_field p (w / 1) f0]
  rw [show fld w 4 10 = 0x021 from f4]
  exact congrArg Except.ok e

theorem RoundTrip.ldwAcq (d : BitVec 4) (a : BitVec 4) (b : BitVec 4) (p : BitVec 4) :
    RoundTrip.Statement (.ldwAcq d a b p) := by
  intro _
  obtain ⟨w, hw⟩ : ∃ w, w / 2 ^ 0 = p.toNat + 2 ^ 4 * (0x022 + 2 ^ 10 * (b.toNat + 2 ^ 4 * (a.toNat + 2 ^ 4 * (d.toNat + 2 ^ 4 * (0x1A + 2 ^ 6 * 0))))) := ⟨_, Nat.div_one _⟩
  have he : encodeNat (.ldwAcq d a b p) = w := by
    rw [← Nat.div_one w]; refine Eq.trans ?_ hw.symm; show 0x68000220 + d.toNat * 4194304 + a.toNat * 262144 + b.toNat * 16384 + p.toNat = _; omega
  have ⟨f0, r0⟩ := RoundTrip.peel (lo := 0) (n := 4) hw p.isLt
  have ⟨f4, r4⟩ := RoundTrip.peel (lo := 4) (n := 10) r0 (by decide)
  have ⟨f14, r14⟩ := RoundTrip.peel (lo := 14) (n := 4) r4 b.isLt
  have ⟨f18, r18⟩ := RoundTrip.peel (lo := 18) (n := 4) r14 a.isLt
  have ⟨f22, r22⟩ := RoundTrip.peel (lo := 22) (n := 4) r18 d.isLt
  have ⟨f26, r26⟩ := RoundTrip.peel (lo := 26) (n := 6) r22 (by decide)
  rw [RoundTrip.decode_encode _ _ he (by omega), RoundTrip.major1A (by rintro rfl; cases f26) f26, decodeMajor1A]
  have e : Instr.ldwAcq (.ofNat 4 (w / 4194304)) (.ofNat 4 (w / 262144)) (.ofNat 4 (w / 16384)) (.ofNat 4 (w / 1)) = .ldwAcq d a b p := by
    rw [RoundTrip.ofNat_field d (w / 4194304) f22, RoundTrip.ofNat_field a (w / 262144) f18, RoundTrip.ofNat_field b (w / 16384) f14, RoundTrip.ofNat_field p (w / 1) f0]
  rw [show fld w 4 10 = 0x022 from f4]
  exact congrArg Except.ok e

theorem RoundTrip.lddAcq (d : BitVec 4) (a : BitVec 4) (b : BitVec 4) (p : BitVec 4) :
    RoundTrip.Statement (.lddAcq d a b p) := by
  intro _
  obtain ⟨w, hw⟩ : ∃ w, w / 2 ^ 0 = p.toNat + 2 ^ 4 * (0x023 + 2 ^ 10 * (b.toNat + 2 ^ 4 * (a.toNat + 2 ^ 4 * (d.toNat + 2 ^ 4 * (0x1A + 2 ^ 6 * 0))))) := ⟨_, Nat.div_one _⟩
  have he : encodeNat (.lddAcq d a b p) = w := by
    rw [← Nat.div_one w]; refine Eq.trans ?_ hw.symm; show 0x68000230 + d.toNat * 4194304 + a.toNat * 262144 + b.toNat * 16384 + p.toNat = _; omega
  have ⟨f0, r0⟩ := RoundTrip.peel (lo := 0) (n := 4) hw p.isLt
  have ⟨f4, r4⟩ := RoundTrip.peel (lo := 4) (n := 10) r0 (by decide)
  have ⟨f14, r14⟩ := RoundTrip.peel (lo := 14) (n := 4) r4 b.isLt
  have ⟨f18, r18⟩ := RoundTrip.peel (lo := 18) (n := 4) r14 a.isLt
  have ⟨f22, r22⟩ := RoundTrip.peel (lo := 22) (n := 4) r18 d.isLt
  have ⟨f26, r26⟩ := RoundTrip.peel (lo := 26) (n := 6) r22 (by decide)
  rw [RoundTrip.decode_encode _ _ he (by omega), RoundTrip.major1A (by rintro rfl; cases f26) f26, decodeMajor1A]
  have e : Instr.lddAcq (.ofNat 4 (w / 4194304)) (.ofNat 4 (w / 262144)) (.ofNat 4 (w / 16384)) (.ofNat 4 (w / 1)) = .lddAcq d a b p := by
    rw [RoundTrip.ofNat_field d (w / 4194304) f22, RoundTrip.ofNat_field a (w / 262144) f18, RoundTrip.ofNat_field b (w / 16384) f14, RoundTrip.ofNat_field p (w / 1) f0]
  rw [show fld w 4 10 = 0x023 from f4]
  exact congrArg Except.ok e

theorem RoundTrip.ldbuAcq (d : BitVec 4) (a : BitVec 4) (b : BitVec 4) (p : BitVec 4) :
    RoundTrip.Statement (.ldbuAcq d a b p) := by
  intro _
  obtain ⟨w, hw⟩ : ∃ w, w / 2 ^ 0 = p.toNat + 2 ^ 4 * (0x024 + 2 ^ 10 * (b.toNat + 2 ^ 4 * (a.toNat + 2 ^ 4 * (d.toNat + 2 ^ 4 * (0x1A + 2 ^ 6 * 0))))) := ⟨_, Nat.div_one _⟩
  have he : encodeNat (.ldbuAcq d a b p) = w := by
    rw [← Nat.div_one w]; refine Eq.trans ?_ hw.symm; show 0x68000240 + d.toNat * 4194304 + a.toNat * 262144 + b.toNat * 16384 + p.toNat = _; omega
  have ⟨f0, r0⟩ := RoundTrip.peel (lo := 0) (n := 4) hw p.isLt
  have ⟨f4, r4⟩ := RoundTrip.peel (lo := 4) (n := 10) r0 (by decide)
  have ⟨f14, r14⟩ := RoundTrip.peel (lo := 14) (n := 4) r4 b.isLt
  have ⟨f18, r18⟩ := RoundTrip.peel (lo := 18) (n := 4) r14 a.isLt
  have ⟨f22, r22⟩ := RoundTrip.peel (lo := 22) (n := 4) r18 d.isLt
  have ⟨f26, r26⟩ := RoundTrip.peel (lo := 26) (n := 6) r22 (by decide)
  rw [RoundTrip.decode_encode _ _ he (by omega), RoundTrip.major1A (by rintro rfl; cases f26) f26, decodeMajor1A]
  have e : Instr.ldbuAcq (.ofNat 4 (w / 4194304)) (.ofNat 4 (w / 262144)) (.ofNat 4 (w / 16384)) (.ofNat 4 (w / 1)) = .ldbuAcq d a b p := by
    rw [RoundTrip.ofNat_field d (w / 4194304) f22, RoundTrip.ofNat_field a (w / 262144) f18, RoundTrip.ofNat_field b (w / 16384) f14, RoundTrip.ofNat_field p (w / 1) f0]
  rw [show fld w 4 10 = 0x024 from f4]
  exact congrArg Except.ok e

theorem RoundTrip.ldhuAcq (d : BitVec 4) (a : BitVec 4) (b : BitVec 4) (p : BitVec 4) :
    RoundTrip.Statement (.ldhuAcq d a b p) := by
  intro _
  obtain ⟨w, hw⟩ : ∃ w, w / 2 ^ 0 = p.toNat + 2 ^ 4 * (0x025 + 2 ^ 10 * (b.toNat + 2 ^ 4 * (a.toNat + 2 ^ 4 * (d.toNat + 2 ^ 4 * (0x1A + 2 ^ 6 * 0))))) := ⟨_, Nat.div_one _⟩
  have he : encodeNat (.ldhuAcq d a b p) = w := by
    rw [← Nat.div_one w]; refine Eq.trans ?_ hw.symm; show 0x68000250 + d.toNat * 4194304 + a.toNat * 262144 + b.toNat * 16384 + p.toNat = _; omega
  have ⟨f0, r0⟩ := RoundTrip.peel (lo := 0) (n := 4) hw p.isLt
  have ⟨f4, r4⟩ := RoundTrip.peel (lo := 4) (n := 10) r0 (by decide)
  have ⟨f14, r14⟩ := RoundTrip.peel (lo := 14) (n := 4) r4 b.isLt
  have ⟨f18, r18⟩ := RoundTrip.peel (lo := 18) (n := 4) r14 a.isLt
  have ⟨f22, r22⟩ := RoundTrip.peel (lo := 22) (n := 4) r18 d.isLt
  have ⟨f26, r26⟩ := RoundTrip.peel (lo := 26) (n := 6) r22 (by decide)
  rw [RoundTrip.decode_encode _ _ he (by omega), RoundTrip.major1A (by rintro rfl; cases f26) f26, decodeMajor1A]
  have e : Instr.ldhuAcq (.ofNat 4 (w / 4194304)) (.ofNat 4 (w / 262144)) (.ofNat 4 (w / 16384)) (.ofNat 4 (w / 1)) = .ldhuAcq d a b p := by
    rw [RoundTrip.ofNat_field d (w / 4194304) f22, RoundTrip.ofNat_field a (w / 262144) f18, RoundTrip.ofNat_field b (w / 16384) f14, RoundTrip.ofNat_field p (w / 1) f0]
  rw [show fld w 4 10 = 0x025 from f4]
  exact congrArg Except.ok e

theorem RoundTrip.ldwuAcq (d : BitVec 4) (a : BitVec 4) (b : BitVec 4) (p : BitVec 4) :
    RoundTrip.Statement (.ldwuAcq d a b p) := by
  intro _
  obtain ⟨w, hw⟩ : ∃ w, w / 2 ^ 0 = p.toNat + 2 ^ 4 * (0x026 + 2 ^ 10 * (b.toNat + 2 ^ 4 * (a.toNat + 2 ^ 4 * (d.toNat + 2 ^ 4 * (0x1A + 2 ^ 6 * 0))))) := ⟨_, Nat.div_one _⟩
  have he : encodeNat (.ldwuAcq d a b p) = w := by
    rw [← Nat.div_one w]; refine Eq.trans ?_ hw.symm; show 0x68000260 + d.toNat * 4194304 + a.toNat * 262144 + b.toNat * 16384 + p.toNat = _; omega
  have ⟨f0, r0⟩ := RoundTrip.peel (lo := 0) (n := 4) hw p.isLt
  have ⟨f4, r4⟩ := RoundTrip.peel (lo := 4) (n := 10) r0 (by decide)
  have ⟨f14, r14⟩ := RoundTrip.peel (lo := 14) (n := 4) r4 b.isLt
  have ⟨f18, r18⟩ := RoundTrip.peel (lo := 18) (n := 4) r14 a.isLt
  have ⟨f22, r22⟩ := RoundTrip.peel (lo := 22) (n := 4) r18 d.isLt
  have ⟨f26, r26⟩ := RoundTrip.peel (lo := 26) (n := 6) r22 (by decide)
  rw [RoundTrip.decode_encode _ _ he (by omega), RoundTrip.major1A (by rintro rfl; cases f26) f26, decodeMajor1A]
  have e : Instr.ldwuAcq (.ofNat 4 (w / 4194304)) (.ofNat 4 (w / 262144)) (.ofNat 4 (w / 16384)) (.ofNat 4 (w / 1)) = .ldwuAcq d a b p := by
    rw [RoundTrip.ofNat_field d (w / 4194304) f22, RoundTrip.ofNat_field a (w / 262144) f18, RoundTrip.ofNat_field b (w / 16384) f14, RoundTrip.ofNat_field p (w / 1) f0]
  rw [show fld w 4 10 = 0x026 from f4]
  exact congrArg Except.ok e

theorem RoundTrip.ldbSc (d : BitVec 4) (a : BitVec 4) (b : BitVec 4) (p : BitVec 4) :
    RoundTrip.Statement (.ldbSc d a b p) := by
  intro _
  obtain ⟨w, hw⟩ : ∃ w, w / 2 ^ 0 = p.toNat + 2 ^ 4 * (0x030 + 2 ^ 10 * (b.toNat + 2 ^ 4 * (a.toNat + 2 ^ 4 * (d.toNat + 2 ^ 4 * (0x1A + 2 ^ 6 * 0))))) := ⟨_, Nat.div_one _⟩
  have he : encodeNat (.ldbSc d a b p) = w := by
    rw [← Nat.div_one w]; refine Eq.trans ?_ hw.symm; show 0x68000300 + d.toNat * 4194304 + a.toNat * 262144 + b.toNat * 16384 + p.toNat = _; omega
  have ⟨f0, r0⟩ := RoundTrip.peel (lo := 0) (n := 4) hw p.isLt
  have ⟨f4, r4⟩ := RoundTrip.peel (lo := 4) (n := 10) r0 (by decide)
  have ⟨f14, r14⟩ := RoundTrip.peel (lo := 14) (n := 4) r4 b.isLt
  have ⟨f18, r18⟩ := RoundTrip.peel (lo := 18) (n := 4) r14 a.isLt
  have ⟨f22, r22⟩ := RoundTrip.peel (lo := 22) (n := 4) r18 d.isLt
  have ⟨f26, r26⟩ := RoundTrip.peel (lo := 26) (n := 6) r22 (by decide)
  rw [RoundTrip.decode_encode _ _ he (by omega), RoundTrip.major1A (by rintro rfl; cases f26) f26, decodeMajor1A]
  have e : Instr.ldbSc (.ofNat 4 (w / 4194304)) (.ofNat 4 (w / 262144)) (.ofNat 4 (w / 16384)) (.ofNat 4 (w / 1)) = .ldbSc d a b p := by
    rw [RoundTrip.ofNat_field d (w / 4194304) f22, RoundTrip.ofNat_field a (w / 262144) f18, RoundTrip.ofNat_field b (w / 16384) f14, RoundTrip.ofNat_field p (w / 1) f0]
  rw [show fld w 4 10 = 0x030 from f4]
  exact congrArg Except.ok e

theorem RoundTrip.ldhSc (d : BitVec 4) (a : BitVec 4) (b : BitVec 4) (p : BitVec 4) :
    RoundTrip.Statement (.ldhSc d a b p) := by
  intro _
  obtain ⟨w, hw⟩ : ∃ w, w / 2 ^ 0 = p.toNat + 2 ^ 4 * (0x031 + 2 ^ 10 * (b.toNat + 2 ^ 4 * (a.toNat + 2 ^ 4 * (d.toNat + 2 ^ 4 * (0x1A + 2 ^ 6 * 0))))) := ⟨_, Nat.div_one _⟩
  have he : encodeNat (.ldhSc d a b p) = w := by
    rw [← Nat.div_one w]; refine Eq.trans ?_ hw.symm; show 0x68000310 + d.toNat * 4194304 + a.toNat * 262144 + b.toNat * 16384 + p.toNat = _; omega
  have ⟨f0, r0⟩ := RoundTrip.peel (lo := 0) (n := 4) hw p.isLt
  have ⟨f4, r4⟩ := RoundTrip.peel (lo := 4) (n := 10) r0 (by decide)
  have ⟨f14, r14⟩ := RoundTrip.peel (lo := 14) (n := 4) r4 b.isLt
  have ⟨f18, r18⟩ := RoundTrip.peel (lo := 18) (n := 4) r14 a.isLt
  have ⟨f22, r22⟩ := RoundTrip.peel (lo := 22) (n := 4) r18 d.isLt
  have ⟨f26, r26⟩ := RoundTrip.peel (lo := 26) (n := 6) r22 (by decide)
  rw [RoundTrip.decode_encode _ _ he (by omega), RoundTrip.major1A (by rintro rfl; cases f26) f26, decodeMajor1A]
  have e : Instr.ldhSc (.ofNat 4 (w / 4194304)) (.ofNat 4 (w / 262144)) (.ofNat 4 (w / 16384)) (.ofNat 4 (w / 1)) = .ldhSc d a b p := by
    rw [RoundTrip.ofNat_field d (w / 4194304) f22, RoundTrip.ofNat_field a (w / 262144) f18, RoundTrip.ofNat_field b (w / 16384) f14, RoundTrip.ofNat_field p (w / 1) f0]
  rw [show fld w 4 10 = 0x031 from f4]
  exact congrArg Except.ok e

theorem RoundTrip.ldwSc (d : BitVec 4) (a : BitVec 4) (b : BitVec 4) (p : BitVec 4) :
    RoundTrip.Statement (.ldwSc d a b p) := by
  intro _
  obtain ⟨w, hw⟩ : ∃ w, w / 2 ^ 0 = p.toNat + 2 ^ 4 * (0x032 + 2 ^ 10 * (b.toNat + 2 ^ 4 * (a.toNat + 2 ^ 4 * (d.toNat + 2 ^ 4 * (0x1A + 2 ^ 6 * 0))))) := ⟨_, Nat.div_one _⟩
  have he : encodeNat (.ldwSc d a b p) = w := by
    rw [← Nat.div_one w]; refine Eq.trans ?_ hw.symm; show 0x68000320 + d.toNat * 4194304 + a.toNat * 262144 + b.toNat * 16384 + p.toNat = _; omega
  have ⟨f0, r0⟩ := RoundTrip.peel (lo := 0) (n := 4) hw p.isLt
  have ⟨f4, r4⟩ := RoundTrip.peel (lo := 4) (n := 10) r0 (by decide)
  have ⟨f14, r14⟩ := RoundTrip.peel (lo := 14) (n := 4) r4 b.isLt
  have ⟨f18, r18⟩ := RoundTrip.peel (lo := 18) (n := 4) r14 a.isLt
  have ⟨f22, r22⟩ := RoundTrip.peel (lo := 22) (n := 4) r18 d.isLt
  have ⟨f26, r26⟩ := RoundTrip.peel (lo := 26) (n := 6) r22 (by decide)
  rw [RoundTrip.decode_encode _ _ he (by omega), RoundTrip.major1A (by rintro rfl; cases f26) f26, decodeMajor1A]
  have e : Instr.ldwSc (.ofNat 4 (w / 4194304)) (.ofNat 4 (w / 262144)) (.ofNat 4 (w / 16384)) (.ofNat 4 (w / 1)) = .ldwSc d a b p := by
    rw [RoundTrip.ofNat_field d (w / 4194304) f22, RoundTrip.ofNat_field a (w / 262144) f18, RoundTrip.ofNat_field b (w / 16384) f14, RoundTrip.ofNat_field p (w / 1) f0]
  rw [show fld w 4 10 = 0x032 from f4]
  exact congrArg Except.ok e

theorem RoundTrip.lddSc (d : BitVec 4) (a : BitVec 4) (b : BitVec 4) (p : BitVec 4) :
    RoundTrip.Statement (.lddSc d a b p) := by
  intro _
  obtain ⟨w, hw⟩ : ∃ w, w / 2 ^ 0 = p.toNat + 2 ^ 4 * (0x033 + 2 ^ 10 * (b.toNat + 2 ^ 4 * (a.toNat + 2 ^ 4 * (d.toNat + 2 ^ 4 * (0x1A + 2 ^ 6 * 0))))) := ⟨_, Nat.div_one _⟩
  have he : encodeNat (.lddSc d a b p) = w := by
    rw [← Nat.div_one w]; refine Eq.trans ?_ hw.symm; show 0x68000330 + d.toNat * 4194304 + a.toNat * 262144 + b.toNat * 16384 + p.toNat = _; omega
  have ⟨f0, r0⟩ := RoundTrip.peel (lo := 0) (n := 4) hw p.isLt
  have ⟨f4, r4⟩ := RoundTrip.peel (lo := 4) (n := 10) r0 (by decide)
  have ⟨f14, r14⟩ := RoundTrip.peel (lo := 14) (n := 4) r4 b.isLt
  have ⟨f18, r18⟩ := RoundTrip.peel (lo := 18) (n := 4) r14 a.isLt
  have ⟨f22, r22⟩ := RoundTrip.peel (lo := 22) (n := 4) r18 d.isLt
  have ⟨f26, r26⟩ := RoundTrip.peel (lo := 26) (n := 6) r22 (by decide)
  rw [RoundTrip.decode_encode _ _ he (by omega), RoundTrip.major1A (by rintro rfl; cases f26) f26, decodeMajor1A]
  have e : Instr.lddSc (.ofNat 4 (w / 4194304)) (.ofNat 4 (w / 262144)) (.ofNat 4 (w / 16384)) (.ofNat 4 (w / 1)) = .lddSc d a b p := by
    rw [RoundTrip.ofNat_field d (w / 4194304) f22, RoundTrip.ofNat_field a (w / 262144) f18, RoundTrip.ofNat_field b (w / 16384) f14, RoundTrip.ofNat_field p (w / 1) f0]
  rw [show fld w 4 10 = 0x033 from f4]
  exact congrArg Except.ok e

theorem RoundTrip.ldbuSc (d : BitVec 4) (a : BitVec 4) (b : BitVec 4) (p : BitVec 4) :
    RoundTrip.Statement (.ldbuSc d a b p) := by
  intro _
  obtain ⟨w, hw⟩ : ∃ w, w / 2 ^ 0 = p.toNat + 2 ^ 4 * (0x034 + 2 ^ 10 * (b.toNat + 2 ^ 4 * (a.toNat + 2 ^ 4 * (d.toNat + 2 ^ 4 * (0x1A + 2 ^ 6 * 0))))) := ⟨_, Nat.div_one _⟩
  have he : encodeNat (.ldbuSc d a b p) = w := by
    rw [← Nat.div_one w]; refine Eq.trans ?_ hw.symm; show 0x68000340 + d.toNat * 4194304 + a.toNat * 262144 + b.toNat * 16384 + p.toNat = _; omega
  have ⟨f0, r0⟩ := RoundTrip.peel (lo := 0) (n := 4) hw p.isLt
  have ⟨f4, r4⟩ := RoundTrip.peel (lo := 4) (n := 10) r0 (by decide)
  have ⟨f14, r14⟩ := RoundTrip.peel (lo := 14) (n := 4) r4 b.isLt
  have ⟨f18, r18⟩ := RoundTrip.peel (lo := 18) (n := 4) r14 a.isLt
  have ⟨f22, r22⟩ := RoundTrip.peel (lo := 22) (n := 4) r18 d.isLt
  have ⟨f26, r26⟩ := RoundTrip.peel (lo := 26) (n := 6) r22 (by decide)
  rw [RoundTrip.decode_encode _ _ he (by omega), RoundTrip.major1A (by rintro rfl; cases f26) f26, decodeMajor1A]
  have e : Instr.ldbuSc (.ofNat 4 (w / 4194304)) (.ofNat 4 (w / 262144)) (.ofNat 4 (w / 16384)) (.ofNat 4 (w / 1)) = .ldbuSc d a b p := by
    rw [RoundTrip.ofNat_field d (w / 4194304) f22, RoundTrip.ofNat_field a (w / 262144) f18, RoundTrip.ofNat_field b (w / 16384) f14, RoundTrip.ofNat_field p (w / 1) f0]
  rw [show fld w 4 10 = 0x034 from f4]
  exact congrArg Except.ok e

theorem RoundTrip.ldhuSc (d : BitVec 4) (a : BitVec 4) (b : BitVec 4) (p : BitVec 4) :
    RoundTrip.Statement (.ldhuSc d a b p) := by
  intro _
  obtain ⟨w, hw⟩ : ∃ w, w / 2 ^ 0 = p.toNat + 2 ^ 4 * (0x035 + 2 ^ 10 * (b.toNat + 2 ^ 4 * (a.toNat + 2 ^ 4 * (d.toNat + 2 ^ 4 * (0x1A + 2 ^ 6 * 0))))) := ⟨_, Nat.div_one _⟩
  have he : encodeNat (.ldhuSc d a b p) = w := by
    rw [← Nat.div_one w]; refine Eq.trans ?_ hw.symm; show 0x68000350 + d.toNat * 4194304 + a.toNat * 262144 + b.toNat * 16384 + p.toNat = _; omega
  have ⟨f0, r0⟩ := RoundTrip.peel (lo := 0) (n := 4) hw p.isLt
  have ⟨f4, r4⟩ := RoundTrip.peel (lo := 4) (n := 10) r0 (by decide)
  have ⟨f14, r14⟩ := RoundTrip.peel (lo := 14) (n := 4) r4 b.isLt
  have ⟨f18, r18⟩ := RoundTrip.peel (lo := 18) (n := 4) r14 a.isLt
  have ⟨f22, r22⟩ := RoundTrip.peel (lo := 22) (n := 4) r18 d.isLt
  have ⟨f26, r26⟩ := RoundTrip.peel (lo := 26) (n := 6) r22 (by decide)
  rw [RoundTrip.decode_encode _ _ he (by omega), RoundTrip.major1A (by rintro rfl; cases f26) f26, decodeMajor1A]
  have e : Instr.ldhuSc (.ofNat 4 (w / 4194304)) (.ofNat 4 (w / 262144)) (.ofNat 4 (w / 16384)) (.ofNat 4 (w / 1)) = .ldhuSc d a b p := by
    rw [RoundTrip.ofNat_field d (w / 4194304) f22, RoundTrip.ofNat_field a (w / 262144) f18, RoundTrip.ofNat_field b (w / 16384) f14, RoundTrip.ofNat_field p (w / 1) f0]
  rw [show fld w 4 10 = 0x035 from f4]
  exact congrArg Except.ok e

theorem RoundTrip.ldwuSc (d : BitVec 4) (a : BitVec 4) (b : BitVec 4) (p : BitVec 4) :
    RoundTrip.Statement (.ldwuSc d a b p) := by
  intro _
  obtain ⟨w, hw⟩ : ∃ w, w / 2 ^ 0 = p.toNat + 2 ^ 4 * (0x036 + 2 ^ 10 * (b.toNat + 2 ^ 4 * (a.toNat + 2 ^ 4 * (d.toNat + 2 ^ 4 * (0x1A + 2 ^ 6 * 0))))) := ⟨_, Nat.div_one _⟩
  have he : encodeNat (.ldwuSc d a b p) = w := by
    rw [← Nat.div_one w]; refine Eq.trans ?_ hw.symm; show 0x68000360 + d.toNat * 4194304 + a.toNat * 262144 + b.toNat * 16384 + p.toNat = _; omega
  have ⟨f0, r0⟩ := RoundTrip.peel (lo := 0) (n := 4) hw p.isLt
  have ⟨f4, r4⟩ := RoundTrip.peel (lo := 4) (n := 10) r0 (by decide)
  have ⟨f14, r14⟩ := RoundTrip.peel (lo := 14) (n := 4) r4 b.isLt
  have ⟨f18, r18⟩ := RoundTrip.peel (lo := 18) (n := 4) r14 a.isLt
  have ⟨f22, r22⟩ := RoundTrip.peel (lo := 22) (n := 4) r18 d.isLt
  have ⟨f26, r26⟩ := RoundTrip.peel (lo := 26) (n := 6) r22 (by decide)
  rw [RoundTrip.decode_encode _ _ he (by omega), RoundTrip.major1A (by rintro rfl; cases f26) f26, decodeMajor1A]
  have e : Instr.ldwuSc (.ofNat 4 (w / 4194304)) (.ofNat 4 (w / 262144)) (.ofNat 4 (w / 16384)) (.ofNat 4 (w / 1)) = .ldwuSc d a b p := by
    rw [RoundTrip.ofNat_field d (w / 4194304) f22, RoundTrip.ofNat_field a (w / 262144) f18, RoundTrip.ofNat_field b (w / 16384) f14, RoundTrip.ofNat_field p (w / 1) f0]
  rw [show fld w 4 10 = 0x036 from f4]
  exact congrArg Except.ok e

theorem RoundTrip.stbRel (s : BitVec 4) (a : BitVec 4) (b : BitVec 4) (p : BitVec 4) :
    RoundTrip.Statement (.stbRel s a b p) := by
  intro _
  obtain ⟨w, hw⟩ : ∃ w, w / 2 ^ 0 = p.toNat + 2 ^ 4 * (0x040 + 2 ^ 10 * (b.toNat + 2 ^ 4 * (a.toNat + 2 ^ 4 * (s.toNat + 2 ^ 4 * (0x1A + 2 ^ 6 * 0))))) := ⟨_, Nat.div_one _⟩
  have he : encodeNat (.stbRel s a b p) = w := by
    rw [← Nat.div_one w]; refine Eq.trans ?_ hw.symm; show 0x68000400 + s.toNat * 4194304 + a.toNat * 262144 + b.toNat * 16384 + p.toNat = _; omega
  have ⟨f0, r0⟩ := RoundTrip.peel (lo := 0) (n := 4) hw p.isLt
  have ⟨f4, r4⟩ := RoundTrip.peel (lo := 4) (n := 10) r0 (by decide)
  have ⟨f14, r14⟩ := RoundTrip.peel (lo := 14) (n := 4) r4 b.isLt
  have ⟨f18, r18⟩ := RoundTrip.peel (lo := 18) (n := 4) r14 a.isLt
  have ⟨f22, r22⟩ := RoundTrip.peel (lo := 22) (n := 4) r18 s.isLt
  have ⟨f26, r26⟩ := RoundTrip.peel (lo := 26) (n := 6) r22 (by decide)
  rw [RoundTrip.decode_encode _ _ he (by omega), RoundTrip.major1A (by rintro rfl; cases f26) f26, decodeMajor1A]
  have e : Instr.stbRel (.ofNat 4 (w / 4194304)) (.ofNat 4 (w / 262144)) (.ofNat 4 (w / 16384)) (.ofNat 4 (w / 1)) = .stbRel s a b p := by
    rw [RoundTrip.ofNat_field s (w / 4194304) f22, RoundTrip.ofNat_field a (w / 262144) f18, RoundTrip.ofNat_field b (w / 16384) f14, RoundTrip.ofNat_field p (w / 1) f0]
  rw [show fld w 4 10 = 0x040 from f4]
  exact congrArg Except.ok e

theorem RoundTrip.sthRel (s : BitVec 4) (a : BitVec 4) (b : BitVec 4) (p : BitVec 4) :
    RoundTrip.Statement (.sthRel s a b p) := by
  intro _
  obtain ⟨w, hw⟩ : ∃ w, w / 2 ^ 0 = p.toNat + 2 ^ 4 * (0x041 + 2 ^ 10 * (b.toNat + 2 ^ 4 * (a.toNat + 2 ^ 4 * (s.toNat + 2 ^ 4 * (0x1A + 2 ^ 6 * 0))))) := ⟨_, Nat.div_one _⟩
  have he : encodeNat (.sthRel s a b p) = w := by
    rw [← Nat.div_one w]; refine Eq.trans ?_ hw.symm; show 0x68000410 + s.toNat * 4194304 + a.toNat * 262144 + b.toNat * 16384 + p.toNat = _; omega
  have ⟨f0, r0⟩ := RoundTrip.peel (lo := 0) (n := 4) hw p.isLt
  have ⟨f4, r4⟩ := RoundTrip.peel (lo := 4) (n := 10) r0 (by decide)
  have ⟨f14, r14⟩ := RoundTrip.peel (lo := 14) (n := 4) r4 b.isLt
  have ⟨f18, r18⟩ := RoundTrip.peel (lo := 18) (n := 4) r14 a.isLt
  have ⟨f22, r22⟩ := RoundTrip.peel (lo := 22) (n := 4) r18 s.isLt
  have ⟨f26, r26⟩ := RoundTrip.peel (lo := 26) (n := 6) r22 (by decide)
  rw [RoundTrip.decode_encode _ _ he (by omega), RoundTrip.major1A (by rintro rfl; cases f26) f26, decodeMajor1A]
  have e : Instr.sthRel (.ofNat 4 (w / 4194304)) (.ofNat 4 (w / 262144)) (.ofNat 4 (w / 16384)) (.ofNat 4 (w / 1)) = .sthRel s a b p := by
    rw [RoundTrip.ofNat_field s (w / 4194304) f22, RoundTrip.ofNat_field a (w / 262144) f18, RoundTrip.ofNat_field b (w / 16384) f14, RoundTrip.ofNat_field p (w / 1) f0]
  rw [show fld w 4 10 = 0x041 from f4]
  exact congrArg Except.ok e

theorem RoundTrip.stwRel (s : BitVec 4) (a : BitVec 4) (b : BitVec 4) (p : BitVec 4) :
    RoundTrip.Statement (.stwRel s a b p) := by
  intro _
  obtain ⟨w, hw⟩ : ∃ w, w / 2 ^ 0 = p.toNat + 2 ^ 4 * (0x042 + 2 ^ 10 * (b.toNat + 2 ^ 4 * (a.toNat + 2 ^ 4 * (s.toNat + 2 ^ 4 * (0x1A + 2 ^ 6 * 0))))) := ⟨_, Nat.div_one _⟩
  have he : encodeNat (.stwRel s a b p) = w := by
    rw [← Nat.div_one w]; refine Eq.trans ?_ hw.symm; show 0x68000420 + s.toNat * 4194304 + a.toNat * 262144 + b.toNat * 16384 + p.toNat = _; omega
  have ⟨f0, r0⟩ := RoundTrip.peel (lo := 0) (n := 4) hw p.isLt
  have ⟨f4, r4⟩ := RoundTrip.peel (lo := 4) (n := 10) r0 (by decide)
  have ⟨f14, r14⟩ := RoundTrip.peel (lo := 14) (n := 4) r4 b.isLt
  have ⟨f18, r18⟩ := RoundTrip.peel (lo := 18) (n := 4) r14 a.isLt
  have ⟨f22, r22⟩ := RoundTrip.peel (lo := 22) (n := 4) r18 s.isLt
  have ⟨f26, r26⟩ := RoundTrip.peel (lo := 26) (n := 6) r22 (by decide)
  rw [RoundTrip.decode_encode _ _ he (by omega), RoundTrip.major1A (by rintro rfl; cases f26) f26, decodeMajor1A]
  have e : Instr.stwRel (.ofNat 4 (w / 4194304)) (.ofNat 4 (w / 262144)) (.ofNat 4 (w / 16384)) (.ofNat 4 (w / 1)) = .stwRel s a b p := by
    rw [RoundTrip.ofNat_field s (w / 4194304) f22, RoundTrip.ofNat_field a (w / 262144) f18, RoundTrip.ofNat_field b (w / 16384) f14, RoundTrip.ofNat_field p (w / 1) f0]
  rw [show fld w 4 10 = 0x042 from f4]
  exact congrArg Except.ok e

theorem RoundTrip.stdRel (s : BitVec 4) (a : BitVec 4) (b : BitVec 4) (p : BitVec 4) :
    RoundTrip.Statement (.stdRel s a b p) := by
  intro _
  obtain ⟨w, hw⟩ : ∃ w, w / 2 ^ 0 = p.toNat + 2 ^ 4 * (0x043 + 2 ^ 10 * (b.toNat + 2 ^ 4 * (a.toNat + 2 ^ 4 * (s.toNat + 2 ^ 4 * (0x1A + 2 ^ 6 * 0))))) := ⟨_, Nat.div_one _⟩
  have he : encodeNat (.stdRel s a b p) = w := by
    rw [← Nat.div_one w]; refine Eq.trans ?_ hw.symm; show 0x68000430 + s.toNat * 4194304 + a.toNat * 262144 + b.toNat * 16384 + p.toNat = _; omega
  have ⟨f0, r0⟩ := RoundTrip.peel (lo := 0) (n := 4) hw p.isLt
  have ⟨f4, r4⟩ := RoundTrip.peel (lo := 4) (n := 10) r0 (by decide)
  have ⟨f14, r14⟩ := RoundTrip.peel (lo := 14) (n := 4) r4 b.isLt
  have ⟨f18, r18⟩ := RoundTrip.peel (lo := 18) (n := 4) r14 a.isLt
  have ⟨f22, r22⟩ := RoundTrip.peel (lo := 22) (n := 4) r18 s.isLt
  have ⟨f26, r26⟩ := RoundTrip.peel (lo := 26) (n := 6) r22 (by decide)
  rw [RoundTrip.decode_encode _ _ he (by omega), RoundTrip.major1A (by rintro rfl; cases f26) f26, decodeMajor1A]
  have e : Instr.stdRel (.ofNat 4 (w / 4194304)) (.ofNat 4 (w / 262144)) (.ofNat 4 (w / 16384)) (.ofNat 4 (w / 1)) = .stdRel s a b p := by
    rw [RoundTrip.ofNat_field s (w / 4194304) f22, RoundTrip.ofNat_field a (w / 262144) f18, RoundTrip.ofNat_field b (w / 16384) f14, RoundTrip.ofNat_field p (w / 1) f0]
  rw [show fld w 4 10 = 0x043 from f4]
  exact congrArg Except.ok e

theorem RoundTrip.stbSc (s : BitVec 4) (a : BitVec 4) (b : BitVec 4) (p : BitVec 4) :
    RoundTrip.Statement (.stbSc s a b p) := by
  intro _
  obtain ⟨w, hw⟩ : ∃ w, w / 2 ^ 0 = p.toNat + 2 ^ 4 * (0x050 + 2 ^ 10 * (b.toNat + 2 ^ 4 * (a.toNat + 2 ^ 4 * (s.toNat + 2 ^ 4 * (0x1A + 2 ^ 6 * 0))))) := ⟨_, Nat.div_one _⟩
  have he : encodeNat (.stbSc s a b p) = w := by
    rw [← Nat.div_one w]; refine Eq.trans ?_ hw.symm; show 0x68000500 + s.toNat * 4194304 + a.toNat * 262144 + b.toNat * 16384 + p.toNat = _; omega
  have ⟨f0, r0⟩ := RoundTrip.peel (lo := 0) (n := 4) hw p.isLt
  have ⟨f4, r4⟩ := RoundTrip.peel (lo := 4) (n := 10) r0 (by decide)
  have ⟨f14, r14⟩ := RoundTrip.peel (lo := 14) (n := 4) r4 b.isLt
  have ⟨f18, r18⟩ := RoundTrip.peel (lo := 18) (n := 4) r14 a.isLt
  have ⟨f22, r22⟩ := RoundTrip.peel (lo := 22) (n := 4) r18 s.isLt
  have ⟨f26, r26⟩ := RoundTrip.peel (lo := 26) (n := 6) r22 (by decide)
  rw [RoundTrip.decode_encode _ _ he (by omega), RoundTrip.major1A (by rintro rfl; cases f26) f26, decodeMajor1A]
  have e : Instr.stbSc (.ofNat 4 (w / 4194304)) (.ofNat 4 (w / 262144)) (.ofNat 4 (w / 16384)) (.ofNat 4 (w / 1)) = .stbSc s a b p := by
    rw [RoundTrip.ofNat_field s (w / 4194304) f22, RoundTrip.ofNat_field a (w / 262144) f18, RoundTrip.ofNat_field b (w / 16384) f14, RoundTrip.ofNat_field p (w / 1) f0]
  rw [show fld w 4 10 = 0x050 from f4]
  exact congrArg Except.ok e

theorem RoundTrip.sthSc (s : BitVec 4) (a : BitVec 4) (b : BitVec 4) (p : BitVec 4) :
    RoundTrip.Statement (.sthSc s a b p) := by
  intro _
  obtain ⟨w, hw⟩ : ∃ w, w / 2 ^ 0 = p.toNat + 2 ^ 4 * (0x051 + 2 ^ 10 * (b.toNat + 2 ^ 4 * (a.toNat + 2 ^ 4 * (s.toNat + 2 ^ 4 * (0x1A + 2 ^ 6 * 0))))) := ⟨_, Nat.div_one _⟩
  have he : encodeNat (.sthSc s a b p) = w := by
    rw [← Nat.div_one w]; refine Eq.trans ?_ hw.symm; show 0x68000510 + s.toNat * 4194304 + a.toNat * 262144 + b.toNat * 16384 + p.toNat = _; omega
  have ⟨f0, r0⟩ := RoundTrip.peel (lo := 0) (n := 4) hw p.isLt
  have ⟨f4, r4⟩ := RoundTrip.peel (lo := 4) (n := 10) r0 (by decide)
  have ⟨f14, r14⟩ := RoundTrip.peel (lo := 14) (n := 4) r4 b.isLt
  have ⟨f18, r18⟩ := RoundTrip.peel (lo := 18) (n := 4) r14 a.isLt
  have ⟨f22, r22⟩ := RoundTrip.peel (lo := 22) (n := 4) r18 s.isLt
  have ⟨f26, r26⟩ := RoundTrip.peel (lo := 26) (n := 6) r22 (by decide)
  rw [RoundTrip.decode_encode _ _ he (by omega), RoundTrip.major1A (by rintro rfl; cases f26) f26, decodeMajor1A]
  have e : Instr.sthSc (.ofNat 4 (w / 4194304)) (.ofNat 4 (w / 262144)) (.ofNat 4 (w / 16384)) (.ofNat 4 (w / 1)) = .sthSc s a b p := by
    rw [RoundTrip.ofNat_field s (w / 4194304) f22, RoundTrip.ofNat_field a (w / 262144) f18, RoundTrip.ofNat_field b (w / 16384) f14, RoundTrip.ofNat_field p (w / 1) f0]
  rw [show fld w 4 10 = 0x051 from f4]
  exact congrArg Except.ok e

theorem RoundTrip.stwSc (s : BitVec 4) (a : BitVec 4) (b : BitVec 4) (p : BitVec 4) :
    RoundTrip.Statement (.stwSc s a b p) := by
  intro _
  obtain ⟨w, hw⟩ : ∃ w, w / 2 ^ 0 = p.toNat + 2 ^ 4 * (0x052 + 2 ^ 10 * (b.toNat + 2 ^ 4 * (a.toNat + 2 ^ 4 * (s.toNat + 2 ^ 4 * (0x1A + 2 ^ 6 * 0))))) := ⟨_, Nat.div_one _⟩
  have he : encodeNat (.stwSc s a b p) = w := by
    rw [← Nat.div_one w]; refine Eq.trans ?_ hw.symm; show 0x68000520 + s.toNat * 4194304 + a.toNat * 262144 + b.toNat * 16384 + p.toNat = _; omega
  have ⟨f0, r0⟩ := RoundTrip.peel (lo := 0) (n := 4) hw p.isLt
  have ⟨f4, r4⟩ := RoundTrip.peel (lo := 4) (n := 10) r0 (by decide)
  have ⟨f14, r14⟩ := RoundTrip.peel (lo := 14) (n := 4) r4 b.isLt
  have ⟨f18, r18⟩ := RoundTrip.peel (lo := 18) (n := 4) r14 a.isLt
  have ⟨f22, r22⟩ := RoundTrip.peel (lo := 22) (n := 4) r18 s.isLt
  have ⟨f26, r26⟩ := RoundTrip.peel (lo := 26) (n := 6) r22 (by decide)
  rw [RoundTrip.decode_encode _ _ he (by omega), RoundTrip.major1A (by rintro rfl; cases f26) f26, decodeMajor1A]
  have e : Instr.stwSc (.ofNat 4 (w / 4194304)) (.ofNat 4 (w / 262144)) (.ofNat 4 (w / 16384)) (.ofNat 4 (w / 1)) = .stwSc s a b p := by
    rw [RoundTrip.ofNat_field s (w / 4194304) f22, RoundTrip.ofNat_field a (w / 262144) f18, RoundTrip.ofNat_field b (w / 16384) f14, RoundTrip.ofNat_field p (w / 1) f0]
  rw [show fld w 4 10 = 0x052 from f4]
  exact congrArg Except.ok e

theorem RoundTrip.stdSc (s : BitVec 4) (a : BitVec 4) (b : BitVec 4) (p : BitVec 4) :
    RoundTrip.Statement (.stdSc s a b p) := by
  intro _
  obtain ⟨w, hw⟩ : ∃ w, w / 2 ^ 0 = p.toNat + 2 ^ 4 * (0x053 + 2 ^ 10 * (b.toNat + 2 ^ 4 * (a.toNat + 2 ^ 4 * (s.toNat + 2 ^ 4 * (0x1A + 2 ^ 6 * 0))))) := ⟨_, Nat.div_one _⟩
  have he : encodeNat (.stdSc s a b p) = w := by
    rw [← Nat.div_one w]; refine Eq.trans ?_ hw.symm; show 0x68000530 + s.toNat * 4194304 + a.toNat * 262144 + b.toNat * 16384 + p.toNat = _; omega
  have ⟨f0, r0⟩ := RoundTrip.peel (lo := 0) (n := 4) hw p.isLt
  have ⟨f4, r4⟩ := RoundTrip.peel (lo := 4) (n := 10) r0 (by decide)
  have ⟨f14, r14⟩ := RoundTrip.peel (lo := 14) (n := 4) r4 b.isLt
  have ⟨f18, r18⟩ := RoundTrip.peel (lo := 18) (n := 4) r14 a.isLt
  have ⟨f22, r22⟩ := RoundTrip.peel (lo := 22) (n := 4) r18 s.isLt
  have ⟨f26, r26⟩ := RoundTrip.peel (lo := 26) (n := 6) r22 (by decide)
  rw [RoundTrip.decode_encode _ _ he (by omega), RoundTrip.major1A (by rintro rfl; cases f26) f26, decodeMajor1A]
  have e : Instr.stdSc (.ofNat 4 (w / 4194304)) (.ofNat 4 (w / 262144)) (.ofNat 4 (w / 16384)) (.ofNat 4 (w / 1)) = .stdSc s a b p := by
    rw [RoundTrip.ofNat_field s (w / 4194304) f22, RoundTrip.ofNat_field a (w / 262144) f18, RoundTrip.ofNat_field b (w / 16384) f14, RoundTrip.ofNat_field p (w / 1) f0]
  rw [show fld w 4 10 = 0x053 from f4]
  exact congrArg Except.ok e

theorem RoundTrip.vld (v : BitVec 3) (a : BitVec 4) (b : BitVec 4) (t : BitVec 3) (k : BitVec 2) (p : BitVec 4) :
    RoundTrip.Statement (.vld v a b t k p) := by
  intro _
  obtain ⟨w, hw⟩ : ∃ w, w / 2 ^ 0 = p.toNat + 2 ^ 4 * (0x000 + 2 ^ 5 * (k.toNat + 2 ^ 2 * (t.toNat + 2 ^ 3 * (b.toNat + 2 ^ 4 * (a.toNat + 2 ^ 4 * (v.toNat + 2 ^ 3 * (0 + 2 ^ 1 * (0x1B + 2 ^ 6 * 0)))))))) := ⟨_, Nat.div_one _⟩
  have he : encodeNat (.vld v a b t k p) = w := by
    rw [← Nat.div_one w]; refine Eq.trans ?_ hw.symm; show 0x6C000000 + v.toNat * 4194304 + a.toNat * 262144 + b.toNat * 16384 + t.toNat * 2048 + k.toNat * 512 + p.toNat = _; omega
  have ⟨f0, r0⟩ := RoundTrip.peel (lo := 0) (n := 4) hw p.isLt
  have ⟨f4, r4⟩ := RoundTrip.peel (lo := 4) (n := 5) r0 (by decide)
  have ⟨f9, r9⟩ := RoundTrip.peel (lo := 9) (n := 2) r4 k.isLt
  have ⟨f11, r11⟩ := RoundTrip.peel (lo := 11) (n := 3) r9 t.isLt
  have ⟨f14, r14⟩ := RoundTrip.peel (lo := 14) (n := 4) r11 b.isLt
  have ⟨f18, r18⟩ := RoundTrip.peel (lo := 18) (n := 4) r14 a.isLt
  have ⟨f22, r22⟩ := RoundTrip.peel (lo := 22) (n := 3) r18 v.isLt
  have ⟨f25, r25⟩ := RoundTrip.peel (lo := 25) (n := 1) r22 (by decide)
  have ⟨f26, r26⟩ := RoundTrip.peel (lo := 26) (n := 6) r25 (by decide)
  rw [RoundTrip.decode_encode _ _ he (by omega), RoundTrip.major1B (by rintro rfl; cases f26) f26, decodeMajor1B]
  have e : Instr.vld (.ofNat 3 (w / 4194304)) (.ofNat 4 (w / 262144)) (.ofNat 4 (w / 16384)) (.ofNat 3 (w / 2048)) (.ofNat 2 (w / 512)) (.ofNat 4 (w / 1)) = .vld v a b t k p := by
    rw [RoundTrip.ofNat_field v (w / 4194304) f22, RoundTrip.ofNat_field a (w / 262144) f18, RoundTrip.ofNat_field b (w / 16384) f14, RoundTrip.ofNat_field t (w / 2048) f11, RoundTrip.ofNat_field k (w / 512) f9, RoundTrip.ofNat_field p (w / 1) f0]
  rw [show fld w 4 5 = 0x000 from f4]
  exact (if_pos f25).trans (congrArg Except.ok e)

theorem RoundTrip.vst (v : BitVec 3) (a : BitVec 4) (b : BitVec 4) (t : BitVec 3) (k : BitVec 2) (p : BitVec 4) :
    RoundTrip.Statement (.vst v a b t k p) := by
  intro _
  obtain ⟨w, hw⟩ : ∃ w, w / 2 ^ 0 = p.toNat + 2 ^ 4 * (0x001 + 2 ^ 5 * (k.toNat + 2 ^ 2 * (t.toNat + 2 ^ 3 * (b.toNat + 2 ^ 4 * (a.toNat + 2 ^ 4 * (v.toNat + 2 ^ 3 * (0 + 2 ^ 1 * (0x1B + 2 ^ 6 * 0)))))))) := ⟨_, Nat.div_one _⟩
  have he : encodeNat (.vst v a b t k p) = w := by
    rw [← Nat.div_one w]; refine Eq.trans ?_ hw.symm; show 0x6C000010 + v.toNat * 4194304 + a.toNat * 262144 + b.toNat * 16384 + t.toNat * 2048 + k.toNat * 512 + p.toNat = _; omega
  have ⟨f0, r0⟩ := RoundTrip.peel (lo := 0) (n := 4) hw p.isLt
  have ⟨f4, r4⟩ := RoundTrip.peel (lo := 4) (n := 5) r0 (by decide)
  have ⟨f9, r9⟩ := RoundTrip.peel (lo := 9) (n := 2) r4 k.isLt
  have ⟨f11, r11⟩ := RoundTrip.peel (lo := 11) (n := 3) r9 t.isLt
  have ⟨f14, r14⟩ := RoundTrip.peel (lo := 14) (n := 4) r11 b.isLt
  have ⟨f18, r18⟩ := RoundTrip.peel (lo := 18) (n := 4) r14 a.isLt
  have ⟨f22, r22⟩ := RoundTrip.peel (lo := 22) (n := 3) r18 v.isLt
  have ⟨f25, r25⟩ := RoundTrip.peel (lo := 25) (n := 1) r22 (by decide)
  have ⟨f26, r26⟩ := RoundTrip.peel (lo := 26) (n := 6) r25 (by decide)
  rw [RoundTrip.decode_encode _ _ he (by omega), RoundTrip.major1B (by rintro rfl; cases f26) f26, decodeMajor1B]
  have e : Instr.vst (.ofNat 3 (w / 4194304)) (.ofNat 4 (w / 262144)) (.ofNat 4 (w / 16384)) (.ofNat 3 (w / 2048)) (.ofNat 2 (w / 512)) (.ofNat 4 (w / 1)) = .vst v a b t k p := by
    rw [RoundTrip.ofNat_field v (w / 4194304) f22, RoundTrip.ofNat_field a (w / 262144) f18, RoundTrip.ofNat_field b (w / 16384) f14, RoundTrip.ofNat_field t (w / 2048) f11, RoundTrip.ofNat_field k (w / 512) f9, RoundTrip.ofNat_field p (w / 1) f0]
  rw [show fld w 4 5 = 0x001 from f4]
  exact (if_pos f25).trans (congrArg Except.ok e)

theorem RoundTrip.vlds (v : BitVec 3) (a : BitVec 4) (b : BitVec 4) (t : BitVec 3) (k : BitVec 2) (p : BitVec 4) :
    RoundTrip.Statement (.vlds v a b t k p) := by
  intro _
  obtain ⟨w, hw⟩ : ∃ w, w / 2 ^ 0 = p.toNat + 2 ^ 4 * (0x002 + 2 ^ 5 * (k.toNat + 2 ^ 2 * (t.toNat + 2 ^ 3 * (b.toNat + 2 ^ 4 * (a.toNat + 2 ^ 4 * (v.toNat + 2 ^ 3 * (0 + 2 ^ 1 * (0x1B + 2 ^ 6 * 0)))))))) := ⟨_, Nat.div_one _⟩
  have he : encodeNat (.vlds v a b t k p) = w := by
    rw [← Nat.div_one w]; refine Eq.trans ?_ hw.symm; show 0x6C000020 + v.toNat * 4194304 + a.toNat * 262144 + b.toNat * 16384 + t.toNat * 2048 + k.toNat * 512 + p.toNat = _; omega
  have ⟨f0, r0⟩ := RoundTrip.peel (lo := 0) (n := 4) hw p.isLt
  have ⟨f4, r4⟩ := RoundTrip.peel (lo := 4) (n := 5) r0 (by decide)
  have ⟨f9, r9⟩ := RoundTrip.peel (lo := 9) (n := 2) r4 k.isLt
  have ⟨f11, r11⟩ := RoundTrip.peel (lo := 11) (n := 3) r9 t.isLt
  have ⟨f14, r14⟩ := RoundTrip.peel (lo := 14) (n := 4) r11 b.isLt
  have ⟨f18, r18⟩ := RoundTrip.peel (lo := 18) (n := 4) r14 a.isLt
  have ⟨f22, r22⟩ := RoundTrip.peel (lo := 22) (n := 3) r18 v.isLt
  have ⟨f25, r25⟩ := RoundTrip.peel (lo := 25) (n := 1) r22 (by decide)
  have ⟨f26, r26⟩ := RoundTrip.peel (lo := 26) (n := 6) r25 (by decide)
  rw [RoundTrip.decode_encode _ _ he (by omega), RoundTrip.major1B (by rintro rfl; cases f26) f26, decodeMajor1B]
  have e : Instr.vlds (.ofNat 3 (w / 4194304)) (.ofNat 4 (w / 262144)) (.ofNat 4 (w / 16384)) (.ofNat 3 (w / 2048)) (.ofNat 2 (w / 512)) (.ofNat 4 (w / 1)) = .vlds v a b t k p := by
    rw [RoundTrip.ofNat_field v (w / 4194304) f22, RoundTrip.ofNat_field a (w / 262144) f18, RoundTrip.ofNat_field b (w / 16384) f14, RoundTrip.ofNat_field t (w / 2048) f11, RoundTrip.ofNat_field k (w / 512) f9, RoundTrip.ofNat_field p (w / 1) f0]
  rw [show fld w 4 5 = 0x002 from f4]
  exact (if_pos f25).trans (congrArg Except.ok e)

theorem RoundTrip.vsts (v : BitVec 3) (a : BitVec 4) (b : BitVec 4) (t : BitVec 3) (k : BitVec 2) (p : BitVec 4) :
    RoundTrip.Statement (.vsts v a b t k p) := by
  intro _
  obtain ⟨w, hw⟩ : ∃ w, w / 2 ^ 0 = p.toNat + 2 ^ 4 * (0x003 + 2 ^ 5 * (k.toNat + 2 ^ 2 * (t.toNat + 2 ^ 3 * (b.toNat + 2 ^ 4 * (a.toNat + 2 ^ 4 * (v.toNat + 2 ^ 3 * (0 + 2 ^ 1 * (0x1B + 2 ^ 6 * 0)))))))) := ⟨_, Nat.div_one _⟩
  have he : encodeNat (.vsts v a b t k p) = w := by
    rw [← Nat.div_one w]; refine Eq.trans ?_ hw.symm; show 0x6C000030 + v.toNat * 4194304 + a.toNat * 262144 + b.toNat * 16384 + t.toNat * 2048 + k.toNat * 512 + p.toNat = _; omega
  have ⟨f0, r0⟩ := RoundTrip.peel (lo := 0) (n := 4) hw p.isLt
  have ⟨f4, r4⟩ := RoundTrip.peel (lo := 4) (n := 5) r0 (by decide)
  have ⟨f9, r9⟩ := RoundTrip.peel (lo := 9) (n := 2) r4 k.isLt
  have ⟨f11, r11⟩ := RoundTrip.peel (lo := 11) (n := 3) r9 t.isLt
  have ⟨f14, r14⟩ := RoundTrip.peel (lo := 14) (n := 4) r11 b.isLt
  have ⟨f18, r18⟩ := RoundTrip.peel (lo := 18) (n := 4) r14 a.isLt
  have ⟨f22, r22⟩ := RoundTrip.peel (lo := 22) (n := 3) r18 v.isLt
  have ⟨f25, r25⟩ := RoundTrip.peel (lo := 25) (n := 1) r22 (by decide)
  have ⟨f26, r26⟩ := RoundTrip.peel (lo := 26) (n := 6) r25 (by decide)
  rw [RoundTrip.decode_encode _ _ he (by omega), RoundTrip.major1B (by rintro rfl; cases f26) f26, decodeMajor1B]
  have e : Instr.vsts (.ofNat 3 (w / 4194304)) (.ofNat 4 (w / 262144)) (.ofNat 4 (w / 16384)) (.ofNat 3 (w / 2048)) (.ofNat 2 (w / 512)) (.ofNat 4 (w / 1)) = .vsts v a b t k p := by
    rw [RoundTrip.ofNat_field v (w / 4194304) f22, RoundTrip.ofNat_field a (w / 262144) f18, RoundTrip.ofNat_field b (w / 16384) f14, RoundTrip.ofNat_field t (w / 2048) f11, RoundTrip.ofNat_field k (w / 512) f9, RoundTrip.ofNat_field p (w / 1) f0]
  rw [show fld w 4 5 = 0x003 from f4]
  exact (if_pos f25).trans (congrArg Except.ok e)

theorem RoundTrip.vgath (v : BitVec 3) (a : BitVec 4) (i : BitVec 3) (t : BitVec 3) (k : BitVec 2) (p : BitVec 4) :
    RoundTrip.Statement (.vgath v a i t k p) := by
  intro _
  obtain ⟨w, hw⟩ : ∃ w, w / 2 ^ 0 = p.toNat + 2 ^ 4 * (0x000 + 2 ^ 5 * (k.toNat + 2 ^ 2 * (t.toNat + 2 ^ 3 * (i.toNat + 2 ^ 3 * (0 + 2 ^ 1 * (a.toNat + 2 ^ 4 * (v.toNat + 2 ^ 3 * (0 + 2 ^ 1 * (0x1C + 2 ^ 6 * 0))))))))) := ⟨_, Nat.div_one _⟩
  have he : encodeNat (.vgath v a i t k p) = w := by
    rw [← Nat.div_one w]; refine Eq.trans ?_ hw.symm; show 0x70000000 + v.toNat * 4194304 + a.toNat * 262144 + i.toNat * 16384 + t.toNat * 2048 + k.toNat * 512 + p.toNat = _; omega
  have ⟨f0, r0⟩ := RoundTrip.peel (lo := 0) (n := 4) hw p.isLt
  have ⟨f4, r4⟩ := RoundTrip.peel (lo := 4) (n := 5) r0 (by decide)
  have ⟨f9, r9⟩ := RoundTrip.peel (lo := 9) (n := 2) r4 k.isLt
  have ⟨f11, r11⟩ := RoundTrip.peel (lo := 11) (n := 3) r9 t.isLt
  have ⟨f14, r14⟩ := RoundTrip.peel (lo := 14) (n := 3) r11 i.isLt
  have ⟨f17, r17⟩ := RoundTrip.peel (lo := 17) (n := 1) r14 (by decide)
  have ⟨f18, r18⟩ := RoundTrip.peel (lo := 18) (n := 4) r17 a.isLt
  have ⟨f22, r22⟩ := RoundTrip.peel (lo := 22) (n := 3) r18 v.isLt
  have ⟨f25, r25⟩ := RoundTrip.peel (lo := 25) (n := 1) r22 (by decide)
  have ⟨f26, r26⟩ := RoundTrip.peel (lo := 26) (n := 6) r25 (by decide)
  rw [RoundTrip.decode_encode _ _ he (by omega), RoundTrip.major1C (by rintro rfl; cases f26) f26, decodeMajor1C]
  have e : Instr.vgath (.ofNat 3 (w / 4194304)) (.ofNat 4 (w / 262144)) (.ofNat 3 (w / 16384)) (.ofNat 3 (w / 2048)) (.ofNat 2 (w / 512)) (.ofNat 4 (w / 1)) = .vgath v a i t k p := by
    rw [RoundTrip.ofNat_field v (w / 4194304) f22, RoundTrip.ofNat_field a (w / 262144) f18, RoundTrip.ofNat_field i (w / 16384) f14, RoundTrip.ofNat_field t (w / 2048) f11, RoundTrip.ofNat_field k (w / 512) f9, RoundTrip.ofNat_field p (w / 1) f0]
  rw [show fld w 4 5 = 0x000 from f4]
  exact (if_pos ⟨f17, f25⟩).trans (congrArg Except.ok e)

theorem RoundTrip.vscat (v : BitVec 3) (a : BitVec 4) (i : BitVec 3) (t : BitVec 3) (k : BitVec 2) (p : BitVec 4) :
    RoundTrip.Statement (.vscat v a i t k p) := by
  intro _
  obtain ⟨w, hw⟩ : ∃ w, w / 2 ^ 0 = p.toNat + 2 ^ 4 * (0x001 + 2 ^ 5 * (k.toNat + 2 ^ 2 * (t.toNat + 2 ^ 3 * (i.toNat + 2 ^ 3 * (0 + 2 ^ 1 * (a.toNat + 2 ^ 4 * (v.toNat + 2 ^ 3 * (0 + 2 ^ 1 * (0x1C + 2 ^ 6 * 0))))))))) := ⟨_, Nat.div_one _⟩
  have he : encodeNat (.vscat v a i t k p) = w := by
    rw [← Nat.div_one w]; refine Eq.trans ?_ hw.symm; show 0x70000010 + v.toNat * 4194304 + a.toNat * 262144 + i.toNat * 16384 + t.toNat * 2048 + k.toNat * 512 + p.toNat = _; omega
  have ⟨f0, r0⟩ := RoundTrip.peel (lo := 0) (n := 4) hw p.isLt
  have ⟨f4, r4⟩ := RoundTrip.peel (lo := 4) (n := 5) r0 (by decide)
  have ⟨f9, r9⟩ := RoundTrip.peel (lo := 9) (n := 2) r4 k.isLt
  have ⟨f11, r11⟩ := RoundTrip.peel (lo := 11) (n := 3) r9 t.isLt
  have ⟨f14, r14⟩ := RoundTrip.peel (lo := 14) (n := 3) r11 i.isLt
  have ⟨f17, r17⟩ := RoundTrip.peel (lo := 17) (n := 1) r14 (by decide)
  have ⟨f18, r18⟩ := RoundTrip.peel (lo := 18) (n := 4) r17 a.isLt
  have ⟨f22, r22⟩ := RoundTrip.peel (lo := 22) (n := 3) r18 v.isLt
  have ⟨f25, r25⟩ := RoundTrip.peel (lo := 25) (n := 1) r22 (by decide)
  have ⟨f26, r26⟩ := RoundTrip.peel (lo := 26) (n := 6) r25 (by decide)
  rw [RoundTrip.decode_encode _ _ he (by omega), RoundTrip.major1C (by rintro rfl; cases f26) f26, decodeMajor1C]
  have e : Instr.vscat (.ofNat 3 (w / 4194304)) (.ofNat 4 (w / 262144)) (.ofNat 3 (w / 16384)) (.ofNat 3 (w / 2048)) (.ofNat 2 (w / 512)) (.ofNat 4 (w / 1)) = .vscat v a i t k p := by
    rw [RoundTrip.ofNat_field v (w / 4194304) f22, RoundTrip.ofNat_field a (w / 262144) f18, RoundTrip.ofNat_field i (w / 16384) f14, RoundTrip.ofNat_field t (w / 2048) f11, RoundTrip.ofNat_field k (w / 512) f9, RoundTrip.ofNat_field p (w / 1) f0]
  rw [show fld w 4 5 = 0x001 from f4]
  exact (if_pos ⟨f17, f25⟩).trans (congrArg Except.ok e)

theorem RoundTrip.pref (a : BitVec 4) (b : BitVec 3) (p : BitVec 4) :
    RoundTrip.Statement (.pref a b p) := by
  intro _
  obtain ⟨w, hw⟩ : ∃ w, w / 2 ^ 0 = p.toNat + 2 ^ 4 * (0x002 + 2 ^ 5 * (0 + 2 ^ 5 * (b.toNat + 2 ^ 3 * (0 + 2 ^ 1 * (a.toNat + 2 ^ 4 * (0 + 2 ^ 4 * (0x1C + 2 ^ 6 * 0))))))) := ⟨_, Nat.div_one _⟩
  have he : encodeNat (.pref a b p) = w := by
    rw [← Nat.div_one w]; refine Eq.trans ?_ hw.symm; show 0x70000020 + a.toNat * 262144 + b.toNat * 16384 + p.toNat = _; omega
  have ⟨f0, r0⟩ := RoundTrip.peel (lo := 0) (n := 4) hw p.isLt
  have ⟨f4, r4⟩ := RoundTrip.peel (lo := 4) (n := 5) r0 (by decide)
  have ⟨f9, r9⟩ := RoundTrip.peel (lo := 9) (n := 5) r4 (by decide)
  have ⟨f14, r14⟩ := RoundTrip.peel (lo := 14) (n := 3) r9 b.isLt
  have ⟨f17, r17⟩ := RoundTrip.peel (lo := 17) (n := 1) r14 (by decide)
  have ⟨f18, r18⟩ := RoundTrip.peel (lo := 18) (n := 4) r17 a.isLt
  have ⟨f22, r22⟩ := RoundTrip.peel (lo := 22) (n := 4) r18 (by decide)
  have ⟨f26, r26⟩ := RoundTrip.peel (lo := 26) (n := 6) r22 (by decide)
  rw [RoundTrip.decode_encode _ _ he (by omega), RoundTrip.major1C (by rintro rfl; cases f26) f26, decodeMajor1C]
  have e : Instr.pref (.ofNat 4 (w / 262144)) (.ofNat 3 (w / 16384)) (.ofNat 4 (w / 1)) = .pref a b p := by
    rw [RoundTrip.ofNat_field a (w / 262144) f18, RoundTrip.ofNat_field b (w / 16384) f14, RoundTrip.ofNat_field p (w / 1) f0]
  rw [show fld w 4 5 = 0x002 from f4]
  exact (if_pos ⟨f9, f17, f22⟩).trans (congrArg Except.ok e)

theorem RoundTrip.amoAdd (d : BitVec 4) (a : BitVec 4) (b : BitVec 4) (z : BitVec 1) (s : BitVec 1) (p : BitVec 4) :
    RoundTrip.Statement (.amoAdd d a b z s p) := by
  intro _
  obtain ⟨w, hw⟩ : ∃ w, w / 2 ^ 0 = p.toNat + 2 ^ 4 * (0x0 + 2 ^ 3 * (s.toNat + 2 ^ 1 * (z.toNat + 2 ^ 1 * (0x1 + 2 ^ 1 * (0 + 2 ^ 4 * (b.toNat + 2 ^ 4 * (a.toNat + 2 ^ 4 * (d.toNat + 2 ^ 4 * (0x1D + 2 ^ 6 * 0))))))))) := ⟨_, Nat.div_one _⟩
  have he : encodeNat (.amoAdd d a b z s p) = w := by
    rw [← Nat.div_one w]; refine Eq.trans ?_ hw.symm; show 0x74000200 + d.toNat * 4194304 + a.toNat * 262144 + b.toNat * 16384 + z.toNat * 256 + s.toNat * 128 + p.toNat = _; omega
  have ⟨f0, r0⟩ := RoundTrip.peel (lo := 0) (n := 4) hw p.isLt
  have ⟨f4, r4⟩ := RoundTrip.peel (lo := 4) (n := 3) r0 (by decide)
  have ⟨f7, r7⟩ := RoundTrip.peel (lo := 7) (n := 1) r4 s.isLt
  have ⟨f8, r8⟩ := RoundTrip.peel (lo := 8) (n := 1) r7 z.isLt
  have ⟨f9, r9⟩ := RoundTrip.peel (lo := 9) (n := 1) r8 (by decide)
  have ⟨f10, r10⟩ := RoundTrip.peel (lo := 10) (n := 4) r9 (by decide)
  have ⟨f14, r14⟩ := RoundTrip.peel (lo := 14) (n := 4) r10 b.isLt
  have ⟨f18, r18⟩ := RoundTrip.peel (lo := 18) (n := 4) r14 a.isLt
  have ⟨f22, r22⟩ := RoundTrip.peel (lo := 22) (n := 4) r18 d.isLt
  have ⟨f26, r26⟩ := RoundTrip.peel (lo := 26) (n := 6) r22 (by decide)
  rw [RoundTrip.decode_encode _ _ he (by omega), RoundTrip.major1D (by rintro rfl; cases f26) f26, decodeMajor1D]
  have e : Instr.amoAdd (.ofNat 4 (w / 4194304)) (.ofNat 4 (w / 262144)) (.ofNat 4 (w / 16384)) (.ofNat 1 (w / 256)) (.ofNat 1 (w / 128)) (.ofNat 4 (w / 1)) = .amoAdd d a b z s p := by
    rw [RoundTrip.ofNat_field d (w / 4194304) f22, RoundTrip.ofNat_field a (w / 262144) f18, RoundTrip.ofNat_field b (w / 16384) f14, RoundTrip.ofNat_field z (w / 256) f8, RoundTrip.ofNat_field s (w / 128) f7, RoundTrip.ofNat_field p (w / 1) f0]
  rcases (show fld w 4 6 = 0x020 ∨ fld w 4 6 = 0x028 ∨ fld w 4 6 = 0x030 ∨ fld w 4 6 = 0x038 by unfold fld; omega) with hs | hs | hs | hs <;>
    (rw [hs]; exact (if_pos f10).trans (congrArg Except.ok e))

theorem RoundTrip.amoMin (d : BitVec 4) (a : BitVec 4) (b : BitVec 4) (z : BitVec 1) (s : BitVec 1) (p : BitVec 4) :
    RoundTrip.Statement (.amoMin d a b z s p) := by
  intro _
  obtain ⟨w, hw⟩ : ∃ w, w / 2 ^ 0 = p.toNat + 2 ^ 4 * (0x1 + 2 ^ 3 * (s.toNat + 2 ^ 1 * (z.toNat + 2 ^ 1 * (0x1 + 2 ^ 1 * (0 + 2 ^ 4 * (b.toNat + 2 ^ 4 * (a.toNat + 2 ^ 4 * (d.toNat + 2 ^ 4 * (0x1D + 2 ^ 6 * 0))))))))) := ⟨_, Nat.div_one _⟩
  have he : encodeNat (.amoMin d a b z s p) = w := by
    rw [← Nat.div_one w]; refine Eq.trans ?_ hw.symm; show 0x74000210 + d.toNat * 4194304 + a.toNat * 262144 + b.toNat * 16384 + z.toNat * 256 + s.toNat * 128 + p.toNat = _; omega
  have ⟨f0, r0⟩ := RoundTrip.peel (lo := 0) (n := 4) hw p.isLt
  have ⟨f4, r4⟩ := RoundTrip.peel (lo := 4) (n := 3) r0 (by decide)
  have ⟨f7, r7⟩ := RoundTrip.peel (lo := 7) (n := 1) r4 s.isLt
  have ⟨f8, r8⟩ := RoundTrip.peel (lo := 8) (n := 1) r7 z.isLt
  have ⟨f9, r9⟩ := RoundTrip.peel (lo := 9) (n := 1) r8 (by decide)
  have ⟨f10, r10⟩ := RoundTrip.peel (lo := 10) (n := 4) r9 (by decide)
  have ⟨f14, r14⟩ := RoundTrip.peel (lo := 14) (n := 4) r10 b.isLt
  have ⟨f18, r18⟩ := RoundTrip.peel (lo := 18) (n := 4) r14 a.isLt
  have ⟨f22, r22⟩ := RoundTrip.peel (lo := 22) (n := 4) r18 d.isLt
  have ⟨f26, r26⟩ := RoundTrip.peel (lo := 26) (n := 6) r22 (by decide)
  rw [RoundTrip.decode_encode _ _ he (by omega), RoundTrip.major1D (by rintro rfl; cases f26) f26, decodeMajor1D]
  have e : Instr.amoMin (.ofNat 4 (w / 4194304)) (.ofNat 4 (w / 262144)) (.ofNat 4 (w / 16384)) (.ofNat 1 (w / 256)) (.ofNat 1 (w / 128)) (.ofNat 4 (w / 1)) = .amoMin d a b z s p := by
    rw [RoundTrip.ofNat_field d (w / 4194304) f22, RoundTrip.ofNat_field a (w / 262144) f18, RoundTrip.ofNat_field b (w / 16384) f14, RoundTrip.ofNat_field z (w / 256) f8, RoundTrip.ofNat_field s (w / 128) f7, RoundTrip.ofNat_field p (w / 1) f0]
  rcases (show fld w 4 6 = 0x021 ∨ fld w 4 6 = 0x029 ∨ fld w 4 6 = 0x031 ∨ fld w 4 6 = 0x039 by unfold fld; omega) with hs | hs | hs | hs <;>
    (rw [hs]; exact (if_pos f10).trans (congrArg Except.ok e))

theorem RoundTrip.amoMax (d : BitVec 4) (a : BitVec 4) (b : BitVec 4) (z : BitVec 1) (s : BitVec 1) (p : BitVec 4) :
    RoundTrip.Statement (.amoMax d a b z s p) := by
  intro _
  obtain ⟨w, hw⟩ : ∃ w, w / 2 ^ 0 = p.toNat + 2 ^ 4 * (0x2 + 2 ^ 3 * (s.toNat + 2 ^ 1 * (z.toNat + 2 ^ 1 * (0x1 + 2 ^ 1 * (0 + 2 ^ 4 * (b.toNat + 2 ^ 4 * (a.toNat + 2 ^ 4 * (d.toNat + 2 ^ 4 * (0x1D + 2 ^ 6 * 0))))))))) := ⟨_, Nat.div_one _⟩
  have he : encodeNat (.amoMax d a b z s p) = w := by
    rw [← Nat.div_one w]; refine Eq.trans ?_ hw.symm; show 0x74000220 + d.toNat * 4194304 + a.toNat * 262144 + b.toNat * 16384 + z.toNat * 256 + s.toNat * 128 + p.toNat = _; omega
  have ⟨f0, r0⟩ := RoundTrip.peel (lo := 0) (n := 4) hw p.isLt
  have ⟨f4, r4⟩ := RoundTrip.peel (lo := 4) (n := 3) r0 (by decide)
  have ⟨f7, r7⟩ := RoundTrip.peel (lo := 7) (n := 1) r4 s.isLt
  have ⟨f8, r8⟩ := RoundTrip.peel (lo := 8) (n := 1) r7 z.isLt
  have ⟨f9, r9⟩ := RoundTrip.peel (lo := 9) (n := 1) r8 (by decide)
  have ⟨f10, r10⟩ := RoundTrip.peel (lo := 10) (n := 4) r9 (by decide)
  have ⟨f14, r14⟩ := RoundTrip.peel (lo := 14) (n := 4) r10 b.isLt
  have ⟨f18, r18⟩ := RoundTrip.peel (lo := 18) (n := 4) r14 a.isLt
  have ⟨f22, r22⟩ := RoundTrip.peel (lo := 22) (n := 4) r18 d.isLt
  have ⟨f26, r26⟩ := RoundTrip.peel (lo := 26) (n := 6) r22 (by decide)
  rw [RoundTrip.decode_encode _ _ he (by omega), RoundTrip.major1D (by rintro rfl; cases f26) f26, decodeMajor1D]
  have e : Instr.amoMax (.ofNat 4 (w / 4194304)) (.ofNat 4 (w / 262144)) (.ofNat 4 (w / 16384)) (.ofNat 1 (w / 256)) (.ofNat 1 (w / 128)) (.ofNat 4 (w / 1)) = .amoMax d a b z s p := by
    rw [RoundTrip.ofNat_field d (w / 4194304) f22, RoundTrip.ofNat_field a (w / 262144) f18, RoundTrip.ofNat_field b (w / 16384) f14, RoundTrip.ofNat_field z (w / 256) f8, RoundTrip.ofNat_field s (w / 128) f7, RoundTrip.ofNat_field p (w / 1) f0]
  rcases (show fld w 4 6 = 0x022 ∨ fld w 4 6 = 0x02A ∨ fld w 4 6 = 0x032 ∨ fld w 4 6 = 0x03A by unfold fld; omega) with hs | hs | hs | hs <;>
    (rw [hs]; exact (if_pos f10).trans (congrArg Except.ok e))

theorem RoundTrip.amoAnd (d : BitVec 4) (a : BitVec 4) (b : BitVec 4) (z : BitVec 1) (s : BitVec 1) (p : BitVec 4) :
    RoundTrip.Statement (.amoAnd d a b z s p) := by
  intro _
  obtain ⟨w, hw⟩ : ∃ w, w / 2 ^ 0 = p.toNat + 2 ^ 4 * (0x3 + 2 ^ 3 * (s.toNat + 2 ^ 1 * (z.toNat + 2 ^ 1 * (0x1 + 2 ^ 1 * (0 + 2 ^ 4 * (b.toNat + 2 ^ 4 * (a.toNat + 2 ^ 4 * (d.toNat + 2 ^ 4 * (0x1D + 2 ^ 6 * 0))))))))) := ⟨_, Nat.div_one _⟩
  have he : encodeNat (.amoAnd d a b z s p) = w := by
    rw [← Nat.div_one w]; refine Eq.trans ?_ hw.symm; show 0x74000230 + d.toNat * 4194304 + a.toNat * 262144 + b.toNat * 16384 + z.toNat * 256 + s.toNat * 128 + p.toNat = _; omega
  have ⟨f0, r0⟩ := RoundTrip.peel (lo := 0) (n := 4) hw p.isLt
  have ⟨f4, r4⟩ := RoundTrip.peel (lo := 4) (n := 3) r0 (by decide)
  have ⟨f7, r7⟩ := RoundTrip.peel (lo := 7) (n := 1) r4 s.isLt
  have ⟨f8, r8⟩ := RoundTrip.peel (lo := 8) (n := 1) r7 z.isLt
  have ⟨f9, r9⟩ := RoundTrip.peel (lo := 9) (n := 1) r8 (by decide)
  have ⟨f10, r10⟩ := RoundTrip.peel (lo := 10) (n := 4) r9 (by decide)
  have ⟨f14, r14⟩ := RoundTrip.peel (lo := 14) (n := 4) r10 b.isLt
  have ⟨f18, r18⟩ := RoundTrip.peel (lo := 18) (n := 4) r14 a.isLt
  have ⟨f22, r22⟩ := RoundTrip.peel (lo := 22) (n := 4) r18 d.isLt
  have ⟨f26, r26⟩ := RoundTrip.peel (lo := 26) (n := 6) r22 (by decide)
  rw [RoundTrip.decode_encode _ _ he (by omega), RoundTrip.major1D (by rintro rfl; cases f26) f26, decodeMajor1D]
  have e : Instr.amoAnd (.ofNat 4 (w / 4194304)) (.ofNat 4 (w / 262144)) (.ofNat 4 (w / 16384)) (.ofNat 1 (w / 256)) (.ofNat 1 (w / 128)) (.ofNat 4 (w / 1)) = .amoAnd d a b z s p := by
    rw [RoundTrip.ofNat_field d (w / 4194304) f22, RoundTrip.ofNat_field a (w / 262144) f18, RoundTrip.ofNat_field b (w / 16384) f14, RoundTrip.ofNat_field z (w / 256) f8, RoundTrip.ofNat_field s (w / 128) f7, RoundTrip.ofNat_field p (w / 1) f0]
  rcases (show fld w 4 6 = 0x023 ∨ fld w 4 6 = 0x02B ∨ fld w 4 6 = 0x033 ∨ fld w 4 6 = 0x03B by unfold fld; omega) with hs | hs | hs | hs <;>
    (rw [hs]; exact (if_pos f10).trans (congrArg Except.ok e))

theorem RoundTrip.amoOr (d : BitVec 4) (a : BitVec 4) (b : BitVec 4) (z : BitVec 1) (s : BitVec 1) (p : BitVec 4) :
    RoundTrip.Statement (.amoOr d a b z s p) := by
  intro _
  obtain ⟨w, hw⟩ : ∃ w, w / 2 ^ 0 = p.toNat + 2 ^ 4 * (0x4 + 2 ^ 3 * (s.toNat + 2 ^ 1 * (z.toNat + 2 ^ 1 * (0x1 + 2 ^ 1 * (0 + 2 ^ 4 * (b.toNat + 2 ^ 4 * (a.toNat + 2 ^ 4 * (d.toNat + 2 ^ 4 * (0x1D + 2 ^ 6 * 0))))))))) := ⟨_, Nat.div_one _⟩
  have he : encodeNat (.amoOr d a b z s p) = w := by
    rw [← Nat.div_one w]; refine Eq.trans ?_ hw.symm; show 0x74000240 + d.toNat * 4194304 + a.toNat * 262144 + b.toNat * 16384 + z.toNat * 256 + s.toNat * 128 + p.toNat = _; omega
  have ⟨f0, r0⟩ := RoundTrip.peel (lo := 0) (n := 4) hw p.isLt
  have ⟨f4, r4⟩ := RoundTrip.peel (lo := 4) (n := 3) r0 (by decide)
  have ⟨f7, r7⟩ := RoundTrip.peel (lo := 7) (n := 1) r4 s.isLt
  have ⟨f8, r8⟩ := RoundTrip.peel (lo := 8) (n := 1) r7 z.isLt
  have ⟨f9, r9⟩ := RoundTrip.peel (lo := 9) (n := 1) r8 (by decide)
  have ⟨f10, r10⟩ := RoundTrip.peel (lo := 10) (n := 4) r9 (by decide)
  have ⟨f14, r14⟩ := RoundTrip.peel (lo := 14) (n := 4) r10 b.isLt
  have ⟨f18, r18⟩ := RoundTrip.peel (lo := 18) (n := 4) r14 a.isLt
  have ⟨f22, r22⟩ := RoundTrip.peel (lo := 22) (n := 4) r18 d.isLt
  have ⟨f26, r26⟩ := RoundTrip.peel (lo := 26) (n := 6) r22 (by decide)
  rw [RoundTrip.decode_encode _ _ he (by omega), RoundTrip.major1D (by rintro rfl; cases f26) f26, decodeMajor1D]
  have e : Instr.amoOr (.ofNat 4 (w / 4194304)) (.ofNat 4 (w / 262144)) (.ofNat 4 (w / 16384)) (.ofNat 1 (w / 256)) (.ofNat 1 (w / 128)) (.ofNat 4 (w / 1)) = .amoOr d a b z s p := by
    rw [RoundTrip.ofNat_field d (w / 4194304) f22, RoundTrip.ofNat_field a (w / 262144) f18, RoundTrip.ofNat_field b (w / 16384) f14, RoundTrip.ofNat_field z (w / 256) f8, RoundTrip.ofNat_field s (w / 128) f7, RoundTrip.ofNat_field p (w / 1) f0]
  rcases (show fld w 4 6 = 0x024 ∨ fld w 4 6 = 0x02C ∨ fld w 4 6 = 0x034 ∨ fld w 4 6 = 0x03C by unfold fld; omega) with hs | hs | hs | hs <;>
    (rw [hs]; exact (if_pos f10).trans (congrArg Except.ok e))

theorem RoundTrip.amoXor (d : BitVec 4) (a : BitVec 4) (b : BitVec 4) (z : BitVec 1) (s : BitVec 1) (p : BitVec 4) :
    RoundTrip.Statement (.amoXor d a b z s p) := by
  intro _
  obtain ⟨w, hw⟩ : ∃ w, w / 2 ^ 0 = p.toNat + 2 ^ 4 * (0x5 + 2 ^ 3 * (s.toNat + 2 ^ 1 * (z.toNat + 2 ^ 1 * (0x1 + 2 ^ 1 * (0 + 2 ^ 4 * (b.toNat + 2 ^ 4 * (a.toNat + 2 ^ 4 * (d.toNat + 2 ^ 4 * (0x1D + 2 ^ 6 * 0))))))))) := ⟨_, Nat.div_one _⟩
  have he : encodeNat (.amoXor d a b z s p) = w := by
    rw [← Nat.div_one w]; refine Eq.trans ?_ hw.symm; show 0x74000250 + d.toNat * 4194304 + a.toNat * 262144 + b.toNat * 16384 + z.toNat * 256 + s.toNat * 128 + p.toNat = _; omega
  have ⟨f0, r0⟩ := RoundTrip.peel (lo := 0) (n := 4) hw p.isLt
  have ⟨f4, r4⟩ := RoundTrip.peel (lo := 4) (n := 3) r0 (by decide)
  have ⟨f7, r7⟩ := RoundTrip.peel (lo := 7) (n := 1) r4 s.isLt
  have ⟨f8, r8⟩ := RoundTrip.peel (lo := 8) (n := 1) r7 z.isLt
  have ⟨f9, r9⟩ := RoundTrip.peel (lo := 9) (n := 1) r8 (by decide)
  have ⟨f10, r10⟩ := RoundTrip.peel (lo := 10) (n := 4) r9 (by decide)
  have ⟨f14, r14⟩ := RoundTrip.peel (lo := 14) (n := 4) r10 b.isLt
  have ⟨f18, r18⟩ := RoundTrip.peel (lo := 18) (n := 4) r14 a.isLt
  have ⟨f22, r22⟩ := RoundTrip.peel (lo := 22) (n := 4) r18 d.isLt
  have ⟨f26, r26⟩ := RoundTrip.peel (lo := 26) (n := 6) r22 (by decide)
  rw [RoundTrip.decode_encode _ _ he (by omega), RoundTrip.major1D (by rintro rfl; cases f26) f26, decodeMajor1D]
  have e : Instr.amoXor (.ofNat 4 (w / 4194304)) (.ofNat 4 (w / 262144)) (.ofNat 4 (w / 16384)) (.ofNat 1 (w / 256)) (.ofNat 1 (w / 128)) (.ofNat 4 (w / 1)) = .amoXor d a b z s p := by
    rw [RoundTrip.ofNat_field d (w / 4194304) f22, RoundTrip.ofNat_field a (w / 262144) f18, RoundTrip.ofNat_field b (w / 16384) f14, RoundTrip.ofNat_field z (w / 256) f8, RoundTrip.ofNat_field s (w / 128) f7, RoundTrip.ofNat_field p (w / 1) f0]
  rcases (show fld w 4 6 = 0x025 ∨ fld w 4 6 = 0x02D ∨ fld w 4 6 = 0x035 ∨ fld w 4 6 = 0x03D by unfold fld; omega) with hs | hs | hs | hs <;>
    (rw [hs]; exact (if_pos f10).trans (congrArg Except.ok e))

theorem RoundTrip.amoSwap (d : BitVec 4) (a : BitVec 4) (b : BitVec 4) (z : BitVec 1) (s : BitVec 1) (p : BitVec 4) :
    RoundTrip.Statement (.amoSwap d a b z s p) := by
  intro _
  obtain ⟨w, hw⟩ : ∃ w, w / 2 ^ 0 = p.toNat + 2 ^ 4 * (0x6 + 2 ^ 3 * (s.toNat + 2 ^ 1 * (z.toNat + 2 ^ 1 * (0x1 + 2 ^ 1 * (0 + 2 ^ 4 * (b.toNat + 2 ^ 4 * (a.toNat + 2 ^ 4 * (d.toNat + 2 ^ 4 * (0x1D + 2 ^ 6 * 0))))))))) := ⟨_, Nat.div_one _⟩
  have he : encodeNat (.amoSwap d a b z s p) = w := by
    rw [← Nat.div_one w]; refine Eq.trans ?_ hw.symm; show 0x74000260 + d.toNat * 4194304 + a.toNat * 262144 + b.toNat * 16384 + z.toNat * 256 + s.toNat * 128 + p.toNat = _; omega
  have ⟨f0, r0⟩ := RoundTrip.peel (lo := 0) (n := 4) hw p.isLt
  have ⟨f4, r4⟩ := RoundTrip.peel (lo := 4) (n := 3) r0 (by decide)
  have ⟨f7, r7⟩ := RoundTrip.peel (lo := 7) (n := 1) r4 s.isLt
  have ⟨f8, r8⟩ := RoundTrip.peel (lo := 8) (n := 1) r7 z.isLt
  have ⟨f9, r9⟩ := RoundTrip.peel (lo := 9) (n := 1) r8 (by decide)
  have ⟨f10, r10⟩ := RoundTrip.peel (lo := 10) (n := 4) r9 (by decide)
  have ⟨f14, r14⟩ := RoundTrip.peel (lo := 14) (n := 4) r10 b.isLt
  have ⟨f18, r18⟩ := RoundTrip.peel (lo := 18) (n := 4) r14 a.isLt
  have ⟨f22, r22⟩ := RoundTrip.peel (lo := 22) (n := 4) r18 d.isLt
  have ⟨f26, r26⟩ := RoundTrip.peel (lo := 26) (n := 6) r22 (by decide)
  rw [RoundTrip.decode_encode _ _ he (by omega), RoundTrip.major1D (by rintro rfl; cases f26) f26, decodeMajor1D]
  have e : Instr.amoSwap (.ofNat 4 (w / 4194304)) (.ofNat 4 (w / 262144)) (.ofNat 4 (w / 16384)) (.ofNat 1 (w / 256)) (.ofNat 1 (w / 128)) (.ofNat 4 (w / 1)) = .amoSwap d a b z s p := by
    rw [RoundTrip.ofNat_field d (w / 4194304) f22, RoundTrip.ofNat_field a (w / 262144) f18, RoundTrip.ofNat_field b (w / 16384) f14, RoundTrip.ofNat_field z (w / 256) f8, RoundTrip.ofNat_field s (w / 128) f7, RoundTrip.ofNat_field p (w / 1) f0]
  rcases (show fld w 4 6 = 0x026 ∨ fld w 4 6 = 0x02E ∨ fld w 4 6 = 0x036 ∨ fld w 4 6 = 0x03E by unfold fld; omega) with hs | hs | hs | hs <;>
    (rw [hs]; exact (if_pos f10).trans (congrArg Except.ok e))

theorem RoundTrip.amoCas (d : BitVec 4) (a : BitVec 4) (b : BitVec 4) (z : BitVec 1) (s : BitVec 1) (p : BitVec 4) :
    RoundTrip.Statement (.amoCas d a b z s p) := by
  intro _
  obtain ⟨w, hw⟩ : ∃ w, w / 2 ^ 0 = p.toNat + 2 ^ 4 * (0x7 + 2 ^ 3 * (s.toNat + 2 ^ 1 * (z.toNat + 2 ^ 1 * (0x1 + 2 ^ 1 * (0 + 2 ^ 4 * (b.toNat + 2 ^ 4 * (a.toNat + 2 ^ 4 * (d.toNat + 2 ^ 4 * (0x1D + 2 ^ 6 * 0))))))))) := ⟨_, Nat.div_one _⟩
  have he : encodeNat (.amoCas d a b z s p) = w := by
    rw [← Nat.div_one w]; refine Eq.trans ?_ hw.symm; show 0x74000270 + d.toNat * 4194304 + a.toNat * 262144 + b.toNat * 16384 + z.toNat * 256 + s.toNat * 128 + p.toNat = _; omega
  have ⟨f0, r0⟩ := RoundTrip.peel (lo := 0) (n := 4) hw p.isLt
  have ⟨f4, r4⟩ := RoundTrip.peel (lo := 4) (n := 3) r0 (by decide)
  have ⟨f7, r7⟩ := RoundTrip.peel (lo := 7) (n := 1) r4 s.isLt
  have ⟨f8, r8⟩ := RoundTrip.peel (lo := 8) (n := 1) r7 z.isLt
  have ⟨f9, r9⟩ := RoundTrip.peel (lo := 9) (n := 1) r8 (by decide)
  have ⟨f10, r10⟩ := RoundTrip.peel (lo := 10) (n := 4) r9 (by decide)
  have ⟨f14, r14⟩ := RoundTrip.peel (lo := 14) (n := 4) r10 b.isLt
  have ⟨f18, r18⟩ := RoundTrip.peel (lo := 18) (n := 4) r14 a.isLt
  have ⟨f22, r22⟩ := RoundTrip.peel (lo := 22) (n := 4) r18 d.isLt
  have ⟨f26, r26⟩ := RoundTrip.peel (lo := 26) (n := 6) r22 (by decide)
  rw [RoundTrip.decode_encode _ _ he (by omega), RoundTrip.major1D (by rintro rfl; cases f26) f26, decodeMajor1D]
  have e : Instr.amoCas (.ofNat 4 (w / 4194304)) (.ofNat 4 (w / 262144)) (.ofNat 4 (w / 16384)) (.ofNat 1 (w / 256)) (.ofNat 1 (w / 128)) (.ofNat 4 (w / 1)) = .amoCas d a b z s p := by
    rw [RoundTrip.ofNat_field d (w / 4194304) f22, RoundTrip.ofNat_field a (w / 262144) f18, RoundTrip.ofNat_field b (w / 16384) f14, RoundTrip.ofNat_field z (w / 256) f8, RoundTrip.ofNat_field s (w / 128) f7, RoundTrip.ofNat_field p (w / 1) f0]
  rcases (show fld w 4 6 = 0x027 ∨ fld w 4 6 = 0x02F ∨ fld w 4 6 = 0x037 ∨ fld w 4 6 = 0x03F by unfold fld; omega) with hs | hs | hs | hs <;>
    (rw [hs]; exact (if_pos f10).trans (congrArg Except.ok e))

theorem RoundTrip.amoOrdAdd (d : BitVec 4) (a : BitVec 4) (b : BitVec 4) (p : BitVec 4) :
    RoundTrip.Statement (.amoOrdAdd d a b p) := by
  intro _
  obtain ⟨w, hw⟩ : ∃ w, w / 2 ^ 0 = p.toNat + 2 ^ 4 * (0x000 + 2 ^ 10 * (b.toNat + 2 ^ 4 * (a.toNat + 2 ^ 4 * (d.toNat + 2 ^ 4 * (0x1E + 2 ^ 6 * 0))))) := ⟨_, Nat.div_one _⟩
  have he : encodeNat (.amoOrdAdd d a b p) = w := by
    rw [← Nat.div_one w]; refine Eq.trans ?_ hw.symm; show 0x78000000 + d.toNat * 4194304 + a.toNat * 262144 + b.toNat * 16384 + p.toNat = _; omega
  have ⟨f0, r0⟩ := RoundTrip.peel (lo := 0) (n := 4) hw p.isLt
  have ⟨f4, r4⟩ := RoundTrip.peel (lo := 4) (n := 10) r0 (by decide)
  have ⟨f14, r14⟩ := RoundTrip.peel (lo := 14) (n := 4) r4 b.isLt
  have ⟨f18, r18⟩ := RoundTrip.peel (lo := 18) (n := 4) r14 a.isLt
  have ⟨f22, r22⟩ := RoundTrip.peel (lo := 22) (n := 4) r18 d.isLt
  have ⟨f26, r26⟩ := RoundTrip.peel (lo := 26) (n := 6) r22 (by decide)
  rw [RoundTrip.decode_encode _ _ he (by omega), RoundTrip.major1E (by rintro rfl; cases f26) f26, decodeMajor1E]
  have e : Instr.amoOrdAdd (.ofNat 4 (w / 4194304)) (.ofNat 4 (w / 262144)) (.ofNat 4 (w / 16384)) (.ofNat 4 (w / 1)) = .amoOrdAdd d a b p := by
    rw [RoundTrip.ofNat_field d (w / 4194304) f22, RoundTrip.ofNat_field a (w / 262144) f18, RoundTrip.ofNat_field b (w / 16384) f14, RoundTrip.ofNat_field p (w / 1) f0]
  rw [show fld w 4 10 = 0x000 from f4]
  exact congrArg Except.ok e

theorem RoundTrip.amoOrdFadd (d : BitVec 4) (a : BitVec 4) (b : BitVec 4) (p : BitVec 4) :
    RoundTrip.Statement (.amoOrdFadd d a b p) := by
  intro _
  obtain ⟨w, hw⟩ : ∃ w, w / 2 ^ 0 = p.toNat + 2 ^ 4 * (0x001 + 2 ^ 10 * (b.toNat + 2 ^ 4 * (a.toNat + 2 ^ 4 * (d.toNat + 2 ^ 4 * (0x1E + 2 ^ 6 * 0))))) := ⟨_, Nat.div_one _⟩
  have he : encodeNat (.amoOrdFadd d a b p) = w := by
    rw [← Nat.div_one w]; refine Eq.trans ?_ hw.symm; show 0x78000010 + d.toNat * 4194304 + a.toNat * 262144 + b.toNat * 16384 + p.toNat = _; omega
  have ⟨f0, r0⟩ := RoundTrip.peel (lo := 0) (n := 4) hw p.isLt
  have ⟨f4, r4⟩ := RoundTrip.peel (lo := 4) (n := 10) r0 (by decide)
  have ⟨f14, r14⟩ := RoundTrip.peel (lo := 14) (n := 4) r4 b.isLt
  have ⟨f18, r18⟩ := RoundTrip.peel (lo := 18) (n := 4) r14 a.isLt
  have ⟨f22, r22⟩ := RoundTrip.peel (lo := 22) (n := 4) r18 d.isLt
  have ⟨f26, r26⟩ := RoundTrip.peel (lo := 26) (n := 6) r22 (by decide)
  rw [RoundTrip.decode_encode _ _ he (by omega), RoundTrip.major1E (by rintro rfl; cases f26) f26, decodeMajor1E]
  have e : Instr.amoOrdFadd (.ofNat 4 (w / 4194304)) (.ofNat 4 (w / 262144)) (.ofNat 4 (w / 16384)) (.ofNat 4 (w / 1)) = .amoOrdFadd d a b p := by
    rw [RoundTrip.ofNat_field d (w / 4194304) f22, RoundTrip.ofNat_field a (w / 262144) f18, RoundTrip.ofNat_field b (w / 16384) f14, RoundTrip.ofNat_field p (w / 1) f0]
  rw [show fld w 4 10 = 0x001 from f4]
  exact congrArg Except.ok e

theorem RoundTrip.amoOrdSwap (d : BitVec 4) (a : BitVec 4) (b : BitVec 4) (p : BitVec 4) :
    RoundTrip.Statement (.amoOrdSwap d a b p) := by
  intro _
  obtain ⟨w, hw⟩ : ∃ w, w / 2 ^ 0 = p.toNat + 2 ^ 4 * (0x002 + 2 ^ 10 * (b.toNat + 2 ^ 4 * (a.toNat + 2 ^ 4 * (d.toNat + 2 ^ 4 * (0x1E + 2 ^ 6 * 0))))) := ⟨_, Nat.div_one _⟩
  have he : encodeNat (.amoOrdSwap d a b p) = w := by
    rw [← Nat.div_one w]; refine Eq.trans ?_ hw.symm; show 0x78000020 + d.toNat * 4194304 + a.toNat * 262144 + b.toNat * 16384 + p.toNat = _; omega
  have ⟨f0, r0⟩ := RoundTrip.peel (lo := 0) (n := 4) hw p.isLt
  have ⟨f4, r4⟩ := RoundTrip.peel (lo := 4) (n := 10) r0 (by decide)
  have ⟨f14, r14⟩ := RoundTrip.peel (lo := 14) (n := 4) r4 b.isLt
  have ⟨f18, r18⟩ := RoundTrip.peel (lo := 18) (n := 4) r14 a.isLt
  have ⟨f22, r22⟩ := RoundTrip.peel (lo := 22) (n := 4) r18 d.isLt
  have ⟨f26, r26⟩ := RoundTrip.peel (lo := 26) (n := 6) r22 (by decide)
  rw [RoundTrip.decode_encode _ _ he (by omega), RoundTrip.major1E (by rintro rfl; cases f26) f26, decodeMajor1E]
  have e : Instr.amoOrdSwap (.ofNat 4 (w / 4194304)) (.ofNat 4 (w / 262144)) (.ofNat 4 (w / 16384)) (.ofNat 4 (w / 1)) = .amoOrdSwap d a b p := by
    rw [RoundTrip.ofNat_field d (w / 4194304) f22, RoundTrip.ofNat_field a (w / 262144) f18, RoundTrip.ofNat_field b (w / 16384) f14, RoundTrip.ofNat_field p (w / 1) f0]
  rw [show fld w 4 10 = 0x002 from f4]
  exact congrArg Except.ok e

theorem RoundTrip.fred (d : BitVec 4) (a : BitVec 4) (p : BitVec 4) :
    RoundTrip.Statement (.fred d a p) := by
  intro _
  obtain ⟨w, hw⟩ : ∃ w, w / 2 ^ 0 = p.toNat + 2 ^ 4 * (0x010 + 2 ^ 10 * (0 + 2 ^ 4 * (a.toNat + 2 ^ 4 * (d.toNat + 2 ^ 4 * (0x1E + 2 ^ 6 * 0))))) := ⟨_, Nat.div_one _⟩
  have he : encodeNat (.fred d a p) = w := by
    rw [← Nat.div_one w]; refine Eq.trans ?_ hw.symm; show 0x78000100 + d.toNat * 4194304 + a.toNat * 262144 + p.toNat = _; omega
  have ⟨f0, r0⟩ := RoundTrip.peel (lo := 0) (n := 4) hw p.isLt
  have ⟨f4, r4⟩ := RoundTrip.peel (lo := 4) (n := 10) r0 (by decide)
  have ⟨f14, r14⟩ := RoundTrip.peel (lo := 14) (n := 4) r4 (by decide)
  have ⟨f18, r18⟩ := RoundTrip.peel (lo := 18) (n := 4) r14 a.isLt
  have ⟨f22, r22⟩ := RoundTrip.peel (lo := 22) (n := 4) r18 d.isLt
  have ⟨f26, r26⟩ := RoundTrip.peel (lo := 26) (n := 6) r22 (by decide)
  rw [RoundTrip.decode_encode _ _ he (by omega), RoundTrip.major1E (by rintro rfl; cases f26) f26, decodeMajor1E]
  have e : Instr.fred (.ofNat 4 (w / 4194304)) (.ofNat 4 (w / 262144)) (.ofNat 4 (w / 1)) = .fred d a p := by
    rw [RoundTrip.ofNat_field d (w / 4194304) f22, RoundTrip.ofNat_field a (w / 262144) f18, RoundTrip.ofNat_field p (w / 1) f0]
  rw [show fld w 4 10 = 0x010 from f4]
  exact (if_pos f14).trans (congrArg Except.ok e)

theorem RoundTrip.fenceAcq (s : BitVec 3) (p : BitVec 4) :
    RoundTrip.Statement (.fenceAcq s p) := by
  intro h
  obtain ⟨w, hw⟩ : ∃ w, w / 2 ^ 0 = p.toNat + 2 ^ 4 * (0x0 + 2 ^ 2 * (s.toNat + 2 ^ 3 * (0x0 + 2 ^ 5 * (0 + 2 ^ 12 * (0x1F + 2 ^ 6 * 0))))) := ⟨_, Nat.div_one _⟩
  have he : encodeNat (.fenceAcq s p) = w := by
    rw [← Nat.div_one w]; refine Eq.trans ?_ hw.symm; show 0x7C000000 + s.toNat * 64 + p.toNat = _; omega
  have ⟨f0, r0⟩ := RoundTrip.peel (lo := 0) (n := 4) hw p.isLt
  have ⟨f4, r4⟩ := RoundTrip.peel (lo := 4) (n := 2) r0 (by decide)
  have ⟨f6, r6⟩ := RoundTrip.peel (lo := 6) (n := 3) r4 s.isLt
  have ⟨f9, r9⟩ := RoundTrip.peel (lo := 9) (n := 5) r6 (by decide)
  have ⟨f14, r14⟩ := RoundTrip.peel (lo := 14) (n := 12) r9 (by decide)
  have ⟨f26, r26⟩ := RoundTrip.peel (lo := 26) (n := 6) r14 (by decide)
  have hl : s.toNat < 5 := of_decide_eq_true h.2
  rw [RoundTrip.decode_encode _ _ he (by omega), RoundTrip.major1F (by rintro rfl; cases f26) f26, decodeMajor1F]
  have e : Instr.fenceAcq (.ofNat 3 (w / 64)) (.ofNat 4 (w / 1)) = .fenceAcq s p := by
    rw [RoundTrip.ofNat_field s (w / 64) f6, RoundTrip.ofNat_field p (w / 1) f0]
  rcases (show fld w 4 10 = 0x000 ∨ fld w 4 10 = 0x004 ∨ fld w 4 10 = 0x008 ∨ fld w 4 10 = 0x00C ∨ fld w 4 10 = 0x010 by unfold fld; omega) with hs | hs | hs | hs | hs <;>
    (rw [hs]; exact (if_pos f14).trans (congrArg Except.ok e))

theorem RoundTrip.fenceRel (s : BitVec 3) (p : BitVec 4) :
    RoundTrip.Statement (.fenceRel s p) := by
  intro h
  obtain ⟨w, hw⟩ : ∃ w, w / 2 ^ 0 = p.toNat + 2 ^ 4 * (0x1 + 2 ^ 2 * (s.toNat + 2 ^ 3 * (0x0 + 2 ^ 5 * (0 + 2 ^ 12 * (0x1F + 2 ^ 6 * 0))))) := ⟨_, Nat.div_one _⟩
  have he : encodeNat (.fenceRel s p) = w := by
    rw [← Nat.div_one w]; refine Eq.trans ?_ hw.symm; show 0x7C000010 + s.toNat * 64 + p.toNat = _; omega
  have ⟨f0, r0⟩ := RoundTrip.peel (lo := 0) (n := 4) hw p.isLt
  have ⟨f4, r4⟩ := RoundTrip.peel (lo := 4) (n := 2) r0 (by decide)
  have ⟨f6, r6⟩ := RoundTrip.peel (lo := 6) (n := 3) r4 s.isLt
  have ⟨f9, r9⟩ := RoundTrip.peel (lo := 9) (n := 5) r6 (by decide)
  have ⟨f14, r14⟩ := RoundTrip.peel (lo := 14) (n := 12) r9 (by decide)
  have ⟨f26, r26⟩ := RoundTrip.peel (lo := 26) (n := 6) r14 (by decide)
  have hl : s.toNat < 5 := of_decide_eq_true h.2
  rw [RoundTrip.decode_encode _ _ he (by omega), RoundTrip.major1F (by rintro rfl; cases f26) f26, decodeMajor1F]
  have e : Instr.fenceRel (.ofNat 3 (w / 64)) (.ofNat 4 (w / 1)) = .fenceRel s p := by
    rw [RoundTrip.ofNat_field s (w / 64) f6, RoundTrip.ofNat_field p (w / 1) f0]
  rcases (show fld w 4 10 = 0x001 ∨ fld w 4 10 = 0x005 ∨ fld w 4 10 = 0x009 ∨ fld w 4 10 = 0x00D ∨ fld w 4 10 = 0x011 by unfold fld; omega) with hs | hs | hs | hs | hs <;>
    (rw [hs]; exact (if_pos f14).trans (congrArg Except.ok e))

theorem RoundTrip.fenceFull (s : BitVec 3) (p : BitVec 4) :
    RoundTrip.Statement (.fenceFull s p) := by
  intro h
  obtain ⟨w, hw⟩ : ∃ w, w / 2 ^ 0 = p.toNat + 2 ^ 4 * (0x2 + 2 ^ 2 * (s.toNat + 2 ^ 3 * (0x0 + 2 ^ 5 * (0 + 2 ^ 12 * (0x1F + 2 ^ 6 * 0))))) := ⟨_, Nat.div_one _⟩
  have he : encodeNat (.fenceFull s p) = w := by
    rw [← Nat.div_one w]; refine Eq.trans ?_ hw.symm; show 0x7C000020 + s.toNat * 64 + p.toNat = _; omega
  have ⟨f0, r0⟩ := RoundTrip.peel (lo := 0) (n := 4) hw p.isLt
  have ⟨f4, r4⟩ := RoundTrip.peel (lo := 4) (n := 2) r0 (by decide)
  have ⟨f6, r6⟩ := RoundTrip.peel (lo := 6) (n := 3) r4 s.isLt
  have ⟨f9, r9⟩ := RoundTrip.peel (lo := 9) (n := 5) r6 (by decide)
  have ⟨f14, r14⟩ := RoundTrip.peel (lo := 14) (n := 12) r9 (by decide)
  have ⟨f26, r26⟩ := RoundTrip.peel (lo := 26) (n := 6) r14 (by decide)
  have hl : s.toNat < 5 := of_decide_eq_true h.2
  rw [RoundTrip.decode_encode _ _ he (by omega), RoundTrip.major1F (by rintro rfl; cases f26) f26, decodeMajor1F]
  have e : Instr.fenceFull (.ofNat 3 (w / 64)) (.ofNat 4 (w / 1)) = .fenceFull s p := by
    rw [RoundTrip.ofNat_field s (w / 64) f6, RoundTrip.ofNat_field p (w / 1) f0]
  rcases (show fld w 4 10 = 0x002 ∨ fld w 4 10 = 0x006 ∨ fld w 4 10 = 0x00A ∨ fld w 4 10 = 0x00E ∨ fld w 4 10 = 0x012 by unfold fld; omega) with hs | hs | hs | hs | hs <;>
    (rw [hs]; exact (if_pos f14).trans (congrArg Except.ok e))

theorem RoundTrip.mon (a : BitVec 4) (p : BitVec 4) :
    RoundTrip.Statement (.mon a p) := by
  intro _
  obtain ⟨w, hw⟩ : ∃ w, w / 2 ^ 0 = p.toNat + 2 ^ 4 * (0x020 + 2 ^ 10 * (0 + 2 ^ 4 * (a.toNat + 2 ^ 4 * (0 + 2 ^ 4 * (0x1F + 2 ^ 6 * 0))))) := ⟨_, Nat.div_one _⟩
  have he : encodeNat (.mon a p) = w := by
    rw [← Nat.div_one w]; refine Eq.trans ?_ hw.symm; show 0x7C000200 + a.toNat * 262144 + p.toNat = _; omega
  have ⟨f0, r0⟩ := RoundTrip.peel (lo := 0) (n := 4) hw p.isLt
  have ⟨f4, r4⟩ := RoundTrip.peel (lo := 4) (n := 10) r0 (by decide)
  have ⟨f14, r14⟩ := RoundTrip.peel (lo := 14) (n := 4) r4 (by decide)
  have ⟨f18, r18⟩ := RoundTrip.peel (lo := 18) (n := 4) r14 a.isLt
  have ⟨f22, r22⟩ := RoundTrip.peel (lo := 22) (n := 4) r18 (by decide)
  have ⟨f26, r26⟩ := RoundTrip.peel (lo := 26) (n := 6) r22 (by decide)
  rw [RoundTrip.decode_encode _ _ he (by omega), RoundTrip.major1F (by rintro rfl; cases f26) f26, decodeMajor1F]
  have e : Instr.mon (.ofNat 4 (w / 262144)) (.ofNat 4 (w / 1)) = .mon a p := by
    rw [RoundTrip.ofNat_field a (w / 262144) f18, RoundTrip.ofNat_field p (w / 1) f0]
  rw [show fld w 4 10 = 0x020 from f4]
  exact (if_pos ⟨f14, f22⟩).trans (congrArg Except.ok e)

theorem RoundTrip.munm (p : BitVec 4) :
    RoundTrip.Statement (.munm p) := by
  intro _
  obtain ⟨w, hw⟩ : ∃ w, w / 2 ^ 0 = p.toNat + 2 ^ 4 * (0x021 + 2 ^ 10 * (0 + 2 ^ 12 * (0x1F + 2 ^ 6 * 0))) := ⟨_, Nat.div_one _⟩
  have he : encodeNat (.munm p) = w := by
    rw [← Nat.div_one w]; refine Eq.trans ?_ hw.symm; show 0x7C000210 + p.toNat = _; omega
  have ⟨f0, r0⟩ := RoundTrip.peel (lo := 0) (n := 4) hw p.isLt
  have ⟨f4, r4⟩ := RoundTrip.peel (lo := 4) (n := 10) r0 (by decide)
  have ⟨f14, r14⟩ := RoundTrip.peel (lo := 14) (n := 12) r4 (by decide)
  have ⟨f26, r26⟩ := RoundTrip.peel (lo := 26) (n := 6) r14 (by decide)
  rw [RoundTrip.decode_encode _ _ he (by omega), RoundTrip.major1F (by rintro rfl; cases f26) f26, decodeMajor1F]
  have e : Instr.munm (.ofNat 4 (w / 1)) = .munm p := by
    rw [RoundTrip.ofNat_field p (w / 1) f0]
  rw [show fld w 4 10 = 0x021 from f4]
  exact (if_pos f14).trans (congrArg Except.ok e)

theorem RoundTrip.mwait (d : BitVec 4) (a : BitVec 4) (p : BitVec 4) :
    RoundTrip.Statement (.mwait d a p) := by
  intro _
  obtain ⟨w, hw⟩ : ∃ w, w / 2 ^ 0 = p.toNat + 2 ^ 4 * (0x022 + 2 ^ 10 * (0 + 2 ^ 4 * (a.toNat + 2 ^ 4 * (d.toNat + 2 ^ 4 * (0x1F + 2 ^ 6 * 0))))) := ⟨_, Nat.div_one _⟩
  have he : encodeNat (.mwait d a p) = w := by
    rw [← Nat.div_one w]; refine Eq.trans ?_ hw.symm; show 0x7C000220 + d.toNat * 4194304 + a.toNat * 262144 + p.toNat = _; omega
  have ⟨f0, r0⟩ := RoundTrip.peel (lo := 0) (n := 4) hw p.isLt
  have ⟨f4, r4⟩ := RoundTrip.peel (lo := 4) (n := 10) r0 (by decide)
  have ⟨f14, r14⟩ := RoundTrip.peel (lo := 14) (n := 4) r4 (by decide)
  have ⟨f18, r18⟩ := RoundTrip.peel (lo := 18) (n := 4) r14 a.isLt
  have ⟨f22, r22⟩ := RoundTrip.peel (lo := 22) (n := 4) r18 d.isLt
  have ⟨f26, r26⟩ := RoundTrip.peel (lo := 26) (n := 6) r22 (by decide)
  rw [RoundTrip.decode_encode _ _ he (by omega), RoundTrip.major1F (by rintro rfl; cases f26) f26, decodeMajor1F]
  have e : Instr.mwait (.ofNat 4 (w / 4194304)) (.ofNat 4 (w / 262144)) (.ofNat 4 (w / 1)) = .mwait d a p := by
    rw [RoundTrip.ofNat_field d (w / 4194304) f22, RoundTrip.ofNat_field a (w / 262144) f18, RoundTrip.ofNat_field p (w / 1) f0]
  rw [show fld w 4 10 = 0x022 from f4]
  exact (if_pos f14).trans (congrArg Except.ok e)

theorem RoundTrip.bari (a : BitVec 4) (b : BitVec 4) (p : BitVec 4) :
    RoundTrip.Statement (.bari a b p) := by
  intro _
  obtain ⟨w, hw⟩ : ∃ w, w / 2 ^ 0 = p.toNat + 2 ^ 4 * (0x030 + 2 ^ 10 * (b.toNat + 2 ^ 4 * (a.toNat + 2 ^ 4 * (0 + 2 ^ 4 * (0x1F + 2 ^ 6 * 0))))) := ⟨_, Nat.div_one _⟩
  have he : encodeNat (.bari a b p) = w := by
    rw [← Nat.div_one w]; refine Eq.trans ?_ hw.symm; show 0x7C000300 + a.toNat * 262144 + b.toNat * 16384 + p.toNat = _; omega
  have ⟨f0, r0⟩ := RoundTrip.peel (lo := 0) (n := 4) hw p.isLt
  have ⟨f4, r4⟩ := RoundTrip.peel (lo := 4) (n := 10) r0 (by decide)
  have ⟨f14, r14⟩ := RoundTrip.peel (lo := 14) (n := 4) r4 b.isLt
  have ⟨f18, r18⟩ := RoundTrip.peel (lo := 18) (n := 4) r14 a.isLt
  have ⟨f22, r22⟩ := RoundTrip.peel (lo := 22) (n := 4) r18 (by decide)
  have ⟨f26, r26⟩ := RoundTrip.peel (lo := 26) (n := 6) r22 (by decide)
  rw [RoundTrip.decode_encode _ _ he (by omega), RoundTrip.major1F (by rintro rfl; cases f26) f26, decodeMajor1F]
  have e : Instr.bari (.ofNat 4 (w / 262144)) (.ofNat 4 (w / 16384)) (.ofNat 4 (w / 1)) = .bari a b p := by
    rw [RoundTrip.ofNat_field a (w / 262144) f18, RoundTrip.ofNat_field b (w / 16384) f14, RoundTrip.ofNat_field p (w / 1) f0]
  rw [show fld w 4 10 = 0x030 from f4]
  exact (if_pos f22).trans (congrArg Except.ok e)

theorem RoundTrip.barv (d : BitVec 4) (a : BitVec 4) (p : BitVec 4) :
    RoundTrip.Statement (.barv d a p) := by
  intro _
  obtain ⟨w, hw⟩ : ∃ w, w / 2 ^ 0 = p.toNat + 2 ^ 4 * (0x031 + 2 ^ 10 * (0 + 2 ^ 4 * (a.toNat + 2 ^ 4 * (d.toNat + 2 ^ 4 * (0x1F + 2 ^ 6 * 0))))) := ⟨_, Nat.div_one _⟩
  have he : encodeNat (.barv d a p) = w := by
    rw [← Nat.div_one w]; refine Eq.trans ?_ hw.symm; show 0x7C000310 + d.toNat * 4194304 + a.toNat * 262144 + p.toNat = _; omega
  have ⟨f0, r0⟩ := RoundTrip.peel (lo := 0) (n := 4) hw p.isLt
  have ⟨f4, r4⟩ := RoundTrip.peel (lo := 4) (n := 10) r0 (by decide)
  have ⟨f14, r14⟩ := RoundTrip.peel (lo := 14) (n := 4) r4 (by decide)
  have ⟨f18, r18⟩ := RoundTrip.peel (lo := 18) (n := 4) r14 a.isLt
  have ⟨f22, r22⟩ := RoundTrip.peel (lo := 22) (n := 4) r18 d.isLt
  have ⟨f26, r26⟩ := RoundTrip.peel (lo := 26) (n := 6) r22 (by decide)
  rw [RoundTrip.decode_encode _ _ he (by omega), RoundTrip.major1F (by rintro rfl; cases f26) f26, decodeMajor1F]
  have e : Instr.barv (.ofNat 4 (w / 4194304)) (.ofNat 4 (w / 262144)) (.ofNat 4 (w / 1)) = .barv d a p := by
    rw [RoundTrip.ofNat_field d (w / 4194304) f22, RoundTrip.ofNat_field a (w / 262144) f18, RoundTrip.ofNat_field p (w / 1) f0]
  rw [show fld w 4 10 = 0x031 from f4]
  exact (if_pos f14).trans (congrArg Except.ok e)

theorem RoundTrip.barw (a : BitVec 4) (b : BitVec 4) (p : BitVec 4) :
    RoundTrip.Statement (.barw a b p) := by
  intro _
  obtain ⟨w, hw⟩ : ∃ w, w / 2 ^ 0 = p.toNat + 2 ^ 4 * (0x032 + 2 ^ 10 * (b.toNat + 2 ^ 4 * (a.toNat + 2 ^ 4 * (0 + 2 ^ 4 * (0x1F + 2 ^ 6 * 0))))) := ⟨_, Nat.div_one _⟩
  have he : encodeNat (.barw a b p) = w := by
    rw [← Nat.div_one w]; refine Eq.trans ?_ hw.symm; show 0x7C000320 + a.toNat * 262144 + b.toNat * 16384 + p.toNat = _; omega
  have ⟨f0, r0⟩ := RoundTrip.peel (lo := 0) (n := 4) hw p.isLt
  have ⟨f4, r4⟩ := RoundTrip.peel (lo := 4) (n := 10) r0 (by decide)
  have ⟨f14, r14⟩ := RoundTrip.peel (lo := 14) (n := 4) r4 b.isLt
  have ⟨f18, r18⟩ := RoundTrip.peel (lo := 18) (n := 4) r14 a.isLt
  have ⟨f22, r22⟩ := RoundTrip.peel (lo := 22) (n := 4) r18 (by decide)
  have ⟨f26, r26⟩ := RoundTrip.peel (lo := 26) (n := 6) r22 (by decide)
  rw [RoundTrip.decode_encode _ _ he (by omega), RoundTrip.major1F (by rintro rfl; cases f26) f26, decodeMajor1F]
  have e : Instr.barw (.ofNat 4 (w / 262144)) (.ofNat 4 (w / 16384)) (.ofNat 4 (w / 1)) = .barw a b p := by
    rw [RoundTrip.ofNat_field a (w / 262144) f18, RoundTrip.ofNat_field b (w / 16384) f14, RoundTrip.ofNat_field p (w / 1) f0]
  rw [show fld w 4 10 = 0x032 from f4]
  exact (if_pos f22).trans (congrArg Except.ok e)

theorem RoundTrip.synci (a : BitVec 4) (b : BitVec 4) (p : BitVec 4) :
    RoundTrip.Statement (.synci a b p) := by
  intro _
  obtain ⟨w, hw⟩ : ∃ w, w / 2 ^ 0 = p.toNat + 2 ^ 4 * (0x038 + 2 ^ 10 * (b.toNat + 2 ^ 4 * (a.toNat + 2 ^ 4 * (0 + 2 ^ 4 * (0x1F + 2 ^ 6 * 0))))) := ⟨_, Nat.div_one _⟩
  have he : encodeNat (.synci a b p) = w := by
    rw [← Nat.div_one w]; refine Eq.trans ?_ hw.symm; show 0x7C000380 + a.toNat * 262144 + b.toNat * 16384 + p.toNat = _; omega
  have ⟨f0, r0⟩ := RoundTrip.peel (lo := 0) (n := 4) hw p.isLt
  have ⟨f4, r4⟩ := RoundTrip.peel (lo := 4) (n := 10) r0 (by decide)
  have ⟨f14, r14⟩ := RoundTrip.peel (lo := 14) (n := 4) r4 b.isLt
  have ⟨f18, r18⟩ := RoundTrip.peel (lo := 18) (n := 4) r14 a.isLt
  have ⟨f22, r22⟩ := RoundTrip.peel (lo := 22) (n := 4) r18 (by decide)
  have ⟨f26, r26⟩ := RoundTrip.peel (lo := 26) (n := 6) r22 (by decide)
  rw [RoundTrip.decode_encode _ _ he (by omega), RoundTrip.major1F (by rintro rfl; cases f26) f26, decodeMajor1F]
  have e : Instr.synci (.ofNat 4 (w / 262144)) (.ofNat 4 (w / 16384)) (.ofNat 4 (w / 1)) = .synci a b p := by
    rw [RoundTrip.ofNat_field a (w / 262144) f18, RoundTrip.ofNat_field b (w / 16384) f14, RoundTrip.ofNat_field p (w / 1) f0]
  rw [show fld w 4 10 = 0x038 from f4]
  exact (if_pos f22).trans (congrArg Except.ok e)

theorem RoundTrip.digest (d : BitVec 4) (p : BitVec 4) :
    RoundTrip.Statement (.digest d p) := by
  intro _
  obtain ⟨w, hw⟩ : ∃ w, w / 2 ^ 0 = p.toNat + 2 ^ 4 * (0x040 + 2 ^ 10 * (0 + 2 ^ 8 * (d.toNat + 2 ^ 4 * (0x1F + 2 ^ 6 * 0)))) := ⟨_, Nat.div_one _⟩
  have he : encodeNat (.digest d p) = w := by
    rw [← Nat.div_one w]; refine Eq.trans ?_ hw.symm; show 0x7C000400 + d.toNat * 4194304 + p.toNat = _; omega
  have ⟨f0, r0⟩ := RoundTrip.peel (lo := 0) (n := 4) hw p.isLt
  have ⟨f4, r4⟩ := RoundTrip.peel (lo := 4) (n := 10) r0 (by decide)
  have ⟨f14, r14⟩ := RoundTrip.peel (lo := 14) (n := 8) r4 (by decide)
  have ⟨f22, r22⟩ := RoundTrip.peel (lo := 22) (n := 4) r14 d.isLt
  have ⟨f26, r26⟩ := RoundTrip.peel (lo := 26) (n := 6) r22 (by decide)
  rw [RoundTrip.decode_encode _ _ he (by omega), RoundTrip.major1F (by rintro rfl; cases f26) f26, decodeMajor1F]
  have e : Instr.digest (.ofNat 4 (w / 4194304)) (.ofNat 4 (w / 1)) = .digest d p := by
    rw [RoundTrip.ofNat_field d (w / 4194304) f22, RoundTrip.ofNat_field p (w / 1) f0]
  rw [show fld w 4 10 = 0x040 from f4]
  exact (if_pos f14).trans (congrArg Except.ok e)

theorem RoundTrip.vadd (d : BitVec 3) (a : BitVec 3) (b : BitVec 3) (k : BitVec 2) (t : BitVec 3) (p : BitVec 4) :
    RoundTrip.Statement (.vadd d a b k t p) := by
  intro _
  obtain ⟨w, hw⟩ : ∃ w, w / 2 ^ 0 = p.toNat + 2 ^ 4 * (0x000 + 2 ^ 7 * (t.toNat + 2 ^ 3 * (k.toNat + 2 ^ 2 * (0 + 2 ^ 1 * (b.toNat + 2 ^ 3 * (a.toNat + 2 ^ 3 * (d.toNat + 2 ^ 3 * (0x20 + 2 ^ 6 * 0)))))))) := ⟨_, Nat.div_one _⟩
  have he : encodeNat (.vadd d a b k t p) = w := by
    rw [← Nat.div_one w]; refine Eq.trans ?_ hw.symm; show 0x80000000 + d.toNat * 8388608 + a.toNat * 1048576 + b.toNat * 131072 + k.toNat * 16384 + t.toNat * 2048 + p.toNat = _; omega
  have ⟨f0, r0⟩ := RoundTrip.peel (lo := 0) (n := 4) hw p.isLt
  have ⟨f4, r4⟩ := RoundTrip.peel (lo := 4) (n := 7) r0 (by decide)
  have ⟨f11, r11⟩ := RoundTrip.peel (lo := 11) (n := 3) r4 t.isLt
  have ⟨f14, r14⟩ := RoundTrip.peel (lo := 14) (n := 2) r11 k.isLt
  have ⟨f16, r16⟩ := RoundTrip.peel (lo := 16) (n := 1) r14 (by decide)
  have ⟨f17, r17⟩ := RoundTrip.peel (lo := 17) (n := 3) r16 b.isLt
  have ⟨f20, r20⟩ := RoundTrip.peel (lo := 20) (n := 3) r17 a.isLt
  have ⟨f23, r23⟩ := RoundTrip.peel (lo := 23) (n := 3) r20 d.isLt
  have ⟨f26, r26⟩ := RoundTrip.peel (lo := 26) (n := 6) r23 (by decide)
  rw [RoundTrip.decode_encode _ _ he (by omega), RoundTrip.major20 (by rintro rfl; cases f26) f26, decodeMajor20]
  have e : Instr.vadd (.ofNat 3 (w / 8388608)) (.ofNat 3 (w / 1048576)) (.ofNat 3 (w / 131072)) (.ofNat 2 (w / 16384)) (.ofNat 3 (w / 2048)) (.ofNat 4 (w / 1)) = .vadd d a b k t p := by
    rw [RoundTrip.ofNat_field d (w / 8388608) f23, RoundTrip.ofNat_field a (w / 1048576) f20, RoundTrip.ofNat_field b (w / 131072) f17, RoundTrip.ofNat_field k (w / 16384) f14, RoundTrip.ofNat_field t (w / 2048) f11, RoundTrip.ofNat_field p (w / 1) f0]
  rw [show fld w 4 7 = 0x000 from f4]
  exact (if_pos f16).trans (congrArg Except.ok e)

theorem RoundTrip.vsub (d : BitVec 3) (a : BitVec 3) (b : BitVec 3) (k : BitVec 2) (t : BitVec 3) (p : BitVec 4) :
    RoundTrip.Statement (.vsub d a b k t p) := by
  intro _
  obtain ⟨w, hw⟩ : ∃ w, w / 2 ^ 0 = p.toNat + 2 ^ 4 * (0x001 + 2 ^ 7 * (t.toNat + 2 ^ 3 * (k.toNat + 2 ^ 2 * (0 + 2 ^ 1 * (b.toNat + 2 ^ 3 * (a.toNat + 2 ^ 3 * (d.toNat + 2 ^ 3 * (0x20 + 2 ^ 6 * 0)))))))) := ⟨_, Nat.div_one _⟩
  have he : encodeNat (.vsub d a b k t p) = w := by
    rw [← Nat.div_one w]; refine Eq.trans ?_ hw.symm; show 0x80000010 + d.toNat * 8388608 + a.toNat * 1048576 + b.toNat * 131072 + k.toNat * 16384 + t.toNat * 2048 + p.toNat = _; omega
  have ⟨f0, r0⟩ := RoundTrip.peel (lo := 0) (n := 4) hw p.isLt
  have ⟨f4, r4⟩ := RoundTrip.peel (lo := 4) (n := 7) r0 (by decide)
  have ⟨f11, r11⟩ := RoundTrip.peel (lo := 11) (n := 3) r4 t.isLt
  have ⟨f14, r14⟩ := RoundTrip.peel (lo := 14) (n := 2) r11 k.isLt
  have ⟨f16, r16⟩ := RoundTrip.peel (lo := 16) (n := 1) r14 (by decide)
  have ⟨f17, r17⟩ := RoundTrip.peel (lo := 17) (n := 3) r16 b.isLt
  have ⟨f20, r20⟩ := RoundTrip.peel (lo := 20) (n := 3) r17 a.isLt
  have ⟨f23, r23⟩ := RoundTrip.peel (lo := 23) (n := 3) r20 d.isLt
  have ⟨f26, r26⟩ := RoundTrip.peel (lo := 26) (n := 6) r23 (by decide)
  rw [RoundTrip.decode_encode _ _ he (by omega), RoundTrip.major20 (by rintro rfl; cases f26) f26, decodeMajor20]
  have e : Instr.vsub (.ofNat 3 (w / 8388608)) (.ofNat 3 (w / 1048576)) (.ofNat 3 (w / 131072)) (.ofNat 2 (w / 16384)) (.ofNat 3 (w / 2048)) (.ofNat 4 (w / 1)) = .vsub d a b k t p := by
    rw [RoundTrip.ofNat_field d (w / 8388608) f23, RoundTrip.ofNat_field a (w / 1048576) f20, RoundTrip.ofNat_field b (w / 131072) f17, RoundTrip.ofNat_field k (w / 16384) f14, RoundTrip.ofNat_field t (w / 2048) f11, RoundTrip.ofNat_field p (w / 1) f0]
  rw [show fld w 4 7 = 0x001 from f4]
  exact (if_pos f16).trans (congrArg Except.ok e)

theorem RoundTrip.vmul (d : BitVec 3) (a : BitVec 3) (b : BitVec 3) (k : BitVec 2) (t : BitVec 3) (p : BitVec 4) :
    RoundTrip.Statement (.vmul d a b k t p) := by
  intro _
  obtain ⟨w, hw⟩ : ∃ w, w / 2 ^ 0 = p.toNat + 2 ^ 4 * (0x002 + 2 ^ 7 * (t.toNat + 2 ^ 3 * (k.toNat + 2 ^ 2 * (0 + 2 ^ 1 * (b.toNat + 2 ^ 3 * (a.toNat + 2 ^ 3 * (d.toNat + 2 ^ 3 * (0x20 + 2 ^ 6 * 0)))))))) := ⟨_, Nat.div_one _⟩
  have he : encodeNat (.vmul d a b k t p) = w := by
    rw [← Nat.div_one w]; refine Eq.trans ?_ hw.symm; show 0x80000020 + d.toNat * 8388608 + a.toNat * 1048576 + b.toNat * 131072 + k.toNat * 16384 + t.toNat * 2048 + p.toNat = _; omega
  have ⟨f0, r0⟩ := RoundTrip.peel (lo := 0) (n := 4) hw p.isLt
  have ⟨f4, r4⟩ := RoundTrip.peel (lo := 4) (n := 7) r0 (by decide)
  have ⟨f11, r11⟩ := RoundTrip.peel (lo := 11) (n := 3) r4 t.isLt
  have ⟨f14, r14⟩ := RoundTrip.peel (lo := 14) (n := 2) r11 k.isLt
  have ⟨f16, r16⟩ := RoundTrip.peel (lo := 16) (n := 1) r14 (by decide)
  have ⟨f17, r17⟩ := RoundTrip.peel (lo := 17) (n := 3) r16 b.isLt
  have ⟨f20, r20⟩ := RoundTrip.peel (lo := 20) (n := 3) r17 a.isLt
  have ⟨f23, r23⟩ := RoundTrip.peel (lo := 23) (n := 3) r20 d.isLt
  have ⟨f26, r26⟩ := RoundTrip.peel (lo := 26) (n := 6) r23 (by decide)
  rw [RoundTrip.decode_encode _ _ he (by omega), RoundTrip.major20 (by rintro rfl; cases f26) f26, decodeMajor20]
  have e : Instr.vmul (.ofNat 3 (w / 8388608)) (.ofNat 3 (w / 1048576)) (.ofNat 3 (w / 131072)) (.ofNat 2 (w / 16384)) (.ofNat 3 (w / 2048)) (.ofNat 4 (w / 1)) = .vmul d a b k t p := by
    rw [RoundTrip.ofNat_field d (w / 8388608) f23, RoundTrip.ofNat_field a (w / 1048576) f20, RoundTrip.ofNat_field b (w / 131072) f17, RoundTrip.ofNat_field k (w / 16384) f14, RoundTrip.ofNat_field t (w / 2048) f11, RoundTrip.ofNat_field p (w / 1) f0]
  rw [show fld w 4 7 = 0x002 from f4]
  exact (if_pos f16).trans (congrArg Except.ok e)

theorem RoundTrip.vfma (d : BitVec 3) (a : BitVec 3) (b : BitVec 3) (k : BitVec 2) (t : BitVec 3) (p : BitVec 4) :
    RoundTrip.Statement (.vfma d a b k t p) := by
  intro _
  obtain ⟨w, hw⟩ : ∃ w, w / 2 ^ 0 = p.toNat + 2 ^ 4 * (0x003 + 2 ^ 7 * (t.toNat + 2 ^ 3 * (k.toNat + 2 ^ 2 * (0 + 2 ^ 1 * (b.toNat + 2 ^ 3 * (a.toNat + 2 ^ 3 * (d.toNat + 2 ^ 3 * (0x20 + 2 ^ 6 * 0)))))))) := ⟨_, Nat.div_one _⟩
  have he : encodeNat (.vfma d a b k t p) = w := by
    rw [← Nat.div_one w]; refine Eq.trans ?_ hw.symm; show 0x80000030 + d.toNat * 8388608 + a.toNat * 1048576 + b.toNat * 131072 + k.toNat * 16384 + t.toNat * 2048 + p.toNat = _; omega
  have ⟨f0, r0⟩ := RoundTrip.peel (lo := 0) (n := 4) hw p.isLt
  have ⟨f4, r4⟩ := RoundTrip.peel (lo := 4) (n := 7) r0 (by decide)
  have ⟨f11, r11⟩ := RoundTrip.peel (lo := 11) (n := 3) r4 t.isLt
  have ⟨f14, r14⟩ := RoundTrip.peel (lo := 14) (n := 2) r11 k.isLt
  have ⟨f16, r16⟩ := RoundTrip.peel (lo := 16) (n := 1) r14 (by decide)
  have ⟨f17, r17⟩ := RoundTrip.peel (lo := 17) (n := 3) r16 b.isLt
  have ⟨f20, r20⟩ := RoundTrip.peel (lo := 20) (n := 3) r17 a.isLt
  have ⟨f23, r23⟩ := RoundTrip.peel (lo := 23) (n := 3) r20 d.isLt
  have ⟨f26, r26⟩ := RoundTrip.peel (lo := 26) (n := 6) r23 (by decide)
  rw [RoundTrip.decode_encode _ _ he (by omega), RoundTrip.major20 (by rintro rfl; cases f26) f26, decodeMajor20]
  have e : Instr.vfma (.ofNat 3 (w / 8388608)) (.ofNat 3 (w / 1048576)) (.ofNat 3 (w / 131072)) (.ofNat 2 (w / 16384)) (.ofNat 3 (w / 2048)) (.ofNat 4 (w / 1)) = .vfma d a b k t p := by
    rw [RoundTrip.ofNat_field d (w / 8388608) f23, RoundTrip.ofNat_field a (w / 1048576) f20, RoundTrip.ofNat_field b (w / 131072) f17, RoundTrip.ofNat_field k (w / 16384) f14, RoundTrip.ofNat_field t (w / 2048) f11, RoundTrip.ofNat_field p (w / 1) f0]
  rw [show fld w 4 7 = 0x003 from f4]
  exact (if_pos f16).trans (congrArg Except.ok e)

theorem RoundTrip.vmin (d : BitVec 3) (a : BitVec 3) (b : BitVec 3) (k : BitVec 2) (t : BitVec 3) (p : BitVec 4) :
    RoundTrip.Statement (.vmin d a b k t p) := by
  intro _
  obtain ⟨w, hw⟩ : ∃ w, w / 2 ^ 0 = p.toNat + 2 ^ 4 * (0x004 + 2 ^ 7 * (t.toNat + 2 ^ 3 * (k.toNat + 2 ^ 2 * (0 + 2 ^ 1 * (b.toNat + 2 ^ 3 * (a.toNat + 2 ^ 3 * (d.toNat + 2 ^ 3 * (0x20 + 2 ^ 6 * 0)))))))) := ⟨_, Nat.div_one _⟩
  have he : encodeNat (.vmin d a b k t p) = w := by
    rw [← Nat.div_one w]; refine Eq.trans ?_ hw.symm; show 0x80000040 + d.toNat * 8388608 + a.toNat * 1048576 + b.toNat * 131072 + k.toNat * 16384 + t.toNat * 2048 + p.toNat = _; omega
  have ⟨f0, r0⟩ := RoundTrip.peel (lo := 0) (n := 4) hw p.isLt
  have ⟨f4, r4⟩ := RoundTrip.peel (lo := 4) (n := 7) r0 (by decide)
  have ⟨f11, r11⟩ := RoundTrip.peel (lo := 11) (n := 3) r4 t.isLt
  have ⟨f14, r14⟩ := RoundTrip.peel (lo := 14) (n := 2) r11 k.isLt
  have ⟨f16, r16⟩ := RoundTrip.peel (lo := 16) (n := 1) r14 (by decide)
  have ⟨f17, r17⟩ := RoundTrip.peel (lo := 17) (n := 3) r16 b.isLt
  have ⟨f20, r20⟩ := RoundTrip.peel (lo := 20) (n := 3) r17 a.isLt
  have ⟨f23, r23⟩ := RoundTrip.peel (lo := 23) (n := 3) r20 d.isLt
  have ⟨f26, r26⟩ := RoundTrip.peel (lo := 26) (n := 6) r23 (by decide)
  rw [RoundTrip.decode_encode _ _ he (by omega), RoundTrip.major20 (by rintro rfl; cases f26) f26, decodeMajor20]
  have e : Instr.vmin (.ofNat 3 (w / 8388608)) (.ofNat 3 (w / 1048576)) (.ofNat 3 (w / 131072)) (.ofNat 2 (w / 16384)) (.ofNat 3 (w / 2048)) (.ofNat 4 (w / 1)) = .vmin d a b k t p := by
    rw [RoundTrip.ofNat_field d (w / 8388608) f23, RoundTrip.ofNat_field a (w / 1048576) f20, RoundTrip.ofNat_field b (w / 131072) f17, RoundTrip.ofNat_field k (w / 16384) f14, RoundTrip.ofNat_field t (w / 2048) f11, RoundTrip.ofNat_field p (w / 1) f0]
  rw [show fld w 4 7 = 0x004 from f4]
  exact (if_pos f16).trans (congrArg Except.ok e)

theorem RoundTrip.vmax (d : BitVec 3) (a : BitVec 3) (b : BitVec 3) (k : BitVec 2) (t : BitVec 3) (p : BitVec 4) :
    RoundTrip.Statement (.vmax d a b k t p) := by
  intro _
  obtain ⟨w, hw⟩ : ∃ w, w / 2 ^ 0 = p.toNat + 2 ^ 4 * (0x005 + 2 ^ 7 * (t.toNat + 2 ^ 3 * (k.toNat + 2 ^ 2 * (0 + 2 ^ 1 * (b.toNat + 2 ^ 3 * (a.toNat + 2 ^ 3 * (d.toNat + 2 ^ 3 * (0x20 + 2 ^ 6 * 0)))))))) := ⟨_, Nat.div_one _⟩
  have he : encodeNat (.vmax d a b k t p) = w := by
    rw [← Nat.div_one w]; refine Eq.trans ?_ hw.symm; show 0x80000050 + d.toNat * 8388608 + a.toNat * 1048576 + b.toNat * 131072 + k.toNat * 16384 + t.toNat * 2048 + p.toNat = _; omega
  have ⟨f0, r0⟩ := RoundTrip.peel (lo := 0) (n := 4) hw p.isLt
  have ⟨f4, r4⟩ := RoundTrip.peel (lo := 4) (n := 7) r0 (by decide)
  have ⟨f11, r11⟩ := RoundTrip.peel (lo := 11) (n := 3) r4 t.isLt
  have ⟨f14, r14⟩ := RoundTrip.peel (lo := 14) (n := 2) r11 k.isLt
  have ⟨f16, r16⟩ := RoundTrip.peel (lo := 16) (n := 1) r14 (by decide)
  have ⟨f17, r17⟩ := RoundTrip.peel (lo := 17) (n := 3) r16 b.isLt
  have ⟨f20, r20⟩ := RoundTrip.peel (lo := 20) (n := 3) r17 a.isLt
  have ⟨f23, r23⟩ := RoundTrip.peel (lo := 23) (n := 3) r20 d.isLt
  have ⟨f26, r26⟩ := RoundTrip.peel (lo := 26) (n := 6) r23 (by decide)
  rw [RoundTrip.decode_encode _ _ he (by omega), RoundTrip.major20 (by rintro rfl; cases f26) f26, decodeMajor20]
  have e : Instr.vmax (.ofNat 3 (w / 8388608)) (.ofNat 3 (w / 1048576)) (.ofNat 3 (w / 131072)) (.ofNat 2 (w / 16384)) (.ofNat 3 (w / 2048)) (.ofNat 4 (w / 1)) = .vmax d a b k t p := by
    rw [RoundTrip.ofNat_field d (w / 8388608) f23, RoundTrip.ofNat_field a (w / 1048576) f20, RoundTrip.ofNat_field b (w / 131072) f17, RoundTrip.ofNat_field k (w / 16384) f14, RoundTrip.ofNat_field t (w / 2048) f11, RoundTrip.ofNat_field p (w / 1) f0]
  rw [show fld w 4 7 = 0x005 from f4]
  exact (if_pos f16).trans (congrArg Except.ok e)

theorem RoundTrip.vabs (d : BitVec 3) (a : BitVec 3) (k : BitVec 2) (t : BitVec 3) (p : BitVec 4) :
    RoundTrip.Statement (.vabs d a k t p) := by
  intro _
  obtain ⟨w, hw⟩ : ∃ w, w / 2 ^ 0 = p.toNat + 2 ^ 4 * (0x006 + 2 ^ 7 * (t.toNat + 2 ^ 3 * (k.toNat + 2 ^ 2 * (0 + 2 ^ 4 * (a.toNat + 2 ^ 3 * (d.toNat + 2 ^ 3 * (0x20 + 2 ^ 6 * 0))))))) := ⟨_, Nat.div_one _⟩
  have he : encodeNat (.vabs d a k t p) = w := by
    rw [← Nat.div_one w]; refine Eq.trans ?_ hw.symm; show 0x80000060 + d.toNat * 8388608 + a.toNat * 1048576 + k.toNat * 16384 + t.toNat * 2048 + p.toNat = _; omega
  have ⟨f0, r0⟩ := RoundTrip.peel (lo := 0) (n := 4) hw p.isLt
  have ⟨f4, r4⟩ := RoundTrip.peel (lo := 4) (n := 7) r0 (by decide)
  have ⟨f11, r11⟩ := RoundTrip.peel (lo := 11) (n := 3) r4 t.isLt
  have ⟨f14, r14⟩ := RoundTrip.peel (lo := 14) (n := 2) r11 k.isLt
  have ⟨f16, r16⟩ := RoundTrip.peel (lo := 16) (n := 4) r14 (by decide)
  have ⟨f20, r20⟩ := RoundTrip.peel (lo := 20) (n := 3) r16 a.isLt
  have ⟨f23, r23⟩ := RoundTrip.peel (lo := 23) (n := 3) r20 d.isLt
  have ⟨f26, r26⟩ := RoundTrip.peel (lo := 26) (n := 6) r23 (by decide)
  rw [RoundTrip.decode_encode _ _ he (by omega), RoundTrip.major20 (by rintro rfl; cases f26) f26, decodeMajor20]
  have e : Instr.vabs (.ofNat 3 (w / 8388608)) (.ofNat 3 (w / 1048576)) (.ofNat 2 (w / 16384)) (.ofNat 3 (w / 2048)) (.ofNat 4 (w / 1)) = .vabs d a k t p := by
    rw [RoundTrip.ofNat_field d (w / 8388608) f23, RoundTrip.ofNat_field a (w / 1048576) f20, RoundTrip.ofNat_field k (w / 16384) f14, RoundTrip.ofNat_field t (w / 2048) f11, RoundTrip.ofNat_field p (w / 1) f0]
  rw [show fld w 4 7 = 0x006 from f4]
  exact (if_pos f16).trans (congrArg Except.ok e)

theorem RoundTrip.vneg (d : BitVec 3) (a : BitVec 3) (k : BitVec 2) (t : BitVec 3) (p : BitVec 4) :
    RoundTrip.Statement (.vneg d a k t p) := by
  intro _
  obtain ⟨w, hw⟩ : ∃ w, w / 2 ^ 0 = p.toNat + 2 ^ 4 * (0x007 + 2 ^ 7 * (t.toNat + 2 ^ 3 * (k.toNat + 2 ^ 2 * (0 + 2 ^ 4 * (a.toNat + 2 ^ 3 * (d.toNat + 2 ^ 3 * (0x20 + 2 ^ 6 * 0))))))) := ⟨_, Nat.div_one _⟩
  have he : encodeNat (.vneg d a k t p) = w := by
    rw [← Nat.div_one w]; refine Eq.trans ?_ hw.symm; show 0x80000070 + d.toNat * 8388608 + a.toNat * 1048576 + k.toNat * 16384 + t.toNat * 2048 + p.toNat = _; omega
  have ⟨f0, r0⟩ := RoundTrip.peel (lo := 0) (n := 4) hw p.isLt
  have ⟨f4, r4⟩ := RoundTrip.peel (lo := 4) (n := 7) r0 (by decide)
  have ⟨f11, r11⟩ := RoundTrip.peel (lo := 11) (n := 3) r4 t.isLt
  have ⟨f14, r14⟩ := RoundTrip.peel (lo := 14) (n := 2) r11 k.isLt
  have ⟨f16, r16⟩ := RoundTrip.peel (lo := 16) (n := 4) r14 (by decide)
  have ⟨f20, r20⟩ := RoundTrip.peel (lo := 20) (n := 3) r16 a.isLt
  have ⟨f23, r23⟩ := RoundTrip.peel (lo := 23) (n := 3) r20 d.isLt
  have ⟨f26, r26⟩ := RoundTrip.peel (lo := 26) (n := 6) r23 (by decide)
  rw [RoundTrip.decode_encode _ _ he (by omega), RoundTrip.major20 (by rintro rfl; cases f26) f26, decodeMajor20]
  have e : Instr.vneg (.ofNat 3 (w / 8388608)) (.ofNat 3 (w / 1048576)) (.ofNat 2 (w / 16384)) (.ofNat 3 (w / 2048)) (.ofNat 4 (w / 1)) = .vneg d a k t p := by
    rw [RoundTrip.ofNat_field d (w / 8388608) f23, RoundTrip.ofNat_field a (w / 1048576) f20, RoundTrip.ofNat_field k (w / 16384) f14, RoundTrip.ofNat_field t (w / 2048) f11, RoundTrip.ofNat_field p (w / 1) f0]
  rw [show fld w 4 7 = 0x007 from f4]
  exact (if_pos f16).trans (congrArg Except.ok e)

theorem RoundTrip.vand (d : BitVec 3) (a : BitVec 3) (b : BitVec 3) (k : BitVec 2) (t : BitVec 3) (p : BitVec 4) :
    RoundTrip.Statement (.vand d a b k t p) := by
  intro _
  obtain ⟨w, hw⟩ : ∃ w, w / 2 ^ 0 = p.toNat + 2 ^ 4 * (0x008 + 2 ^ 7 * (t.toNat + 2 ^ 3 * (k.toNat + 2 ^ 2 * (0 + 2 ^ 1 * (b.toNat + 2 ^ 3 * (a.toNat + 2 ^ 3 * (d.toNat + 2 ^ 3 * (0x20 + 2 ^ 6 * 0)))))))) := ⟨_, Nat.div_one _⟩
  have he : encodeNat (.vand d a b k t p) = w := by
    rw [← Nat.div_one w]; refine Eq.trans ?_ hw.symm; show 0x80000080 + d.toNat * 8388608 + a.toNat * 1048576 + b.toNat * 131072 + k.toNat * 16384 + t.toNat * 2048 + p.toNat = _; omega
  have ⟨f0, r0⟩ := RoundTrip.peel (lo := 0) (n := 4) hw p.isLt
  have ⟨f4, r4⟩ := RoundTrip.peel (lo := 4) (n := 7) r0 (by decide)
  have ⟨f11, r11⟩ := RoundTrip.peel (lo := 11) (n := 3) r4 t.isLt
  have ⟨f14, r14⟩ := RoundTrip.peel (lo := 14) (n := 2) r11 k.isLt
  have ⟨f16, r16⟩ := RoundTrip.peel (lo := 16) (n := 1) r14 (by decide)
  have ⟨f17, r17⟩ := RoundTrip.peel (lo := 17) (n := 3) r16 b.isLt
  have ⟨f20, r20⟩ := RoundTrip.peel (lo := 20) (n := 3) r17 a.isLt
  have ⟨f23, r23⟩ := RoundTrip.peel (lo := 23) (n := 3) r20 d.isLt
  have ⟨f26, r26⟩ := RoundTrip.peel (lo := 26) (n := 6) r23 (by decide)
  rw [RoundTrip.decode_encode _ _ he (by omega), RoundTrip.major20 (by rintro rfl; cases f26) f26, decodeMajor20]
  have e : Instr.vand (.ofNat 3 (w / 8388608)) (.ofNat 3 (w / 1048576)) (.ofNat 3 (w / 131072)) (.ofNat 2 (w / 16384)) (.ofNat 3 (w / 2048)) (.ofNat 4 (w / 1)) = .vand d a b k t p := by
    rw [RoundTrip.ofNat_field d (w / 8388608) f23, RoundTrip.ofNat_field a (w / 1048576) f20, RoundTrip.ofNat_field b (w / 131072) f17, RoundTrip.ofNat_field k (w / 16384) f14, RoundTrip.ofNat_field t (w / 2048) f11, RoundTrip.ofNat_field p (w / 1) f0]
  rw [show fld w 4 7 = 0x008 from f4]
  exact (if_pos f16).trans (congrArg Except.ok e)

theorem RoundTrip.vor (d : BitVec 3) (a : BitVec 3) (b : BitVec 3) (k : BitVec 2) (t : BitVec 3) (p : BitVec 4) :
    RoundTrip.Statement (.vor d a b k t p) := by
  intro _
  obtain ⟨w, hw⟩ : ∃ w, w / 2 ^ 0 = p.toNat + 2 ^ 4 * (0x009 + 2 ^ 7 * (t.toNat + 2 ^ 3 * (k.toNat + 2 ^ 2 * (0 + 2 ^ 1 * (b.toNat + 2 ^ 3 * (a.toNat + 2 ^ 3 * (d.toNat + 2 ^ 3 * (0x20 + 2 ^ 6 * 0)))))))) := ⟨_, Nat.div_one _⟩
  have he : encodeNat (.vor d a b k t p) = w := by
    rw [← Nat.div_one w]; refine Eq.trans ?_ hw.symm; show 0x80000090 + d.toNat * 8388608 + a.toNat * 1048576 + b.toNat * 131072 + k.toNat * 16384 + t.toNat * 2048 + p.toNat = _; omega
  have ⟨f0, r0⟩ := RoundTrip.peel (lo := 0) (n := 4) hw p.isLt
  have ⟨f4, r4⟩ := RoundTrip.peel (lo := 4) (n := 7) r0 (by decide)
  have ⟨f11, r11⟩ := RoundTrip.peel (lo := 11) (n := 3) r4 t.isLt
  have ⟨f14, r14⟩ := RoundTrip.peel (lo := 14) (n := 2) r11 k.isLt
  have ⟨f16, r16⟩ := RoundTrip.peel (lo := 16) (n := 1) r14 (by decide)
  have ⟨f17, r17⟩ := RoundTrip.peel (lo := 17) (n := 3) r16 b.isLt
  have ⟨f20, r20⟩ := RoundTrip.peel (lo := 20) (n := 3) r17 a.isLt
  have ⟨f23, r23⟩ := RoundTrip.peel (lo := 23) (n := 3) r20 d.isLt
  have ⟨f26, r26⟩ := RoundTrip.peel (lo := 26) (n := 6) r23 (by decide)
  rw [RoundTrip.decode_encode _ _ he (by omega), RoundTrip.major20 (by rintro rfl; cases f26) f26, decodeMajor20]
  have e : Instr.vor (.ofNat 3 (w / 8388608)) (.ofNat 3 (w / 1048576)) (.ofNat 3 (w / 131072)) (.ofNat 2 (w / 16384)) (.ofNat 3 (w / 2048)) (.ofNat 4 (w / 1)) = .vor d a b k t p := by
    rw [RoundTrip.ofNat_field d (w / 8388608) f23, RoundTrip.ofNat_field a (w / 1048576) f20, RoundTrip.ofNat_field b (w / 131072) f17, RoundTrip.ofNat_field k (w / 16384) f14, RoundTrip.ofNat_field t (w / 2048) f11, RoundTrip.ofNat_field p (w / 1) f0]
  rw [show fld w 4 7 = 0x009 from f4]
  exact (if_pos f16).trans (congrArg Except.ok e)

theorem RoundTrip.vxor (d : BitVec 3) (a : BitVec 3) (b : BitVec 3) (k : BitVec 2) (t : BitVec 3) (p : BitVec 4) :
    RoundTrip.Statement (.vxor d a b k t p) := by
  intro _
  obtain ⟨w, hw⟩ : ∃ w, w / 2 ^ 0 = p.toNat + 2 ^ 4 * (0x00A + 2 ^ 7 * (t.toNat + 2 ^ 3 * (k.toNat + 2 ^ 2 * (0 + 2 ^ 1 * (b.toNat + 2 ^ 3 * (a.toNat + 2 ^ 3 * (d.toNat + 2 ^ 3 * (0x20 + 2 ^ 6 * 0)))))))) := ⟨_, Nat.div_one _⟩
  have he : encodeNat (.vxor d a b k t p) = w := by
    rw [← Nat.div_one w]; refine Eq.trans ?_ hw.symm; show 0x800000A0 + d.toNat * 8388608 + a.toNat * 1048576 + b.toNat * 131072 + k.toNat * 16384 + t.toNat * 2048 + p.toNat = _; omega
  have ⟨f0, r0⟩ := RoundTrip.peel (lo := 0) (n := 4) hw p.isLt
  have ⟨f4, r4⟩ := RoundTrip.peel (lo := 4) (n := 7) r0 (by decide)
  have ⟨f11, r11⟩ := RoundTrip.peel (lo := 11) (n := 3) r4 t.isLt
  have ⟨f14, r14⟩ := RoundTrip.peel (lo := 14) (n := 2) r11 k.isLt
  have ⟨f16, r16⟩ := RoundTrip.peel (lo := 16) (n := 1) r14 (by decide)
  have ⟨f17, r17⟩ := RoundTrip.peel (lo := 17) (n := 3) r16 b.isLt
  have ⟨f20, r20⟩ := RoundTrip.peel (lo := 20) (n := 3) r17 a.isLt
  have ⟨f23, r23⟩ := RoundTrip.peel (lo := 23) (n := 3) r20 d.isLt
  have ⟨f26, r26⟩ := RoundTrip.peel (lo := 26) (n := 6) r23 (by decide)
  rw [RoundTrip.decode_encode _ _ he (by omega), RoundTrip.major20 (by rintro rfl; cases f26) f26, decodeMajor20]
  have e : Instr.vxor (.ofNat 3 (w / 8388608)) (.ofNat 3 (w / 1048576)) (.ofNat 3 (w / 131072)) (.ofNat 2 (w / 16384)) (.ofNat 3 (w / 2048)) (.ofNat 4 (w / 1)) = .vxor d a b k t p := by
    rw [RoundTrip.ofNat_field d (w / 8388608) f23, RoundTrip.ofNat_field a (w / 1048576) f20, RoundTrip.ofNat_field b (w / 131072) f17, RoundTrip.ofNat_field k (w / 16384) f14, RoundTrip.ofNat_field t (w / 2048) f11, RoundTrip.ofNat_field p (w / 1) f0]
  rw [show fld w 4 7 = 0x00A from f4]
  exact (if_pos f16).trans (congrArg Except.ok e)

theorem RoundTrip.vshl (d : BitVec 3) (a : BitVec 3) (b : BitVec 3) (k : BitVec 2) (t : BitVec 3) (p : BitVec 4) :
    RoundTrip.Statement (.vshl d a b k t p) := by
  intro _
  obtain ⟨w, hw⟩ : ∃ w, w / 2 ^ 0 = p.toNat + 2 ^ 4 * (0x00B + 2 ^ 7 * (t.toNat + 2 ^ 3 * (k.toNat + 2 ^ 2 * (0 + 2 ^ 1 * (b.toNat + 2 ^ 3 * (a.toNat + 2 ^ 3 * (d.toNat + 2 ^ 3 * (0x20 + 2 ^ 6 * 0)))))))) := ⟨_, Nat.div_one _⟩
  have he : encodeNat (.vshl d a b k t p) = w := by
    rw [← Nat.div_one w]; refine Eq.trans ?_ hw.symm; show 0x800000B0 + d.toNat * 8388608 + a.toNat * 1048576 + b.toNat * 131072 + k.toNat * 16384 + t.toNat * 2048 + p.toNat = _; omega
  have ⟨f0, r0⟩ := RoundTrip.peel (lo := 0) (n := 4) hw p.isLt
  have ⟨f4, r4⟩ := RoundTrip.peel (lo := 4) (n := 7) r0 (by decide)
  have ⟨f11, r11⟩ := RoundTrip.peel (lo := 11) (n := 3) r4 t.isLt
  have ⟨f14, r14⟩ := RoundTrip.peel (lo := 14) (n := 2) r11 k.isLt
  have ⟨f16, r16⟩ := RoundTrip.peel (lo := 16) (n := 1) r14 (by decide)
  have ⟨f17, r17⟩ := RoundTrip.peel (lo := 17) (n := 3) r16 b.isLt
  have ⟨f20, r20⟩ := RoundTrip.peel (lo := 20) (n := 3) r17 a.isLt
  have ⟨f23, r23⟩ := RoundTrip.peel (lo := 23) (n := 3) r20 d.isLt
  have ⟨f26, r26⟩ := RoundTrip.peel (lo := 26) (n := 6) r23 (by decide)
  rw [RoundTrip.decode_encode _ _ he (by omega), RoundTrip.major20 (by rintro rfl; cases f26) f26, decodeMajor20]
  have e : Instr.vshl (.ofNat 3 (w / 8388608)) (.ofNat 3 (w / 1048576)) (.ofNat 3 (w / 131072)) (.ofNat 2 (w / 16384)) (.ofNat 3 (w / 2048)) (.ofNat 4 (w / 1)) = .vshl d a b k t p := by
    rw [RoundTrip.ofNat_field d (w / 8388608) f23, RoundTrip.ofNat_field a (w / 1048576) f20, RoundTrip.ofNat_field b (w / 131072) f17, RoundTrip.ofNat_field k (w / 16384) f14, RoundTrip.ofNat_field t (w / 2048) f11, RoundTrip.ofNat_field p (w / 1) f0]
  rw [show fld w 4 7 = 0x00B from f4]
  exact (if_pos f16).trans (congrArg Except.ok e)

theorem RoundTrip.vshr (d : BitVec 3) (a : BitVec 3) (b : BitVec 3) (k : BitVec 2) (t : BitVec 3) (p : BitVec 4) :
    RoundTrip.Statement (.vshr d a b k t p) := by
  intro _
  obtain ⟨w, hw⟩ : ∃ w, w / 2 ^ 0 = p.toNat + 2 ^ 4 * (0x00C + 2 ^ 7 * (t.toNat + 2 ^ 3 * (k.toNat + 2 ^ 2 * (0 + 2 ^ 1 * (b.toNat + 2 ^ 3 * (a.toNat + 2 ^ 3 * (d.toNat + 2 ^ 3 * (0x20 + 2 ^ 6 * 0)))))))) := ⟨_, Nat.div_one _⟩
  have he : encodeNat (.vshr d a b k t p) = w := by
    rw [← Nat.div_one w]; refine Eq.trans ?_ hw.symm; show 0x800000C0 + d.toNat * 8388608 + a.toNat * 1048576 + b.toNat * 131072 + k.toNat * 16384 + t.toNat * 2048 + p.toNat = _; omega
  have ⟨f0, r0⟩ := RoundTrip.peel (lo := 0) (n := 4) hw p.isLt
  have ⟨f4, r4⟩ := RoundTrip.peel (lo := 4) (n := 7) r0 (by decide)
  have ⟨f11, r11⟩ := RoundTrip.peel (lo := 11) (n := 3) r4 t.isLt
  have ⟨f14, r14⟩ := RoundTrip.peel (lo := 14) (n := 2) r11 k.isLt
  have ⟨f16, r16⟩ := RoundTrip.peel (lo := 16) (n := 1) r14 (by decide)
  have ⟨f17, r17⟩ := RoundTrip.peel (lo := 17) (n := 3) r16 b.isLt
  have ⟨f20, r20⟩ := RoundTrip.peel (lo := 20) (n := 3) r17 a.isLt
  have ⟨f23, r23⟩ := RoundTrip.peel (lo := 23) (n := 3) r20 d.isLt
  have ⟨f26, r26⟩ := RoundTrip.peel (lo := 26) (n := 6) r23 (by decide)
  rw [RoundTrip.decode_encode _ _ he (by omega), RoundTrip.major20 (by rintro rfl; cases f26) f26, decodeMajor20]
  have e : Instr.vshr (.ofNat 3 (w / 8388608)) (.ofNat 3 (w / 1048576)) (.ofNat 3 (w / 131072)) (.ofNat 2 (w / 16384)) (.ofNat 3 (w / 2048)) (.ofNat 4 (w / 1)) = .vshr d a b k t p := by
    rw [RoundTrip.ofNat_field d (w / 8388608) f23, RoundTrip.ofNat_field a (w / 1048576) f20, RoundTrip.ofNat_field b (w / 131072) f17, RoundTrip.ofNat_field k (w / 16384) f14, RoundTrip.ofNat_field t (w / 2048) f11, RoundTrip.ofNat_field p (w / 1) f0]
  rw [show fld w 4 7 = 0x00C from f4]
  exact (if_pos f16).trans (congrArg Except.ok e)

theorem RoundTrip.vcvt (d : BitVec 3) (a : BitVec 3) (r : BitVec 2) (t : BitVec 3) (o : BitVec 3) (p : BitVec 4) :
    RoundTrip.Statement (.vcvt d a r t o p) := by
  intro _
  obtain ⟨w, hw⟩ : ∃ w, w / 2 ^ 0 = p.toNat + 2 ^ 4 * (o.toNat + 2 ^ 3 * (0x0 + 2 ^ 4 * (t.toNat + 2 ^ 3 * (r.toNat + 2 ^ 2 * (0 + 2 ^ 4 * (a.toNat + 2 ^ 3 * (d.toNat + 2 ^ 3 * (0x21 + 2 ^ 6 * 0)))))))) := ⟨_, Nat.div_one _⟩
  have he : encodeNat (.vcvt d a r t o p) = w := by
    rw [← Nat.div_one w]; refine Eq.trans ?_ hw.symm; show 0x84000000 + d.toNat * 8388608 + a.toNat * 1048576 + r.toNat * 16384 + t.toNat * 2048 + o.toNat * 16 + p.toNat = _; omega
  have ⟨f0, r0⟩ := RoundTrip.peel (lo := 0) (n := 4) hw p.isLt
  have ⟨f4, r4⟩ := RoundTrip.peel (lo := 4) (n := 3) r0 o.isLt
  have ⟨f7, r7⟩ := RoundTrip.peel (lo := 7) (n := 4) r4 (by decide)
  have ⟨f11, r11⟩ := RoundTrip.peel (lo := 11) (n := 3) r7 t.isLt
  have ⟨f14, r14⟩ := RoundTrip.peel (lo := 14) (n := 2) r11 r.isLt
  have ⟨f16, r16⟩ := RoundTrip.peel (lo := 16) (n := 4) r14 (by decide)
  have ⟨f20, r20⟩ := RoundTrip.peel (lo := 20) (n := 3) r16 a.isLt
  have ⟨f23, r23⟩ := RoundTrip.peel (lo := 23) (n := 3) r20 d.isLt
  have ⟨f26, r26⟩ := RoundTrip.peel (lo := 26) (n := 6) r23 (by decide)
  rw [RoundTrip.decode_encode _ _ he (by omega), RoundTrip.major21 (by rintro rfl; cases f26) f26, decodeMajor21]
  have e : Instr.vcvt (.ofNat 3 (w / 8388608)) (.ofNat 3 (w / 1048576)) (.ofNat 2 (w / 16384)) (.ofNat 3 (w / 2048)) (.ofNat 3 (w / 16)) (.ofNat 4 (w / 1)) = .vcvt d a r t o p := by
    rw [RoundTrip.ofNat_field d (w / 8388608) f23, RoundTrip.ofNat_field a (w / 1048576) f20, RoundTrip.ofNat_field r (w / 16384) f14, RoundTrip.ofNat_field t (w / 2048) f11, RoundTrip.ofNat_field o (w / 16) f4, RoundTrip.ofNat_field p (w / 1) f0]
  rcases (show fld w 4 7 = 0x000 ∨ fld w 4 7 = 0x001 ∨ fld w 4 7 = 0x002 ∨ fld w 4 7 = 0x003 ∨ fld w 4 7 = 0x004 ∨ fld w 4 7 = 0x005 ∨ fld w 4 7 = 0x006 ∨ fld w 4 7 = 0x007 by unfold fld; omega) with hs | hs | hs | hs | hs | hs | hs | hs <;>
    (rw [hs]; exact (if_pos f16).trans (congrArg Except.ok e))

theorem RoundTrip.vperm (d : BitVec 3) (a : BitVec 3) (b : BitVec 3) (k : BitVec 2) (t : BitVec 3) (p : BitVec 4) :
    RoundTrip.Statement (.vperm d a b k t p) := by
  intro _
  obtain ⟨w, hw⟩ : ∃ w, w / 2 ^ 0 = p.toNat + 2 ^ 4 * (0x010 + 2 ^ 7 * (t.toNat + 2 ^ 3 * (k.toNat + 2 ^ 2 * (0 + 2 ^ 1 * (b.toNat + 2 ^ 3 * (a.toNat + 2 ^ 3 * (d.toNat + 2 ^ 3 * (0x21 + 2 ^ 6 * 0)))))))) := ⟨_, Nat.div_one _⟩
  have he : encodeNat (.vperm d a b k t p) = w := by
    rw [← Nat.div_one w]; refine Eq.trans ?_ hw.symm; show 0x84000100 + d.toNat * 8388608 + a.toNat * 1048576 + b.toNat * 131072 + k.toNat * 16384 + t.toNat * 2048 + p.toNat = _; omega
  have ⟨f0, r0⟩ := RoundTrip.peel (lo := 0) (n := 4) hw p.isLt
  have ⟨f4, r4⟩ := RoundTrip.peel (lo := 4) (n := 7) r0 (by decide)
  have ⟨f11, r11⟩ := RoundTrip.peel (lo := 11) (n := 3) r4 t.isLt
  have ⟨f14, r14⟩ := RoundTrip.peel (lo := 14) (n := 2) r11 k.isLt
  have ⟨f16, r16⟩ := RoundTrip.peel (lo := 16) (n := 1) r14 (by decide)
  have ⟨f17, r17⟩ := RoundTrip.peel (lo := 17) (n := 3) r16 b.isLt
  have ⟨f20, r20⟩ := RoundTrip.peel (lo := 20) (n := 3) r17 a.isLt
  have ⟨f23, r23⟩ := RoundTrip.peel (lo := 23) (n := 3) r20 d.isLt
  have ⟨f26, r26⟩ := RoundTrip.peel (lo := 26) (n := 6) r23 (by decide)
  rw [RoundTrip.decode_encode _ _ he (by omega), RoundTrip.major21 (by rintro rfl; cases f26) f26, decodeMajor21]
  have e : Instr.vperm (.ofNat 3 (w / 8388608)) (.ofNat 3 (w / 1048576)) (.ofNat 3 (w / 131072)) (.ofNat 2 (w / 16384)) (.ofNat 3 (w / 2048)) (.ofNat 4 (w / 1)) = .vperm d a b k t p := by
    rw [RoundTrip.ofNat_field d (w / 8388608) f23, RoundTrip.ofNat_field a (w / 1048576) f20, RoundTrip.ofNat_field b (w / 131072) f17, RoundTrip.ofNat_field k (w / 16384) f14, RoundTrip.ofNat_field t (w / 2048) f11, RoundTrip.ofNat_field p (w / 1) f0]
  rw [show fld w 4 7 = 0x010 from f4]
  exact (if_pos f16).trans (congrArg Except.ok e)

theorem RoundTrip.vbcast (g : BitVec 4) (v : BitVec 3) (t : BitVec 3) (p : BitVec 4) :
    RoundTrip.Statement (.vbcast g v t p) := by
  intro _
  obtain ⟨w, hw⟩ : ∃ w, w / 2 ^ 0 = p.toNat + 2 ^ 4 * (0x011 + 2 ^ 7 * (t.toNat + 2 ^ 3 * (0 + 2 ^ 1 * (v.toNat + 2 ^ 3 * (0 + 2 ^ 4 * (g.toNat + 2 ^ 4 * (0x21 + 2 ^ 6 * 0))))))) := ⟨_, Nat.div_one _⟩
  have he : encodeNat (.vbcast g v t p) = w := by
    rw [← Nat.div_one w]; refine Eq.trans ?_ hw.symm; show 0x84000110 + g.toNat * 4194304 + v.toNat * 32768 + t.toNat * 2048 + p.toNat = _; omega
  have ⟨f0, r0⟩ := RoundTrip.peel (lo := 0) (n := 4) hw p.isLt
  have ⟨f4, r4⟩ := RoundTrip.peel (lo := 4) (n := 7) r0 (by decide)
  have ⟨f11, r11⟩ := RoundTrip.peel (lo := 11) (n := 3) r4 t.isLt
  have ⟨f14, r14⟩ := RoundTrip.peel (lo := 14) (n := 1) r11 (by decide)
  have ⟨f15, r15⟩ := RoundTrip.peel (lo := 15) (n := 3) r14 v.isLt
  have ⟨f18, r18⟩ := RoundTrip.peel (lo := 18) (n := 4) r15 (by decide)
  have ⟨f22, r22⟩ := RoundTrip.peel (lo := 22) (n := 4) r18 g.isLt
  have ⟨f26, r26⟩ := RoundTrip.peel (lo := 26) (n := 6) r22 (by decide)
  rw [RoundTrip.decode_encode _ _ he (by omega), RoundTrip.major21 (by rintro rfl; cases f26) f26, decodeMajor21]
  have e : Instr.vbcast (.ofNat 4 (w / 4194304)) (.ofNat 3 (w / 32768)) (.ofNat 3 (w / 2048)) (.ofNat 4 (w / 1)) = .vbcast g v t p := by
    rw [RoundTrip.ofNat_field g (w / 4194304) f22, RoundTrip.ofNat_field v (w / 32768) f15, RoundTrip.ofNat_field t (w / 2048) f11, RoundTrip.ofNat_field p (w / 1) f0]
  rw [show fld w 4 7 = 0x011 from f4]
  exact (if_pos ⟨f14, f18⟩).trans (congrArg Except.ok e)

theorem RoundTrip.vext (g : BitVec 4) (i : BitVec 4) (v : BitVec 3) (t : BitVec 3) (p : BitVec 4) :
    RoundTrip.Statement (.vext g i v t p) := by
  intro _
  obtain ⟨w, hw⟩ : ∃ w, w / 2 ^ 0 = p.toNat + 2 ^ 4 * (0x012 + 2 ^ 7 * (t.toNat + 2 ^ 3 * (0 + 2 ^ 1 * (v.toNat + 2 ^ 3 * (i.toNat + 2 ^ 4 * (g.toNat + 2 ^ 4 * (0x21 + 2 ^ 6 * 0))))))) := ⟨_, Nat.div_one _⟩
  have he : encodeNat (.vext g i v t p) = w := by
    rw [← Nat.div_one w]; refine Eq.trans ?_ hw.symm; show 0x84000120 + g.toNat * 4194304 + i.toNat * 262144 + v.toNat * 32768 + t.toNat * 2048 + p.toNat = _; omega
  have ⟨f0, r0⟩ := RoundTrip.peel (lo := 0) (n := 4) hw p.isLt
  have ⟨f4, r4⟩ := RoundTrip.peel (lo := 4) (n := 7) r0 (by decide)
  have ⟨f11, r11⟩ := RoundTrip.peel (lo := 11) (n := 3) r4 t.isLt
  have ⟨f14, r14⟩ := RoundTrip.peel (lo := 14) (n := 1) r11 (by decide)
  have ⟨f15, r15⟩ := RoundTrip.peel (lo := 15) (n := 3) r14 v.isLt
  have ⟨f18, r18⟩ := RoundTrip.peel (lo := 18) (n := 4) r15 i.isLt
  have ⟨f22, r22⟩ := RoundTrip.peel (lo := 22) (n := 4) r18 g.isLt
  have ⟨f26, r26⟩ := RoundTrip.peel (lo := 26) (n := 6) r22 (by decide)
  rw [RoundTrip.decode_encode _ _ he (by omega), RoundTrip.major21 (by rintro rfl; cases f26) f26, decodeMajor21]
  have e : Instr.vext (.ofNat 4 (w / 4194304)) (.ofNat 4 (w / 262144)) (.ofNat 3 (w / 32768)) (.ofNat 3 (w / 2048)) (.ofNat 4 (w / 1)) = .vext g i v t p := by
    rw [RoundTrip.ofNat_field g (w / 4194304) f22, RoundTrip.ofNat_field i (w / 262144) f18, RoundTrip.ofNat_field v (w / 32768) f15, RoundTrip.ofNat_field t (w / 2048) f11, RoundTrip.ofNat_field p (w / 1) f0]
  rw [show fld w 4 7 = 0x012 from f4]
  exact (if_pos f14).trans (congrArg Except.ok e)

theorem RoundTrip.vins (g : BitVec 4) (i : BitVec 4) (v : BitVec 3) (t : BitVec 3) (p : BitVec 4) :
    RoundTrip.Statement (.vins g i v t p) := by
  intro _
  obtain ⟨w, hw⟩ : ∃ w, w / 2 ^ 0 = p.toNat + 2 ^ 4 * (0x013 + 2 ^ 7 * (t.toNat + 2 ^ 3 * (0 + 2 ^ 1 * (v.toNat + 2 ^ 3 * (i.toNat + 2 ^ 4 * (g.toNat + 2 ^ 4 * (0x21 + 2 ^ 6 * 0))))))) := ⟨_, Nat.div_one _⟩
  have he : encodeNat (.vins g i v t p) = w := by
    rw [← Nat.div_one w]; refine Eq.trans ?_ hw.symm; show 0x84000130 + g.toNat * 4194304 + i.toNat * 262144 + v.toNat * 32768 + t.toNat * 2048 + p.toNat = _; omega
  have ⟨f0, r0⟩ := RoundTrip.peel (lo := 0) (n := 4) hw p.isLt
  have ⟨f4, r4⟩ := RoundTrip.peel (lo := 4) (n := 7) r0 (by decide)
  have ⟨f11, r11⟩ := RoundTrip.peel (lo := 11) (n := 3) r4 t.isLt
  have ⟨f14, r14⟩ := RoundTrip.peel (lo := 14) (n := 1) r11 (by decide)
  have ⟨f15, r15⟩ := RoundTrip.peel (lo := 15) (n := 3) r14 v.isLt
  have ⟨f18, r18⟩ := RoundTrip.peel (lo := 18) (n := 4) r15 i.isLt
  have ⟨f22, r22⟩ := RoundTrip.peel (lo := 22) (n := 4) r18 g.isLt
  have ⟨f26, r26⟩ := RoundTrip.peel (lo := 26) (n := 6) r22 (by decide)
  rw [RoundTrip.decode_encode _ _ he (by omega), RoundTrip.major21 (by rintro rfl; cases f26) f26, decodeMajor21]
  have e : Instr.vins (.ofNat 4 (w / 4194304)) (.ofNat 4 (w / 262144)) (.ofNat 3 (w / 32768)) (.ofNat 3 (w / 2048)) (.ofNat 4 (w / 1)) = .vins g i v t p := by
    rw [RoundTrip.ofNat_field g (w / 4194304) f22, RoundTrip.ofNat_field i (w / 262144) f18, RoundTrip.ofNat_field v (w / 32768) f15, RoundTrip.ofNat_field t (w / 2048) f11, RoundTrip.ofNat_field p (w / 1) f0]
  rw [show fld w 4 7 = 0x013 from f4]
  exact (if_pos f14).trans (congrArg Except.ok e)

theorem RoundTrip.vrcp (d : BitVec 3) (a : BitVec 3) (k : BitVec 2) (t : BitVec 3) (p : BitVec 4) :
    RoundTrip.Statement (.vrcp d a k t p) := by
  intro _
  obtain ⟨w, hw⟩ : ∃ w, w / 2 ^ 0 = p.toNat + 2 ^ 4 * (0x000 + 2 ^ 7 * (t.toNat + 2 ^ 3 * (k.toNat + 2 ^ 2 * (0 + 2 ^ 4 * (a.toNat + 2 ^ 3 * (d.toNat + 2 ^ 3 * (0x22 + 2 ^ 6 * 0))))))) := ⟨_, Nat.div_one _⟩
  have he : encodeNat (.vrcp d a k t p) = w := by
    rw [← Nat.div_one w]; refine Eq.trans ?_ hw.symm; show 0x88000000 + d.toNat * 8388608 + a.toNat * 1048576 + k.toNat * 16384 + t.toNat * 2048 + p.toNat = _; omega
  have ⟨f0, r0⟩ := RoundTrip.peel (lo := 0) (n := 4) hw p.isLt
  have ⟨f4, r4⟩ := RoundTrip.peel (lo := 4) (n := 7) r0 (by decide)
  have ⟨f11, r11⟩ := RoundTrip.peel (lo := 11) (n := 3) r4 t.isLt
  have ⟨f14, r14⟩ := RoundTrip.peel (lo := 14) (n := 2) r11 k.isLt
  have ⟨f16, r16⟩ := RoundTrip.peel (lo := 16) (n := 4) r14 (by decide)
  have ⟨f20, r20⟩ := RoundTrip.peel (lo := 20) (n := 3) r16 a.isLt
  have ⟨f23, r23⟩ := RoundTrip.peel (lo := 23) (n := 3) r20 d.isLt
  have ⟨f26, r26⟩ := RoundTrip.peel (lo := 26) (n := 6) r23 (by decide)
  rw [RoundTrip.decode_encode _ _ he (by omega), RoundTrip.major22 (by rintro rfl; cases f26) f26, decodeMajor22]
  have e : Instr.vrcp (.ofNat 3 (w / 8388608)) (.ofNat 3 (w / 1048576)) (.ofNat 2 (w / 16384)) (.ofNat 3 (w / 2048)) (.ofNat 4 (w / 1)) = .vrcp d a k t p := by
    rw [RoundTrip.ofNat_field d (w / 8388608) f23, RoundTrip.ofNat_field a (w / 1048576) f20, RoundTrip.ofNat_field k (w / 16384) f14, RoundTrip.ofNat_field t (w / 2048) f11, RoundTrip.ofNat_field p (w / 1) f0]
  rw [show fld w 4 7 = 0x000 from f4]
  exact (if_pos f16).trans (congrArg Except.ok e)

theorem RoundTrip.vrsq (d : BitVec 3) (a : BitVec 3) (k : BitVec 2) (t : BitVec 3) (p : BitVec 4) :
    RoundTrip.Statement (.vrsq d a k t p) := by
  intro _
  obtain ⟨w, hw⟩ : ∃ w, w / 2 ^ 0 = p.toNat + 2 ^ 4 * (0x001 + 2 ^ 7 * (t.toNat + 2 ^ 3 * (k.toNat + 2 ^ 2 * (0 + 2 ^ 4 * (a.toNat + 2 ^ 3 * (d.toNat + 2 ^ 3 * (0x22 + 2 ^ 6 * 0))))))) := ⟨_, Nat.div_one _⟩
  have he : encodeNat (.vrsq d a k t p) = w := by
    rw [← Nat.div_one w]; refine Eq.trans ?_ hw.symm; show 0x88000010 + d.toNat * 8388608 + a.toNat * 1048576 + k.toNat * 16384 + t.toNat * 2048 + p.toNat = _; omega
  have ⟨f0, r0⟩ := RoundTrip.peel (lo := 0) (n := 4) hw p.isLt
  have ⟨f4, r4⟩ := RoundTrip.peel (lo := 4) (n := 7) r0 (by decide)
  have ⟨f11, r11⟩ := RoundTrip.peel (lo := 11) (n := 3) r4 t.isLt
  have ⟨f14, r14⟩ := RoundTrip.peel (lo := 14) (n := 2) r11 k.isLt
  have ⟨f16, r16⟩ := RoundTrip.peel (lo := 16) (n := 4) r14 (by decide)
  have ⟨f20, r20⟩ := RoundTrip.peel (lo := 20) (n := 3) r16 a.isLt
  have ⟨f23, r23⟩ := RoundTrip.peel (lo := 23) (n := 3) r20 d.isLt
  have ⟨f26, r26⟩ := RoundTrip.peel (lo := 26) (n := 6) r23 (by decide)
  rw [RoundTrip.decode_encode _ _ he (by omega), RoundTrip.major22 (by rintro rfl; cases f26) f26, decodeMajor22]
  have e : Instr.vrsq (.ofNat 3 (w / 8388608)) (.ofNat 3 (w / 1048576)) (.ofNat 2 (w / 16384)) (.ofNat 3 (w / 2048)) (.ofNat 4 (w / 1)) = .vrsq d a k t p := by
    rw [RoundTrip.ofNat_field d (w / 8388608) f23, RoundTrip.ofNat_field a (w / 1048576) f20, RoundTrip.ofNat_field k (w / 16384) f14, RoundTrip.ofNat_field t (w / 2048) f11, RoundTrip.ofNat_field p (w / 1) f0]
  rw [show fld w 4 7 = 0x001 from f4]
  exact (if_pos f16).trans (congrArg Except.ok e)

theorem RoundTrip.vexp2 (d : BitVec 3) (a : BitVec 3) (k : BitVec 2) (t : BitVec 3) (p : BitVec 4) :
    RoundTrip.Statement (.vexp2 d a k t p) := by
  intro _
  obtain ⟨w, hw⟩ : ∃ w, w / 2 ^ 0 = p.toNat + 2 ^ 4 * (0x002 + 2 ^ 7 * (t.toNat + 2 ^ 3 * (k.toNat + 2 ^ 2 * (0 + 2 ^ 4 * (a.toNat + 2 ^ 3 * (d.toNat + 2 ^ 3 * (0x22 + 2 ^ 6 * 0))))))) := ⟨_, Nat.div_one _⟩
  have he : encodeNat (.vexp2 d a k t p) = w := by
    rw [← Nat.div_one w]; refine Eq.trans ?_ hw.symm; show 0x88000020 + d.toNat * 8388608 + a.toNat * 1048576 + k.toNat * 16384 + t.toNat * 2048 + p.toNat = _; omega
  have ⟨f0, r0⟩ := RoundTrip.peel (lo := 0) (n := 4) hw p.isLt
  have ⟨f4, r4⟩ := RoundTrip.peel (lo := 4) (n := 7) r0 (by decide)
  have ⟨f11, r11⟩ := RoundTrip.peel (lo := 11) (n := 3) r4 t.isLt
  have ⟨f14, r14⟩ := RoundTrip.peel (lo := 14) (n := 2) r11 k.isLt
  have ⟨f16, r16⟩ := RoundTrip.peel (lo := 16) (n := 4) r14 (by decide)
  have ⟨f20, r20⟩ := RoundTrip.peel (lo := 20) (n := 3) r16 a.isLt
  have ⟨f23, r23⟩ := RoundTrip.peel (lo := 23) (n := 3) r20 d.isLt
  have ⟨f26, r26⟩ := RoundTrip.peel (lo := 26) (n := 6) r23 (by decide)
  rw [RoundTrip.decode_encode _ _ he (by omega), RoundTrip.major22 (by rintro rfl; cases f26) f26, decodeMajor22]
  have e : Instr.vexp2 (.ofNat 3 (w / 8388608)) (.ofNat 3 (w / 1048576)) (.ofNat 2 (w / 16384)) (.ofNat 3 (w / 2048)) (.ofNat 4 (w / 1)) = .vexp2 d a k t p := by
    rw [RoundTrip.ofNat_field d (w / 8388608) f23, RoundTrip.ofNat_field a (w / 1048576) f20, RoundTrip.ofNat_field k (w / 16384) f14, RoundTrip.ofNat_field t (w / 2048) f11, RoundTrip.ofNat_field p (w / 1) f0]
  rw [show fld w 4 7 = 0x002 from f4]
  exact (if_pos f16).trans (congrArg Except.ok e)

theorem RoundTrip.vlog2 (d : BitVec 3) (a : BitVec 3) (k : BitVec 2) (t : BitVec 3) (p : BitVec 4) :
    RoundTrip.Statement (.vlog2 d a k t p) := by
  intro _
  obtain ⟨w, hw⟩ : ∃ w, w / 2 ^ 0 = p.toNat + 2 ^ 4 * (0x003 + 2 ^ 7 * (t.toNat + 2 ^ 3 * (k.toNat + 2 ^ 2 * (0 + 2 ^ 4 * (a.toNat + 2 ^ 3 * (d.toNat + 2 ^ 3 * (0x22 + 2 ^ 6 * 0))))))) := ⟨_, Nat.div_one _⟩
  have he : encodeNat (.vlog2 d a k t p) = w := by
    rw [← Nat.div_one w]; refine Eq.trans ?_ hw.symm; show 0x88000030 + d.toNat * 8388608 + a.toNat * 1048576 + k.toNat * 16384 + t.toNat * 2048 + p.toNat = _; omega
  have ⟨f0, r0⟩ := RoundTrip.peel (lo := 0) (n := 4) hw p.isLt
  have ⟨f4, r4⟩ := RoundTrip.peel (lo := 4) (n := 7) r0 (by decide)
  have ⟨f11, r11⟩ := RoundTrip.peel (lo := 11) (n := 3) r4 t.isLt
  have ⟨f14, r14⟩ := RoundTrip.peel (lo := 14) (n := 2) r11 k.isLt
  have ⟨f16, r16⟩ := RoundTrip.peel (lo := 16) (n := 4) r14 (by decide)
  have ⟨f20, r20⟩ := RoundTrip.peel (lo := 20) (n := 3) r16 a.isLt
  have ⟨f23, r23⟩ := RoundTrip.peel (lo := 23) (n := 3) r20 d.isLt
  have ⟨f26, r26⟩ := RoundTrip.peel (lo := 26) (n := 6) r23 (by decide)
  rw [RoundTrip.decode_encode _ _ he (by omega), RoundTrip.major22 (by rintro rfl; cases f26) f26, decodeMajor22]
  have e : Instr.vlog2 (.ofNat 3 (w / 8388608)) (.ofNat 3 (w / 1048576)) (.ofNat 2 (w / 16384)) (.ofNat 3 (w / 2048)) (.ofNat 4 (w / 1)) = .vlog2 d a k t p := by
    rw [RoundTrip.ofNat_field d (w / 8388608) f23, RoundTrip.ofNat_field a (w / 1048576) f20, RoundTrip.ofNat_field k (w / 16384) f14, RoundTrip.ofNat_field t (w / 2048) f11, RoundTrip.ofNat_field p (w / 1) f0]
  rw [show fld w 4 7 = 0x003 from f4]
  exact (if_pos f16).trans (congrArg Except.ok e)

theorem RoundTrip.vredSum (g : BitVec 4) (k : BitVec 2) (v : BitVec 3) (t : BitVec 3) (p : BitVec 4) :
    RoundTrip.Statement (.vredSum g k v t p) := by
  intro _
  obtain ⟨w, hw⟩ : ∃ w, w / 2 ^ 0 = p.toNat + 2 ^ 4 * (0x000 + 2 ^ 7 * (t.toNat + 2 ^ 3 * (0 + 2 ^ 1 * (v.toNat + 2 ^ 3 * (k.toNat + 2 ^ 2 * (0 + 2 ^ 2 * (g.toNat + 2 ^ 4 * (0x23 + 2 ^ 6 * 0)))))))) := ⟨_, Nat.div_one _⟩
  have he : encodeNat (.vredSum g k v t p) = w := by
    rw [← Nat.div_one w]; refine Eq.trans ?_ hw.symm; show 0x8C000000 + g.toNat * 4194304 + k.toNat * 262144 + v.toNat * 32768 + t.toNat * 2048 + p.toNat = _; omega
  have ⟨f0, r0⟩ := RoundTrip.peel (lo := 0) (n := 4) hw p.isLt
  have ⟨f4, r4⟩ := RoundTrip.peel (lo := 4) (n := 7) r0 (by decide)
  have ⟨f11, r11⟩ := RoundTrip.peel (lo := 11) (n := 3) r4 t.isLt
  have ⟨f14, r14⟩ := RoundTrip.peel (lo := 14) (n := 1) r11 (by decide)
  have ⟨f15, r15⟩ := RoundTrip.peel (lo := 15) (n := 3) r14 v.isLt
  have ⟨f18, r18⟩ := RoundTrip.peel (lo := 18) (n := 2) r15 k.isLt
  have ⟨f20, r20⟩ := RoundTrip.peel (lo := 20) (n := 2) r18 (by decide)
  have ⟨f22, r22⟩ := RoundTrip.peel (lo := 22) (n := 4) r20 g.isLt
  have ⟨f26, r26⟩ := RoundTrip.peel (lo := 26) (n := 6) r22 (by decide)
  rw [RoundTrip.decode_encode _ _ he (by omega), RoundTrip.major23 (by rintro rfl; cases f26) f26, decodeMajor23]
  have e : Instr.vredSum (.ofNat 4 (w / 4194304)) (.ofNat 2 (w / 262144)) (.ofNat 3 (w / 32768)) (.ofNat 3 (w / 2048)) (.ofNat 4 (w / 1)) = .vredSum g k v t p := by
    rw [RoundTrip.ofNat_field g (w / 4194304) f22, RoundTrip.ofNat_field k (w / 262144) f18, RoundTrip.ofNat_field v (w / 32768) f15, RoundTrip.ofNat_field t (w / 2048) f11, RoundTrip.ofNat_field p (w / 1) f0]
  rw [show fld w 4 7 = 0x000 from f4]
  exact (if_pos ⟨f14, f20⟩).trans (congrArg Except.ok e)

theorem RoundTrip.vredMin (g : BitVec 4) (k : BitVec 2) (v : BitVec 3) (t : BitVec 3) (p : BitVec 4) :
    RoundTrip.Statement (.vredMin g k v t p) := by
  intro _
  obtain ⟨w, hw⟩ : ∃ w, w / 2 ^ 0 = p.toNat + 2 ^ 4 * (0x001 + 2 ^ 7 * (t.toNat + 2 ^ 3 * (0 + 2 ^ 1 * (v.toNat + 2 ^ 3 * (k.toNat + 2 ^ 2 * (0 + 2 ^ 2 * (g.toNat + 2 ^ 4 * (0x23 + 2 ^ 6 * 0)))))))) := ⟨_, Nat.div_one _⟩
  have he : encodeNat (.vredMin g k v t p) = w := by
    rw [← Nat.div_one w]; refine Eq.trans ?_ hw.symm; show 0x8C000010 + g.toNat * 4194304 + k.toNat * 262144 + v.toNat * 32768 + t.toNat * 2048 + p.toNat = _; omega
  have ⟨f0, r0⟩ := RoundTrip.peel (lo := 0) (n := 4) hw p.isLt
  have ⟨f4, r4⟩ := RoundTrip.peel (lo := 4) (n := 7) r0 (by decide)
  have ⟨f11, r11⟩ := RoundTrip.peel (lo := 11) (n := 3) r4 t.isLt
  have ⟨f14, r14⟩ := RoundTrip.peel (lo := 14) (n := 1) r11 (by decide)
  have ⟨f15, r15⟩ := RoundTrip.peel (lo := 15) (n := 3) r14 v.isLt
  have ⟨f18, r18⟩ := RoundTrip.peel (lo := 18) (n := 2) r15 k.isLt
  have ⟨f20, r20⟩ := RoundTrip.peel (lo := 20) (n := 2) r18 (by decide)
  have ⟨f22, r22⟩ := RoundTrip.peel (lo := 22) (n := 4) r20 g.isLt
  have ⟨f26, r26⟩ := RoundTrip.peel (lo := 26) (n := 6) r22 (by decide)
  rw [RoundTrip.decode_encode _ _ he (by omega), RoundTrip.major23 (by rintro rfl; cases f26) f26, decodeMajor23]
  have e : Instr.vredMin (.ofNat 4 (w / 4194304)) (.ofNat 2 (w / 262144)) (.ofNat 3 (w / 32768)) (.ofNat 3 (w / 2048)) (.ofNat 4 (w / 1)) = .vredMin g k v t p := by
    rw [RoundTrip.ofNat_field g (w / 4194304) f22, RoundTrip.ofNat_field k (w / 262144) f18, RoundTrip.ofNat_field v (w / 32768) f15, RoundTrip.ofNat_field t (w / 2048) f11, RoundTrip.ofNat_field p (w / 1) f0]
  rw [show fld w 4 7 = 0x001 from f4]
  exact (if_pos ⟨f14, f20⟩).trans (congrArg Except.ok e)

theorem RoundTrip.vredMax (g : BitVec 4) (k : BitVec 2) (v : BitVec 3) (t : BitVec 3) (p : BitVec 4) :
    RoundTrip.Statement (.vredMax g k v t p) := by
  intro _
  obtain ⟨w, hw⟩ : ∃ w, w / 2 ^ 0 = p.toNat + 2 ^ 4 * (0x002 + 2 ^ 7 * (t.toNat + 2 ^ 3 * (0 + 2 ^ 1 * (v.toNat + 2 ^ 3 * (k.toNat + 2 ^ 2 * (0 + 2 ^ 2 * (g.toNat + 2 ^ 4 * (0x23 + 2 ^ 6 * 0)))))))) := ⟨_, Nat.div_one _⟩
  have he : encodeNat (.vredMax g k v t p) = w := by
    rw [← Nat.div_one w]; refine Eq.trans ?_ hw.symm; show 0x8C000020 + g.toNat * 4194304 + k.toNat * 262144 + v.toNat * 32768 + t.toNat * 2048 + p.toNat = _; omega
  have ⟨f0, r0⟩ := RoundTrip.peel (lo := 0) (n := 4) hw p.isLt
  have ⟨f4, r4⟩ := RoundTrip.peel (lo := 4) (n := 7) r0 (by decide)
  have ⟨f11, r11⟩ := RoundTrip.peel (lo := 11) (n := 3) r4 t.isLt
  have ⟨f14, r14⟩ := RoundTrip.peel (lo := 14) (n := 1) r11 (by decide)
  have ⟨f15, r15⟩ := RoundTrip.peel (lo := 15) (n := 3) r14 v.isLt
  have ⟨f18, r18⟩ := RoundTrip.peel (lo := 18) (n := 2) r15 k.isLt
  have ⟨f20, r20⟩ := RoundTrip.peel (lo := 20) (n := 2) r18 (by decide)
  have ⟨f22, r22⟩ := RoundTrip.peel (lo := 22) (n := 4) r20 g.isLt
  have ⟨f26, r26⟩ := RoundTrip.peel (lo := 26) (n := 6) r22 (by decide)
  rw [RoundTrip.decode_encode _ _ he (by omega), RoundTrip.major23 (by rintro rfl; cases f26) f26, decodeMajor23]
  have e : Instr.vredMax (.ofNat 4 (w / 4194304)) (.ofNat 2 (w / 262144)) (.ofNat 3 (w / 32768)) (.ofNat 3 (w / 2048)) (.ofNat 4 (w / 1)) = .vredMax g k v t p := by
    rw [RoundTrip.ofNat_field g (w / 4194304) f22, RoundTrip.ofNat_field k (w / 262144) f18, RoundTrip.ofNat_field v (w / 32768) f15, RoundTrip.ofNat_field t (w / 2048) f11, RoundTrip.ofNat_field p (w / 1) f0]
  rw [show fld w 4 7 = 0x002 from f4]
  exact (if_pos ⟨f14, f20⟩).trans (congrArg Except.ok e)

theorem RoundTrip.vscan (d : BitVec 3) (a : BitVec 3) (k : BitVec 2) (t : BitVec 3) (p : BitVec 4) :
    RoundTrip.Statement (.vscan d a k t p) := by
  intro _
  obtain ⟨w, hw⟩ : ∃ w, w / 2 ^ 0 = p.toNat + 2 ^ 4 * (0x010 + 2 ^ 7 * (t.toNat + 2 ^ 3 * (k.toNat + 2 ^ 2 * (0 + 2 ^ 4 * (a.toNat + 2 ^ 3 * (d.toNat + 2 ^ 3 * (0x23 + 2 ^ 6 * 0))))))) := ⟨_, Nat.div_one _⟩
  have he : encodeNat (.vscan d a k t p) = w := by
    rw [← Nat.div_one w]; refine Eq.trans ?_ hw.symm; show 0x8C000100 + d.toNat * 8388608 + a.toNat * 1048576 + k.toNat * 16384 + t.toNat * 2048 + p.toNat = _; omega
  have ⟨f0, r0⟩ := RoundTrip.peel (lo := 0) (n := 4) hw p.isLt
  have ⟨f4, r4⟩ := RoundTrip.peel (lo := 4) (n := 7) r0 (by decide)
  have ⟨f11, r11⟩ := RoundTrip.peel (lo := 11) (n := 3) r4 t.isLt
  have ⟨f14, r14⟩ := RoundTrip.peel (lo := 14) (n := 2) r11 k.isLt
  have ⟨f16, r16⟩ := RoundTrip.peel (lo := 16) (n := 4) r14 (by decide)
  have ⟨f20, r20⟩ := RoundTrip.peel (lo := 20) (n := 3) r16 a.isLt
  have ⟨f23, r23⟩ := RoundTrip.peel (lo := 23) (n := 3) r20 d.isLt
  have ⟨f26, r26⟩ := RoundTrip.peel (lo := 26) (n := 6) r23 (by decide)
  rw [RoundTrip.decode_encode _ _ he (by omega), RoundTrip.major23 (by rintro rfl; cases f26) f26, decodeMajor23]
  have e : Instr.vscan (.ofNat 3 (w / 8388608)) (.ofNat 3 (w / 1048576)) (.ofNat 2 (w / 16384)) (.ofNat 3 (w / 2048)) (.ofNat 4 (w / 1)) = .vscan d a k t p := by
    rw [RoundTrip.ofNat_field d (w / 8388608) f23, RoundTrip.ofNat_field a (w / 1048576) f20, RoundTrip.ofNat_field k (w / 16384) f14, RoundTrip.ofNat_field t (w / 2048) f11, RoundTrip.ofNat_field p (w / 1) f0]
  rw [show fld w 4 7 = 0x010 from f4]
  exact (if_pos f16).trans (congrArg Except.ok e)

theorem RoundTrip.vdot (d : BitVec 3) (a : BitVec 3) (b : BitVec 3) (k : BitVec 2) (t : BitVec 3) (p : BitVec 4) :
    RoundTrip.Statement (.vdot d a b k t p) := by
  intro _
  obtain ⟨w, hw⟩ : ∃ w, w / 2 ^ 0 = p.toNat + 2 ^ 4 * (0x020 + 2 ^ 7 * (t.toNat + 2 ^ 3 * (k.toNat + 2 ^ 2 * (0 + 2 ^ 1 * (b.toNat + 2 ^ 3 * (a.toNat + 2 ^ 3 * (d.toNat + 2 ^ 3 * (0x23 + 2 ^ 6 * 0)))))))) := ⟨_, Nat.div_one _⟩
  have he : encodeNat (.vdot d a b k t p) = w := by
    rw [← Nat.div_one w]; refine Eq.trans ?_ hw.symm; show 0x8C000200 + d.toNat * 8388608 + a.toNat * 1048576 + b.toNat * 131072 + k.toNat * 16384 + t.toNat * 2048 + p.toNat = _; omega
  have ⟨f0, r0⟩ := RoundTrip.peel (lo := 0) (n := 4) hw p.isLt
  have ⟨f4, r4⟩ := RoundTrip.peel (lo := 4) (n := 7) r0 (by decide)
  have ⟨f11, r11⟩ := RoundTrip.peel (lo := 11) (n := 3) r4 t.isLt
  have ⟨f14, r14⟩ := RoundTrip.peel (lo := 14) (n := 2) r11 k.isLt
  have ⟨f16, r16⟩ := RoundTrip.peel (lo := 16) (n := 1) r14 (by decide)
  have ⟨f17, r17⟩ := RoundTrip.peel (lo := 17) (n := 3) r16 b.isLt
  have ⟨f20, r20⟩ := RoundTrip.peel (lo := 20) (n := 3) r17 a.isLt
  have ⟨f23, r23⟩ := RoundTrip.peel (lo := 23) (n := 3) r20 d.isLt
  have ⟨f26, r26⟩ := RoundTrip.peel (lo := 26) (n := 6) r23 (by decide)
  rw [RoundTrip.decode_encode _ _ he (by omega), RoundTrip.major23 (by rintro rfl; cases f26) f26, decodeMajor23]
  have e : Instr.vdot (.ofNat 3 (w / 8388608)) (.ofNat 3 (w / 1048576)) (.ofNat 3 (w / 131072)) (.ofNat 2 (w / 16384)) (.ofNat 3 (w / 2048)) (.ofNat 4 (w / 1)) = .vdot d a b k t p := by
    rw [RoundTrip.ofNat_field d (w / 8388608) f23, RoundTrip.ofNat_field a (w / 1048576) f20, RoundTrip.ofNat_field b (w / 131072) f17, RoundTrip.ofNat_field k (w / 16384) f14, RoundTrip.ofNat_field t (w / 2048) f11, RoundTrip.ofNat_field p (w / 1) f0]
  rw [show fld w 4 7 = 0x020 from f4]
  exact (if_pos f16).trans (congrArg Except.ok e)

theorem RoundTrip.vcmp (m : BitVec 2) (a : BitVec 3) (b : BitVec 3) (k : BitVec 2) (t : BitVec 3) (c : BitVec 3) (p : BitVec 4) :
    RoundTrip.Statement (.vcmp m a b k t c p) := by
  intro h
  obtain ⟨w, hw⟩ : ∃ w, w / 2 ^ 0 = p.toNat + 2 ^ 4 * (c.toNat + 2 ^ 3 * (0x0 + 2 ^ 4 * (t.toNat + 2 ^ 3 * (k.toNat + 2 ^ 2 * (0 + 2 ^ 1 * (b.toNat + 2 ^ 3 * (a.toNat + 2 ^ 3 * (m.toNat + 2 ^ 2 * (0 + 2 ^ 1 * (0x24 + 2 ^ 6 * 0)))))))))) := ⟨_, Nat.div_one _⟩
  have he : encodeNat (.vcmp m a b k t c p) = w := by
    rw [← Nat.div_one w]; refine Eq.trans ?_ hw.symm; show 0x90000000 + m.toNat * 8388608 + a.toNat * 1048576 + b.toNat * 131072 + k.toNat * 16384 + t.toNat * 2048 + c.toNat * 16 + p.toNat = _; omega
  have ⟨f0, r0⟩ := RoundTrip.peel (lo := 0) (n := 4) hw p.isLt
  have ⟨f4, r4⟩ := RoundTrip.peel (lo := 4) (n := 3) r0 c.isLt
  have ⟨f7, r7⟩ := RoundTrip.peel (lo := 7) (n := 4) r4 (by decide)
  have ⟨f11, r11⟩ := RoundTrip.peel (lo := 11) (n := 3) r7 t.isLt
  have ⟨f14, r14⟩ := RoundTrip.peel (lo := 14) (n := 2) r11 k.isLt
  have ⟨f16, r16⟩ := RoundTrip.peel (lo := 16) (n := 1) r14 (by decide)
  have ⟨f17, r17⟩ := RoundTrip.peel (lo := 17) (n := 3) r16 b.isLt
  have ⟨f20, r20⟩ := RoundTrip.peel (lo := 20) (n := 3) r17 a.isLt
  have ⟨f23, r23⟩ := RoundTrip.peel (lo := 23) (n := 2) r20 m.isLt
  have ⟨f25, r25⟩ := RoundTrip.peel (lo := 25) (n := 1) r23 (by decide)
  have ⟨f26, r26⟩ := RoundTrip.peel (lo := 26) (n := 6) r25 (by decide)
  have hl : c.toNat < 6 := of_decide_eq_true h.2
  rw [RoundTrip.decode_encode _ _ he (by omega), RoundTrip.major24 (by rintro rfl; cases f26) f26, decodeMajor24]
  have e : Instr.vcmp (.ofNat 2 (w / 8388608)) (.ofNat 3 (w / 1048576)) (.ofNat 3 (w / 131072)) (.ofNat 2 (w / 16384)) (.ofNat 3 (w / 2048)) (.ofNat 3 (w / 16)) (.ofNat 4 (w / 1)) = .vcmp m a b k t c p := by
    rw [RoundTrip.ofNat_field m (w / 8388608) f23, RoundTrip.ofNat_field a (w / 1048576) f20, RoundTrip.ofNat_field b (w / 131072) f17, RoundTrip.ofNat_field k (w / 16384) f14, RoundTrip.ofNat_field t (w / 2048) f11, RoundTrip.ofNat_field c (w / 16) f4, RoundTrip.ofNat_field p (w / 1) f0]
  rcases (show fld w 4 7 = 0x000 ∨ fld w 4 7 = 0x001 ∨ fld w 4 7 = 0x002 ∨ fld w 4 7 = 0x003 ∨ fld w 4 7 = 0x004 ∨ fld w 4 7 = 0x005 by unfold fld; omega) with hs | hs | hs | hs | hs | hs <;>
    (rw [hs]; exact (if_pos ⟨f16, f25⟩).trans (congrArg Except.ok e))

theorem RoundTrip.vsel (d : BitVec 3) (a : BitVec 3) (b : BitVec 3) (k : BitVec 2) (t : BitVec 3) (p : BitVec 4) :
    RoundTrip.Statement (.vsel d a b k t p) := by
  intro _
  obtain ⟨w, hw⟩ : ∃ w, w / 2 ^ 0 = p.toNat + 2 ^ 4 * (0x010 + 2 ^ 7 * (t.toNat + 2 ^ 3 * (k.toNat + 2 ^ 2 * (0 + 2 ^ 1 * (b.toNat + 2 ^ 3 * (a.toNat + 2 ^ 3 * (d.toNat + 2 ^ 3 * (0x24 + 2 ^ 6 * 0)))))))) := ⟨_, Nat.div_one _⟩
  have he : encodeNat (.vsel d a b k t p) = w := by
    rw [← Nat.div_one w]; refine Eq.trans ?_ hw.symm; show 0x90000100 + d.toNat * 8388608 + a.toNat * 1048576 + b.toNat * 131072 + k.toNat * 16384 + t.toNat * 2048 + p.toNat = _; omega
  have ⟨f0, r0⟩ := RoundTrip.peel (lo := 0) (n := 4) hw p.isLt
  have ⟨f4, r4⟩ := RoundTrip.peel (lo := 4) (n := 7) r0 (by decide)
  have ⟨f11, r11⟩ := RoundTrip.peel (lo := 11) (n := 3) r4 t.isLt
  have ⟨f14, r14⟩ := RoundTrip.peel (lo := 14) (n := 2) r11 k.isLt
  have ⟨f16, r16⟩ := RoundTrip.peel (lo := 16) (n := 1) r14 (by decide)
  have ⟨f17, r17⟩ := RoundTrip.peel (lo := 17) (n := 3) r16 b.isLt
  have ⟨f20, r20⟩ := RoundTrip.peel (lo := 20) (n := 3) r17 a.isLt
  have ⟨f23, r23⟩ := RoundTrip.peel (lo := 23) (n := 3) r20 d.isLt
  have ⟨f26, r26⟩ := RoundTrip.peel (lo := 26) (n := 6) r23 (by decide)
  rw [RoundTrip.decode_encode _ _ he (by omega), RoundTrip.major24 (by rintro rfl; cases f26) f26, decodeMajor24]
  have e : Instr.vsel (.ofNat 3 (w / 8388608)) (.ofNat 3 (w / 1048576)) (.ofNat 3 (w / 131072)) (.ofNat 2 (w / 16384)) (.ofNat 3 (w / 2048)) (.ofNat 4 (w / 1)) = .vsel d a b k t p := by
    rw [RoundTrip.ofNat_field d (w / 8388608) f23, RoundTrip.ofNat_field a (w / 1048576) f20, RoundTrip.ofNat_field b (w / 131072) f17, RoundTrip.ofNat_field k (w / 16384) f14, RoundTrip.ofNat_field t (w / 2048) f11, RoundTrip.ofNat_field p (w / 1) f0]
  rw [show fld w 4 7 = 0x010 from f4]
  exact (if_pos f16).trans (congrArg Except.ok e)

theorem RoundTrip.mmaBb (c : BitVec 2) (a : BitVec 3) (b : BitVec 3) (s : BitVec 4) (l : BitVec 4) (p : BitVec 4) :
    RoundTrip.Statement (.mmaBb c a b s l p) := by
  intro _
  obtain ⟨w, hw⟩ : ∃ w, w / 2 ^ 0 = p.toNat + 2 ^ 4 * (0x000 + 2 ^ 6 * (l.toNat + 2 ^ 4 * (s.toNat + 2 ^ 4 * (b.toNat + 2 ^ 3 * (a.toNat + 2 ^ 3 * (c.toNat + 2 ^ 2 * (0x28 + 2 ^ 6 * 0))))))) := ⟨_, Nat.div_one _⟩
  have he : encodeNat (.mmaBb c a b s l p) = w := by
    rw [← Nat.div_one w]; refine Eq.trans ?_ hw.symm; show 0xA0000000 + c.toNat * 16777216 + a.toNat * 2097152 + b.toNat * 262144 + s.toNat * 16384 + l.toNat * 1024 + p.toNat = _; omega
  have ⟨f0, r0⟩ := RoundTrip.peel (lo := 0) (n := 4) hw p.isLt
  have ⟨f4, r4⟩ := RoundTrip.peel (lo := 4) (n := 6) r0 (by decide)
  have ⟨f10, r10⟩ := RoundTrip.peel (lo := 10) (n := 4) r4 l.isLt
  have ⟨f14, r14⟩ := RoundTrip.peel (lo := 14) (n := 4) r10 s.isLt
  have ⟨f18, r18⟩ := RoundTrip.peel (lo := 18) (n := 3) r14 b.isLt
  have ⟨f21, r21⟩ := RoundTrip.peel (lo := 21) (n := 3) r18 a.isLt
  have ⟨f24, r24⟩ := RoundTrip.peel (lo := 24) (n := 2) r21 c.isLt
  have ⟨f26, r26⟩ := RoundTrip.peel (lo := 26) (n := 6) r24 (by decide)
  rw [RoundTrip.decode_encode _ _ he (by omega), RoundTrip.major28 (by rintro rfl; cases f26) f26, decodeMajor28]
  have e : Instr.mmaBb (.ofNat 2 (w / 16777216)) (.ofNat 3 (w / 2097152)) (.ofNat 3 (w / 262144)) (.ofNat 4 (w / 16384)) (.ofNat 4 (w / 1024)) (.ofNat 4 (w / 1)) = .mmaBb c a b s l p := by
    rw [RoundTrip.ofNat_field c (w / 16777216) f24, RoundTrip.ofNat_field a (w / 2097152) f21, RoundTrip.ofNat_field b (w / 262144) f18, RoundTrip.ofNat_field s (w / 16384) f14, RoundTrip.ofNat_field l (w / 1024) f10, RoundTrip.ofNat_field p (w / 1) f0]
  rw [show fld w 4 6 = 0x000 from f4]
  exact congrArg Except.ok e

theorem RoundTrip.mmaHh (c : BitVec 2) (a : BitVec 3) (b : BitVec 3) (s : BitVec 4) (l : BitVec 4) (p : BitVec 4) :
    RoundTrip.Statement (.mmaHh c a b s l p) := by
  intro _
  obtain ⟨w, hw⟩ : ∃ w, w / 2 ^ 0 = p.toNat + 2 ^ 4 * (0x001 + 2 ^ 6 * (l.toNat + 2 ^ 4 * (s.toNat + 2 ^ 4 * (b.toNat + 2 ^ 3 * (a.toNat + 2 ^ 3 * (c.toNat + 2 ^ 2 * (0x28 + 2 ^ 6 * 0))))))) := ⟨_, Nat.div_one _⟩
  have he : encodeNat (.mmaHh c a b s l p) = w := by
    rw [← Nat.div_one w]; refine Eq.trans ?_ hw.symm; show 0xA0000010 + c.toNat * 16777216 + a.toNat * 2097152 + b.toNat * 262144 + s.toNat * 16384 + l.toNat * 1024 + p.toNat = _; omega
  have ⟨f0, r0⟩ := RoundTrip.peel (lo := 0) (n := 4) hw p.isLt
  have ⟨f4, r4⟩ := RoundTrip.peel (lo := 4) (n := 6) r0 (by decide)
  have ⟨f10, r10⟩ := RoundTrip.peel (lo := 10) (n := 4) r4 l.isLt
  have ⟨f14, r14⟩ := RoundTrip.peel (lo := 14) (n := 4) r10 s.isLt
  have ⟨f18, r18⟩ := RoundTrip.peel (lo := 18) (n := 3) r14 b.isLt
  have ⟨f21, r21⟩ := RoundTrip.peel (lo := 21) (n := 3) r18 a.isLt
  have ⟨f24, r24⟩ := RoundTrip.peel (lo := 24) (n := 2) r21 c.isLt
  have ⟨f26, r26⟩ := RoundTrip.peel (lo := 26) (n := 6) r24 (by decide)
  rw [RoundTrip.decode_encode _ _ he (by omega), RoundTrip.major28 (by rintro rfl; cases f26) f26, decodeMajor28]
  have e : Instr.mmaHh (.ofNat 2 (w / 16777216)) (.ofNat 3 (w / 2097152)) (.ofNat 3 (w / 262144)) (.ofNat 4 (w / 16384)) (.ofNat 4 (w / 1024)) (.ofNat 4 (w / 1)) = .mmaHh c a b s l p := by
    rw [RoundTrip.ofNat_field c (w / 16777216) f24, RoundTrip.ofNat_field a (w / 2097152) f21, RoundTrip.ofNat_field b (w / 262144) f18, RoundTrip.ofNat_field s (w / 16384) f14, RoundTrip.ofNat_field l (w / 1024) f10, RoundTrip.ofNat_field p (w / 1) f0]
  rw [show fld w 4 6 = 0x001 from f4]
  exact congrArg Except.ok e

theorem RoundTrip.mmaQq (c : BitVec 2) (a : BitVec 3) (b : BitVec 3) (s : BitVec 4) (l : BitVec 4) (p : BitVec 4) :
    RoundTrip.Statement (.mmaQq c a b s l p) := by
  intro _
  obtain ⟨w, hw⟩ : ∃ w, w / 2 ^ 0 = p.toNat + 2 ^ 4 * (0x002 + 2 ^ 6 * (l.toNat + 2 ^ 4 * (s.toNat + 2 ^ 4 * (b.toNat + 2 ^ 3 * (a.toNat + 2 ^ 3 * (c.toNat + 2 ^ 2 * (0x28 + 2 ^ 6 * 0))))))) := ⟨_, Nat.div_one _⟩
  have he : encodeNat (.mmaQq c a b s l p) = w := by
    rw [← Nat.div_one w]; refine Eq.trans ?_ hw.symm; show 0xA0000020 + c.toNat * 16777216 + a.toNat * 2097152 + b.toNat * 262144 + s.toNat * 16384 + l.toNat * 1024 + p.toNat = _; omega
  have ⟨f0, r0⟩ := RoundTrip.peel (lo := 0) (n := 4) hw p.isLt
  have ⟨f4, r4⟩ := RoundTrip.peel (lo := 4) (n := 6) r0 (by decide)
  have ⟨f10, r10⟩ := RoundTrip.peel (lo := 10) (n := 4) r4 l.isLt
  have ⟨f14, r14⟩ := RoundTrip.peel (lo := 14) (n := 4) r10 s.isLt
  have ⟨f18, r18⟩ := RoundTrip.peel (lo := 18) (n := 3) r14 b.isLt
  have ⟨f21, r21⟩ := RoundTrip.peel (lo := 21) (n := 3) r18 a.isLt
  have ⟨f24, r24⟩ := RoundTrip.peel (lo := 24) (n := 2) r21 c.isLt
  have ⟨f26, r26⟩ := RoundTrip.peel (lo := 26) (n := 6) r24 (by decide)
  rw [RoundTrip.decode_encode _ _ he (by omega), RoundTrip.major28 (by rintro rfl; cases f26) f26, decodeMajor28]
  have e : Instr.mmaQq (.ofNat 2 (w / 16777216)) (.ofNat 3 (w / 2097152)) (.ofNat 3 (w / 262144)) (.ofNat 4 (w / 16384)) (.ofNat 4 (w / 1024)) (.ofNat 4 (w / 1)) = .mmaQq c a b s l p := by
    rw [RoundTrip.ofNat_field c (w / 16777216) f24, RoundTrip.ofNat_field a (w / 2097152) f21, RoundTrip.ofNat_field b (w / 262144) f18, RoundTrip.ofNat_field s (w / 16384) f14, RoundTrip.ofNat_field l (w / 1024) f10, RoundTrip.ofNat_field p (w / 1) f0]
  rw [show fld w 4 6 = 0x002 from f4]
  exact congrArg Except.ok e

theorem RoundTrip.mmaWw (c : BitVec 2) (a : BitVec 3) (b : BitVec 3) (s : BitVec 4) (l : BitVec 4) (p : BitVec 4) :
    RoundTrip.Statement (.mmaWw c a b s l p) := by
  intro _
  obtain ⟨w, hw⟩ : ∃ w, w / 2 ^ 0 = p.toNat + 2 ^ 4 * (0x003 + 2 ^ 6 * (l.toNat + 2 ^ 4 * (s.toNat + 2 ^ 4 * (b.toNat + 2 ^ 3 * (a.toNat + 2 ^ 3 * (c.toNat + 2 ^ 2 * (0x28 + 2 ^ 6 * 0))))))) := ⟨_, Nat.div_one _⟩
  have he : encodeNat (.mmaWw c a b s l p) = w := by
    rw [← Nat.div_one w]; refine Eq.trans ?_ hw.symm; show 0xA0000030 + c.toNat * 16777216 + a.toNat * 2097152 + b.toNat * 262144 + s.toNat * 16384 + l.toNat * 1024 + p.toNat = _; omega
  have ⟨f0, r0⟩ := RoundTrip.peel (lo := 0) (n := 4) hw p.isLt
  have ⟨f4, r4⟩ := RoundTrip.peel (lo := 4) (n := 6) r0 (by decide)
  have ⟨f10, r10⟩ := RoundTrip.peel (lo := 10) (n := 4) r4 l.isLt
  have ⟨f14, r14⟩ := RoundTrip.peel (lo := 14) (n := 4) r10 s.isLt
  have ⟨f18, r18⟩ := RoundTrip.peel (lo := 18) (n := 3) r14 b.isLt
  have ⟨f21, r21⟩ := RoundTrip.peel (lo := 21) (n := 3) r18 a.isLt
  have ⟨f24, r24⟩ := RoundTrip.peel (lo := 24) (n := 2) r21 c.isLt
  have ⟨f26, r26⟩ := RoundTrip.peel (lo := 26) (n := 6) r24 (by decide)
  rw [RoundTrip.decode_encode _ _ he (by omega), RoundTrip.major28 (by rintro rfl; cases f26) f26, decodeMajor28]
  have e : Instr.mmaWw (.ofNat 2 (w / 16777216)) (.ofNat 3 (w / 2097152)) (.ofNat 3 (w / 262144)) (.ofNat 4 (w / 16384)) (.ofNat 4 (w / 1024)) (.ofNat 4 (w / 1)) = .mmaWw c a b s l p := by
    rw [RoundTrip.ofNat_field c (w / 16777216) f24, RoundTrip.ofNat_field a (w / 2097152) f21, RoundTrip.ofNat_field b (w / 262144) f18, RoundTrip.ofNat_field s (w / 16384) f14, RoundTrip.ofNat_field l (w / 1024) f10, RoundTrip.ofNat_field p (w / 1) f0]
  rw [show fld w 4 6 = 0x003 from f4]
  exact congrArg Except.ok e

theorem RoundTrip.mmaQw (c : BitVec 2) (a : BitVec 3) (b : BitVec 3) (s : BitVec 4) (l : BitVec 4) (p : BitVec 4) :
    RoundTrip.Statement (.mmaQw c a b s l p) := by
  intro _
  obtain ⟨w, hw⟩ : ∃ w, w / 2 ^ 0 = p.toNat + 2 ^ 4 * (0x004 + 2 ^ 6 * (l.toNat + 2 ^ 4 * (s.toNat + 2 ^ 4 * (b.toNat + 2 ^ 3 * (a.toNat + 2 ^ 3 * (c.toNat + 2 ^ 2 * (0x28 + 2 ^ 6 * 0))))))) := ⟨_, Nat.div_one _⟩
  have he : encodeNat (.mmaQw c a b s l p) = w := by
    rw [← Nat.div_one w]; refine Eq.trans ?_ hw.symm; show 0xA0000040 + c.toNat * 16777216 + a.toNat * 2097152 + b.toNat * 262144 + s.toNat * 16384 + l.toNat * 1024 + p.toNat = _; omega
  have ⟨f0, r0⟩ := RoundTrip.peel (lo := 0) (n := 4) hw p.isLt
  have ⟨f4, r4⟩ := RoundTrip.peel (lo := 4) (n := 6) r0 (by decide)
  have ⟨f10, r10⟩ := RoundTrip.peel (lo := 10) (n := 4) r4 l.isLt
  have ⟨f14, r14⟩ := RoundTrip.peel (lo := 14) (n := 4) r10 s.isLt
  have ⟨f18, r18⟩ := RoundTrip.peel (lo := 18) (n := 3) r14 b.isLt
  have ⟨f21, r21⟩ := RoundTrip.peel (lo := 21) (n := 3) r18 a.isLt
  have ⟨f24, r24⟩ := RoundTrip.peel (lo := 24) (n := 2) r21 c.isLt
  have ⟨f26, r26⟩ := RoundTrip.peel (lo := 26) (n := 6) r24 (by decide)
  rw [RoundTrip.decode_encode _ _ he (by omega), RoundTrip.major28 (by rintro rfl; cases f26) f26, decodeMajor28]
  have e : Instr.mmaQw (.ofNat 2 (w / 16777216)) (.ofNat 3 (w / 2097152)) (.ofNat 3 (w / 262144)) (.ofNat 4 (w / 16384)) (.ofNat 4 (w / 1024)) (.ofNat 4 (w / 1)) = .mmaQw c a b s l p := by
    rw [RoundTrip.ofNat_field c (w / 16777216) f24, RoundTrip.ofNat_field a (w / 2097152) f21, RoundTrip.ofNat_field b (w / 262144) f18, RoundTrip.ofNat_field s (w / 16384) f14, RoundTrip.ofNat_field l (w / 1024) f10, RoundTrip.ofNat_field p (w / 1) f0]
  rw [show fld w 4 6 = 0x004 from f4]
  exact congrArg Except.ok e

theorem RoundTrip.mmaNn (c : BitVec 2) (a : BitVec 3) (b : BitVec 3) (s : BitVec 4) (l : BitVec 4) (p : BitVec 4) :
    RoundTrip.Statement (.mmaNn c a b s l p) := by
  intro _
  obtain ⟨w, hw⟩ : ∃ w, w / 2 ^ 0 = p.toNat + 2 ^ 4 * (0x000 + 2 ^ 6 * (l.toNat + 2 ^ 4 * (s.toNat + 2 ^ 4 * (b.toNat + 2 ^ 3 * (a.toNat + 2 ^ 3 * (c.toNat + 2 ^ 2 * (0x29 + 2 ^ 6 * 0))))))) := ⟨_, Nat.div_one _⟩
  have he : encodeNat (.mmaNn c a b s l p) = w := by
    rw [← Nat.div_one w]; refine Eq.trans ?_ hw.symm; show 0xA4000000 + c.toNat * 16777216 + a.toNat * 2097152 + b.toNat * 262144 + s.toNat * 16384 + l.toNat * 1024 + p.toNat = _; omega
  have ⟨f0, r0⟩ := RoundTrip.peel (lo := 0) (n := 4) hw p.isLt
  have ⟨f4, r4⟩ := RoundTrip.peel (lo := 4) (n := 6) r0 (by decide)
  have ⟨f10, r10⟩ := RoundTrip.peel (lo := 10) (n := 4) r4 l.isLt
  have ⟨f14, r14⟩ := RoundTrip.peel (lo := 14) (n := 4) r10 s.isLt
  have ⟨f18, r18⟩ := RoundTrip.peel (lo := 18) (n := 3) r14 b.isLt
  have ⟨f21, r21⟩ := RoundTrip.peel (lo := 21) (n := 3) r18 a.isLt
  have ⟨f24, r24⟩ := RoundTrip.peel (lo := 24) (n := 2) r21 c.isLt
  have ⟨f26, r26⟩ := RoundTrip.peel (lo := 26) (n := 6) r24 (by decide)
  rw [RoundTrip.decode_encode _ _ he (by omega), RoundTrip.major29 (by rintro rfl; cases f26) f26, decodeMajor29]
  have e : Instr.mmaNn (.ofNat 2 (w / 16777216)) (.ofNat 3 (w / 2097152)) (.ofNat 3 (w / 262144)) (.ofNat 4 (w / 16384)) (.ofNat 4 (w / 1024)) (.ofNat 4 (w / 1)) = .mmaNn c a b s l p := by
    rw [RoundTrip.ofNat_field c (w / 16777216) f24, RoundTrip.ofNat_field a (w / 2097152) f21, RoundTrip.ofNat_field b (w / 262144) f18, RoundTrip.ofNat_field s (w / 16384) f14, RoundTrip.ofNat_field l (w / 1024) f10, RoundTrip.ofNat_field p (w / 1) f0]
  rw [show fld w 4 6 = 0x000 from f4]
  exact congrArg Except.ok e

theorem RoundTrip.mmaLl (c : BitVec 2) (a : BitVec 3) (b : BitVec 3) (s : BitVec 4) (l : BitVec 4) (p : BitVec 4) :
    RoundTrip.Statement (.mmaLl c a b s l p) := by
  intro _
  obtain ⟨w, hw⟩ : ∃ w, w / 2 ^ 0 = p.toNat + 2 ^ 4 * (0x001 + 2 ^ 6 * (l.toNat + 2 ^ 4 * (s.toNat + 2 ^ 4 * (b.toNat + 2 ^ 3 * (a.toNat + 2 ^ 3 * (c.toNat + 2 ^ 2 * (0x29 + 2 ^ 6 * 0))))))) := ⟨_, Nat.div_one _⟩
  have he : encodeNat (.mmaLl c a b s l p) = w := by
    rw [← Nat.div_one w]; refine Eq.trans ?_ hw.symm; show 0xA4000010 + c.toNat * 16777216 + a.toNat * 2097152 + b.toNat * 262144 + s.toNat * 16384 + l.toNat * 1024 + p.toNat = _; omega
  have ⟨f0, r0⟩ := RoundTrip.peel (lo := 0) (n := 4) hw p.isLt
  have ⟨f4, r4⟩ := RoundTrip.peel (lo := 4) (n := 6) r0 (by decide)
  have ⟨f10, r10⟩ := RoundTrip.peel (lo := 10) (n := 4) r4 l.isLt
  have ⟨f14, r14⟩ := RoundTrip.peel (lo := 14) (n := 4) r10 s.isLt
  have ⟨f18, r18⟩ := RoundTrip.peel (lo := 18) (n := 3) r14 b.isLt
  have ⟨f21, r21⟩ := RoundTrip.peel (lo := 21) (n := 3) r18 a.isLt
  have ⟨f24, r24⟩ := RoundTrip.peel (lo := 24) (n := 2) r21 c.isLt
  have ⟨f26, r26⟩ := RoundTrip.peel (lo := 26) (n := 6) r24 (by decide)
  rw [RoundTrip.decode_encode _ _ he (by omega), RoundTrip.major29 (by rintro rfl; cases f26) f26, decodeMajor29]
  have e : Instr.mmaLl (.ofNat 2 (w / 16777216)) (.ofNat 3 (w / 2097152)) (.ofNat 3 (w / 262144)) (.ofNat 4 (w / 16384)) (.ofNat 4 (w / 1024)) (.ofNat 4 (w / 1)) = .mmaLl c a b s l p := by
    rw [RoundTrip.ofNat_field c (w / 16777216) f24, RoundTrip.ofNat_field a (w / 2097152) f21, RoundTrip.ofNat_field b (w / 262144) f18, RoundTrip.ofNat_field s (w / 16384) f14, RoundTrip.ofNat_field l (w / 1024) f10, RoundTrip.ofNat_field p (w / 1) f0]
  rw [show fld w 4 6 = 0x001 from f4]
  exact congrArg Except.ok e

theorem RoundTrip.mmaIi (c : BitVec 2) (a : BitVec 3) (b : BitVec 3) (l : BitVec 4) (p : BitVec 4) :
    RoundTrip.Statement (.mmaIi c a b l p) := by
  intro _
  obtain ⟨w, hw⟩ : ∃ w, w / 2 ^ 0 = p.toNat + 2 ^ 4 * (0x002 + 2 ^ 6 * (l.toNat + 2 ^ 4 * (0 + 2 ^ 4 * (b.toNat + 2 ^ 3 * (a.toNat + 2 ^ 3 * (c.toNat + 2 ^ 2 * (0x29 + 2 ^ 6 * 0))))))) := ⟨_, Nat.div_one _⟩
  have he : encodeNat (.mmaIi c a b l p) = w := by
    rw [← Nat.div_one w]; refine Eq.trans ?_ hw.symm; show 0xA4000020 + c.toNat * 16777216 + a.toNat * 2097152 + b.toNat * 262144 + l.toNat * 1024 + p.toNat = _; omega
  have ⟨f0, r0⟩ := RoundTrip.peel (lo := 0) (n := 4) hw p.isLt
  have ⟨f4, r4⟩ := RoundTrip.peel (lo := 4) (n := 6) r0 (by decide)
  have ⟨f10, r10⟩ := RoundTrip.peel (lo := 10) (n := 4) r4 l.isLt
  have ⟨f14, r14⟩ := RoundTrip.peel (lo := 14) (n := 4) r10 (by decide)
  have ⟨f18, r18⟩ := RoundTrip.peel (lo := 18) (n := 3) r14 b.isLt
  have ⟨f21, r21⟩ := RoundTrip.peel (lo := 21) (n := 3) r18 a.isLt
  have ⟨f24, r24⟩ := RoundTrip.peel (lo := 24) (n := 2) r21 c.isLt
  have ⟨f26, r26⟩ := RoundTrip.peel (lo := 26) (n := 6) r24 (by decide)
  rw [RoundTrip.decode_encode _ _ he (by omega), RoundTrip.major29 (by rintro rfl; cases f26) f26, decodeMajor29]
  have e : Instr.mmaIi (.ofNat 2 (w / 16777216)) (.ofNat 3 (w / 2097152)) (.ofNat 3 (w / 262144)) (.ofNat 4 (w / 1024)) (.ofNat 4 (w / 1)) = .mmaIi c a b l p := by
    rw [RoundTrip.ofNat_field c (w / 16777216) f24, RoundTrip.ofNat_field a (w / 2097152) f21, RoundTrip.ofNat_field b (w / 262144) f18, RoundTrip.ofNat_field l (w / 1024) f10, RoundTrip.ofNat_field p (w / 1) f0]
  rw [show fld w 4 6 = 0x002 from f4]
  exact (if_pos f14).trans (congrArg Except.ok e)

theorem RoundTrip.mcfg (s : BitVec 4) (p : BitVec 4) :
    RoundTrip.Statement (.mcfg s p) := by
  intro _
  obtain ⟨w, hw⟩ : ∃ w, w / 2 ^ 0 = p.toNat + 2 ^ 4 * (0x000 + 2 ^ 6 * (0 + 2 ^ 4 * (s.toNat + 2 ^ 4 * (0 + 2 ^ 8 * (0x2A + 2 ^ 6 * 0))))) := ⟨_, Nat.div_one _⟩
  have he : encodeNat (.mcfg s p) = w := by
    rw [← Nat.div_one w]; refine Eq.trans ?_ hw.symm; show 0xA8000000 + s.toNat * 16384 + p.toNat = _; omega
  have ⟨f0, r0⟩ := RoundTrip.peel (lo := 0) (n := 4) hw p.isLt
  have ⟨f4, r4⟩ := RoundTrip.peel (lo := 4) (n := 6) r0 (by decide)
  have ⟨f10, r10⟩ := RoundTrip.peel (lo := 10) (n := 4) r4 (by decide)
  have ⟨f14, r14⟩ := RoundTrip.peel (lo := 14) (n := 4) r10 s.isLt
  have ⟨f18, r18⟩ := RoundTrip.peel (lo := 18) (n := 8) r14 (by decide)
  have ⟨f26, r26⟩ := RoundTrip.peel (lo := 26) (n := 6) r18 (by decide)
  rw [RoundTrip.decode_encode _ _ he (by omega), RoundTrip.major2A (by rintro rfl; cases f26) f26, decodeMajor2A]
  have e : Instr.mcfg (.ofNat 4 (w / 16384)) (.ofNat 4 (w / 1)) = .mcfg s p := by
    rw [RoundTrip.ofNat_field s (w / 16384) f14, RoundTrip.ofNat_field p (w / 1) f0]
  rw [show fld w 4 6 = 0x000 from f4]
  exact (if_pos ⟨f10, f18⟩).trans (congrArg Except.ok e)

theorem RoundTrip.mzero (c : BitVec 2) (p : BitVec 4) :
    RoundTrip.Statement (.mzero c p) := by
  intro _
  obtain ⟨w, hw⟩ : ∃ w, w / 2 ^ 0 = p.toNat + 2 ^ 4 * (0x001 + 2 ^ 6 * (0 + 2 ^ 14 * (c.toNat + 2 ^ 2 * (0x2A + 2 ^ 6 * 0)))) := ⟨_, Nat.div_one _⟩
  have he : encodeNat (.mzero c p) = w := by
    rw [← Nat.div_one w]; refine Eq.trans ?_ hw.symm; show 0xA8000010 + c.toNat * 16777216 + p.toNat = _; omega
  have ⟨f0, r0⟩ := RoundTrip.peel (lo := 0) (n := 4) hw p.isLt
  have ⟨f4, r4⟩ := RoundTrip.peel (lo := 4) (n := 6) r0 (by decide)
  have ⟨f10, r10⟩ := RoundTrip.peel (lo := 10) (n := 14) r4 (by decide)
  have ⟨f24, r24⟩ := RoundTrip.peel (lo := 24) (n := 2) r10 c.isLt
  have ⟨f26, r26⟩ := RoundTrip.peel (lo := 26) (n := 6) r24 (by decide)
  rw [RoundTrip.decode_encode _ _ he (by omega), RoundTrip.major2A (by rintro rfl; cases f26) f26, decodeMajor2A]
  have e : Instr.mzero (.ofNat 2 (w / 16777216)) (.ofNat 4 (w / 1)) = .mzero c p := by
    rw [RoundTrip.ofNat_field c (w / 16777216) f24, RoundTrip.ofNat_field p (w / 1) f0]
  rw [show fld w 4 6 = 0x001 from f4]
  exact (if_pos f10).trans (congrArg Except.ok e)

theorem RoundTrip.mrd (c : BitVec 2) (v : BitVec 3) (s : BitVec 4) (p : BitVec 4) :
    RoundTrip.Statement (.mrd c v s p) := by
  intro _
  obtain ⟨w, hw⟩ : ∃ w, w / 2 ^ 0 = p.toNat + 2 ^ 4 * (0x002 + 2 ^ 6 * (0 + 2 ^ 4 * (s.toNat + 2 ^ 4 * (0 + 2 ^ 3 * (v.toNat + 2 ^ 3 * (c.toNat + 2 ^ 2 * (0x2A + 2 ^ 6 * 0))))))) := ⟨_, Nat.div_one _⟩
  have he : encodeNat (.mrd c v s p) = w := by
    rw [← Nat.div_one w]; refine Eq.trans ?_ hw.symm; show 0xA8000020 + c.toNat * 16777216 + v.toNat * 2097152 + s.toNat * 16384 + p.toNat = _; omega
  have ⟨f0, r0⟩ := RoundTrip.peel (lo := 0) (n := 4) hw p.isLt
  have ⟨f4, r4⟩ := RoundTrip.peel (lo := 4) (n := 6) r0 (by decide)
  have ⟨f10, r10⟩ := RoundTrip.peel (lo := 10) (n := 4) r4 (by decide)
  have ⟨f14, r14⟩ := RoundTrip.peel (lo := 14) (n := 4) r10 s.isLt
  have ⟨f18, r18⟩ := RoundTrip.peel (lo := 18) (n := 3) r14 (by decide)
  have ⟨f21, r21⟩ := RoundTrip.peel (lo := 21) (n := 3) r18 v.isLt
  have ⟨f24, r24⟩ := RoundTrip.peel (lo := 24) (n := 2) r21 c.isLt
  have ⟨f26, r26⟩ := RoundTrip.peel (lo := 26) (n := 6) r24 (by decide)
  rw [RoundTrip.decode_encode _ _ he (by omega), RoundTrip.major2A (by rintro rfl; cases f26) f26, decodeMajor2A]
  have e : Instr.mrd (.ofNat 2 (w / 16777216)) (.ofNat 3 (w / 2097152)) (.ofNat 4 (w / 16384)) (.ofNat 4 (w / 1)) = .mrd c v s p := by
    rw [RoundTrip.ofNat_field c (w / 16777216) f24, RoundTrip.ofNat_field v (w / 2097152) f21, RoundTrip.ofNat_field s (w / 16384) f14, RoundTrip.ofNat_field p (w / 1) f0]
  rw [show fld w 4 6 = 0x002 from f4]
  exact (if_pos ⟨f10, f18⟩).trans (congrArg Except.ok e)

theorem RoundTrip.mwr (c : BitVec 2) (v : BitVec 3) (s : BitVec 4) (p : BitVec 4) :
    RoundTrip.Statement (.mwr c v s p) := by
  intro _
  obtain ⟨w, hw⟩ : ∃ w, w / 2 ^ 0 = p.toNat + 2 ^ 4 * (0x003 + 2 ^ 6 * (0 + 2 ^ 4 * (s.toNat + 2 ^ 4 * (0 + 2 ^ 3 * (v.toNat + 2 ^ 3 * (c.toNat + 2 ^ 2 * (0x2A + 2 ^ 6 * 0))))))) := ⟨_, Nat.div_one _⟩
  have he : encodeNat (.mwr c v s p) = w := by
    rw [← Nat.div_one w]; refine Eq.trans ?_ hw.symm; show 0xA8000030 + c.toNat * 16777216 + v.toNat * 2097152 + s.toNat * 16384 + p.toNat = _; omega
  have ⟨f0, r0⟩ := RoundTrip.peel (lo := 0) (n := 4) hw p.isLt
  have ⟨f4, r4⟩ := RoundTrip.peel (lo := 4) (n := 6) r0 (by decide)
  have ⟨f10, r10⟩ := RoundTrip.peel (lo := 10) (n := 4) r4 (by decide)
  have ⟨f14, r14⟩ := RoundTrip.peel (lo := 14) (n := 4) r10 s.isLt
  have ⟨f18, r18⟩ := RoundTrip.peel (lo := 18) (n := 3) r14 (by decide)
  have ⟨f21, r21⟩ := RoundTrip.peel (lo := 21) (n := 3) r18 v.isLt
  have ⟨f24, r24⟩ := RoundTrip.peel (lo := 24) (n := 2) r21 c.isLt
  have ⟨f26, r26⟩ := RoundTrip.peel (lo := 26) (n := 6) r24 (by decide)
  rw [RoundTrip.decode_encode _ _ he (by omega), RoundTrip.major2A (by rintro rfl; cases f26) f26, decodeMajor2A]
  have e : Instr.mwr (.ofNat 2 (w / 16777216)) (.ofNat 3 (w / 2097152)) (.ofNat 4 (w / 16384)) (.ofNat 4 (w / 1)) = .mwr c v s p := by
    rw [RoundTrip.ofNat_field c (w / 16777216) f24, RoundTrip.ofNat_field v (w / 2097152) f21, RoundTrip.ofNat_field s (w / 16384) f14, RoundTrip.ofNat_field p (w / 1) f0]
  rw [show fld w 4 6 = 0x003 from f4]
  exact (if_pos ⟨f10, f18⟩).trans (congrArg Except.ok e)

theorem RoundTrip.msave (c : BitVec 2) (s : BitVec 4) (p : BitVec 4) :
    RoundTrip.Statement (.msave c s p) := by
  intro _
  obtain ⟨w, hw⟩ : ∃ w, w / 2 ^ 0 = p.toNat + 2 ^ 4 * (0x004 + 2 ^ 6 * (0 + 2 ^ 4 * (s.toNat + 2 ^ 4 * (0 + 2 ^ 6 * (c.toNat + 2 ^ 2 * (0x2A + 2 ^ 6 * 0)))))) := ⟨_, Nat.div_one _⟩
  have he : encodeNat (.msave c s p) = w := by
    rw [← Nat.div_one w]; refine Eq.trans ?_ hw.symm; show 0xA8000040 + c.toNat * 16777216 + s.toNat * 16384 + p.toNat = _; omega
  have ⟨f0, r0⟩ := RoundTrip.peel (lo := 0) (n := 4) hw p.isLt
  have ⟨f4, r4⟩ := RoundTrip.peel (lo := 4) (n := 6) r0 (by decide)
  have ⟨f10, r10⟩ := RoundTrip.peel (lo := 10) (n := 4) r4 (by decide)
  have ⟨f14, r14⟩ := RoundTrip.peel (lo := 14) (n := 4) r10 s.isLt
  have ⟨f18, r18⟩ := RoundTrip.peel (lo := 18) (n := 6) r14 (by decide)
  have ⟨f24, r24⟩ := RoundTrip.peel (lo := 24) (n := 2) r18 c.isLt
  have ⟨f26, r26⟩ := RoundTrip.peel (lo := 26) (n := 6) r24 (by decide)
  rw [RoundTrip.decode_encode _ _ he (by omega), RoundTrip.major2A (by rintro rfl; cases f26) f26, decodeMajor2A]
  have e : Instr.msave (.ofNat 2 (w / 16777216)) (.ofNat 4 (w / 16384)) (.ofNat 4 (w / 1)) = .msave c s p := by
    rw [RoundTrip.ofNat_field c (w / 16777216) f24, RoundTrip.ofNat_field s (w / 16384) f14, RoundTrip.ofNat_field p (w / 1) f0]
  rw [show fld w 4 6 = 0x004 from f4]
  exact (if_pos ⟨f10, f18⟩).trans (congrArg Except.ok e)

theorem RoundTrip.mload (c : BitVec 2) (s : BitVec 4) (p : BitVec 4) :
    RoundTrip.Statement (.mload c s p) := by
  intro _
  obtain ⟨w, hw⟩ : ∃ w, w / 2 ^ 0 = p.toNat + 2 ^ 4 * (0x005 + 2 ^ 6 * (0 + 2 ^ 4 * (s.toNat + 2 ^ 4 * (0 + 2 ^ 6 * (c.toNat + 2 ^ 2 * (0x2A + 2 ^ 6 * 0)))))) := ⟨_, Nat.div_one _⟩
  have he : encodeNat (.mload c s p) = w := by
    rw [← Nat.div_one w]; refine Eq.trans ?_ hw.symm; show 0xA8000050 + c.toNat * 16777216 + s.toNat * 16384 + p.toNat = _; omega
  have ⟨f0, r0⟩ := RoundTrip.peel (lo := 0) (n := 4) hw p.isLt
  have ⟨f4, r4⟩ := RoundTrip.peel (lo := 4) (n := 6) r0 (by decide)
  have ⟨f10, r10⟩ := RoundTrip.peel (lo := 10) (n := 4) r4 (by decide)
  have ⟨f14, r14⟩ := RoundTrip.peel (lo := 14) (n := 4) r10 s.isLt
  have ⟨f18, r18⟩ := RoundTrip.peel (lo := 18) (n := 6) r14 (by decide)
  have ⟨f24, r24⟩ := RoundTrip.peel (lo := 24) (n := 2) r18 c.isLt
  have ⟨f26, r26⟩ := RoundTrip.peel (lo := 26) (n := 6) r24 (by decide)
  rw [RoundTrip.decode_encode _ _ he (by omega), RoundTrip.major2A (by rintro rfl; cases f26) f26, decodeMajor2A]
  have e : Instr.mload (.ofNat 2 (w / 16777216)) (.ofNat 4 (w / 16384)) (.ofNat 4 (w / 1)) = .mload c s p := by
    rw [RoundTrip.ofNat_field c (w / 16777216) f24, RoundTrip.ofNat_field s (w / 16384) f14, RoundTrip.ofNat_field p (w / 1) f0]
  rw [show fld w 4 6 = 0x005 from f4]
  exact (if_pos ⟨f10, f18⟩).trans (congrArg Except.ok e)

theorem RoundTrip.qaxis (e : BitVec 2) (a : BitVec 4) (b : BitVec 4) (p : BitVec 4) :
    RoundTrip.Statement (.qaxis e a b p) := by
  intro _
  obtain ⟨w, hw⟩ : ∃ w, w / 2 ^ 0 = p.toNat + 2 ^ 4 * (0x000 + 2 ^ 6 * (0 + 2 ^ 3 * (b.toNat + 2 ^ 4 * (a.toNat + 2 ^ 4 * (0 + 2 ^ 3 * (e.toNat + 2 ^ 2 * (0x2C + 2 ^ 6 * 0))))))) := ⟨_, Nat.div_one _⟩
  have he : encodeNat (.qaxis e a b p) = w := by
    rw [← Nat.div_one w]; refine Eq.trans ?_ hw.symm; show 0xB0000000 + e.toNat * 16777216 + a.toNat * 131072 + b.toNat * 8192 + p.toNat = _; omega
  have ⟨f0, r0⟩ := RoundTrip.peel (lo := 0) (n := 4) hw p.isLt
  have ⟨f4, r4⟩ := RoundTrip.peel (lo := 4) (n := 6) r0 (by decide)
  have ⟨f10, r10⟩ := RoundTrip.peel (lo := 10) (n := 3) r4 (by decide)
  have ⟨f13, r13⟩ := RoundTrip.peel (lo := 13) (n := 4) r10 b.isLt
  have ⟨f17, r17⟩ := RoundTrip.peel (lo := 17) (n := 4) r13 a.isLt
  have ⟨f21, r21⟩ := RoundTrip.peel (lo := 21) (n := 3) r17 (by decide)
  have ⟨f24, r24⟩ := RoundTrip.peel (lo := 24) (n := 2) r21 e.isLt
  have ⟨f26, r26⟩ := RoundTrip.peel (lo := 26) (n := 6) r24 (by decide)
  rw [RoundTrip.decode_encode _ _ he (by omega), RoundTrip.major2C (by rintro rfl; cases f26) f26, decodeMajor2C]
  have e : Instr.qaxis (.ofNat 2 (w / 16777216)) (.ofNat 4 (w / 131072)) (.ofNat 4 (w / 8192)) (.ofNat 4 (w / 1)) = .qaxis e a b p := by
    rw [RoundTrip.ofNat_field e (w / 16777216) f24, RoundTrip.ofNat_field a (w / 131072) f17, RoundTrip.ofNat_field b (w / 8192) f13, RoundTrip.ofNat_field p (w / 1) f0]
  rw [if_neg (by unfold fld; omega)]
  rw [show fld w 4 6 = 0x000 from f4]
  exact (if_pos ⟨f10, f21⟩).trans (congrArg Except.ok e)

theorem RoundTrip.qst (e : BitVec 2) (v : BitVec 3) (a : BitVec 4) (b : BitVec 4) (q : BitVec 3) (p : BitVec 4) :
    RoundTrip.Statement (.qst e v a b q p) := by
  intro h
  obtain ⟨w, hw⟩ : ∃ w, w / 2 ^ 0 = p.toNat + 2 ^ 4 * (0x001 + 2 ^ 6 * (q.toNat + 2 ^ 3 * (b.toNat + 2 ^ 4 * (a.toNat + 2 ^ 4 * (v.toNat + 2 ^ 3 * (e.toNat + 2 ^ 2 * (0x2C + 2 ^ 6 * 0))))))) := ⟨_, Nat.div_one _⟩
  have he : encodeNat (.qst e v a b q p) = w := by
    rw [← Nat.div_one w]; refine Eq.trans ?_ hw.symm; show 0xB0000010 + e.toNat * 16777216 + v.toNat * 2097152 + a.toNat * 131072 + b.toNat * 8192 + q.toNat * 1024 + p.toNat = _; omega
  have ⟨f0, r0⟩ := RoundTrip.peel (lo := 0) (n := 4) hw p.isLt
  have ⟨f4, r4⟩ := RoundTrip.peel (lo := 4) (n := 6) r0 (by decide)
  have ⟨f10, r10⟩ := RoundTrip.peel (lo := 10) (n := 3) r4 q.isLt
  have ⟨f13, r13⟩ := RoundTrip.peel (lo := 13) (n := 4) r10 b.isLt
  have ⟨f17, r17⟩ := RoundTrip.peel (lo := 17) (n := 4) r13 a.isLt
  have ⟨f21, r21⟩ := RoundTrip.peel (lo := 21) (n := 3) r17 v.isLt
  have ⟨f24, r24⟩ := RoundTrip.peel (lo := 24) (n := 2) r21 e.isLt
  have ⟨f26, r26⟩ := RoundTrip.peel (lo := 26) (n := 6) r24 (by decide)
  have hl : q.toNat ≠ 7 ∧ (b.toNat = 0 ∨ q.toNat = 2) := by simpa [Instr.encodable, ← BitVec.toNat_inj] using h.2
  rw [RoundTrip.decode_encode _ _ he (by omega), RoundTrip.major2C (by rintro rfl; cases f26) f26, decodeMajor2C]
  have e : Instr.qst (.ofNat 2 (w / 16777216)) (.ofNat 3 (w / 2097152)) (.ofNat 4 (w / 131072)) (.ofNat 4 (w / 8192)) (.ofNat 3 (w / 1024)) (.ofNat 4 (w / 1)) = .qst e v a b q p := by
    rw [RoundTrip.ofNat_field e (w / 16777216) f24, RoundTrip.ofNat_field v (w / 2097152) f21, RoundTrip.ofNat_field a (w / 131072) f17, RoundTrip.ofNat_field b (w / 8192) f13, RoundTrip.ofNat_field q (w / 1024) f10, RoundTrip.ofNat_field p (w / 1) f0]
  rw [if_neg (by unfold fld; omega)]
  rw [show fld w 4 6 = 0x001 from f4]
  exact (if_pos (hl.2.elim (fun x => .inl (f13.trans x)) fun x => .inr (f10.trans x))).trans (congrArg Except.ok e)

theorem RoundTrip.qsta (e : BitVec 2) (c : BitVec 2) (a : BitVec 4) (b : BitVec 4) (q : BitVec 3) (p : BitVec 4) :
    RoundTrip.Statement (.qsta e c a b q p) := by
  intro h
  obtain ⟨w, hw⟩ : ∃ w, w / 2 ^ 0 = p.toNat + 2 ^ 4 * (0x002 + 2 ^ 6 * (q.toNat + 2 ^ 3 * (b.toNat + 2 ^ 4 * (a.toNat + 2 ^ 4 * (c.toNat + 2 ^ 2 * (0 + 2 ^ 1 * (e.toNat + 2 ^ 2 * (0x2C + 2 ^ 6 * 0)))))))) := ⟨_, Nat.div_one _⟩
  have he : encodeNat (.qsta e c a b q p) = w := by
    rw [← Nat.div_one w]; refine Eq.trans ?_ hw.symm; show 0xB0000020 + e.toNat * 16777216 + c.toNat * 2097152 + a.toNat * 131072 + b.toNat * 8192 + q.toNat * 1024 + p.toNat = _; omega
  have ⟨f0, r0⟩ := RoundTrip.peel (lo := 0) (n := 4) hw p.isLt
  have ⟨f4, r4⟩ := RoundTrip.peel (lo := 4) (n := 6) r0 (by decide)
  have ⟨f10, r10⟩ := RoundTrip.peel (lo := 10) (n := 3) r4 q.isLt
  have ⟨f13, r13⟩ := RoundTrip.peel (lo := 13) (n := 4) r10 b.isLt
  have ⟨f17, r17⟩ := RoundTrip.peel (lo := 17) (n := 4) r13 a.isLt
  have ⟨f21, r21⟩ := RoundTrip.peel (lo := 21) (n := 2) r17 c.isLt
  have ⟨f23, r23⟩ := RoundTrip.peel (lo := 23) (n := 1) r21 (by decide)
  have ⟨f24, r24⟩ := RoundTrip.peel (lo := 24) (n := 2) r23 e.isLt
  have ⟨f26, r26⟩ := RoundTrip.peel (lo := 26) (n := 6) r24 (by decide)
  have hl : q.toNat ≠ 7 ∧ (b.toNat = 0 ∨ q.toNat = 2) := by simpa [Instr.encodable, ← BitVec.toNat_inj] using h.2
  rw [RoundTrip.decode_encode _ _ he (by omega), RoundTrip.major2C (by rintro rfl; cases f26) f26, decodeMajor2C]
  have e : Instr.qsta (.ofNat 2 (w / 16777216)) (.ofNat 2 (w / 2097152)) (.ofNat 4 (w / 131072)) (.ofNat 4 (w / 8192)) (.ofNat 3 (w / 1024)) (.ofNat 4 (w / 1)) = .qsta e c a b q p := by
    rw [RoundTrip.ofNat_field e (w / 16777216) f24, RoundTrip.ofNat_field c (w / 2097152) f21, RoundTrip.ofNat_field a (w / 131072) f17, RoundTrip.ofNat_field b (w / 8192) f13, RoundTrip.ofNat_field q (w / 1024) f10, RoundTrip.ofNat_field p (w / 1) f0]
  rw [if_neg (by unfold fld; omega)]
  rw [show fld w 4 6 = 0x002 from f4]
  exact (if_pos ⟨f23, (hl.2.elim (fun x => .inl (f13.trans x)) fun x => .inr (f10.trans x))⟩).trans (congrArg Except.ok e)

theorem RoundTrip.qresR (e : BitVec 2) (v : BitVec 3) (p : BitVec 4) :
    RoundTrip.Statement (.qresR e v p) := by
  intro _
  obtain ⟨w, hw⟩ : ∃ w, w / 2 ^ 0 = p.toNat + 2 ^ 4 * (0x003 + 2 ^ 6 * (0 + 2 ^ 11 * (v.toNat + 2 ^ 3 * (e.toNat + 2 ^ 2 * (0x2C + 2 ^ 6 * 0))))) := ⟨_, Nat.div_one _⟩
  have he : encodeNat (.qresR e v p) = w := by
    rw [← Nat.div_one w]; refine Eq.trans ?_ hw.symm; show 0xB0000030 + e.toNat * 16777216 + v.toNat * 2097152 + p.toNat = _; omega
  have ⟨f0, r0⟩ := RoundTrip.peel (lo := 0) (n := 4) hw p.isLt
  have ⟨f4, r4⟩ := RoundTrip.peel (lo := 4) (n := 6) r0 (by decide)
  have ⟨f10, r10⟩ := RoundTrip.peel (lo := 10) (n := 11) r4 (by decide)
  have ⟨f21, r21⟩ := RoundTrip.peel (lo := 21) (n := 3) r10 v.isLt
  have ⟨f24, r24⟩ := RoundTrip.peel (lo := 24) (n := 2) r21 e.isLt
  have ⟨f26, r26⟩ := RoundTrip.peel (lo := 26) (n := 6) r24 (by decide)
  rw [RoundTrip.decode_encode _ _ he (by omega), RoundTrip.major2C (by rintro rfl; cases f26) f26, decodeMajor2C]
  have e : Instr.qresR (.ofNat 2 (w / 16777216)) (.ofNat 3 (w / 2097152)) (.ofNat 4 (w / 1)) = .qresR e v p := by
    rw [RoundTrip.ofNat_field e (w / 16777216) f24, RoundTrip.ofNat_field v (w / 2097152) f21, RoundTrip.ofNat_field p (w / 1) f0]
  rw [if_neg (by unfold fld; omega)]
  rw [show fld w 4 6 = 0x003 from f4]
  exact (if_pos f10).trans (congrArg Except.ok e)

theorem RoundTrip.qresW (e : BitVec 2) (v : BitVec 3) (p : BitVec 4) :
    RoundTrip.Statement (.qresW e v p) := by
  intro _
  obtain ⟨w, hw⟩ : ∃ w, w / 2 ^ 0 = p.toNat + 2 ^ 4 * (0x004 + 2 ^ 6 * (0 + 2 ^ 11 * (v.toNat + 2 ^ 3 * (e.toNat + 2 ^ 2 * (0x2C + 2 ^ 6 * 0))))) := ⟨_, Nat.div_one _⟩
  have he : encodeNat (.qresW e v p) = w := by
    rw [← Nat.div_one w]; refine Eq.trans ?_ hw.symm; show 0xB0000040 + e.toNat * 16777216 + v.toNat * 2097152 + p.toNat = _; omega
  have ⟨f0, r0⟩ := RoundTrip.peel (lo := 0) (n := 4) hw p.isLt
  have ⟨f4, r4⟩ := RoundTrip.peel (lo := 4) (n := 6) r0 (by decide)
  have ⟨f10, r10⟩ := RoundTrip.peel (lo := 10) (n := 11) r4 (by decide)
  have ⟨f21, r21⟩ := RoundTrip.peel (lo := 21) (n := 3) r10 v.isLt
  have ⟨f24, r24⟩ := RoundTrip.peel (lo := 24) (n := 2) r21 e.isLt
  have ⟨f26, r26⟩ := RoundTrip.peel (lo := 26) (n := 6) r24 (by decide)
  rw [RoundTrip.decode_encode _ _ he (by omega), RoundTrip.major2C (by rintro rfl; cases f26) f26, decodeMajor2C]
  have e : Instr.qresW (.ofNat 2 (w / 16777216)) (.ofNat 3 (w / 2097152)) (.ofNat 4 (w / 1)) = .qresW e v p := by
    rw [RoundTrip.ofNat_field e (w / 16777216) f24, RoundTrip.ofNat_field v (w / 2097152) f21, RoundTrip.ofNat_field p (w / 1) f0]
  rw [if_neg (by unfold fld; omega)]
  rw [show fld w 4 6 = 0x004 from f4]
  exact (if_pos f10).trans (congrArg Except.ok e)

theorem RoundTrip.gcfg (d : BitVec 4) (a : BitVec 4) (b : BitVec 4) (p : BitVec 4) :
    RoundTrip.Statement (.gcfg d a b p) := by
  intro _
  obtain ⟨w, hw⟩ : ∃ w, w / 2 ^ 0 = p.toNat + 2 ^ 4 * (0x000 + 2 ^ 10 * (b.toNat + 2 ^ 4 * (a.toNat + 2 ^ 4 * (d.toNat + 2 ^ 4 * (0x2D + 2 ^ 6 * 0))))) := ⟨_, Nat.div_one _⟩
  have he : encodeNat (.gcfg d a b p) = w := by
    rw [← Nat.div_one w]; refine Eq.trans ?_ hw.symm; show 0xB4000000 + d.toNat * 4194304 + a.toNat * 262144 + b.toNat * 16384 + p.toNat = _; omega
  have ⟨f0, r0⟩ := RoundTrip.peel (lo := 0) (n := 4) hw p.isLt
  have ⟨f4, r4⟩ := RoundTrip.peel (lo := 4) (n := 10) r0 (by decide)
  have ⟨f14, r14⟩ := RoundTrip.peel (lo := 14) (n := 4) r4 b.isLt
  have ⟨f18, r18⟩ := RoundTrip.peel (lo := 18) (n := 4) r14 a.isLt
  have ⟨f22, r22⟩ := RoundTrip.peel (lo := 22) (n := 4) r18 d.isLt
  have ⟨f26, r26⟩ := RoundTrip.peel (lo := 26) (n := 6) r22 (by decide)
  rw [RoundTrip.decode_encode _ _ he (by omega), RoundTrip.major2D (by rintro rfl; cases f26) f26, decodeMajor2D]
  have e : Instr.gcfg (.ofNat 4 (w / 4194304)) (.ofNat 4 (w / 262144)) (.ofNat 4 (w / 16384)) (.ofNat 4 (w / 1)) = .gcfg d a b p := by
    rw [RoundTrip.ofNat_field d (w / 4194304) f22, RoundTrip.ofNat_field a (w / 262144) f18, RoundTrip.ofNat_field b (w / 16384) f14, RoundTrip.ofNat_field p (w / 1) f0]
  rw [show fld w 4 10 = 0x000 from f4]
  exact congrArg Except.ok e

theorem RoundTrip.gseed (v : BitVec 3) (a : BitVec 4) (b : BitVec 4) (p : BitVec 4) :
    RoundTrip.Statement (.gseed v a b p) := by
  intro _
  obtain ⟨w, hw⟩ : ∃ w, w / 2 ^ 0 = p.toNat + 2 ^ 4 * (0x001 + 2 ^ 10 * (b.toNat + 2 ^ 4 * (a.toNat + 2 ^ 4 * (v.toNat + 2 ^ 3 * (0 + 2 ^ 1 * (0x2D + 2 ^ 6 * 0)))))) := ⟨_, Nat.div_one _⟩
  have he : encodeNat (.gseed v a b p) = w := by
    rw [← Nat.div_one w]; refine Eq.trans ?_ hw.symm; show 0xB4000010 + v.toNat * 4194304 + a.toNat * 262144 + b.toNat * 16384 + p.toNat = _; omega
  have ⟨f0, r0⟩ := RoundTrip.peel (lo := 0) (n := 4) hw p.isLt
  have ⟨f4, r4⟩ := RoundTrip.peel (lo := 4) (n := 10) r0 (by decide)
  have ⟨f14, r14⟩ := RoundTrip.peel (lo := 14) (n := 4) r4 b.isLt
  have ⟨f18, r18⟩ := RoundTrip.peel (lo := 18) (n := 4) r14 a.isLt
  have ⟨f22, r22⟩ := RoundTrip.peel (lo := 22) (n := 3) r18 v.isLt
  have ⟨f25, r25⟩ := RoundTrip.peel (lo := 25) (n := 1) r22 (by decide)
  have ⟨f26, r26⟩ := RoundTrip.peel (lo := 26) (n := 6) r25 (by decide)
  rw [RoundTrip.decode_encode _ _ he (by omega), RoundTrip.major2D (by rintro rfl; cases f26) f26, decodeMajor2D]
  have e : Instr.gseed (.ofNat 3 (w / 4194304)) (.ofNat 4 (w / 262144)) (.ofNat 4 (w / 16384)) (.ofNat 4 (w / 1)) = .gseed v a b p := by
    rw [RoundTrip.ofNat_field v (w / 4194304) f22, RoundTrip.ofNat_field a (w / 262144) f18, RoundTrip.ofNat_field b (w / 16384) f14, RoundTrip.ofNat_field p (w / 1) f0]
  rw [show fld w 4 10 = 0x001 from f4]
  exact (if_pos f25).trans (congrArg Except.ok e)

theorem RoundTrip.gadd (v : BitVec 3) (a : BitVec 4) (b : BitVec 4) (p : BitVec 4) :
    RoundTrip.Statement (.gadd v a b p) := by
  intro _
  obtain ⟨w, hw⟩ : ∃ w, w / 2 ^ 0 = p.toNat + 2 ^ 4 * (0x002 + 2 ^ 10 * (b.toNat + 2 ^ 4 * (a.toNat + 2 ^ 4 * (v.toNat + 2 ^ 3 * (0 + 2 ^ 1 * (0x2D + 2 ^ 6 * 0)))))) := ⟨_, Nat.div_one _⟩
  have he : encodeNat (.gadd v a b p) = w := by
    rw [← Nat.div_one w]; refine Eq.trans ?_ hw.symm; show 0xB4000020 + v.toNat * 4194304 + a.toNat * 262144 + b.toNat * 16384 + p.toNat = _; omega
  have ⟨f0, r0⟩ := RoundTrip.peel (lo := 0) (n := 4) hw p.isLt
  have ⟨f4, r4⟩ := RoundTrip.peel (lo := 4) (n := 10) r0 (by decide)
  have ⟨f14, r14⟩ := RoundTrip.peel (lo := 14) (n := 4) r4 b.isLt
  have ⟨f18, r18⟩ := RoundTrip.peel (lo := 18) (n := 4) r14 a.isLt
  have ⟨f22, r22⟩ := RoundTrip.peel (lo := 22) (n := 3) r18 v.isLt
  have ⟨f25, r25⟩ := RoundTrip.peel (lo := 25) (n := 1) r22 (by decide)
  have ⟨f26, r26⟩ := RoundTrip.peel (lo := 26) (n := 6) r25 (by decide)
  rw [RoundTrip.decode_encode _ _ he (by omega), RoundTrip.major2D (by rintro rfl; cases f26) f26, decodeMajor2D]
  have e : Instr.gadd (.ofNat 3 (w / 4194304)) (.ofNat 4 (w / 262144)) (.ofNat 4 (w / 16384)) (.ofNat 4 (w / 1)) = .gadd v a b p := by
    rw [RoundTrip.ofNat_field v (w / 4194304) f22, RoundTrip.ofNat_field a (w / 262144) f18, RoundTrip.ofNat_field b (w / 16384) f14, RoundTrip.ofNat_field p (w / 1) f0]
  rw [show fld w 4 10 = 0x002 from f4]
  exact (if_pos f25).trans (congrArg Except.ok e)

theorem RoundTrip.gld (v : BitVec 3) (a : BitVec 4) (b : BitVec 4) (p : BitVec 4) :
    RoundTrip.Statement (.gld v a b p) := by
  intro _
  obtain ⟨w, hw⟩ : ∃ w, w / 2 ^ 0 = p.toNat + 2 ^ 4 * (0x003 + 2 ^ 10 * (b.toNat + 2 ^ 4 * (a.toNat + 2 ^ 4 * (v.toNat + 2 ^ 3 * (0 + 2 ^ 1 * (0x2D + 2 ^ 6 * 0)))))) := ⟨_, Nat.div_one _⟩
  have he : encodeNat (.gld v a b p) = w := by
    rw [← Nat.div_one w]; refine Eq.trans ?_ hw.symm; show 0xB4000030 + v.toNat * 4194304 + a.toNat * 262144 + b.toNat * 16384 + p.toNat = _; omega
  have ⟨f0, r0⟩ := RoundTrip.peel (lo := 0) (n := 4) hw p.isLt
  have ⟨f4, r4⟩ := RoundTrip.peel (lo := 4) (n := 10) r0 (by decide)
  have ⟨f14, r14⟩ := RoundTrip.peel (lo := 14) (n := 4) r4 b.isLt
  have ⟨f18, r18⟩ := RoundTrip.peel (lo := 18) (n := 4) r14 a.isLt
  have ⟨f22, r22⟩ := RoundTrip.peel (lo := 22) (n := 3) r18 v.isLt
  have ⟨f25, r25⟩ := RoundTrip.peel (lo := 25) (n := 1) r22 (by decide)
  have ⟨f26, r26⟩ := RoundTrip.peel (lo := 26) (n := 6) r25 (by decide)
  rw [RoundTrip.decode_encode _ _ he (by omega), RoundTrip.major2D (by rintro rfl; cases f26) f26, decodeMajor2D]
  have e : Instr.gld (.ofNat 3 (w / 4194304)) (.ofNat 4 (w / 262144)) (.ofNat 4 (w / 16384)) (.ofNat 4 (w / 1)) = .gld v a b p := by
    rw [RoundTrip.ofNat_field v (w / 4194304) f22, RoundTrip.ofNat_field a (w / 262144) f18, RoundTrip.ofNat_field b (w / 16384) f14, RoundTrip.ofNat_field p (w / 1) f0]
  rw [show fld w 4 10 = 0x003 from f4]
  exact (if_pos f25).trans (congrArg Except.ok e)

theorem RoundTrip.gsprd (d : BitVec 3) (a : BitVec 4) (b : BitVec 4) (p : BitVec 4) :
    RoundTrip.Statement (.gsprd d a b p) := by
  intro _
  obtain ⟨w, hw⟩ : ∃ w, w / 2 ^ 0 = p.toNat + 2 ^ 4 * (0x004 + 2 ^ 10 * (b.toNat + 2 ^ 4 * (a.toNat + 2 ^ 4 * (d.toNat + 2 ^ 3 * (0 + 2 ^ 1 * (0x2D + 2 ^ 6 * 0)))))) := ⟨_, Nat.div_one _⟩
  have he : encodeNat (.gsprd d a b p) = w := by
    rw [← Nat.div_one w]; refine Eq.trans ?_ hw.symm; show 0xB4000040 + d.toNat * 4194304 + a.toNat * 262144 + b.toNat * 16384 + p.toNat = _; omega
  have ⟨f0, r0⟩ := RoundTrip.peel (lo := 0) (n := 4) hw p.isLt
  have ⟨f4, r4⟩ := RoundTrip.peel (lo := 4) (n := 10) r0 (by decide)
  have ⟨f14, r14⟩ := RoundTrip.peel (lo := 14) (n := 4) r4 b.isLt
  have ⟨f18, r18⟩ := RoundTrip.peel (lo := 18) (n := 4) r14 a.isLt
  have ⟨f22, r22⟩ := RoundTrip.peel (lo := 22) (n := 3) r18 d.isLt
  have ⟨f25, r25⟩ := RoundTrip.peel (lo := 25) (n := 1) r22 (by decide)
  have ⟨f26, r26⟩ := RoundTrip.peel (lo := 26) (n := 6) r25 (by decide)
  rw [RoundTrip.decode_encode _ _ he (by omega), RoundTrip.major2D (by rintro rfl; cases f26) f26, decodeMajor2D]
  have e : Instr.gsprd (.ofNat 3 (w / 4194304)) (.ofNat 4 (w / 262144)) (.ofNat 4 (w / 16384)) (.ofNat 4 (w / 1)) = .gsprd d a b p := by
    rw [RoundTrip.ofNat_field d (w / 4194304) f22, RoundTrip.ofNat_field a (w / 262144) f18, RoundTrip.ofNat_field b (w / 16384) f14, RoundTrip.ofNat_field p (w / 1) f0]
  rw [show fld w 4 10 = 0x004 from f4]
  exact (if_pos f25).trans (congrArg Except.ok e)

theorem RoundTrip.gfence (p : BitVec 4) :
    RoundTrip.Statement (.gfence p) := by
  intro _
  obtain ⟨w, hw⟩ : ∃ w, w / 2 ^ 0 = p.toNat + 2 ^ 4 * (0x005 + 2 ^ 10 * (0 + 2 ^ 12 * (0x2D + 2 ^ 6 * 0))) := ⟨_, Nat.div_one _⟩
  have he : encodeNat (.gfence p) = w := by
    rw [← Nat.div_one w]; refine Eq.trans ?_ hw.symm; show 0xB4000050 + p.toNat = _; omega
  have ⟨f0, r0⟩ := RoundTrip.peel (lo := 0) (n := 4) hw p.isLt
  have ⟨f4, r4⟩ := RoundTrip.peel (lo := 4) (n := 10) r0 (by decide)
  have ⟨f14, r14⟩ := RoundTrip.peel (lo := 14) (n := 12) r4 (by decide)
  have ⟨f26, r26⟩ := RoundTrip.peel (lo := 26) (n := 6) r14 (by decide)
  rw [RoundTrip.decode_encode _ _ he (by omega), RoundTrip.major2D (by rintro rfl; cases f26) f26, decodeMajor2D]
  have e : Instr.gfence (.ofNat 4 (w / 1)) = .gfence p := by
    rw [RoundTrip.ofNat_field p (w / 1) f0]
  rw [show fld w 4 10 = 0x005 from f4]
  exact (if_pos f14).trans (congrArg Except.ok e)

theorem RoundTrip.gmass (d : BitVec 4) (a : BitVec 4) (b : BitVec 4) (p : BitVec 4) :
    RoundTrip.Statement (.gmass d a b p) := by
  intro _
  obtain ⟨w, hw⟩ : ∃ w, w / 2 ^ 0 = p.toNat + 2 ^ 4 * (0x006 + 2 ^ 10 * (b.toNat + 2 ^ 4 * (a.toNat + 2 ^ 4 * (d.toNat + 2 ^ 4 * (0x2D + 2 ^ 6 * 0))))) := ⟨_, Nat.div_one _⟩
  have he : encodeNat (.gmass d a b p) = w := by
    rw [← Nat.div_one w]; refine Eq.trans ?_ hw.symm; show 0xB4000060 + d.toNat * 4194304 + a.toNat * 262144 + b.toNat * 16384 + p.toNat = _; omega
  have ⟨f0, r0⟩ := RoundTrip.peel (lo := 0) (n := 4) hw p.isLt
  have ⟨f4, r4⟩ := RoundTrip.peel (lo := 4) (n := 10) r0 (by decide)
  have ⟨f14, r14⟩ := RoundTrip.peel (lo := 14) (n := 4) r4 b.isLt
  have ⟨f18, r18⟩ := RoundTrip.peel (lo := 18) (n := 4) r14 a.isLt
  have ⟨f22, r22⟩ := RoundTrip.peel (lo := 22) (n := 4) r18 d.isLt
  have ⟨f26, r26⟩ := RoundTrip.peel (lo := 26) (n := 6) r22 (by decide)
  rw [RoundTrip.decode_encode _ _ he (by omega), RoundTrip.major2D (by rintro rfl; cases f26) f26, decodeMajor2D]
  have e : Instr.gmass (.ofNat 4 (w / 4194304)) (.ofNat 4 (w / 262144)) (.ofNat 4 (w / 16384)) (.ofNat 4 (w / 1)) = .gmass d a b p := by
    rw [RoundTrip.ofNat_field d (w / 4194304) f22, RoundTrip.ofNat_field a (w / 262144) f18, RoundTrip.ofNat_field b (w / 16384) f14, RoundTrip.ofNat_field p (w / 1) f0]
  rw [show fld w 4 10 = 0x006 from f4]
  exact congrArg Except.ok e

theorem RoundTrip.spawn (a : BitVec 4) (i : BitVec 12) (p : BitVec 4) :
    RoundTrip.Statement (.spawn a i p) := by
  intro _
  obtain ⟨w, hw⟩ : ∃ w, w / 2 ^ 0 = p.toNat + 2 ^ 4 * (0x000 + 2 ^ 2 * (i.toNat + 2 ^ 12 * (a.toNat + 2 ^ 4 * (0 + 2 ^ 4 * (0x30 + 2 ^ 6 * 0))))) := ⟨_, Nat.div_one _⟩
  have he : encodeNat (.spawn a i p) = w := by
    rw [← Nat.div_one w]; refine Eq.trans ?_ hw.symm; show 0xC0000000 + a.toNat * 262144 + i.toNat * 64 + p.toNat = _; omega
  have ⟨f0, r0⟩ := RoundTrip.peel (lo := 0) (n := 4) hw p.isLt
  have ⟨f4, r4⟩ := RoundTrip.peel (lo := 4) (n := 2) r0 (by decide)
  have ⟨f6, r6⟩ := RoundTrip.peel (lo := 6) (n := 12) r4 i.isLt
  have ⟨f18, r18⟩ := RoundTrip.peel (lo := 18) (n := 4) r6 a.isLt
  have ⟨f22, r22⟩ := RoundTrip.peel (lo := 22) (n := 4) r18 (by decide)
  have ⟨f26, r26⟩ := RoundTrip.peel (lo := 26) (n := 6) r22 (by decide)
  rw [RoundTrip.decode_encode _ _ he (by omega), RoundTrip.major30 (by rintro rfl; cases f26) f26, decodeMajor30]
  have e : Instr.spawn (.ofNat 4 (w / 262144)) (.ofNat 12 (w / 64)) (.ofNat 4 (w / 1)) = .spawn a i p := by
    rw [RoundTrip.ofNat_field a (w / 262144) f18, RoundTrip.ofNat_field i (w / 64) f6, RoundTrip.ofNat_field p (w / 1) f0]
  rw [show fld w 4 2 = 0x000 from f4]
  exact (if_pos f22).trans (congrArg Except.ok e)

theorem RoundTrip.join (a : BitVec 4) (p : BitVec 4) :
    RoundTrip.Statement (.join a p) := by
  intro _
  obtain ⟨w, hw⟩ : ∃ w, w / 2 ^ 0 = p.toNat + 2 ^ 4 * (0x001 + 2 ^ 2 * (0 + 2 ^ 12 * (a.toNat + 2 ^ 4 * (0 + 2 ^ 4 * (0x30 + 2 ^ 6 * 0))))) := ⟨_, Nat.div_one _⟩
  have he : encodeNat (.join a p) = w := by
    rw [← Nat.div_one w]; refine Eq.trans ?_ hw.symm; show 0xC0000010 + a.toNat * 262144 + p.toNat = _; omega
  have ⟨f0, r0⟩ := RoundTrip.peel (lo := 0) (n := 4) hw p.isLt
  have ⟨f4, r4⟩ := RoundTrip.peel (lo := 4) (n := 2) r0 (by decide)
  have ⟨f6, r6⟩ := RoundTrip.peel (lo := 6) (n := 12) r4 (by decide)
  have ⟨f18, r18⟩ := RoundTrip.peel (lo := 18) (n := 4) r6 a.isLt
  have ⟨f22, r22⟩ := RoundTrip.peel (lo := 22) (n := 4) r18 (by decide)
  have ⟨f26, r26⟩ := RoundTrip.peel (lo := 26) (n := 6) r22 (by decide)
  rw [RoundTrip.decode_encode _ _ he (by omega), RoundTrip.major30 (by rintro rfl; cases f26) f26, decodeMajor30]
  have e : Instr.join (.ofNat 4 (w / 262144)) (.ofNat 4 (w / 1)) = .join a p := by
    rw [RoundTrip.ofNat_field a (w / 262144) f18, RoundTrip.ofNat_field p (w / 1) f0]
  rw [show fld w 4 2 = 0x001 from f4]
  exact (if_pos ⟨f6, f22⟩).trans (congrArg Except.ok e)

theorem RoundTrip.tend (a : BitVec 4) (p : BitVec 4) :
    RoundTrip.Statement (.tend a p) := by
  intro _
  obtain ⟨w, hw⟩ : ∃ w, w / 2 ^ 0 = p.toNat + 2 ^ 4 * (0x002 + 2 ^ 2 * (0 + 2 ^ 12 * (a.toNat + 2 ^ 4 * (0 + 2 ^ 4 * (0x30 + 2 ^ 6 * 0))))) := ⟨_, Nat.div_one _⟩
  have he : encodeNat (.tend a p) = w := by
    rw [← Nat.div_one w]; refine Eq.trans ?_ hw.symm; show 0xC0000020 + a.toNat * 262144 + p.toNat = _; omega
  have ⟨f0, r0⟩ := RoundTrip.peel (lo := 0) (n := 4) hw p.isLt
  have ⟨f4, r4⟩ := RoundTrip.peel (lo := 4) (n := 2) r0 (by decide)
  have ⟨f6, r6⟩ := RoundTrip.peel (lo := 6) (n := 12) r4 (by decide)
  have ⟨f18, r18⟩ := RoundTrip.peel (lo := 18) (n := 4) r6 a.isLt
  have ⟨f22, r22⟩ := RoundTrip.peel (lo := 22) (n := 4) r18 (by decide)
  have ⟨f26, r26⟩ := RoundTrip.peel (lo := 26) (n := 6) r22 (by decide)
  rw [RoundTrip.decode_encode _ _ he (by omega), RoundTrip.major30 (by rintro rfl; cases f26) f26, decodeMajor30]
  have e : Instr.tend (.ofNat 4 (w / 262144)) (.ofNat 4 (w / 1)) = .tend a p := by
    rw [RoundTrip.ofNat_field a (w / 262144) f18, RoundTrip.ofNat_field p (w / 1) f0]
  rw [show fld w 4 2 = 0x002 from f4]
  exact (if_pos ⟨f6, f22⟩).trans (congrArg Except.ok e)

theorem RoundTrip.send (d : BitVec 4) (a : BitVec 4) (n : BitVec 2) (p : BitVec 4) :
    RoundTrip.Statement (.send d a n p) := by
  intro _
  obtain ⟨w, hw⟩ : ∃ w, w / 2 ^ 0 = p.toNat + 2 ^ 4 * (n.toNat + 2 ^ 2 * (0x0 + 2 ^ 8 * (0 + 2 ^ 4 * (a.toNat + 2 ^ 4 * (d.toNat + 2 ^ 4 * (0x31 + 2 ^ 6 * 0)))))) := ⟨_, Nat.div_one _⟩
  have he : encodeNat (.send d a n p) = w := by
    rw [← Nat.div_one w]; refine Eq.trans ?_ hw.symm; show 0xC4000000 + d.toNat * 4194304 + a.toNat * 262144 + n.toNat * 16 + p.toNat = _; omega
  have ⟨f0, r0⟩ := RoundTrip.peel (lo := 0) (n := 4) hw p.isLt
  have ⟨f4, r4⟩ := RoundTrip.peel (lo := 4) (n := 2) r0 n.isLt
  have ⟨f6, r6⟩ := RoundTrip.peel (lo := 6) (n := 8) r4 (by decide)
  have ⟨f14, r14⟩ := RoundTrip.peel (lo := 14) (n := 4) r6 (by decide)
  have ⟨f18, r18⟩ := RoundTrip.peel (lo := 18) (n := 4) r14 a.isLt
  have ⟨f22, r22⟩ := RoundTrip.peel (lo := 22) (n := 4) r18 d.isLt
  have ⟨f26, r26⟩ := RoundTrip.peel (lo := 26) (n := 6) r22 (by decide)
  rw [RoundTrip.decode_encode _ _ he (by omega), RoundTrip.major31 (by rintro rfl; cases f26) f26, decodeMajor31]
  have e : Instr.send (.ofNat 4 (w / 4194304)) (.ofNat 4 (w / 262144)) (.ofNat 2 (w / 16)) (.ofNat 4 (w / 1)) = .send d a n p := by
    rw [RoundTrip.ofNat_field d (w / 4194304) f22, RoundTrip.ofNat_field a (w / 262144) f18, RoundTrip.ofNat_field n (w / 16) f4, RoundTrip.ofNat_field p (w / 1) f0]
  rcases (show fld w 4 10 = 0x000 ∨ fld w 4 10 = 0x001 ∨ fld w 4 10 = 0x002 ∨ fld w 4 10 = 0x003 by unfold fld; omega) with hs | hs | hs | hs <;>
    (rw [hs]; exact (if_pos f14).trans (congrArg Except.ok e))

theorem RoundTrip.sendSvc (d : BitVec 4) (a : BitVec 4) (b : BitVec 4) (n : BitVec 2) (p : BitVec 4) :
    RoundTrip.Statement (.sendSvc d a b n p) := by
  intro _
  obtain ⟨w, hw⟩ : ∃ w, w / 2 ^ 0 = p.toNat + 2 ^ 4 * (n.toNat + 2 ^ 2 * (0x1 + 2 ^ 8 * (b.toNat + 2 ^ 4 * (a.toNat + 2 ^ 4 * (d.toNat + 2 ^ 4 * (0x31 + 2 ^ 6 * 0)))))) := ⟨_, Nat.div_one _⟩
  have he : encodeNat (.sendSvc d a b n p) = w := by
    rw [← Nat.div_one w]; refine Eq.trans ?_ hw.symm; show 0xC4000040 + d.toNat * 4194304 + a.toNat * 262144 + b.toNat * 16384 + n.toNat * 16 + p.toNat = _; omega
  have ⟨f0, r0⟩ := RoundTrip.peel (lo := 0) (n := 4) hw p.isLt
  have ⟨f4, r4⟩ := RoundTrip.peel (lo := 4) (n := 2) r0 n.isLt
  have ⟨f6, r6⟩ := RoundTrip.peel (lo := 6) (n := 8) r4 (by decide)
  have ⟨f14, r14⟩ := RoundTrip.peel (lo := 14) (n := 4) r6 b.isLt
  have ⟨f18, r18⟩ := RoundTrip.peel (lo := 18) (n := 4) r14 a.isLt
  have ⟨f22, r22⟩ := RoundTrip.peel (lo := 22) (n := 4) r18 d.isLt
  have ⟨f26, r26⟩ := RoundTrip.peel (lo := 26) (n := 6) r22 (by decide)
  rw [RoundTrip.decode_encode _ _ he (by omega), RoundTrip.major31 (by rintro rfl; cases f26) f26, decodeMajor31]
  have e : Instr.sendSvc (.ofNat 4 (w / 4194304)) (.ofNat 4 (w / 262144)) (.ofNat 4 (w / 16384)) (.ofNat 2 (w / 16)) (.ofNat 4 (w / 1)) = .sendSvc d a b n p := by
    rw [RoundTrip.ofNat_field d (w / 4194304) f22, RoundTrip.ofNat_field a (w / 262144) f18, RoundTrip.ofNat_field b (w / 16384) f14, RoundTrip.ofNat_field n (w / 16) f4, RoundTrip.ofNat_field p (w / 1) f0]
  rcases (show fld w 4 10 = 0x004 ∨ fld w 4 10 = 0x005 ∨ fld w 4 10 = 0x006 ∨ fld w 4 10 = 0x007 by unfold fld; omega) with hs | hs | hs | hs <;>
    (rw [hs]; exact congrArg Except.ok e)

theorem RoundTrip.recv (d : BitVec 4) (a : BitVec 4) (n : BitVec 2) (p : BitVec 4) :
    RoundTrip.Statement (.recv d a n p) := by
  intro _
  obtain ⟨w, hw⟩ : ∃ w, w / 2 ^ 0 = p.toNat + 2 ^ 4 * (n.toNat + 2 ^ 2 * (0x4 + 2 ^ 8 * (0 + 2 ^ 4 * (a.toNat + 2 ^ 4 * (d.toNat + 2 ^ 4 * (0x31 + 2 ^ 6 * 0)))))) := ⟨_, Nat.div_one _⟩
  have he : encodeNat (.recv d a n p) = w := by
    rw [← Nat.div_one w]; refine Eq.trans ?_ hw.symm; show 0xC4000100 + d.toNat * 4194304 + a.toNat * 262144 + n.toNat * 16 + p.toNat = _; omega
  have ⟨f0, r0⟩ := RoundTrip.peel (lo := 0) (n := 4) hw p.isLt
  have ⟨f4, r4⟩ := RoundTrip.peel (lo := 4) (n := 2) r0 n.isLt
  have ⟨f6, r6⟩ := RoundTrip.peel (lo := 6) (n := 8) r4 (by decide)
  have ⟨f14, r14⟩ := RoundTrip.peel (lo := 14) (n := 4) r6 (by decide)
  have ⟨f18, r18⟩ := RoundTrip.peel (lo := 18) (n := 4) r14 a.isLt
  have ⟨f22, r22⟩ := RoundTrip.peel (lo := 22) (n := 4) r18 d.isLt
  have ⟨f26, r26⟩ := RoundTrip.peel (lo := 26) (n := 6) r22 (by decide)
  rw [RoundTrip.decode_encode _ _ he (by omega), RoundTrip.major31 (by rintro rfl; cases f26) f26, decodeMajor31]
  have e : Instr.recv (.ofNat 4 (w / 4194304)) (.ofNat 4 (w / 262144)) (.ofNat 2 (w / 16)) (.ofNat 4 (w / 1)) = .recv d a n p := by
    rw [RoundTrip.ofNat_field d (w / 4194304) f22, RoundTrip.ofNat_field a (w / 262144) f18, RoundTrip.ofNat_field n (w / 16) f4, RoundTrip.ofNat_field p (w / 1) f0]
  rcases (show fld w 4 10 = 0x010 ∨ fld w 4 10 = 0x011 ∨ fld w 4 10 = 0x012 ∨ fld w 4 10 = 0x013 by unfold fld; omega) with hs | hs | hs | hs <;>
    (rw [hs]; exact (if_pos f14).trans (congrArg Except.ok e))

theorem RoundTrip.mig (a : BitVec 4) (p : BitVec 4) :
    RoundTrip.Statement (.mig a p) := by
  intro _
  obtain ⟨w, hw⟩ : ∃ w, w / 2 ^ 0 = p.toNat + 2 ^ 4 * (0x020 + 2 ^ 10 * (0 + 2 ^ 4 * (a.toNat + 2 ^ 4 * (0 + 2 ^ 4 * (0x31 + 2 ^ 6 * 0))))) := ⟨_, Nat.div_one _⟩
  have he : encodeNat (.mig a p) = w := by
    rw [← Nat.div_one w]; refine Eq.trans ?_ hw.symm; show 0xC4000200 + a.toNat * 262144 + p.toNat = _; omega
  have ⟨f0, r0⟩ := RoundTrip.peel (lo := 0) (n := 4) hw p.isLt
  have ⟨f4, r4⟩ := RoundTrip.peel (lo := 4) (n := 10) r0 (by decide)
  have ⟨f14, r14⟩ := RoundTrip.peel (lo := 14) (n := 4) r4 (by decide)
  have ⟨f18, r18⟩ := RoundTrip.peel (lo := 18) (n := 4) r14 a.isLt
  have ⟨f22, r22⟩ := RoundTrip.peel (lo := 22) (n := 4) r18 (by decide)
  have ⟨f26, r26⟩ := RoundTrip.peel (lo := 26) (n := 6) r22 (by decide)
  rw [RoundTrip.decode_encode _ _ he (by omega), RoundTrip.major31 (by rintro rfl; cases f26) f26, decodeMajor31]
  have e : Instr.mig (.ofNat 4 (w / 262144)) (.ofNat 4 (w / 1)) = .mig a p := by
    rw [RoundTrip.ofNat_field a (w / 262144) f18, RoundTrip.ofNat_field p (w / 1) f0]
  rw [show fld w 4 10 = 0x020 from f4]
  exact (if_pos ⟨f14, f22⟩).trans (congrArg Except.ok e)

theorem RoundTrip.cpy (d : BitVec 4) (a : BitVec 4) (b : BitVec 4) (p : BitVec 4) :
    RoundTrip.Statement (.cpy d a b p) := by
  intro _
  obtain ⟨w, hw⟩ : ∃ w, w / 2 ^ 0 = p.toNat + 2 ^ 4 * (0x000 + 2 ^ 10 * (b.toNat + 2 ^ 4 * (a.toNat + 2 ^ 4 * (d.toNat + 2 ^ 4 * (0x32 + 2 ^ 6 * 0))))) := ⟨_, Nat.div_one _⟩
  have he : encodeNat (.cpy d a b p) = w := by
    rw [← Nat.div_one w]; refine Eq.trans ?_ hw.symm; show 0xC8000000 + d.toNat * 4194304 + a.toNat * 262144 + b.toNat * 16384 + p.toNat = _; omega
  have ⟨f0, r0⟩ := RoundTrip.peel (lo := 0) (n := 4) hw p.isLt
  have ⟨f4, r4⟩ := RoundTrip.peel (lo := 4) (n := 10) r0 (by decide)
  have ⟨f14, r14⟩ := RoundTrip.peel (lo := 14) (n := 4) r4 b.isLt
  have ⟨f18, r18⟩ := RoundTrip.peel (lo := 18) (n := 4) r14 a.isLt
  have ⟨f22, r22⟩ := RoundTrip.peel (lo := 22) (n := 4) r18 d.isLt
  have ⟨f26, r26⟩ := RoundTrip.peel (lo := 26) (n := 6) r22 (by decide)
  rw [RoundTrip.decode_encode _ _ he (by omega), RoundTrip.major32 (by rintro rfl; cases f26) f26, decodeMajor32]
  have e : Instr.cpy (.ofNat 4 (w / 4194304)) (.ofNat 4 (w / 262144)) (.ofNat 4 (w / 16384)) (.ofNat 4 (w / 1)) = .cpy d a b p := by
    rw [RoundTrip.ofNat_field d (w / 4194304) f22, RoundTrip.ofNat_field a (w / 262144) f18, RoundTrip.ofNat_field b (w / 16384) f14, RoundTrip.ofNat_field p (w / 1) f0]
  rw [show fld w 4 10 = 0x000 from f4]
  exact congrArg Except.ok e

theorem RoundTrip.cpyr (d : BitVec 4) (a : BitVec 4) (b : BitVec 4) (p : BitVec 4) :
    RoundTrip.Statement (.cpyr d a b p) := by
  intro _
  obtain ⟨w, hw⟩ : ∃ w, w / 2 ^ 0 = p.toNat + 2 ^ 4 * (0x001 + 2 ^ 10 * (b.toNat + 2 ^ 4 * (a.toNat + 2 ^ 4 * (d.toNat + 2 ^ 4 * (0x32 + 2 ^ 6 * 0))))) := ⟨_, Nat.div_one _⟩
  have he : encodeNat (.cpyr d a b p) = w := by
    rw [← Nat.div_one w]; refine Eq.trans ?_ hw.symm; show 0xC8000010 + d.toNat * 4194304 + a.toNat * 262144 + b.toNat * 16384 + p.toNat = _; omega
  have ⟨f0, r0⟩ := RoundTrip.peel (lo := 0) (n := 4) hw p.isLt
  have ⟨f4, r4⟩ := RoundTrip.peel (lo := 4) (n := 10) r0 (by decide)
  have ⟨f14, r14⟩ := RoundTrip.peel (lo := 14) (n := 4) r4 b.isLt
  have ⟨f18, r18⟩ := RoundTrip.peel (lo := 18) (n := 4) r14 a.isLt
  have ⟨f22, r22⟩ := RoundTrip.peel (lo := 22) (n := 4) r18 d.isLt
  have ⟨f26, r26⟩ := RoundTrip.peel (lo := 26) (n := 6) r22 (by decide)
  rw [RoundTrip.decode_encode _ _ he (by omega), RoundTrip.major32 (by rintro rfl; cases f26) f26, decodeMajor32]
  have e : Instr.cpyr (.ofNat 4 (w / 4194304)) (.ofNat 4 (w / 262144)) (.ofNat 4 (w / 16384)) (.ofNat 4 (w / 1)) = .cpyr d a b p := by
    rw [RoundTrip.ofNat_field d (w / 4194304) f22, RoundTrip.ofNat_field a (w / 262144) f18, RoundTrip.ofNat_field b (w / 16384) f14, RoundTrip.ofNat_field p (w / 1) f0]
  rw [show fld w 4 10 = 0x001 from f4]
  exact congrArg Except.ok e

theorem RoundTrip.rpush (d : BitVec 4) (a : BitVec 4) (b : BitVec 4) (p : BitVec 4) :
    RoundTrip.Statement (.rpush d a b p) := by
  intro _
  obtain ⟨w, hw⟩ : ∃ w, w / 2 ^ 0 = p.toNat + 2 ^ 4 * (0x002 + 2 ^ 10 * (b.toNat + 2 ^ 4 * (a.toNat + 2 ^ 4 * (d.toNat + 2 ^ 4 * (0x32 + 2 ^ 6 * 0))))) := ⟨_, Nat.div_one _⟩
  have he : encodeNat (.rpush d a b p) = w := by
    rw [← Nat.div_one w]; refine Eq.trans ?_ hw.symm; show 0xC8000020 + d.toNat * 4194304 + a.toNat * 262144 + b.toNat * 16384 + p.toNat = _; omega
  have ⟨f0, r0⟩ := RoundTrip.peel (lo := 0) (n := 4) hw p.isLt
  have ⟨f4, r4⟩ := RoundTrip.peel (lo := 4) (n := 10) r0 (by decide)
  have ⟨f14, r14⟩ := RoundTrip.peel (lo := 14) (n := 4) r4 b.isLt
  have ⟨f18, r18⟩ := RoundTrip.peel (lo := 18) (n := 4) r14 a.isLt
  have ⟨f22, r22⟩ := RoundTrip.peel (lo := 22) (n := 4) r18 d.isLt
  have ⟨f26, r26⟩ := RoundTrip.peel (lo := 26) (n := 6) r22 (by decide)
  rw [RoundTrip.decode_encode _ _ he (by omega), RoundTrip.major32 (by rintro rfl; cases f26) f26, decodeMajor32]
  have e : Instr.rpush (.ofNat 4 (w / 4194304)) (.ofNat 4 (w / 262144)) (.ofNat 4 (w / 16384)) (.ofNat 4 (w / 1)) = .rpush d a b p := by
    rw [RoundTrip.ofNat_field d (w / 4194304) f22, RoundTrip.ofNat_field a (w / 262144) f18, RoundTrip.ofNat_field b (w / 16384) f14, RoundTrip.ofNat_field p (w / 1) f0]
  rw [show fld w 4 10 = 0x002 from f4]
  exact congrArg Except.ok e

theorem RoundTrip.qfence (a : BitVec 4) (p : BitVec 4) :
    RoundTrip.Statement (.qfence a p) := by
  intro _
  obtain ⟨w, hw⟩ : ∃ w, w / 2 ^ 0 = p.toNat + 2 ^ 4 * (0x003 + 2 ^ 10 * (0 + 2 ^ 4 * (a.toNat + 2 ^ 4 * (0 + 2 ^ 4 * (0x32 + 2 ^ 6 * 0))))) := ⟨_, Nat.div_one _⟩
  have he : encodeNat (.qfence a p) = w := by
    rw [← Nat.div_one w]; refine Eq.trans ?_ hw.symm; show 0xC8000030 + a.toNat * 262144 + p.toNat = _; omega
  have ⟨f0, r0⟩ := RoundTrip.peel (lo := 0) (n := 4) hw p.isLt
  have ⟨f4, r4⟩ := RoundTrip.peel (lo := 4) (n := 10) r0 (by decide)
  have ⟨f14, r14⟩ := RoundTrip.peel (lo := 14) (n := 4) r4 (by decide)
  have ⟨f18, r18⟩ := RoundTrip.peel (lo := 18) (n := 4) r14 a.isLt
  have ⟨f22, r22⟩ := RoundTrip.peel (lo := 22) (n := 4) r18 (by decide)
  have ⟨f26, r26⟩ := RoundTrip.peel (lo := 26) (n := 6) r22 (by decide)
  rw [RoundTrip.decode_encode _ _ he (by omega), RoundTrip.major32 (by rintro rfl; cases f26) f26, decodeMajor32]
  have e : Instr.qfence (.ofNat 4 (w / 262144)) (.ofNat 4 (w / 1)) = .qfence a p := by
    rw [RoundTrip.ofNat_field a (w / 262144) f18, RoundTrip.ofNat_field p (w / 1) f0]
  rw [show fld w 4 10 = 0x003 from f4]
  exact (if_pos ⟨f14, f22⟩).trans (congrArg Except.ok e)

theorem RoundTrip.coll (d : BitVec 4) (a : BitVec 4) (b : BitVec 4) (p : BitVec 4) :
    RoundTrip.Statement (.coll d a b p) := by
  intro _
  obtain ⟨w, hw⟩ : ∃ w, w / 2 ^ 0 = p.toNat + 2 ^ 4 * (0x004 + 2 ^ 10 * (b.toNat + 2 ^ 4 * (a.toNat + 2 ^ 4 * (d.toNat + 2 ^ 4 * (0x32 + 2 ^ 6 * 0))))) := ⟨_, Nat.div_one _⟩
  have he : encodeNat (.coll d a b p) = w := by
    rw [← Nat.div_one w]; refine Eq.trans ?_ hw.symm; show 0xC8000040 + d.toNat * 4194304 + a.toNat * 262144 + b.toNat * 16384 + p.toNat = _; omega
  have ⟨f0, r0⟩ := RoundTrip.peel (lo := 0) (n := 4) hw p.isLt
  have ⟨f4, r4⟩ := RoundTrip.peel (lo := 4) (n := 10) r0 (by decide)
  have ⟨f14, r14⟩ := RoundTrip.peel (lo := 14) (n := 4) r4 b.isLt
  have ⟨f18, r18⟩ := RoundTrip.peel (lo := 18) (n := 4) r14 a.isLt
  have ⟨f22, r22⟩ := RoundTrip.peel (lo := 22) (n := 4) r18 d.isLt
  have ⟨f26, r26⟩ := RoundTrip.peel (lo := 26) (n := 6) r22 (by decide)
  rw [RoundTrip.decode_encode _ _ he (by omega), RoundTrip.major32 (by rintro rfl; cases f26) f26, decodeMajor32]
  have e : Instr.coll (.ofNat 4 (w / 4194304)) (.ofNat 4 (w / 262144)) (.ofNat 4 (w / 16384)) (.ofNat 4 (w / 1)) = .coll d a b p := by
    rw [RoundTrip.ofNat_field d (w / 4194304) f22, RoundTrip.ofNat_field a (w / 262144) f18, RoundTrip.ofNat_field b (w / 16384) f14, RoundTrip.ofNat_field p (w / 1) f0]
  rw [show fld w 4 10 = 0x004 from f4]
  exact congrArg Except.ok e

theorem RoundTrip.collw (d : BitVec 4) (a : BitVec 4) (b : BitVec 4) (p : BitVec 4) :
    RoundTrip.Statement (.collw d a b p) := by
  intro _
  obtain ⟨w, hw⟩ : ∃ w, w / 2 ^ 0 = p.toNat + 2 ^ 4 * (0x005 + 2 ^ 10 * (b.toNat + 2 ^ 4 * (a.toNat + 2 ^ 4 * (d.toNat + 2 ^ 4 * (0x32 + 2 ^ 6 * 0))))) := ⟨_, Nat.div_one _⟩
  have he : encodeNat (.collw d a b p) = w := by
    rw [← Nat.div_one w]; refine Eq.trans ?_ hw.symm; show 0xC8000050 + d.toNat * 4194304 + a.toNat * 262144 + b.toNat * 16384 + p.toNat = _; omega
  have ⟨f0, r0⟩ := RoundTrip.peel (lo := 0) (n := 4) hw p.isLt
  have ⟨f4, r4⟩ := RoundTrip.peel (lo := 4) (n := 10) r0 (by decide)
  have ⟨f14, r14⟩ := RoundTrip.peel (lo := 14) (n := 4) r4 b.isLt
  have ⟨f18, r18⟩ := RoundTrip.peel (lo := 18) (n := 4) r14 a.isLt
  have ⟨f22, r22⟩ := RoundTrip.peel (lo := 22) (n := 4) r18 d.isLt
  have ⟨f26, r26⟩ := RoundTrip.peel (lo := 26) (n := 6) r22 (by decide)
  rw [RoundTrip.decode_encode _ _ he (by omega), RoundTrip.major32 (by rintro rfl; cases f26) f26, decodeMajor32]
  have e : Instr.collw (.ofNat 4 (w / 4194304)) (.ofNat 4 (w / 262144)) (.ofNat 4 (w / 16384)) (.ofNat 4 (w / 1)) = .collw d a b p := by
    rw [RoundTrip.ofNat_field d (w / 4194304) f22, RoundTrip.ofNat_field a (w / 262144) f18, RoundTrip.ofNat_field b (w / 16384) f14, RoundTrip.ofNat_field p (w / 1) f0]
  rw [show fld w 4 10 = 0x005 from f4]
  exact congrArg Except.ok e

theorem RoundTrip.bdef (d : BitVec 4) (a : BitVec 4) (b : BitVec 4) (p : BitVec 4) :
    RoundTrip.Statement (.bdef d a b p) := by
  intro _
  obtain ⟨w, hw⟩ : ∃ w, w / 2 ^ 0 = p.toNat + 2 ^ 4 * (0x000 + 2 ^ 10 * (b.toNat + 2 ^ 4 * (a.toNat + 2 ^ 4 * (d.toNat + 2 ^ 4 * (0x34 + 2 ^ 6 * 0))))) := ⟨_, Nat.div_one _⟩
  have he : encodeNat (.bdef d a b p) = w := by
    rw [← Nat.div_one w]; refine Eq.trans ?_ hw.symm; show 0xD0000000 + d.toNat * 4194304 + a.toNat * 262144 + b.toNat * 16384 + p.toNat = _; omega
  have ⟨f0, r0⟩ := RoundTrip.peel (lo := 0) (n := 4) hw p.isLt
  have ⟨f4, r4⟩ := RoundTrip.peel (lo := 4) (n := 10) r0 (by decide)
  have ⟨f14, r14⟩ := RoundTrip.peel (lo := 14) (n := 4) r4 b.isLt
  have ⟨f18, r18⟩ := RoundTrip.peel (lo := 18) (n := 4) r14 a.isLt
  have ⟨f22, r22⟩ := RoundTrip.peel (lo := 22) (n := 4) r18 d.isLt
  have ⟨f26, r26⟩ := RoundTrip.peel (lo := 26) (n := 6) r22 (by decide)
  rw [RoundTrip.decode_encode _ _ he (by omega), RoundTrip.major34 (by rintro rfl; cases f26) f26, decodeMajor34]
  have e : Instr.bdef (.ofNat 4 (w / 4194304)) (.ofNat 4 (w / 262144)) (.ofNat 4 (w / 16384)) (.ofNat 4 (w / 1)) = .bdef d a b p := by
    rw [RoundTrip.ofNat_field d (w / 4194304) f22, RoundTrip.ofNat_field a (w / 262144) f18, RoundTrip.ofNat_field b (w / 16384) f14, RoundTrip.ofNat_field p (w / 1) f0]
  rw [show fld w 4 10 = 0x000 from f4]
  exact congrArg Except.ok e

theorem RoundTrip.bnbr (a : BitVec 4) (b : BitVec 4) (p : BitVec 4) :
    RoundTrip.Statement (.bnbr a b p) := by
  intro _
  obtain ⟨w, hw⟩ : ∃ w, w / 2 ^ 0 = p.toNat + 2 ^ 4 * (0x001 + 2 ^ 10 * (b.toNat + 2 ^ 4 * (a.toNat + 2 ^ 4 * (0 + 2 ^ 4 * (0x34 + 2 ^ 6 * 0))))) := ⟨_, Nat.div_one _⟩
  have he : encodeNat (.bnbr a b p) = w := by
    rw [← Nat.div_one w]; refine Eq.trans ?_ hw.symm; show 0xD0000010 + a.toNat * 262144 + b.toNat * 16384 + p.toNat = _; omega
  have ⟨f0, r0⟩ := RoundTrip.peel (lo := 0) (n := 4) hw p.isLt
  have ⟨f4, r4⟩ := RoundTrip.peel (lo := 4) (n := 10) r0 (by decide)
  have ⟨f14, r14⟩ := RoundTrip.peel (lo := 14) (n := 4) r4 b.isLt
  have ⟨f18, r18⟩ := RoundTrip.peel (lo := 18) (n := 4) r14 a.isLt
  have ⟨f22, r22⟩ := RoundTrip.peel (lo := 22) (n := 4) r18 (by decide)
  have ⟨f26, r26⟩ := RoundTrip.peel (lo := 26) (n := 6) r22 (by decide)
  rw [RoundTrip.decode_encode _ _ he (by omega), RoundTrip.major34 (by rintro rfl; cases f26) f26, decodeMajor34]
  have e : Instr.bnbr (.ofNat 4 (w / 262144)) (.ofNat 4 (w / 16384)) (.ofNat 4 (w / 1)) = .bnbr a b p := by
    rw [RoundTrip.ofNat_field a (w / 262144) f18, RoundTrip.ofNat_field b (w / 16384) f14, RoundTrip.ofNat_field p (w / 1) f0]
  rw [show fld w 4 10 = 0x001 from f4]
  exact (if_pos f22).trans (congrArg Except.ok e)

theorem RoundTrip.brule (a : BitVec 4) (b : BitVec 4) (p : BitVec 4) :
    RoundTrip.Statement (.brule a b p) := by
  intro _
  obtain ⟨w, hw⟩ : ∃ w, w / 2 ^ 0 = p.toNat + 2 ^ 4 * (0x002 + 2 ^ 10 * (b.toNat + 2 ^ 4 * (a.toNat + 2 ^ 4 * (0 + 2 ^ 4 * (0x34 + 2 ^ 6 * 0))))) := ⟨_, Nat.div_one _⟩
  have he : encodeNat (.brule a b p) = w := by
    rw [← Nat.div_one w]; refine Eq.trans ?_ hw.symm; show 0xD0000020 + a.toNat * 262144 + b.toNat * 16384 + p.toNat = _; omega
  have ⟨f0, r0⟩ := RoundTrip.peel (lo := 0) (n := 4) hw p.isLt
  have ⟨f4, r4⟩ := RoundTrip.peel (lo := 4) (n := 10) r0 (by decide)
  have ⟨f14, r14⟩ := RoundTrip.peel (lo := 14) (n := 4) r4 b.isLt
  have ⟨f18, r18⟩ := RoundTrip.peel (lo := 18) (n := 4) r14 a.isLt
  have ⟨f22, r22⟩ := RoundTrip.peel (lo := 22) (n := 4) r18 (by decide)
  have ⟨f26, r26⟩ := RoundTrip.peel (lo := 26) (n := 6) r22 (by decide)
  rw [RoundTrip.decode_encode _ _ he (by omega), RoundTrip.major34 (by rintro rfl; cases f26) f26, decodeMajor34]
  have e : Instr.brule (.ofNat 4 (w / 262144)) (.ofNat 4 (w / 16384)) (.ofNat 4 (w / 1)) = .brule a b p := by
    rw [RoundTrip.ofNat_field a (w / 262144) f18, RoundTrip.ofNat_field b (w / 16384) f14, RoundTrip.ofNat_field p (w / 1) f0]
  rw [show fld w 4 10 = 0x002 from f4]
  exact (if_pos f22).trans (congrArg Except.ok e)

theorem RoundTrip.bstart (a : BitVec 4) (b : BitVec 4) (p : BitVec 4) :
    RoundTrip.Statement (.bstart a b p) := by
  intro _
  obtain ⟨w, hw⟩ : ∃ w, w / 2 ^ 0 = p.toNat + 2 ^ 4 * (0x003 + 2 ^ 10 * (b.toNat + 2 ^ 4 * (a.toNat + 2 ^ 4 * (0 + 2 ^ 4 * (0x34 + 2 ^ 6 * 0))))) := ⟨_, Nat.div_one _⟩
  have he : encodeNat (.bstart a b p) = w := by
    rw [← Nat.div_one w]; refine Eq.trans ?_ hw.symm; show 0xD0000030 + a.toNat * 262144 + b.toNat * 16384 + p.toNat = _; omega
  have ⟨f0, r0⟩ := RoundTrip.peel (lo := 0) (n := 4) hw p.isLt
  have ⟨f4, r4⟩ := RoundTrip.peel (lo := 4) (n := 10) r0 (by decide)
  have ⟨f14, r14⟩ := RoundTrip.peel (lo := 14) (n := 4) r4 b.isLt
  have ⟨f18, r18⟩ := RoundTrip.peel (lo := 18) (n := 4) r14 a.isLt
  have ⟨f22, r22⟩ := RoundTrip.peel (lo := 22) (n := 4) r18 (by decide)
  have ⟨f26, r26⟩ := RoundTrip.peel (lo := 26) (n := 6) r22 (by decide)
  rw [RoundTrip.decode_encode _ _ he (by omega), RoundTrip.major34 (by rintro rfl; cases f26) f26, decodeMajor34]
  have e : Instr.bstart (.ofNat 4 (w / 262144)) (.ofNat 4 (w / 16384)) (.ofNat 4 (w / 1)) = .bstart a b p := by
    rw [RoundTrip.ofNat_field a (w / 262144) f18, RoundTrip.ofNat_field b (w / 16384) f14, RoundTrip.ofNat_field p (w / 1) f0]
  rw [show fld w 4 10 = 0x003 from f4]
  exact (if_pos f22).trans (congrArg Except.ok e)

theorem RoundTrip.bnext (p : BitVec 4) :
    RoundTrip.Statement (.bnext p) := by
  intro _
  obtain ⟨w, hw⟩ : ∃ w, w / 2 ^ 0 = p.toNat + 2 ^ 4 * (0x004 + 2 ^ 10 * (0 + 2 ^ 12 * (0x34 + 2 ^ 6 * 0))) := ⟨_, Nat.div_one _⟩
  have he : encodeNat (.bnext p) = w := by
    rw [← Nat.div_one w]; refine Eq.trans ?_ hw.symm; show 0xD0000040 + p.toNat = _; omega
  have ⟨f0, r0⟩ := RoundTrip.peel (lo := 0) (n := 4) hw p.isLt
  have ⟨f4, r4⟩ := RoundTrip.peel (lo := 4) (n := 10) r0 (by decide)
  have ⟨f14, r14⟩ := RoundTrip.peel (lo := 14) (n := 12) r4 (by decide)
  have ⟨f26, r26⟩ := RoundTrip.peel (lo := 26) (n := 6) r14 (by decide)
  rw [RoundTrip.decode_encode _ _ he (by omega), RoundTrip.major34 (by rintro rfl; cases f26) f26, decodeMajor34]
  have e : Instr.bnext (.ofNat 4 (w / 1)) = .bnext p := by
    rw [RoundTrip.ofNat_field p (w / 1) f0]
  rw [show fld w 4 10 = 0x004 from f4]
  exact (if_pos f14).trans (congrArg Except.ok e)

theorem RoundTrip.bcommit (p : BitVec 4) :
    RoundTrip.Statement (.bcommit p) := by
  intro _
  obtain ⟨w, hw⟩ : ∃ w, w / 2 ^ 0 = p.toNat + 2 ^ 4 * (0x005 + 2 ^ 10 * (0 + 2 ^ 12 * (0x34 + 2 ^ 6 * 0))) := ⟨_, Nat.div_one _⟩
  have he : encodeNat (.bcommit p) = w := by
    rw [← Nat.div_one w]; refine Eq.trans ?_ hw.symm; show 0xD0000050 + p.toNat = _; omega
  have ⟨f0, r0⟩ := RoundTrip.peel (lo := 0) (n := 4) hw p.isLt
  have ⟨f4, r4⟩ := RoundTrip.peel (lo := 4) (n := 10) r0 (by decide)
  have ⟨f14, r14⟩ := RoundTrip.peel (lo := 14) (n := 12) r4 (by decide)
  have ⟨f26, r26⟩ := RoundTrip.peel (lo := 26) (n := 6) r14 (by decide)
  rw [RoundTrip.decode_encode _ _ he (by omega), RoundTrip.major34 (by rintro rfl; cases f26) f26, decodeMajor34]
  have e : Instr.bcommit (.ofNat 4 (w / 1)) = .bcommit p := by
    rw [RoundTrip.ofNat_field p (w / 1) f0]
  rw [show fld w 4 10 = 0x005 from f4]
  exact (if_pos f14).trans (congrArg Except.ok e)

theorem RoundTrip.bcommitC (p : BitVec 4) :
    RoundTrip.Statement (.bcommitC p) := by
  intro _
  obtain ⟨w, hw⟩ : ∃ w, w / 2 ^ 0 = p.toNat + 2 ^ 4 * (0x006 + 2 ^ 10 * (0 + 2 ^ 12 * (0x34 + 2 ^ 6 * 0))) := ⟨_, Nat.div_one _⟩
  have he : encodeNat (.bcommitC p) = w := by
    rw [← Nat.div_one w]; refine Eq.trans ?_ hw.symm; show 0xD0000060 + p.toNat = _; omega
  have ⟨f0, r0⟩ := RoundTrip.peel (lo := 0) (n := 4) hw p.isLt
  have ⟨f4, r4⟩ := RoundTrip.peel (lo := 4) (n := 10) r0 (by decide)
  have ⟨f14, r14⟩ := RoundTrip.peel (lo := 14) (n := 12) r4 (by decide)
  have ⟨f26, r26⟩ := RoundTrip.peel (lo := 26) (n := 6) r14 (by decide)
  rw [RoundTrip.decode_encode _ _ he (by omega), RoundTrip.major34 (by rintro rfl; cases f26) f26, decodeMajor34]
  have e : Instr.bcommitC (.ofNat 4 (w / 1)) = .bcommitC p := by
    rw [RoundTrip.ofNat_field p (w / 1) f0]
  rw [show fld w 4 10 = 0x006 from f4]
  exact (if_pos f14).trans (congrArg Except.ok e)

theorem RoundTrip.blvl (d : BitVec 4) (a : BitVec 4) (p : BitVec 4) :
    RoundTrip.Statement (.blvl d a p) := by
  intro _
  obtain ⟨w, hw⟩ : ∃ w, w / 2 ^ 0 = p.toNat + 2 ^ 4 * (0x007 + 2 ^ 10 * (0 + 2 ^ 4 * (a.toNat + 2 ^ 4 * (d.toNat + 2 ^ 4 * (0x34 + 2 ^ 6 * 0))))) := ⟨_, Nat.div_one _⟩
  have he : encodeNat (.blvl d a p) = w := by
    rw [← Nat.div_one w]; refine Eq.trans ?_ hw.symm; show 0xD0000070 + d.toNat * 4194304 + a.toNat * 262144 + p.toNat = _; omega
  have ⟨f0, r0⟩ := RoundTrip.peel (lo := 0) (n := 4) hw p.isLt
  have ⟨f4, r4⟩ := RoundTrip.peel (lo := 4) (n := 10) r0 (by decide)
  have ⟨f14, r14⟩ := RoundTrip.peel (lo := 14) (n := 4) r4 (by decide)
  have ⟨f18, r18⟩ := RoundTrip.peel (lo := 18) (n := 4) r14 a.isLt
  have ⟨f22, r22⟩ := RoundTrip.peel (lo := 22) (n := 4) r18 d.isLt
  have ⟨f26, r26⟩ := RoundTrip.peel (lo := 26) (n := 6) r22 (by decide)
  rw [RoundTrip.decode_encode _ _ he (by omega), RoundTrip.major34 (by rintro rfl; cases f26) f26, decodeMajor34]
  have e : Instr.blvl (.ofNat 4 (w / 4194304)) (.ofNat 4 (w / 262144)) (.ofNat 4 (w / 1)) = .blvl d a p := by
    rw [RoundTrip.ofNat_field d (w / 4194304) f22, RoundTrip.ofNat_field a (w / 262144) f18, RoundTrip.ofNat_field p (w / 1) f0]
  rw [show fld w 4 10 = 0x007 from f4]
  exact (if_pos f14).trans (congrArg Except.ok e)

theorem RoundTrip.bfrzB (p : BitVec 4) :
    RoundTrip.Statement (.bfrzB p) := by
  intro _
  obtain ⟨w, hw⟩ : ∃ w, w / 2 ^ 0 = p.toNat + 2 ^ 4 * (0x008 + 2 ^ 10 * (0 + 2 ^ 12 * (0x34 + 2 ^ 6 * 0))) := ⟨_, Nat.div_one _⟩
  have he : encodeNat (.bfrzB p) = w := by
    rw [← Nat.div_one w]; refine Eq.trans ?_ hw.symm; show 0xD0000080 + p.toNat = _; omega
  have ⟨f0, r0⟩ := RoundTrip.peel (lo := 0) (n := 4) hw p.isLt
  have ⟨f4, r4⟩ := RoundTrip.peel (lo := 4) (n := 10) r0 (by decide)
  have ⟨f14, r14⟩ := RoundTrip.peel (lo := 14) (n := 12) r4 (by decide)
  have ⟨f26, r26⟩ := RoundTrip.peel (lo := 26) (n := 6) r14 (by decide)
  rw [RoundTrip.decode_encode _ _ he (by omega), RoundTrip.major34 (by rintro rfl; cases f26) f26, decodeMajor34]
  have e : Instr.bfrzB (.ofNat 4 (w / 1)) = .bfrzB p := by
    rw [RoundTrip.ofNat_field p (w / 1) f0]
  rw [show fld w 4 10 = 0x008 from f4]
  exact (if_pos f14).trans (congrArg Except.ok e)

theorem RoundTrip.bfrzD (d : BitVec 4) (a : BitVec 4) (p : BitVec 4) :
    RoundTrip.Statement (.bfrzD d a p) := by
  intro _
  obtain ⟨w, hw⟩ : ∃ w, w / 2 ^ 0 = p.toNat + 2 ^ 4 * (0x009 + 2 ^ 10 * (0 + 2 ^ 4 * (a.toNat + 2 ^ 4 * (d.toNat + 2 ^ 4 * (0x34 + 2 ^ 6 * 0))))) := ⟨_, Nat.div_one _⟩
  have he : encodeNat (.bfrzD d a p) = w := by
    rw [← Nat.div_one w]; refine Eq.trans ?_ hw.symm; show 0xD0000090 + d.toNat * 4194304 + a.toNat * 262144 + p.toNat = _; omega
  have ⟨f0, r0⟩ := RoundTrip.peel (lo := 0) (n := 4) hw p.isLt
  have ⟨f4, r4⟩ := RoundTrip.peel (lo := 4) (n := 10) r0 (by decide)
  have ⟨f14, r14⟩ := RoundTrip.peel (lo := 14) (n := 4) r4 (by decide)
  have ⟨f18, r18⟩ := RoundTrip.peel (lo := 18) (n := 4) r14 a.isLt
  have ⟨f22, r22⟩ := RoundTrip.peel (lo := 22) (n := 4) r18 d.isLt
  have ⟨f26, r26⟩ := RoundTrip.peel (lo := 26) (n := 6) r22 (by decide)
  rw [RoundTrip.decode_encode _ _ he (by omega), RoundTrip.major34 (by rintro rfl; cases f26) f26, decodeMajor34]
  have e : Instr.bfrzD (.ofNat 4 (w / 4194304)) (.ofNat 4 (w / 262144)) (.ofNat 4 (w / 1)) = .bfrzD d a p := by
    rw [RoundTrip.ofNat_field d (w / 4194304) f22, RoundTrip.ofNat_field a (w / 262144) f18, RoundTrip.ofNat_field p (w / 1) f0]
  rw [show fld w 4 10 = 0x009 from f4]
  exact (if_pos f14).trans (congrArg Except.ok e)

theorem RoundTrip.bthaw (a : BitVec 4) (p : BitVec 4) :
    RoundTrip.Statement (.bthaw a p) := by
  intro _
  obtain ⟨w, hw⟩ : ∃ w, w / 2 ^ 0 = p.toNat + 2 ^ 4 * (0x00A + 2 ^ 10 * (0 + 2 ^ 4 * (a.toNat + 2 ^ 4 * (0 + 2 ^ 4 * (0x34 + 2 ^ 6 * 0))))) := ⟨_, Nat.div_one _⟩
  have he : encodeNat (.bthaw a p) = w := by
    rw [← Nat.div_one w]; refine Eq.trans ?_ hw.symm; show 0xD00000A0 + a.toNat * 262144 + p.toNat = _; omega
  have ⟨f0, r0⟩ := RoundTrip.peel (lo := 0) (n := 4) hw p.isLt
  have ⟨f4, r4⟩ := RoundTrip.peel (lo := 4) (n := 10) r0 (by decide)
  have ⟨f14, r14⟩ := RoundTrip.peel (lo := 14) (n := 4) r4 (by decide)
  have ⟨f18, r18⟩ := RoundTrip.peel (lo := 18) (n := 4) r14 a.isLt
  have ⟨f22, r22⟩ := RoundTrip.peel (lo := 22) (n := 4) r18 (by decide)
  have ⟨f26, r26⟩ := RoundTrip.peel (lo := 26) (n := 6) r22 (by decide)
  rw [RoundTrip.decode_encode _ _ he (by omega), RoundTrip.major34 (by rintro rfl; cases f26) f26, decodeMajor34]
  have e : Instr.bthaw (.ofNat 4 (w / 262144)) (.ofNat 4 (w / 1)) = .bthaw a p := by
    rw [RoundTrip.ofNat_field a (w / 262144) f18, RoundTrip.ofNat_field p (w / 1) f0]
  rw [show fld w 4 10 = 0x00A from f4]
  exact (if_pos ⟨f14, f22⟩).trans (congrArg Except.ok e)

theorem RoundTrip.bfront (d : BitVec 4) (a : BitVec 4) (b : BitVec 4) (p : BitVec 4) :
    RoundTrip.Statement (.bfront d a b p) := by
  intro _
  obtain ⟨w, hw⟩ : ∃ w, w / 2 ^ 0 = p.toNat + 2 ^ 4 * (0x00B + 2 ^ 10 * (b.toNat + 2 ^ 4 * (a.toNat + 2 ^ 4 * (d.toNat + 2 ^ 4 * (0x34 + 2 ^ 6 * 0))))) := ⟨_, Nat.div_one _⟩
  have he : encodeNat (.bfront d a b p) = w := by
    rw [← Nat.div_one w]; refine Eq.trans ?_ hw.symm; show 0xD00000B0 + d.toNat * 4194304 + a.toNat * 262144 + b.toNat * 16384 + p.toNat = _; omega
  have ⟨f0, r0⟩ := RoundTrip.peel (lo := 0) (n := 4) hw p.isLt
  have ⟨f4, r4⟩ := RoundTrip.peel (lo := 4) (n := 10) r0 (by decide)
  have ⟨f14, r14⟩ := RoundTrip.peel (lo := 14) (n := 4) r4 b.isLt
  have ⟨f18, r18⟩ := RoundTrip.peel (lo := 18) (n := 4) r14 a.isLt
  have ⟨f22, r22⟩ := RoundTrip.peel (lo := 22) (n := 4) r18 d.isLt
  have ⟨f26, r26⟩ := RoundTrip.peel (lo := 26) (n := 6) r22 (by decide)
  rw [RoundTrip.decode_encode _ _ he (by omega), RoundTrip.major34 (by rintro rfl; cases f26) f26, decodeMajor34]
  have e : Instr.bfront (.ofNat 4 (w / 4194304)) (.ofNat 4 (w / 262144)) (.ofNat 4 (w / 16384)) (.ofNat 4 (w / 1)) = .bfront d a b p := by
    rw [RoundTrip.ofNat_field d (w / 4194304) f22, RoundTrip.ofNat_field a (w / 262144) f18, RoundTrip.ofNat_field b (w / 16384) f14, RoundTrip.ofNat_field p (w / 1) f0]
  rw [show fld w 4 10 = 0x00B from f4]
  exact congrArg Except.ok e

theorem RoundTrip.csrr (d : BitVec 4) (c : BitVec 12) (p : BitVec 4) :
    RoundTrip.Statement (.csrr d c p) := by
  intro _
  obtain ⟨w, hw⟩ : ∃ w, w / 2 ^ 0 = p.toNat + 2 ^ 4 * (0x000 + 2 ^ 2 * (c.toNat + 2 ^ 12 * (0 + 2 ^ 4 * (d.toNat + 2 ^ 4 * (0x38 + 2 ^ 6 * 0))))) := ⟨_, Nat.div_one _⟩
  have he : encodeNat (.csrr d c p) = w := by
    rw [← Nat.div_one w]; refine Eq.trans ?_ hw.symm; show 0xE0000000 + d.toNat * 4194304 + c.toNat * 64 + p.toNat = _; omega
  have ⟨f0, r0⟩ := RoundTrip.peel (lo := 0) (n := 4) hw p.isLt
  have ⟨f4, r4⟩ := RoundTrip.peel (lo := 4) (n := 2) r0 (by decide)
  have ⟨f6, r6⟩ := RoundTrip.peel (lo := 6) (n := 12) r4 c.isLt
  have ⟨f18, r18⟩ := RoundTrip.peel (lo := 18) (n := 4) r6 (by decide)
  have ⟨f22, r22⟩ := RoundTrip.peel (lo := 22) (n := 4) r18 d.isLt
  have ⟨f26, r26⟩ := RoundTrip.peel (lo := 26) (n := 6) r22 (by decide)
  rw [RoundTrip.decode_encode _ _ he (by omega), RoundTrip.major38 (by rintro rfl; cases f26) f26, decodeMajor38]
  have e : Instr.csrr (.ofNat 4 (w / 4194304)) (.ofNat 12 (w / 64)) (.ofNat 4 (w / 1)) = .csrr d c p := by
    rw [RoundTrip.ofNat_field d (w / 4194304) f22, RoundTrip.ofNat_field c (w / 64) f6, RoundTrip.ofNat_field p (w / 1) f0]
  rw [show fld w 4 2 = 0x000 from f4]
  exact (if_pos f18).trans (congrArg Except.ok e)

theorem RoundTrip.csrw (d : BitVec 4) (a : BitVec 4) (c : BitVec 12) (p : BitVec 4) :
    RoundTrip.Statement (.csrw d a c p) := by
  intro _
  obtain ⟨w, hw⟩ : ∃ w, w / 2 ^ 0 = p.toNat + 2 ^ 4 * (0x001 + 2 ^ 2 * (c.toNat + 2 ^ 12 * (a.toNat + 2 ^ 4 * (d.toNat + 2 ^ 4 * (0x38 + 2 ^ 6 * 0))))) := ⟨_, Nat.div_one _⟩
  have he : encodeNat (.csrw d a c p) = w := by
    rw [← Nat.div_one w]; refine Eq.trans ?_ hw.symm; show 0xE0000010 + d.toNat * 4194304 + a.toNat * 262144 + c.toNat * 64 + p.toNat = _; omega
  have ⟨f0, r0⟩ := RoundTrip.peel (lo := 0) (n := 4) hw p.isLt
  have ⟨f4, r4⟩ := RoundTrip.peel (lo := 4) (n := 2) r0 (by decide)
  have ⟨f6, r6⟩ := RoundTrip.peel (lo := 6) (n := 12) r4 c.isLt
  have ⟨f18, r18⟩ := RoundTrip.peel (lo := 18) (n := 4) r6 a.isLt
  have ⟨f22, r22⟩ := RoundTrip.peel (lo := 22) (n := 4) r18 d.isLt
  have ⟨f26, r26⟩ := RoundTrip.peel (lo := 26) (n := 6) r22 (by decide)
  rw [RoundTrip.decode_encode _ _ he (by omega), RoundTrip.major38 (by rintro rfl; cases f26) f26, decodeMajor38]
  have e : Instr.csrw (.ofNat 4 (w / 4194304)) (.ofNat 4 (w / 262144)) (.ofNat 12 (w / 64)) (.ofNat 4 (w / 1)) = .csrw d a c p := by
    rw [RoundTrip.ofNat_field d (w / 4194304) f22, RoundTrip.ofNat_field a (w / 262144) f18, RoundTrip.ofNat_field c (w / 64) f6, RoundTrip.ofNat_field p (w / 1) f0]
  rw [show fld w 4 2 = 0x001 from f4]
  exact congrArg Except.ok e

theorem RoundTrip.csrs (d : BitVec 4) (a : BitVec 4) (c : BitVec 12) (p : BitVec 4) :
    RoundTrip.Statement (.csrs d a c p) := by
  intro _
  obtain ⟨w, hw⟩ : ∃ w, w / 2 ^ 0 = p.toNat + 2 ^ 4 * (0x002 + 2 ^ 2 * (c.toNat + 2 ^ 12 * (a.toNat + 2 ^ 4 * (d.toNat + 2 ^ 4 * (0x38 + 2 ^ 6 * 0))))) := ⟨_, Nat.div_one _⟩
  have he : encodeNat (.csrs d a c p) = w := by
    rw [← Nat.div_one w]; refine Eq.trans ?_ hw.symm; show 0xE0000020 + d.toNat * 4194304 + a.toNat * 262144 + c.toNat * 64 + p.toNat = _; omega
  have ⟨f0, r0⟩ := RoundTrip.peel (lo := 0) (n := 4) hw p.isLt
  have ⟨f4, r4⟩ := RoundTrip.peel (lo := 4) (n := 2) r0 (by decide)
  have ⟨f6, r6⟩ := RoundTrip.peel (lo := 6) (n := 12) r4 c.isLt
  have ⟨f18, r18⟩ := RoundTrip.peel (lo := 18) (n := 4) r6 a.isLt
  have ⟨f22, r22⟩ := RoundTrip.peel (lo := 22) (n := 4) r18 d.isLt
  have ⟨f26, r26⟩ := RoundTrip.peel (lo := 26) (n := 6) r22 (by decide)
  rw [RoundTrip.decode_encode _ _ he (by omega), RoundTrip.major38 (by rintro rfl; cases f26) f26, decodeMajor38]
  have e : Instr.csrs (.ofNat 4 (w / 4194304)) (.ofNat 4 (w / 262144)) (.ofNat 12 (w / 64)) (.ofNat 4 (w / 1)) = .csrs d a c p := by
    rw [RoundTrip.ofNat_field d (w / 4194304) f22, RoundTrip.ofNat_field a (w / 262144) f18, RoundTrip.ofNat_field c (w / 64) f6, RoundTrip.ofNat_field p (w / 1) f0]
  rw [show fld w 4 2 = 0x002 from f4]
  exact congrArg Except.ok e

theorem RoundTrip.csrc (d : BitVec 4) (a : BitVec 4) (c : BitVec 12) (p : BitVec 4) :
    RoundTrip.Statement (.csrc d a c p) := by
  intro _
  obtain ⟨w, hw⟩ : ∃ w, w / 2 ^ 0 = p.toNat + 2 ^ 4 * (0x003 + 2 ^ 2 * (c.toNat + 2 ^ 12 * (a.toNat + 2 ^ 4 * (d.toNat + 2 ^ 4 * (0x38 + 2 ^ 6 * 0))))) := ⟨_, Nat.div_one _⟩
  have he : encodeNat (.csrc d a c p) = w := by
    rw [← Nat.div_one w]; refine Eq.trans ?_ hw.symm; show 0xE0000030 + d.toNat * 4194304 + a.toNat * 262144 + c.toNat * 64 + p.toNat = _; omega
  have ⟨f0, r0⟩ := RoundTrip.peel (lo := 0) (n := 4) hw p.isLt
  have ⟨f4, r4⟩ := RoundTrip.peel (lo := 4) (n := 2) r0 (by decide)
  have ⟨f6, r6⟩ := RoundTrip.peel (lo := 6) (n := 12) r4 c.isLt
  have ⟨f18, r18⟩ := RoundTrip.peel (lo := 18) (n := 4) r6 a.isLt
  have ⟨f22, r22⟩ := RoundTrip.peel (lo := 22) (n := 4) r18 d.isLt
  have ⟨f26, r26⟩ := RoundTrip.peel (lo := 26) (n := 6) r22 (by decide)
  rw [RoundTrip.decode_encode _ _ he (by omega), RoundTrip.major38 (by rintro rfl; cases f26) f26, decodeMajor38]
  have e : Instr.csrc (.ofNat 4 (w / 4194304)) (.ofNat 4 (w / 262144)) (.ofNat 12 (w / 64)) (.ofNat 4 (w / 1)) = .csrc d a c p := by
    rw [RoundTrip.ofNat_field d (w / 4194304) f22, RoundTrip.ofNat_field a (w / 262144) f18, RoundTrip.ofNat_field c (w / 64) f6, RoundTrip.ofNat_field p (w / 1) f0]
  rw [show fld w 4 2 = 0x003 from f4]
  exact congrArg Except.ok e

theorem RoundTrip.trap (i : BitVec 12) (p : BitVec 4) :
    RoundTrip.Statement (.trap i p) := by
  intro _
  obtain ⟨w, hw⟩ : ∃ w, w / 2 ^ 0 = p.toNat + 2 ^ 4 * (0x000 + 2 ^ 2 * (i.toNat + 2 ^ 12 * (0 + 2 ^ 8 * (0x39 + 2 ^ 6 * 0)))) := ⟨_, Nat.div_one _⟩
  have he : encodeNat (.trap i p) = w := by
    rw [← Nat.div_one w]; refine Eq.trans ?_ hw.symm; show 0xE4000000 + i.toNat * 64 + p.toNat = _; omega
  have ⟨f0, r0⟩ := RoundTrip.peel (lo := 0) (n := 4) hw p.isLt
  have ⟨f4, r4⟩ := RoundTrip.peel (lo := 4) (n := 2) r0 (by decide)
  have ⟨f6, r6⟩ := RoundTrip.peel (lo := 6) (n := 12) r4 i.isLt
  have ⟨f18, r18⟩ := RoundTrip.peel (lo := 18) (n := 8) r6 (by decide)
  have ⟨f26, r26⟩ := RoundTrip.peel (lo := 26) (n := 6) r18 (by decide)
  rw [RoundTrip.decode_encode _ _ he (by omega), RoundTrip.major39 (by rintro rfl; cases f26) f26, decodeMajor39]
  have e : Instr.trap (.ofNat 12 (w / 64)) (.ofNat 4 (w / 1)) = .trap i p := by
    rw [RoundTrip.ofNat_field i (w / 64) f6, RoundTrip.ofNat_field p (w / 1) f0]
  rw [show fld w 4 2 = 0x000 from f4]
  exact (if_pos f18).trans (congrArg Except.ok e)

theorem RoundTrip.rft (p : BitVec 4) :
    RoundTrip.Statement (.rft p) := by
  intro _
  obtain ⟨w, hw⟩ : ∃ w, w / 2 ^ 0 = p.toNat + 2 ^ 4 * (0x001 + 2 ^ 2 * (0 + 2 ^ 20 * (0x39 + 2 ^ 6 * 0))) := ⟨_, Nat.div_one _⟩
  have he : encodeNat (.rft p) = w := by
    rw [← Nat.div_one w]; refine Eq.trans ?_ hw.symm; show 0xE4000010 + p.toNat = _; omega
  have ⟨f0, r0⟩ := RoundTrip.peel (lo := 0) (n := 4) hw p.isLt
  have ⟨f4, r4⟩ := RoundTrip.peel (lo := 4) (n := 2) r0 (by decide)
  have ⟨f6, r6⟩ := RoundTrip.peel (lo := 6) (n := 20) r4 (by decide)
  have ⟨f26, r26⟩ := RoundTrip.peel (lo := 26) (n := 6) r6 (by decide)
  rw [RoundTrip.decode_encode _ _ he (by omega), RoundTrip.major39 (by rintro rfl; cases f26) f26, decodeMajor39]
  have e : Instr.rft (.ofNat 4 (w / 1)) = .rft p := by
    rw [RoundTrip.ofNat_field p (w / 1) f0]
  rw [show fld w 4 2 = 0x001 from f4]
  exact (if_pos f6).trans (congrArg Except.ok e)

theorem RoundTrip.halt (p : BitVec 4) :
    RoundTrip.Statement (.halt p) := by
  intro _
  obtain ⟨w, hw⟩ : ∃ w, w / 2 ^ 0 = p.toNat + 2 ^ 4 * (0x002 + 2 ^ 2 * (0 + 2 ^ 20 * (0x39 + 2 ^ 6 * 0))) := ⟨_, Nat.div_one _⟩
  have he : encodeNat (.halt p) = w := by
    rw [← Nat.div_one w]; refine Eq.trans ?_ hw.symm; show 0xE4000020 + p.toNat = _; omega
  have ⟨f0, r0⟩ := RoundTrip.peel (lo := 0) (n := 4) hw p.isLt
  have ⟨f4, r4⟩ := RoundTrip.peel (lo := 4) (n := 2) r0 (by decide)
  have ⟨f6, r6⟩ := RoundTrip.peel (lo := 6) (n := 20) r4 (by decide)
  have ⟨f26, r26⟩ := RoundTrip.peel (lo := 26) (n := 6) r6 (by decide)
  rw [RoundTrip.decode_encode _ _ he (by omega), RoundTrip.major39 (by rintro rfl; cases f26) f26, decodeMajor39]
  have e : Instr.halt (.ofNat 4 (w / 1)) = .halt p := by
    rw [RoundTrip.ofNat_field p (w / 1) f0]
  rw [show fld w 4 2 = 0x002 from f4]
  exact (if_pos f6).trans (congrArg Except.ok e)

theorem RoundTrip.yield (p : BitVec 4) :
    RoundTrip.Statement (.yield p) := by
  intro _
  obtain ⟨w, hw⟩ : ∃ w, w / 2 ^ 0 = p.toNat + 2 ^ 4 * (0x003 + 2 ^ 2 * (0 + 2 ^ 20 * (0x39 + 2 ^ 6 * 0))) := ⟨_, Nat.div_one _⟩
  have he : encodeNat (.yield p) = w := by
    rw [← Nat.div_one w]; refine Eq.trans ?_ hw.symm; show 0xE4000030 + p.toNat = _; omega
  have ⟨f0, r0⟩ := RoundTrip.peel (lo := 0) (n := 4) hw p.isLt
  have ⟨f4, r4⟩ := RoundTrip.peel (lo := 4) (n := 2) r0 (by decide)
  have ⟨f6, r6⟩ := RoundTrip.peel (lo := 6) (n := 20) r4 (by decide)
  have ⟨f26, r26⟩ := RoundTrip.peel (lo := 26) (n := 6) r6 (by decide)
  rw [RoundTrip.decode_encode _ _ he (by omega), RoundTrip.major39 (by rintro rfl; cases f26) f26, decodeMajor39]
  have e : Instr.yield (.ofNat 4 (w / 1)) = .yield p := by
    rw [RoundTrip.ofNat_field p (w / 1) f0]
  rw [show fld w 4 2 = 0x003 from f4]
  exact (if_pos f6).trans (congrArg Except.ok e)

theorem RoundTrip.strandIntervalEnd (c : Nat) (n : Nat) :
    RoundTrip.Statement (.strandIntervalEnd c n) := fun h => nomatch h.1

theorem RoundTrip.serviceForcedIssue (c : Nat) :
    RoundTrip.Statement (.serviceForcedIssue c) := fun h => nomatch h.1

theorem RoundTrip.rotationBoundary :
    RoundTrip.Statement .rotationBoundary := fun h => nomatch h.1

theorem RoundTrip.strandPlacement (c : Nat) (n : Nat) :
    RoundTrip.Statement (.strandPlacement c n) := fun h => nomatch h.1

theorem RoundTrip.registerFill (n : Nat) :
    RoundTrip.Statement (.registerFill n) := fun h => nomatch h.1

theorem RoundTrip.loadComplete (c : Nat) (n : Nat) :
    RoundTrip.Statement (.loadComplete c n) := fun h => nomatch h.1

theorem RoundTrip.storeBufferDrain (c : Nat) :
    RoundTrip.Statement (.storeBufferDrain c) := fun h => nomatch h.1

theorem RoundTrip.scWindowClose :
    RoundTrip.Statement .scWindowClose := fun h => nomatch h.1

theorem RoundTrip.requesterTimeout (tag : Nat) :
    RoundTrip.Statement (.requesterTimeout tag) := fun h => nomatch h.1

theorem RoundTrip.packetAgeExpiry (n : Nat) :
    RoundTrip.Statement (.packetAgeExpiry n) := fun h => nomatch h.1

theorem RoundTrip.remoteAccessPerform (c : Nat) :
    RoundTrip.Statement (.remoteAccessPerform c) := fun h => nomatch h.1

theorem RoundTrip.serviceQueueEntry (src : Source) :
    RoundTrip.Statement (.serviceQueueEntry src) := fun h => nomatch h.1

theorem RoundTrip.serviceHandlerStart (c : Nat) :
    RoundTrip.Statement (.serviceHandlerStart c) := fun h => nomatch h.1

theorem RoundTrip.receiveQueueEntry (src : Source) :
    RoundTrip.Statement (.receiveQueueEntry src) := fun h => nomatch h.1

theorem RoundTrip.sendAccept (c : Nat) (n : Nat) :
    RoundTrip.Statement (.sendAccept c n) := fun h => nomatch h.1

theorem RoundTrip.sendAcceptTimeout (c : Nat) (n : Nat) :
    RoundTrip.Statement (.sendAcceptTimeout c n) := fun h => nomatch h.1

theorem RoundTrip.recvWaitLimit (c : Nat) (n : Nat) :
    RoundTrip.Statement (.recvWaitLimit c n) := fun h => nomatch h.1

theorem RoundTrip.mwaitTimeout (c : Nat) (n : Nat) :
    RoundTrip.Statement (.mwaitTimeout c n) := fun h => nomatch h.1

theorem RoundTrip.monitorRegistered (c : Nat) (n : Nat) :
    RoundTrip.Statement (.monitorRegistered c n) := fun h => nomatch h.1

theorem RoundTrip.amoPerform (c : Nat) (n : Nat) :
    RoundTrip.Statement (.amoPerform c n) := fun h => nomatch h.1

theorem RoundTrip.ordEntryArrival (c : Nat) (n : Nat) :
    RoundTrip.Statement (.ordEntryArrival c n) := fun h => nomatch h.1

theorem RoundTrip.ordReply (c : Nat) (n : Nat) :
    RoundTrip.Statement (.ordReply c n) := fun h => nomatch h.1

theorem RoundTrip.ordNack (c : Nat) (n : Nat) :
    RoundTrip.Statement (.ordNack c n) := fun h => nomatch h.1

theorem RoundTrip.ordResend (c : Nat) (n : Nat) :
    RoundTrip.Statement (.ordResend c n) := fun h => nomatch h.1

theorem RoundTrip.ordTimeout (c : Nat) (n : Nat) :
    RoundTrip.Statement (.ordTimeout c n) := fun h => nomatch h.1

theorem RoundTrip.fredUpdate (c : Nat) (n : Nat) :
    RoundTrip.Statement (.fredUpdate c n) := fun h => nomatch h.1

theorem RoundTrip.avgEntryApply (c : Nat) :
    RoundTrip.Statement (.avgEntryApply c) := fun h => nomatch h.1

theorem RoundTrip.lupinExchange (port : Nat) :
    RoundTrip.Statement (.lupinExchange port) := fun h => nomatch h.1

theorem RoundTrip.lupinPacketArrival (n : Nat) :
    RoundTrip.Statement (.lupinPacketArrival n) := fun h => nomatch h.1

theorem RoundTrip.lupinAck (n : Nat) :
    RoundTrip.Statement (.lupinAck n) := fun h => nomatch h.1

theorem RoundTrip.lupinRefusal (n : Nat) :
    RoundTrip.Statement (.lupinRefusal n) := fun h => nomatch h.1

theorem RoundTrip.lupinRetry (port : Nat) :
    RoundTrip.Statement (.lupinRetry port) := fun h => nomatch h.1

theorem RoundTrip.reconciliationRequest (n : Nat) :
    RoundTrip.Statement (.reconciliationRequest n) := fun h => nomatch h.1

theorem RoundTrip.reconciliationReply (n : Nat) :
    RoundTrip.Statement (.reconciliationReply n) := fun h => nomatch h.1

theorem RoundTrip.stealRequest (n : Nat) :
    RoundTrip.Statement (.stealRequest n) := fun h => nomatch h.1

theorem RoundTrip.stealRecord (n : Nat) :
    RoundTrip.Statement (.stealRecord n) := fun h => nomatch h.1

theorem RoundTrip.stealEmpty (n : Nat) :
    RoundTrip.Statement (.stealEmpty n) := fun h => nomatch h.1

theorem RoundTrip.stealAck (n : Nat) :
    RoundTrip.Statement (.stealAck n) := fun h => nomatch h.1

theorem RoundTrip.stealConfirm (n : Nat) :
    RoundTrip.Statement (.stealConfirm n) := fun h => nomatch h.1

theorem RoundTrip.stealVoid (n : Nat) :
    RoundTrip.Statement (.stealVoid n) := fun h => nomatch h.1

theorem RoundTrip.lentTimeout (c : Nat) :
    RoundTrip.Statement (.lentTimeout c) := fun h => nomatch h.1

theorem RoundTrip.migrationDeparture (c : Nat) (n : Nat) :
    RoundTrip.Statement (.migrationDeparture c n) := fun h => nomatch h.1

theorem RoundTrip.migrationArrival (n : Nat) :
    RoundTrip.Statement (.migrationArrival n) := fun h => nomatch h.1

theorem RoundTrip.mmaStart (k : Nat) (e : Nat) :
    RoundTrip.Statement (.mmaStart k e) := fun h => nomatch h.1

theorem RoundTrip.mmaRetire (k : Nat) (e : Nat) :
    RoundTrip.Statement (.mmaRetire k e) := fun h => nomatch h.1

theorem RoundTrip.ringWaitLimit (c : Nat) (n : Nat) :
    RoundTrip.Statement (.ringWaitLimit c n) := fun h => nomatch h.1

theorem RoundTrip.rpushReserve (c : Nat) (n : Nat) :
    RoundTrip.Statement (.rpushReserve c n) := fun h => nomatch h.1

theorem RoundTrip.slotPublish (k : Nat) (r : Nat) :
    RoundTrip.Statement (.slotPublish k r) := fun h => nomatch h.1

theorem RoundTrip.ringDisableEffect (k : Nat) (r : Nat) :
    RoundTrip.Statement (.ringDisableEffect k r) := fun h => nomatch h.1

theorem RoundTrip.commandStart (k : Nat) (q : Nat) :
    RoundTrip.Statement (.commandStart k q) := fun h => nomatch h.1

theorem RoundTrip.copyChunk (k : Nat) (q : Nat) (side : RemoteSide) :
    RoundTrip.Statement (.copyChunk k q side) := fun h => nomatch h.1

theorem RoundTrip.copyFault (k : Nat) (q : Nat) (side : RemoteSide) :
    RoundTrip.Statement (.copyFault k q side) := fun h => nomatch h.1

theorem RoundTrip.commandComplete (k : Nat) (q : Nat) :
    RoundTrip.Statement (.commandComplete k q) := fun h => nomatch h.1

theorem RoundTrip.peonyStepStart (die : Nat) (q : Nat) (side : RemoteSide) :
    RoundTrip.Statement (.peonyStepStart die q side) := fun h => nomatch h.1

theorem RoundTrip.peonyReady (n : Nat) :
    RoundTrip.Statement (.peonyReady n) := fun h => nomatch h.1

theorem RoundTrip.peonyData (n : Nat) :
    RoundTrip.Statement (.peonyData n) := fun h => nomatch h.1

theorem RoundTrip.peonyStepComplete (die : Nat) (q : Nat) (side : RemoteSide) :
    RoundTrip.Statement (.peonyStepComplete die q side) := fun h => nomatch h.1

theorem RoundTrip.peonyFaultNotice (n : Nat) :
    RoundTrip.Statement (.peonyFaultNotice n) := fun h => nomatch h.1

theorem RoundTrip.peonyPartnerTimeout (die : Nat) (q : Nat) :
    RoundTrip.Statement (.peonyPartnerTimeout die q) := fun h => nomatch h.1

theorem RoundTrip.asterDispatch (k : Nat) :
    RoundTrip.Statement (.asterDispatch k) := fun h => nomatch h.1

theorem RoundTrip.facePushComplete (k : Nat) :
    RoundTrip.Statement (.facePushComplete k) := fun h => nomatch h.1

theorem RoundTrip.facePushFault (k : Nat) (side : RemoteSide) :
    RoundTrip.Statement (.facePushFault k side) := fun h => nomatch h.1

theorem RoundTrip.levelNotification (n : Nat) :
    RoundTrip.Statement (.levelNotification n) := fun h => nomatch h.1

theorem RoundTrip.asterLinkInstall (n : Nat) :
    RoundTrip.Statement (.asterLinkInstall n) := fun h => nomatch h.1

theorem RoundTrip.asterLinkClear (n : Nat) :
    RoundTrip.Statement (.asterLinkClear n) := fun h => nomatch h.1

theorem RoundTrip.asterRfreeUpdate (n : Nat) :
    RoundTrip.Statement (.asterRfreeUpdate n) := fun h => nomatch h.1

theorem RoundTrip.asterConfirm (n : Nat) :
    RoundTrip.Statement (.asterConfirm n) := fun h => nomatch h.1

theorem RoundTrip.freezeDrainExpiry (dom : Nat) (k : Nat) :
    RoundTrip.Statement (.freezeDrainExpiry dom k) := fun h => nomatch h.1

theorem RoundTrip.freezeComplete (dom : Nat) :
    RoundTrip.Statement (.freezeComplete dom) := fun h => nomatch h.1

theorem RoundTrip.walkComplete (k : Nat) (va : Word) :
    RoundTrip.Statement (.walkComplete k va) := fun h => nomatch h.1

theorem RoundTrip.launchStart (n : Nat) :
    RoundTrip.Statement (.launchStart n) := fun h => nomatch h.1

theorem RoundTrip.kernelCompletion (n : Nat) :
    RoundTrip.Statement (.kernelCompletion n) := fun h => nomatch h.1

theorem RoundTrip.queueNotify (q : Nat) (w : Word) :
    RoundTrip.Statement (.queueNotify q w) := fun h => nomatch h.1

theorem RoundTrip.queueDescriptorWrite (q : Nat) (w : Word) :
    RoundTrip.Statement (.queueDescriptorWrite q w) := fun h => nomatch h.1

theorem RoundTrip.mapWrite (n : Nat) (w : Word) :
    RoundTrip.Statement (.mapWrite n w) := fun h => nomatch h.1

theorem RoundTrip.trootWrite (w : Word) :
    RoundTrip.Statement (.trootWrite w) := fun h => nomatch h.1

theorem RoundTrip.preempt (n : Nat) :
    RoundTrip.Statement (.preempt n) := fun h => nomatch h.1

theorem RoundTrip.preemptRequestArrival (n : Nat) (c : Nat) :
    RoundTrip.Statement (.preemptRequestArrival n c) := fun h => nomatch h.1

theorem RoundTrip.preemptSaveComplete (n : Nat) :
    RoundTrip.Statement (.preemptSaveComplete n) := fun h => nomatch h.1

theorem RoundTrip.resume (n : Nat) :
    RoundTrip.Statement (.resume n) := fun h => nomatch h.1

theorem RoundTrip.moduleRemove (w : Word) :
    RoundTrip.Statement (.moduleRemove w) := fun h => nomatch h.1

theorem RoundTrip.latecntClear :
    RoundTrip.Statement .latecntClear := fun h => nomatch h.1

theorem RoundTrip.multicastGo (w : Word) :
    RoundTrip.Statement (.multicastGo w) := fun h => nomatch h.1

theorem RoundTrip.multicastLine (n : Nat) :
    RoundTrip.Statement (.multicastLine n) := fun h => nomatch h.1

theorem RoundTrip.multicastReply (failed : Word) :
    RoundTrip.Statement (.multicastReply failed) := fun h => nomatch h.1

theorem RoundTrip.attestationGo :
    RoundTrip.Statement .attestationGo := fun h => nomatch h.1

theorem RoundTrip.attestationComplete :
    RoundTrip.Statement .attestationComplete := fun h => nomatch h.1

theorem RoundTrip.registerWrite (off : Nat) (w : Word) :
    RoundTrip.Statement (.registerWrite off w) := fun h => nomatch h.1

theorem RoundTrip.apertureWrite (off : Nat) (size : Nat) (w : Word) :
    RoundTrip.Statement (.apertureWrite off size w) := fun h => nomatch h.1

theorem RoundTrip.apertureRead (off : Nat) (size : Nat) :
    RoundTrip.Statement (.apertureRead off size) := fun h => nomatch h.1

theorem RoundTrip.linkFrame (port : Nat) (tagOk : Bool) (msgs : List Msg) :
    RoundTrip.Statement (.linkFrame port tagOk msgs) := fun h => nomatch h.1

theorem RoundTrip.linkBringUp (port : Nat) (far : Nat) (dom : Nat) (boot : Nat) :
    RoundTrip.Statement (.linkBringUp port far dom boot) := fun h => nomatch h.1

theorem RoundTrip.linkRekey (port : Nat) :
    RoundTrip.Statement (.linkRekey port) := fun h => nomatch h.1

theorem RoundTrip.linkControlTimeout (port : Nat) :
    RoundTrip.Statement (.linkControlTimeout port) := fun h => nomatch h.1

theorem RoundTrip.linkDown (port : Nat) :
    RoundTrip.Statement (.linkDown port) := fun h => nomatch h.1

theorem RoundTrip.memoryEccError (line : Nat) (lasting : Bool) :
    RoundTrip.Statement (.memoryEccError line lasting) := fun h => nomatch h.1

theorem RoundTrip.registerEccError (c : Nat) (n : Nat) (r : BitVec 4) (syndrome : Word) :
    RoundTrip.Statement (.registerEccError c n r syndrome) := fun h => nomatch h.1

theorem RoundTrip.fabricTransferError (port : Nat) (lasting : Bool) :
    RoundTrip.Statement (.fabricTransferError port lasting) := fun h => nomatch h.1

theorem RoundTrip.fatalError (unit : Nat) (index : Nat) (syndrome : Word) :
    RoundTrip.Statement (.fatalError unit index syndrome) := fun h => nomatch h.1

theorem RoundTrip.powerLimitHold (hold : Bool) :
    RoundTrip.Statement (.powerLimitHold hold) := fun h => nomatch h.1

theorem RoundTrip.gatingEntry (c : Nat) :
    RoundTrip.Statement (.gatingEntry c) := fun h => nomatch h.1

theorem RoundTrip.gatingCommit (c : Nat) :
    RoundTrip.Statement (.gatingCommit c) := fun h => nomatch h.1

theorem RoundTrip.gated (c : Nat) :
    RoundTrip.Statement (.gated c) := fun h => nomatch h.1

theorem RoundTrip.wakeEvent (c : Nat) :
    RoundTrip.Statement (.wakeEvent c) := fun h => nomatch h.1

theorem RoundTrip.ungatingComplete (c : Nat) :
    RoundTrip.Statement (.ungatingComplete c) := fun h => nomatch h.1

theorem RoundTrip.moduleReset :
    RoundTrip.Statement .moduleReset := fun h => nomatch h.1

theorem RoundTrip.boot (stage : Nat) (why : Nat) :
    RoundTrip.Statement (.boot stage why) := fun h => nomatch h.1

theorem RoundTrip.firmwareUpdate (unit : Nat) (version : Nat) (why : Nat) :
    RoundTrip.Statement (.firmwareUpdate unit version why) := fun h => nomatch h.1

theorem RoundTrip.wordNotAnInstruction (w : IWord) :
    RoundTrip.Statement (.wordNotAnInstruction w) := fun h => nomatch h.1

theorem RoundTrip.instructionFetchFault :
    RoundTrip.Statement .instructionFetchFault := fun h => nomatch h.1

theorem RoundTrip.barwWaitLimit (c : Nat) (n : Nat) :
    RoundTrip.Statement (.barwWaitLimit c n) := fun h => nomatch h.1

theorem RoundTrip.arrivalReservationRequest (src : Source) :
    RoundTrip.Statement (.arrivalReservationRequest src) := fun h => nomatch h.1

theorem RoundTrip.remoteStoreAcknowledgement (n : Nat) :
    RoundTrip.Statement (.remoteStoreAcknowledgement n) := fun h => nomatch h.1

theorem RoundTrip.discardCountRecord :
    RoundTrip.Statement .discardCountRecord := fun h => nomatch h.1

end Sys2Proof.Laws
end

