-- ==== Sys2Proof/Tests/Slice0.lean ====
section
/-! SUPPORT. Tests: the static checks, the decoding of a word of every instruction, single steps whose results are worked
from the spec's rules by hand, and for every obligation with hypotheses states and operands that meet them. -/

open Sys2Proof Sys2Proof.Machine

namespace Sys2Proof.Tests

set_option Elab.async false

/-- A supervisor strand with some registers set. -/
def strand (gs : List (BitVec 4 × Word)) : Strand :=
  gs.foldl (fun x r => x.put r.1 r.2) { Strand.reset with uid := 1, pc := 0x1000, mode := true }

/-- A strand stands READY in slot 0 of core 0 and is about to issue; TVEC is 0x4000. -/
def machine (x : Strand) : State :=
  (State.reset.modSlot 0 0 fun y => { y with state := .ready, strand := x }).modCore 0 fun k => { k with tvec := 0x1000 }

/-- The same with the page table's first entry a leaf that maps the lowest 4 GiB with every right. -/
def paged (x : Strand) : State :=
  { machine x with mem := [(0, 0x1F)] }

/-- The strand in slot 0 of core 0 waits. -/
def waits (op : WaitOp) (s : State) : State :=
  s.setState 0 0 (.wait op)

/-- The state after an instruction or event. -/
def go (i : Instr) (s : State) : State :=
  match exec i s with
  | .next t => t
  | .fault _ => s
  | .refused _ => s

/-- exec answers a next state. -/
def answers (i : Instr) (s : State) : Bool :=
  match exec i s with
  | .next _ => true
  | .fault _ => false
  | .refused _ => false

/-- The conditions of Runs, as a Bool. -/
def runsB (i : Instr) (s : State) : Bool :=
  decide (s.cur.2 < 9) && (s.waiting s.cur.1 s.cur.2).isNone && (!i.privileged || s.me.mode) && i.limits && guardHolds s.me i.guardField

theorem runs_of_runsB {i : Instr} {s : State} (h : runsB i s = true) : Runs i s := by
  simp only [runsB, Bool.and_eq_true, decide_eq_true_eq, Bool.or_eq_true, Bool.not_eq_true', Option.isNone_iff_eq_none] at h
  obtain ⟨⟨⟨⟨h1, h0⟩, h2⟩, h3⟩, h4⟩ := h
  refine ⟨h1, h0, fun h => ?_, h3, h4⟩
  rcases h2 with h2 | h2
  · rw [h] at h2; exact absurd h2 (by decide)
  · exact h2

/-- The conditions of Readable, as a Bool. -/
def readableB (reads writes : List (BitVec 4)) (s : State) : Bool :=
  ((reads ++ writes).all fun r => !s.me.isEmpty r) && reads.all fun r => !s.me.isClipped r

theorem readable_of_readableB {reads writes : List (BitVec 4)} {s : State} (h : readableB reads writes s = true) :
    Readable reads writes s := by
  simp only [readableB, Bool.and_eq_true, List.all_eq_true, Bool.not_eq_true'] at h
  exact ⟨h.1, h.2⟩

/-- The instruction runs and its registers are readable. -/
def ok (i : Instr) (reads writes : List (BitVec 4)) (s : State) : Bool :=
  runsB i s && readableB reads writes s

theorem runs_of_ok {i : Instr} {reads writes : List (BitVec 4)} {s : State} (h : ok i reads writes s = true) :
    Runs i s ∧ Readable reads writes s := by
  simp only [ok, Bool.and_eq_true] at h
  exact ⟨runs_of_runsB h.1, readable_of_readableB h.2⟩

/-- The place of this module at which an access of the executing strand passes its checks. -/
def placeOf (s : State) (k : Acc) (va : Word) (n : Nat) : Option Nat :=
  match checkAccess s s.cur.1 s.me.rights k va n with
  | .ok p =>
    match p.loc with
    | .here a => some a
    | .there _ _ => none
  | .error _ => none

theorem place_of {s : State} {k : Acc} {va : Word} {n a : Nat} (h : placeOf s k va n = some a) :
    ∃ p, checkAccess s s.cur.1 s.me.rights k va n = .ok p ∧ p.loc = .here a := by
  unfold placeOf at h
  split at h
  · rename_i p hp
    split at h
    · rename_i b hb
      exact ⟨p, hp, by rw [hb, Option.some.inj h]⟩
    · exact absurd h (by simp)
  · exact absurd h (by simp)

/-- The cause with which an access of the executing strand fails its checks. -/
def causeOf (s : State) (k : Acc) (va : Word) (n : Nat) : Option Cause :=
  match checkAccess s s.cur.1 s.me.rights k va n with
  | .ok _ => none
  | .error st => some st.cause

theorem cause_of {s : State} {k : Acc} {va : Word} {n : Nat} {c : Cause} (h : causeOf s k va n = some c) :
    ∃ st, checkAccess s s.cur.1 s.me.rights k va n = .error st ∧ st.cause = c := by
  unfold causeOf at h
  split at h
  · exact absurd h (by simp)
  · rename_i st hs
    exact ⟨st, hs, Option.some.inj h⟩

/-- A load of 8 bytes of the executing strand passes its checks and does not migrate. -/
def stays (s : State) (va : Word) : Bool :=
  match checkAccess s s.cur.1 s.me.rights .load va 8 with
  | .ok p => (migHome s p).isNone
  | .error _ => false

/-- No store of the core waits for room in its buffer. -/
def firstB (s : State) : Bool :=
  (s.core s.cur.1).spill.isEmpty && (List.range 9).all fun m => !wantsRoom s s.cur.1 m

theorem first_of_firstB {s : State} (h : firstB s = true) : FirstForRoom s := by
  simp only [firstB, Bool.and_eq_true, List.isEmpty_iff, List.all_eq_true, List.mem_range, Bool.not_eq_true'] at h
  exact ⟨h.1, fun m hm _ => h.2 m hm⟩

/-! ## Well-formedness -/

theorem test_check_event : (Instr.loadComplete 0 0).check = some .event := by decide +kernel
theorem test_check_field : (Instr.add 0 0 0 0).check = some .field := by decide +kernel
theorem test_check_guard : (Instr.sub 1 2 3 8).check = some .guard := by decide +kernel
theorem test_check_limit : (Instr.bfx 1 2 60 9 0).check = some .limit := by decide +kernel
theorem test_check_wellFormed : (Instr.sub 1 2 3 0).WellFormed := by decide +kernel

/-! ## Decoding -/

theorem test_decode_major01 :
    decode 0x04CB8003 = .ok (.add 0x3 0x2 0xE 0x3) ∧
    decode 0x04CB8013 = .ok (.sub 0x3 0x2 0xE 0x3) ∧
    decode 0x04CB8023 = .ok (.and 0x3 0x2 0xE 0x3) ∧
    decode 0x04CB8033 = .ok (.or 0x3 0x2 0xE 0x3) ∧
    decode 0x04CB8043 = .ok (.xor 0x3 0x2 0xE 0x3) ∧
    decode 0x04CB8053 = .ok (.andn 0x3 0x2 0xE 0x3) ∧
    decode 0x04CB8063 = .ok (.sll 0x3 0x2 0xE 0x3) ∧
    decode 0x04CB8073 = .ok (.srl 0x3 0x2 0xE 0x3) ∧
    decode 0x04CB8083 = .ok (.sra 0x3 0x2 0xE 0x3) ∧
    decode 0x04CB8093 = .ok (.min 0x3 0x2 0xE 0x3) ∧
    decode 0x04CB80A3 = .ok (.max 0x3 0x2 0xE 0x3) ∧
    decode 0x04CB80B3 = .ok (.minu 0x3 0x2 0xE 0x3) ∧
    decode 0x04CB80C3 = .ok (.maxu 0x3 0x2 0xE 0x3) ∧
    decode 0x04CB8103 = .ok (.mul 0x3 0x2 0xE 0x3) ∧
    decode 0x04CB8113 = .ok (.mulh 0x3 0x2 0xE 0x3) ∧
    decode 0x04CB8123 = .ok (.mulhu 0x3 0x2 0xE 0x3) ∧
    decode 0x04CB8143 = .ok (.div 0x3 0x2 0xE 0x3) ∧
    decode 0x04CB8153 = .ok (.divu 0x3 0x2 0xE 0x3) ∧
    decode 0x04CB8163 = .ok (.rem 0x3 0x2 0xE 0x3) ∧
    decode 0x04CB8173 = .ok (.remu 0x3 0x2 0xE 0x3) ∧
    decode 0x05480200 = .ok (.clz 0x5 0x2 0x0) ∧
    decode 0x04C80213 = .ok (.popc 0x3 0x2 0x3) ∧
    decode 0x04C80243 = .ok (.sextB 0x3 0x2 0x3) ∧
    decode 0x04C80253 = .ok (.sextH 0x3 0x2 0x3) ∧
    decode 0x04C80263 = .ok (.sextW 0x3 0x2 0x3) ∧
    decode 0x04C80283 = .ok (.zextB 0x3 0x2 0x3) ∧
    decode 0x04C80293 = .ok (.zextH 0x3 0x2 0x3) ∧
    decode 0x04C802A3 = .ok (.zextW 0x3 0x2 0x3) ∧
    decode 0x0726C420 = .ok (.sel 0xC 0x9 0xB 0x2 0x0) ∧
    decode 0x04000000 = .ok .nop := by
  refine ⟨rfl, rfl, rfl, rfl, rfl, rfl, rfl, rfl, rfl, rfl, rfl, rfl, rfl, rfl, rfl, rfl, rfl, rfl, rfl, rfl, rfl, rfl, rfl, rfl, rfl, rfl, rfl, rfl, rfl, rfl⟩

theorem test_decode_major02 : decode 0x08CB56E3 = .ok (.addi 0x3 0x2 0x356E 0x3) := rfl

theorem test_decode_major03 : decode 0x0CCB56E3 = .ok (.andi 0x3 0x2 0x356E 0x3) := rfl

theorem test_decode_major04 : decode 0x13308010 = .ok (.ori 0xC 0xC 0x801 0x0) := rfl

theorem test_decode_major05 : decode 0x14CB56E3 = .ok (.xori 0x3 0x2 0x356E 0x3) := rfl

theorem test_decode_major06 :
    decode 0x18D00050 = .ok (.slli 0x3 0x4 0x5 0x0) ∧
    decode 0x18C806E3 = .ok (.srli 0x3 0x2 0x2E 0x3) ∧
    decode 0x18C80AE3 = .ok (.srai 0x3 0x2 0x2E 0x3) := by
  refine ⟨rfl, rfl, rfl⟩

theorem test_decode_major07 : decode 0x1D780000 = .ok (.movi 0x5 0x38000 0x0) := rfl

theorem test_decode_major08 : decode 0x20DAB723 = .ok (.movhi 0x3 0x1AB72 0x3) := rfl

theorem test_decode_major09 :
    decode 0x26000000 = .ok (.ldk 0x8 0x0 0x0) ∧
    decode 0x24D03010 = .ok (.addk 0x3 0x4 0xC 0x0) := by
  refine ⟨rfl, rfl⟩

theorem test_decode_major0A : decode 0x2876C010 = .ok (.cmp 0x1 0xD 0xB 0x1 0x0) := rfl

theorem test_decode_major0B : decode 0x2C690060 = .ok (.cmpi 0x1 0xA 0x2 0x6 0x0) := rfl

theorem test_decode_major0C :
    decode 0x30C98003 = .ok (.pand 0x3 0x2 0x6 0x3) ∧
    decode 0x30C98013 = .ok (.por 0x3 0x2 0x6 0x3) ∧
    decode 0x30C98023 = .ok (.pxor 0x3 0x2 0x6 0x3) ∧
    decode 0x30C80033 = .ok (.pnot 0x3 0x2 0x3) ∧
    decode 0x30C00043 = .ok (.prd 0x3 0x3) ∧
    decode 0x30C80053 = .ok (.pwr 0x3 0x2 0x3) := by
  refine ⟨rfl, rfl, rfl, rfl, rfl, rfl⟩

theorem test_decode_major0D :
    decode 0x34D080C0 = .ok (.bfx 0x3 0x4 0x8 0x3 0x0) ∧
    decode 0x34CAEB53 = .ok (.bfi 0x3 0x2 0x2E 0x2D 0x3) := by
  refine ⟨rfl, rfl⟩

theorem test_decode_major10 : decode 0x42D5B933 = .ok (.br 0x2D5B93 0x3) := rfl

theorem test_decode_major11 : decode 0x46D5B933 = .ok (.call 0x2D5B93 0x3) := rfl

theorem test_decode_major12 :
    decode 0x480C0003 = .ok (.jmpr 0x3 0x3) ∧
    decode 0x480C0013 = .ok (.callr 0x3 0x3) ∧
    decode 0x48000020 = .ok (.ret 0x0) := by
  refine ⟨rfl, rfl, rfl⟩

theorem test_decode_major13 :
    decode 0x4CC95B83 = .ok (.leaB 0x3 0x2 0x56E 0x3) ∧
    decode 0x4CC95B93 = .ok (.leaH 0x3 0x2 0x56E 0x3) ∧
    decode 0x4CC95BA3 = .ok (.leaW 0x3 0x2 0x56E 0x3) ∧
    decode 0x4CC95BB3 = .ok (.leaD 0x3 0x2 0x56E 0x3) := by
  refine ⟨rfl, rfl, rfl, rfl⟩

theorem test_decode_major18 :
    decode 0x60C95B83 = .ok (.ldbu 0x3 0x2 0x56E 0x3) ∧
    decode 0x60C95B93 = .ok (.ldhu 0x3 0x2 0x56E 0x3) ∧
    decode 0x60C95BA3 = .ok (.ldwu 0x3 0x2 0x56E 0x3) ∧
    decode 0x61980030 = .ok (.ldd 0x6 0x6 0x0 0x0) := by
  refine ⟨rfl, rfl, rfl, rfl⟩

theorem test_decode_major19 :
    decode 0x64C95B83 = .ok (.stb 0x3 0x2 0x56E 0x3) ∧
    decode 0x64C95B93 = .ok (.sth 0x3 0x2 0x56E 0x3) ∧
    decode 0x64C95BA3 = .ok (.stw 0x3 0x2 0x56E 0x3) ∧
    decode 0x67144030 = .ok (.std 0xC 0x5 0x100 0x0) := by
  refine ⟨rfl, rfl, rfl, rfl⟩

theorem test_decode_major1A :
    decode 0x68CB8003 = .ok (.ldm 0x3 0x2 0xE 0x3) ∧
    decode 0x68CB8013 = .ok (.stm 0x3 0x2 0xE 0x3) ∧
    decode 0x68CB8103 = .ok (.ldb 0x3 0x2 0xE 0x3) ∧
    decode 0x68CB8113 = .ok (.ldh 0x3 0x2 0xE 0x3) ∧
    decode 0x68D14120 = .ok (.ldw 0x3 0x4 0x5 0x0) ∧
    decode 0x68CB8203 = .ok (.ldbAcq 0x3 0x2 0xE 0x3) ∧
    decode 0x68CB8213 = .ok (.ldhAcq 0x3 0x2 0xE 0x3) ∧
    decode 0x68CB8223 = .ok (.ldwAcq 0x3 0x2 0xE 0x3) ∧
    decode 0x699C0230 = .ok (.lddAcq 0x6 0x7 0x0 0x0) ∧
    decode 0x68CB8243 = .ok (.ldbuAcq 0x3 0x2 0xE 0x3) ∧
    decode 0x68CB8253 = .ok (.ldhuAcq 0x3 0x2 0xE 0x3) ∧
    decode 0x68CB8263 = .ok (.ldwuAcq 0x3 0x2 0xE 0x3) ∧
    decode 0x68CB8303 = .ok (.ldbSc 0x3 0x2 0xE 0x3) ∧
    decode 0x68CB8313 = .ok (.ldhSc 0x3 0x2 0xE 0x3) ∧
    decode 0x68CB8323 = .ok (.ldwSc 0x3 0x2 0xE 0x3) ∧
    decode 0x688C0330 = .ok (.lddSc 0x2 0x3 0x0 0x0) ∧
    decode 0x68CB8343 = .ok (.ldbuSc 0x3 0x2 0xE 0x3) ∧
    decode 0x68CB8353 = .ok (.ldhuSc 0x3 0x2 0xE 0x3) ∧
    decode 0x68CB8363 = .ok (.ldwuSc 0x3 0x2 0xE 0x3) ∧
    decode 0x68CB8403 = .ok (.stbRel 0x3 0x2 0xE 0x3) ∧
    decode 0x68CB8413 = .ok (.sthRel 0x3 0x2 0xE 0x3) ∧
    decode 0x68CB8423 = .ok (.stwRel 0x3 0x2 0xE 0x3) ∧
    decode 0x699C0430 = .ok (.stdRel 0x6 0x7 0x0 0x0) ∧
    decode 0x68CB8503 = .ok (.stbSc 0x3 0x2 0xE 0x3) ∧
    decode 0x68CB8513 = .ok (.sthSc 0x3 0x2 0xE 0x3) ∧
    decode 0x68CB8523 = .ok (.stwSc 0x3 0x2 0xE 0x3) ∧
    decode 0x68CB8533 = .ok (.stdSc 0x3 0x2 0xE 0x3) := by
  refine ⟨rfl, rfl, rfl, rfl, rfl, rfl, rfl, rfl, rfl, rfl, rfl, rfl, rfl, rfl, rfl, rfl, rfl, rfl, rfl, rfl, rfl, rfl, rfl, rfl, rfl, rfl, rfl⟩

theorem test_decode_major1B :
    decode 0x6C914200 = .ok (.vld 0x2 0x4 0x5 0x0 0x1 0x0) ∧
    decode 0x6CCBAA13 = .ok (.vst 0x3 0x2 0xE 0x5 0x1 0x3) ∧
    decode 0x6C32C020 = .ok (.vlds 0x0 0xC 0xB 0x0 0x0 0x0) ∧
    decode 0x6C350A30 = .ok (.vsts 0x0 0xD 0x4 0x1 0x1 0x0) := by
  refine ⟨rfl, rfl, rfl, rfl⟩

theorem test_decode_major1C :
    decode 0x70D14400 = .ok (.vgath 0x3 0x4 0x5 0x0 0x2 0x0) ∧
    decode 0x70C9AA13 = .ok (.vscat 0x3 0x2 0x6 0x5 0x1 0x3) ∧
    decode 0x70118020 = .ok (.pref 0x4 0x6 0x0) := by
  refine ⟨rfl, rfl, rfl⟩

theorem test_decode_major1D :
    decode 0x74D14300 = .ok (.amoAdd 0x3 0x4 0x5 0x1 0x0 0x0) ∧
    decode 0x74CB8393 = .ok (.amoMin 0x3 0x2 0xE 0x1 0x1 0x3) ∧
    decode 0x74CB83A3 = .ok (.amoMax 0x3 0x2 0xE 0x1 0x1 0x3) ∧
    decode 0x74CB83B3 = .ok (.amoAnd 0x3 0x2 0xE 0x1 0x1 0x3) ∧
    decode 0x74CB83C3 = .ok (.amoOr 0x3 0x2 0xE 0x1 0x1 0x3) ∧
    decode 0x74CB83D3 = .ok (.amoXor 0x3 0x2 0xE 0x1 0x1 0x3) ∧
    decode 0x74CB83E3 = .ok (.amoSwap 0x3 0x2 0xE 0x1 0x1 0x3) ∧
    decode 0x759E02F0 = .ok (.amoCas 0x6 0x7 0x8 0x0 0x1 0x0) := by
  refine ⟨rfl, rfl, rfl, rfl, rfl, rfl, rfl, rfl⟩

theorem test_decode_major1E :
    decode 0x78CB8003 = .ok (.amoOrdAdd 0x3 0x2 0xE 0x3) ∧
    decode 0x78918010 = .ok (.amoOrdFadd 0x2 0x4 0x6 0x0) ∧
    decode 0x78CB8023 = .ok (.amoOrdSwap 0x3 0x2 0xE 0x3) ∧
    decode 0x78900100 = .ok (.fred 0x2 0x4 0x0) := by
  refine ⟨rfl, rfl, rfl, rfl⟩

theorem test_decode_major1F :
    decode 0x7C0000C3 = .ok (.fenceAcq 0x3 0x3) ∧
    decode 0x7C000090 = .ok (.fenceRel 0x2 0x0) ∧
    decode 0x7C000120 = .ok (.fenceFull 0x4 0x0) ∧
    decode 0x7C100200 = .ok (.mon 0x4 0x0) ∧
    decode 0x7C000210 = .ok (.munm 0x0) ∧
    decode 0x7CD40220 = .ok (.mwait 0x3 0x5 0x0) ∧
    decode 0x7C114300 = .ok (.bari 0x4 0x5 0x0) ∧
    decode 0x7CE00310 = .ok (.barv 0x3 0x8 0x0) ∧
    decode 0x7C20C320 = .ok (.barw 0x8 0x3 0x0) ∧
    decode 0x7C258380 = .ok (.synci 0x9 0x6 0x0) ∧
    decode 0x7C800400 = .ok (.digest 0x2 0x0) := by
  refine ⟨rfl, rfl, rfl, rfl, rfl, rfl, rfl, rfl, rfl, rfl, rfl⟩

theorem test_decode_major20 :
    decode 0x80A64000 = .ok (.vadd 0x1 0x2 0x3 0x1 0x0 0x0) ∧
    decode 0x81AC6813 = .ok (.vsub 0x3 0x2 0x6 0x1 0x5 0x3) ∧
    decode 0x81AC6823 = .ok (.vmul 0x3 0x2 0x6 0x1 0x5 0x3) ∧
    decode 0x825C1030 = .ok (.vfma 0x4 0x5 0x6 0x0 0x2 0x0) ∧
    decode 0x81AC6843 = .ok (.vmin 0x3 0x2 0x6 0x1 0x5 0x3) ∧
    decode 0x81AC6853 = .ok (.vmax 0x3 0x2 0x6 0x1 0x5 0x3) ∧
    decode 0x81A0A863 = .ok (.vabs 0x3 0x2 0x2 0x5 0x3) ∧
    decode 0x81A0A873 = .ok (.vneg 0x3 0x2 0x2 0x5 0x3) ∧
    decode 0x81AC6883 = .ok (.vand 0x3 0x2 0x6 0x1 0x5 0x3) ∧
    decode 0x81AC6893 = .ok (.vor 0x3 0x2 0x6 0x1 0x5 0x3) ∧
    decode 0x81AC68A3 = .ok (.vxor 0x3 0x2 0x6 0x1 0x5 0x3) ∧
    decode 0x81AC68B3 = .ok (.vshl 0x3 0x2 0x6 0x1 0x5 0x3) ∧
    decode 0x81AC68C3 = .ok (.vshr 0x3 0x2 0x6 0x1 0x5 0x3) := by
  refine ⟨rfl, rfl, rfl, rfl, rfl, rfl, rfl, rfl, rfl, rfl, rfl, rfl, rfl⟩

theorem test_decode_major21 :
    decode 0x85104010 = .ok (.vcvt 0x2 0x1 0x1 0x0 0x1 0x0) ∧
    decode 0x86060100 = .ok (.vperm 0x4 0x0 0x3 0x0 0x0 0x0) ∧
    decode 0x84C13113 = .ok (.vbcast 0x3 0x2 0x6 0x3) ∧
    decode 0x85191920 = .ok (.vext 0x4 0x6 0x2 0x3 0x0) ∧
    decode 0x84CB2933 = .ok (.vins 0x3 0x2 0x6 0x5 0x3) := by
  refine ⟨rfl, rfl, rfl, rfl, rfl⟩

theorem test_decode_major22 :
    decode 0x89A0A803 = .ok (.vrcp 0x3 0x2 0x2 0x5 0x3) ∧
    decode 0x89A0A813 = .ok (.vrsq 0x3 0x2 0x2 0x5 0x3) ∧
    decode 0x89A0A823 = .ok (.vexp2 0x3 0x2 0x2 0x5 0x3) ∧
    decode 0x89A0A833 = .ok (.vlog2 0x3 0x2 0x2 0x5 0x3) := by
  refine ⟨rfl, rfl, rfl, rfl⟩

theorem test_decode_major23 :
    decode 0x8E458000 = .ok (.vredSum 0x9 0x1 0x3 0x0 0x0) ∧
    decode 0x8CCB2813 = .ok (.vredMin 0x3 0x2 0x6 0x5 0x3) ∧
    decode 0x8CCB2823 = .ok (.vredMax 0x3 0x2 0x6 0x5 0x3) ∧
    decode 0x8DA0A903 = .ok (.vscan 0x3 0x2 0x2 0x5 0x3) ∧
    decode 0x8DAC6A03 = .ok (.vdot 0x3 0x2 0x6 0x1 0x5 0x3) := by
  refine ⟨rfl, rfl, rfl, rfl, rfl⟩

theorem test_decode_major24 :
    decode 0x911E0020 = .ok (.vcmp 0x2 0x1 0x7 0x0 0x0 0x2 0x0) ∧
    decode 0x91AC6903 = .ok (.vsel 0x3 0x2 0x6 0x1 0x5 0x3) := by
  refine ⟨rfl, rfl⟩

theorem test_decode_major28 :
    decode 0xA0043400 = .ok (.mmaBb 0x0 0x0 0x1 0x0 0xD 0x0) ∧
    decode 0xA0083C1A = .ok (.mmaHh 0x0 0x0 0x2 0x0 0xF 0xA) ∧
    decode 0xA2283820 = .ok (.mmaQq 0x2 0x1 0x2 0x0 0xE 0x0) ∧
    decode 0xA35B5433 = .ok (.mmaWw 0x3 0x2 0x6 0xD 0x5 0x3) ∧
    decode 0xA35B5443 = .ok (.mmaQw 0x3 0x2 0x6 0xD 0x5 0x3) := by
  refine ⟨rfl, rfl, rfl, rfl, rfl⟩

theorem test_decode_major29 :
    decode 0xA75B5403 = .ok (.mmaNn 0x3 0x2 0x6 0xD 0x5 0x3) ∧
    decode 0xA75B5413 = .ok (.mmaLl 0x3 0x2 0x6 0xD 0x5 0x3) ∧
    decode 0xA7583423 = .ok (.mmaIi 0x3 0x2 0x6 0xD 0x3) := by
  refine ⟨rfl, rfl, rfl⟩

theorem test_decode_major2A :
    decode 0xA8018000 = .ok (.mcfg 0x6 0x0) ∧
    decode 0xAB000010 = .ok (.mzero 0x3 0x0) ∧
    decode 0xA961C020 = .ok (.mrd 0x1 0x3 0x7 0x0) ∧
    decode 0xAB438033 = .ok (.mwr 0x3 0x2 0xE 0x3) ∧
    decode 0xAA024040 = .ok (.msave 0x2 0x9 0x0) ∧
    decode 0xAB008053 = .ok (.mload 0x3 0x2 0x3) := by
  refine ⟨rfl, rfl, rfl, rfl, rfl, rfl⟩

theorem test_decode_major2C :
    decode 0xB00D0000 = .ok (.qaxis 0x0 0x6 0x8 0x0) ∧
    decode 0xB02E0010 = .ok (.qst 0x0 0x1 0x7 0x0 0x0 0x0) ∧
    decode 0xB148A820 = .ok (.qsta 0x1 0x2 0x4 0x5 0x2 0x0) ∧
    decode 0xB2600030 = .ok (.qresR 0x2 0x3 0x0) ∧
    decode 0xB2600040 = .ok (.qresW 0x2 0x3 0x0) := by
  refine ⟨rfl, rfl, rfl, rfl, rfl⟩

theorem test_decode_major2D :
    decode 0xB4D14000 = .ok (.gcfg 0x3 0x4 0x5 0x0) ∧
    decode 0xB4514010 = .ok (.gseed 0x1 0x4 0x5 0x0) ∧
    decode 0xB4900020 = .ok (.gadd 0x2 0x4 0x0 0x0) ∧
    decode 0xB4D18030 = .ok (.gld 0x3 0x4 0x6 0x0) ∧
    decode 0xB491C040 = .ok (.gsprd 0x2 0x4 0x7 0x0) ∧
    decode 0xB4000050 = .ok (.gfence 0x0) ∧
    decode 0xB6124060 = .ok (.gmass 0x8 0x4 0x9 0x0) := by
  refine ⟨rfl, rfl, rfl, rfl, rfl, rfl, rfl⟩

theorem test_decode_major30 :
    decode 0xC00EDC83 = .ok (.spawn 0x3 0xB72 0x3) ∧
    decode 0xC01C0010 = .ok (.join 0x7 0x0) ∧
    decode 0xC01C0020 = .ok (.tend 0x7 0x0) := by
  refine ⟨rfl, rfl, rfl⟩

theorem test_decode_major31 :
    decode 0xC45C0010 = .ok (.send 0x1 0x7 0x1 0x0) ∧
    decode 0xC4DE0040 = .ok (.sendSvc 0x3 0x7 0x8 0x0 0x0) ∧
    decode 0xC4640130 = .ok (.recv 0x1 0x9 0x3 0x0) ∧
    decode 0xC4140200 = .ok (.mig 0x5 0x0) := by
  refine ⟨rfl, rfl, rfl, rfl⟩

theorem test_decode_major32 :
    decode 0xC9D24000 = .ok (.cpy 0x7 0x4 0x9 0x0) ∧
    decode 0xC9D24010 = .ok (.cpyr 0x7 0x4 0x9 0x0) ∧
    decode 0xC9A68020 = .ok (.rpush 0x6 0x9 0xA 0x0) ∧
    decode 0xC8140030 = .ok (.qfence 0x5 0x0) ∧
    decode 0xC9D14040 = .ok (.coll 0x7 0x4 0x5 0x0) ∧
    decode 0xC8914050 = .ok (.collw 0x2 0x4 0x5 0x0) := by
  refine ⟨rfl, rfl, rfl, rfl, rfl, rfl⟩

theorem test_decode_major34 :
    decode 0xD0D14000 = .ok (.bdef 0x3 0x4 0x5 0x0) ∧
    decode 0xD0118010 = .ok (.bnbr 0x4 0x6 0x0) ∧
    decode 0xD011C020 = .ok (.brule 0x4 0x7 0x0) ∧
    decode 0xD0100030 = .ok (.bstart 0x4 0x0 0x0) ∧
    decode 0xD0000040 = .ok (.bnext 0x0) ∧
    decode 0xD0000050 = .ok (.bcommit 0x0) ∧
    decode 0xD0000060 = .ok (.bcommitC 0x0) ∧
    decode 0xD2100070 = .ok (.blvl 0x8 0x4 0x0) ∧
    decode 0xD0000080 = .ok (.bfrzB 0x0) ∧
    decode 0xD0940090 = .ok (.bfrzD 0x2 0x5 0x0) ∧
    decode 0xD01400A0 = .ok (.bthaw 0x5 0x0) ∧
    decode 0xD0A540B0 = .ok (.bfront 0x2 0x9 0x5 0x0) := by
  refine ⟨rfl, rfl, rfl, rfl, rfl, rfl, rfl, rfl, rfl, rfl, rfl, rfl⟩

theorem test_decode_major38 :
    decode 0xE1000080 = .ok (.csrr 0x4 0x2 0x0) ∧
    decode 0xE0180050 = .ok (.csrw 0x0 0x6 0x1 0x0) ∧
    decode 0xE0C95BA3 = .ok (.csrs 0x3 0x2 0x56E 0x3) ∧
    decode 0xE01C0430 = .ok (.csrc 0x0 0x7 0x10 0x0) := by
  refine ⟨rfl, rfl, rfl, rfl⟩

theorem test_decode_major39 :
    decode 0xE40000C0 = .ok (.trap 0x3 0x0) ∧
    decode 0xE4000010 = .ok (.rft 0x0) ∧
    decode 0xE4000020 = .ok (.halt 0x0) ∧
    decode 0xE4000030 = .ok (.yield 0x0) := by
  refine ⟨rfl, rfl, rfl, rfl⟩

/-- Words that the spec's chapters say trap at issue. -/
theorem test_decode_reserved :
    decode 0x68000270 = .error .illFn ∧ decode 0x6E914200 = .error .illMbz ∧ decode 0xB4000070 = .error .illFn ∧
    decode 0xC8540030 = .error .illMbz ∧ decode 0xD00000C0 = .error .illFn ∧ decode 0xD0400040 = .error .illMbz ∧
    decode 0x80A70000 = .error .illMbz ∧ decode 0x00000000 = .error .illOpcode := by
  refine ⟨rfl, rfl, rfl, rfl, rfl, rfl, rfl, rfl⟩

theorem test_decodeTableWord : decodeTableWord 32 0x67144030 = some (.std 12 5 256 0) := rfl

/-! ## Scalar instructions -/

/-- g4 = −7, g5 = 2. -/
def two : State := machine (strand [(4, -7), (5, 2)])

theorem test_div_truncates : (go (.div 3 4 5 0) two).me.get 3 = -3 := by decide +kernel
theorem test_rem_sign : (go (.rem 3 4 5 0) two).me.get 3 = -1 := by decide +kernel
theorem test_divu_zero : (go (.divu 3 4 6 0) two).me.get 3 = -1 := by decide +kernel
theorem test_mulh : (go (.mulh 3 4 5 0) two).me.get 3 = -1 := by decide +kernel
theorem test_mulhu : (go (.mulhu 3 4 5 0) two).me.get 3 = 1 := by decide +kernel
theorem test_sra : (go (.sra 3 4 5 0) two).me.get 3 = -2 := by decide +kernel
theorem test_sll_mod64 : (go (.sll 3 5 6 0) (machine (strand [(5, 1), (6, 65)]))).me.get 3 = 2 := by decide +kernel
theorem test_minu : (go (.minu 3 4 5 0) two).me.get 3 = 2 := by decide +kernel
theorem test_clz : (go (.clz 3 5 0) two).me.get 3 = 62 := by decide +kernel
theorem test_g0_discards : (go (.add 0 4 5 0) two).me.get 0 = 0 := by decide +kernel
theorem test_bfi : (go (.bfi 3 4 4 3 0) (machine (strand [(3, 0xFFFF), (4, 0x5)]))).me.get 3 = 0xFF5F := by decide +kernel
theorem test_movhi : (go (.movhi 3 5 0) (machine (strand [(3, 1)]))).me.get 3 = 0x40005 := by decide +kernel
theorem test_pwr : (go (.pwr 5 4 0) (machine (strand [(4, 0xFF)]))).me.p = 0xE7 := by decide +kernel
theorem test_call : (go (.call (-1) 0) two).me.get 15 = 0x1004 ∧ (go (.call (-1) 0) two).me.pc = 0xFFC := by decide +kernel
theorem test_icnt_counts : (go (.nop) two).me.icnt = 1 := by decide +kernel

theorem witness_RegisterArithmeticWritesItsResult :
    (∀ i ∈ [Instr.add 3 4 5 0, .sub 3 4 5 0, .and 3 4 5 0, .or 3 4 5 0, .xor 3 4 5 0, .andn 3 4 5 0, .sll 3 4 5 0,
      .srl 3 4 5 0, .sra 3 4 5 0, .min 3 4 5 0, .max 3 4 5 0, .minu 3 4 5 0, .maxu 3 4 5 0, .mul 3 4 5 0, .mulh 3 4 5 0,
      .mulhu 3 4 5 0, .div 3 4 5 0, .divu 3 4 5 0, .rem 3 4 5 0, .remu 3 4 5 0, .sel 3 4 5 1 0],
      ok i [4, 5] [3] two = true) ∧
    ∀ i ∈ [Instr.clz 3 4 0, .popc 3 4 0, .sextB 3 4 0, .sextH 3 4 0, .sextW 3 4 0, .zextB 3 4 0, .zextH 3 4 0,
      .zextW 3 4 0], ok i [4] [3] two = true := by decide +kernel

theorem witness_ImmediateFormsWriteTheirResult :
    ∀ i ∈ [Instr.addi 3 4 5 0, .andi 3 4 5 0, .ori 3 4 5 0, .xori 3 4 5 0, .slli 3 4 63 0, .srli 3 4 63 0, .srai 3 4 63 0,
      .bfx 3 4 0 63 0, .bfx 3 4 63 0 0, .leaB 3 4 5 0, .leaH 3 4 5 0, .leaW 3 4 5 0, .leaD 3 4 5 0, .movi 3 5 0, .movhi 3 5 0,
      .bfi 3 4 0 63 0, .bfi 3 4 63 0 0, .nop], ok i [3, 4] [3] two = true := by decide +kernel

theorem witness_ConstantWindowInstructionsReadTheirWord :
    avgPending two 0 two.me.uid (windowElem 0 255) = false ∧ poisoned two (lsAddr 0 (8 * 255)) 8 = false ∧
    ok (.ldk 3 255 0) [] [3] two = true ∧ ok (.addk 3 4 255 0) [4] [3] two = true := by decide +kernel

theorem witness_ComparesAndPredicateInstructionsWriteTheirResult :
    ∀ i ∈ [Instr.cmp 1 4 5 5 0, .cmp 0 4 5 0 0, .cmpi 1 4 5 3 0, .pand 1 2 3 0, .por 1 2 3 0, .pxor 1 2 3 0, .pnot 1 2 0,
      .prd 3 0, .pwr 7 4 0], ok i [4, 5] [3] two = true := by decide +kernel

theorem test_cmp_unsigned : (go (.cmp 1 4 5 4 0) two).me.pred 1 = false ∧ (go (.cmp 1 4 5 2 0) two).me.pred 1 = true := by
  decide +kernel

theorem witness_BranchesGoToTheirTarget :
    (two.cur.2 < 9 ∧ guardHolds two.me 1 = false) ∧
    (∀ i ∈ [Instr.br 1 0, .call 1 0, .jmpr 4 0, .callr 4 0, .ret 0],
      ok i [4, 15] [15] (machine (strand [(4, 0x2000), (15, 0x3000)])) = true) ∧
    (∀ i ∈ [Instr.jmpr 4 0, .callr 4 0, .ret 0],
      ok i [4, 15] [15] (machine (strand [(4, 0x2001), (15, 0x3002)])) = true) ∧ (two.core 0).tvec ≠ 0 := by decide +kernel

theorem test_jmpr_align :
    let t := go (.jmpr 4 0) (machine (strand [(4, 0x2001)]))
    t.me.pc = 0x4000 ∧ t.me.xpc = 0x1000 ∧ t.me.xval = 0x2001 ∧ t.me.xcause = 0x8000000000000006 := by decide +kernel

/-! ## Checks, traps and CSRs -/

/-- The same strand in user mode. -/
def user : State := machine { strand [(4, 6)] with mode := false }

theorem witness_IssueChecksComeBeforeTheEffect :
    (Instr.isEvent (.add 1 2 3 1) = false ∧ two.cur.2 < 9 ∧ (Instr.add 1 2 3 1).limits = true ∧
      guardHolds two.me (Instr.add 1 2 3 1).guardField = false) ∧
    ((Instr.rft 1).isEvent = false ∧ (Instr.rft 1).privileged = true ∧ user.me.mode = false ∧ (user.core 0).tvec ≠ 0) ∧
    ((Instr.bfx 1 2 60 9 1).isEvent = false ∧ (Instr.bfx 1 2 60 9 1).limits = false ∧
      (Instr.bfx 1 2 60 9 1).privileged = false) := by decide +kernel

theorem test_priv_beats_guard : (go (.rft 8) user).me.xcause = 5 ∧ (go (.rft 8) user).me.pc = 0x4000 := by decide +kernel
theorem test_false_guard_counts : (go (.add 3 4 5 1) two).me.icnt = 1 ∧ (go (.add 3 4 5 1) two).me.get 3 = 0 := by decide +kernel

/-- g4 is empty and g5 clipped. -/
def bare : State := machine { strand [] with full := 0xFFEF, clip := 0x20 }

theorem witness_EmptyRegistersParkAndClippedOnesTrap :
    (∀ i ∈ [Instr.add 3 5 4 0, .clz 3 4 0, .ldd 3 4 0 0, .std 3 4 0 0, .addi 3 4 0 0, .movi 4 0 0],
      runsB i bare = true) ∧ ([5, 4, 3].filter bare.me.isEmpty = [4]) ∧ (bare.core 0).tvec ≠ 0 ∧
    (∃ r ∈ ([5, 4, 3] : List (BitVec 4)), bare.me.isEmpty r = true) ∧
    (∀ q ∈ ([5, 3] : List (BitVec 4)), bare.me.isEmpty q = false) ∧ [3, 5].find? bare.me.isClipped = some 5 := by decide +kernel

theorem test_empty_parks : ((go (.add 3 5 4 0) bare).slot 0 0).state = .park [4] ∧ (go (.add 3 5 4 0) bare).me.pc = 0x1000 := by
  decide +kernel
theorem test_clipped_traps : (go (.add 3 3 5 0) bare).me.xcause = 0x8000000000000015 ∧ (go (.add 3 3 5 0) bare).me.xval = 5 := by
  decide +kernel

theorem witness_RegisterInstructionsChangeNothingElse : two.cur.2 < 9 := by decide +kernel

/-- A strand bound to a RUNNING block. -/
def boundTo0 : State :=
  (machine { strand [] with bound := some (0, 0), xpc := 0x2000, xcause := 0x1C }).modBlock 0 0 fun b => { b with st := .running }

theorem witness_TrapsEnterAndReturn :
    runsB (.trap 4095 0) two = true ∧ runsB (.rft 0) two = true ∧ (two.core 0).tvec ≠ 0 ∧ two.me.bound = none ∧
    two.me.xpc &&& 3 = 0 ∧ runsB (.rft 0) boundTo0 = true ∧ boundTo0.me.bound = some (0, 0) ∧
    (machine { strand [] with xpc := 2 }).me.xpc &&& 3 ≠ 0 ∧ runsB (.trap 4095 0) State.reset = true ∧
    (State.reset.core 0).tvec = 0 ∧ State.reset.log.length < 4096 ∧ (State.reset.core 0).avgQ = [] := by decide +kernel

theorem test_trap_holds_block : ((go (.trap 3 0) boundTo0).block 0 0).st = .held ∧ (go (.trap 3 0) boundTo0).me.xpc = 0x1004 := by
  decide +kernel
theorem test_rft_mode : (go (.rft 0) boundTo0).me.mode = false ∧ (go (.rft 0) boundTo0).me.pc = 0x2000 := by decide +kernel

theorem witness_CsrsReadTheirFieldsAndTakeWrites :
    ok (.csrw 3 4 0x001 0) [4] [3] two = true ∧ ok (.csrs 3 4 0x030 0) [4] [3] two = true ∧
    ok (.csrc 3 4 0x050 0) [4] [3] two = true ∧ ok (.csrr 3 0xC00 0) [] [3] two = true ∧ (two.core 0).tvec ≠ 0 ∧
    ok (.csrw 3 4 0x001 0) [4] [3] (machine (strand [(4, 5)])) = true := by decide +kernel

theorem test_csrw_old : (go (.csrw 3 4 0x012 0) (machine (strand [(4, 8)]))).me.ctxw = 8 ∧
    (go (.csrw 3 4 0x012 0) (machine (strand [(4, 8)]))).me.get 3 = 16 := by decide +kernel
theorem test_csrw_refused : (go (.csrw 3 4 0x012 0) (machine (strand [(4, 9)]))).me.xcause = 0x8000000000000004 ∧
    (go (.csrw 3 4 0x012 0) (machine (strand [(4, 9)]))).me.xval = 9 := by decide +kernel
theorem test_csrs_icnt_uncounted : (go (.csrs 3 4 0x014 0) (machine { strand [(4, 1)] with icnt := 6 })).me.icnt = 7 := by
  decide +kernel

/-! ## Memory -/

/-- The own local store, an HBM address, and addresses that are not aligned, absent and not mapped. -/
def own : Word := 0xFFFFFFFFFFFF8100
def hbm : Word := 0x2000

/-- g4 holds an address of the own local store, g5 of HBM, g6 one that is not aligned, g3 is data, g8 is 4 GiB + 64. -/
def access : State := paged (strand [(3, 0x1122334455667788), (4, own), (5, hbm), (6, 0x2001), (8, 0x100000040)])

/-- The same with a page of class READ-SHARED, one without R, and one without W, in entries 1 to 3. -/
def classes : State := { access with mem := [(0, 0x1F), (8, 0x9F), (16, 0x13), (24, 0x17)] }

theorem witness_AccessChecksRunInOrder :
    ((0x2001 : Word).toNat % 8 ≠ 0) ∧ causeOf access .load 0x2001 8 = some .align ∧
    (rangeOf (localPart 0x30000000000) = none ∧ causeOf access .load 0x30000000000 8 = some .pageFault) ∧
    causeOf access .load 0x100000040 8 = some .pageFault ∧
    causeOf classes (.store none) 0x100000040 8 = some .regionClass ∧ causeOf classes .load 0x200000040 8 = some .prot ∧
    causeOf classes (.store none) 0x300000040 8 = some .prot ∧
    causeOf (machine { strand [] with mode := false, set := some (1, 1) }) .load own 8 = some .prot := by decide +kernel

theorem witness_ScalarLoadsReadOrWait :
    (ok (.ldd 3 4 0 0) [4] [3] access = true ∧ placeOf access .load own 8 = some (lsAddr 0 0x100) ∧
      poisoned access (lsAddr 0 0x100) 8 = false ∧ (access.core 0).avgQ = [] ∧ inLocal 0 (.here (lsAddr 0 0x100)) = true) ∧
    (ok (.lddAcq 3 5 0 0) [5, 0] [3] access = true ∧ placeOf access .load hbm 8 = some 0x2000 ∧
      poisoned access 0x2000 8 = false ∧ inLocal 0 (.here 0x2000) = false ∧ (access.core 0).sb = []) := by decide +kernel

theorem test_ldb_extends : (go (.ldb 3 4 0 0) { access with mem := [(lsAddr 0 0x100, 0x80)] }).me.get 3 = -128 := by
  decide +kernel
theorem test_ldd_waits : (go (.ldd 3 5 0 0) access).waiting 0 0 =
    some (.load [⟨0, hbm, .here 0x2000, 8, false, none, 0, 0⟩] (.scalar 3 false true) none) := by decide +kernel

/-- A load of 8 bytes at 0x2000 waits. -/
def loading : State := waits (.load [⟨0, hbm, .here 0x2000, 8, false, none, 0, 0⟩] (.scalar 3 false true) none) access

theorem witness_WaitingLoadsComplete :
    loading.waiting 0 0 = some (.load [⟨0, hbm, .here 0x2000, 8, false, none, 0, 0⟩] (.scalar 3 false true) none) ∧
    inLocal 0 (.here 0x2000) = false ∧ (loading.core 0).sb = [] ∧ (loading.core 0).avgQ = [] ∧
    poisoned loading 0x2000 8 = false ∧ poisoned { loading with poison := [0x80] } 0x2000 8 = true := by decide +kernel

theorem test_load_complete : (go (.loadComplete 0 0) { loading with mem := [(0x2000, 0xFE), (0x2007, 1)] }).me.get 3 =
    0x01000000000000FE := by decide +kernel
theorem test_load_poison : (go (.loadComplete 0 0) { loading with poison := [0x80] }).me.xcause = 0x8000000000000019 := by
  decide +kernel

/-- The buffer of core 0 is full. -/
def full : State := access.modCore 0 fun k => { k with sb := List.replicate 32 ⟨9, .plain, 0, .here 0, 1, 0, 0, 0, 0, none, []⟩ }

theorem witness_ScalarStoresEnterTheBuffer :
    (ok (.std 3 5 0 0) [3, 5] [] access = true ∧ placeOf access (.store (some 0x1122334455667788)) hbm 8 = some 0x2000 ∧
      (access.core 0).sb.length < 32 ∧ firstB access = true) ∧
    (ok (.stwRel 3 5 0 0) [3, 5, 0] [] full = true ∧ placeOf full (.store none) hbm 4 = some 0x2000 ∧
      32 ≤ (full.core 0).sb.length) := by decide +kernel

theorem test_stw_entry : ((go (.stw 3 5 1 0) access).core 0).sb = [⟨1, .plain, 0x2004, .here 0x2004, 4, 0x55667788, 0, 0, 0x1000, none, []⟩] := by
  decide +kernel
theorem test_store_full_waits : ((go (.std 3 5 0 0) full).waiting 0 0).isSome = true := by decide +kernel

/-- A store is at the head of the buffer, two cycles old. -/
def buffered (e : SbEntry) : State := { access.modCore 0 fun k => { k with sb := [e] } with cyc := 2 }

theorem witness_TheBufferDrainsItsHead :
    (((buffered ⟨1, .plain, hbm, .here 0x2000, 4, 0x55667788, 0, 0, 0x1000, none, []⟩).core 0).sb.head?.isSome = true ∧
      (buffered ⟨1, .plain, hbm, .here 0x2000, 4, 0x55667788, 0, 0, 0x1000, none, []⟩).mem.wf = true ∧ ringWordAt 0x2000 = none) ∧
    releaseReady (buffered ⟨1, .release, hbm, .here 0x2000, 4, 0, 0, 0, 0x1000, none, []⟩) 0 1 = true := by decide +kernel

theorem test_drain_bytes :
    let t := go (.storeBufferDrain 0) (buffered ⟨1, .plain, hbm, .here 0x2000, 4, 0x55667788, 0, 0, 0x1000, none, []⟩)
    t.read 0x2000 8 = 0x55667788 ∧ (t.core 0).sb = [] := by decide +kernel

/-- What the translation of an access in WAIT finds again: address, ORD and home. -/
def againAt (s : State) (k : Acc) (va : Word) (n : Nat) : Option (Nat × Bool × Option Nat) :=
  match checkAgain s 0 0 k va n with
  | .ok p =>
    match p.loc with
    | .here a => some (a, p.ord, p.mig)
    | .there _ _ => none
  | .error _ => none

/-- An SC load, and an SC store, of the window of cycles 0 to 15, in cycle 16. -/
def scLoading : State := { waits (.scLoad ⟨0, hbm, .here 0x2000, 8, false, none, 0, 0⟩ 3 false 0) access with cyc := 16 }
def scStoring : State :=
  { waits (.scStore 0) (buffered ⟨1, .sc, hbm, .here 0x2000, 8, 7, 0, 0, 0x1000, none, []⟩) with cyc := 16 }

theorem witness_ScAccessesAreDoneAtTheirWindow :
    (ok (.lddSc 3 5 0 0) [5, 0] [3] access = true ∧ isOwn access hbm = true ∧ placeOf access .load hbm 8 = some 0x2000) ∧
    (ok (.stdSc 3 5 0 0) [3, 5, 0] [] access = true ∧
      placeOf access (.store (some 0x1122334455667788)) hbm 8 = some 0x2000 ∧ (access.core 0).sb.length < 32 ∧ firstB access = true) ∧
    (scClosed scLoading = [(0, 0, 0)] ∧ (scLoading.core 0).sb = [] ∧ poisoned scLoading 0x2000 8 = false ∧
      againAt scLoading .load hbm 8 = some (0x2000, false, none) ∧ (scLoading.core 0).avgQ = []) ∧
    (scClosed scStoring = [(0, 0, 0)] ∧ releaseReady scStoring 0 1 = true ∧ scStoring.mem.wf = true) := by decide +kernel

theorem test_sc_store : (go .scWindowClose scStoring).read 0x2000 8 = 7 ∧ (go .scWindowClose scStoring).me.pc = 0x1004 := by
  decide +kernel

theorem witness_FailedAccessesTrapWithoutEffect :
    (ok (.ldd 3 6 0 0) [6] [3] access = true ∧ causeOf access .load 0x2001 8 = some .align) ∧
    (ok (.std 3 8 0 0) [3, 8] [] access = true ∧
      causeOf access (.store (some 0x1122334455667788)) 0x100000040 8 = some .pageFault) ∧
    (ok (.ldbAcq 3 8 0 0) [8, 0] [3] access = true ∧ causeOf access .load 0x100000040 1 = some .pageFault) ∧
    (ok (.stdRel 3 6 0 0) [3, 6, 0] [] access = true ∧
      causeOf access (.store (some 0x1122334455667788)) 0x2001 8 = some .align) := by decide +kernel

theorem test_align_trap : (go (.ldd 3 6 0 0) access).me.xval = 0x2001 ∧ (go (.ldd 3 6 0 0) access).me.xcause =
    0x8000000000000006 := by decide +kernel

/-- k1 names lanes 0 and 2. -/
def masked : State := machine { strand [(4, own), (5, 8)] with k := Strand.reset.k.set 1 5 }

theorem witness_VectorAccessesMoveTheirActiveLanes :
    ok (.vld 1 4 0 0 1 0) [4, 0] [] masked = true ∧ ok (.vst 1 4 0 0 1 0) [4, 0] [] masked = true ∧
    ok (.vlds 1 4 5 0 1 0) [4, 5] [] masked = true ∧ ok (.vsts 1 4 5 0 1 0) [4, 5] [] masked = true ∧
    ok (.vgath 1 4 2 0 1 0) [4] [] masked = true ∧ ok (.vscat 1 4 2 0 1 0) [4] [] masked = true ∧
    ok (.pref 4 5 0) [4, 5] [] masked = true ∧
    firstB masked = true ∧
    (∀ j ∈ [0, 2], placeOf masked .load (own + BitVec.ofNat 64 (j * 4)) 4 = some (lsAddr 0 (0x100 + j * 4))) ∧
    (∀ j ∈ [0, 2], placeOf masked (.store none) (own + BitVec.ofNat 64 (j * 4)) 4 = some (lsAddr 0 (0x100 + j * 4))) ∧
    (let s := masked.modCore 0 fun k => { k with sb := List.replicate 31 ⟨9, .plain, 0, .here 0, 1, 0, 0, 0, 0, none, []⟩ }
     firstB s = true ∧ (s.core 0).sb.length ≤ 32 ∧
     32 < (s.core 0).sb.length + (activeLanes (s.me.mask 1) (512 / laneWidth 0)).length) := by
  decide +kernel

/-- Lanes 0 and 2 at an address of HBM, which waits, and at one of module 3, of which it asks. -/
def maskedAt (va : Word) : State :=
  { paged { strand [(4, va)] with k := Strand.reset.k.set 1 5 } with peers := [3] }

/-- The places of another module that a load's lanes have. -/
def farAt (s : State) (va : Word) (n : Nat) : Option (Nat × Nat) :=
  match checkAccess s s.cur.1 s.me.rights .load va n with
  | .ok p =>
    match p.loc with
    | .there m a => some (m, a)
    | .here _ => none
  | .error _ => none

theorem witness_VectorLoadsWait :
    (let s := maskedAt hbm
     ok (.vld 1 4 0 0 1 0) [4, 0] [] s = true ∧ activeLanes (s.me.mask 1) (512 / laneWidth 0) = [0, 2] ∧ (s.core 0).sb = [] ∧
     (s.core 0).avgQ = [] ∧ ∀ j ∈ [0, 2], placeOf s .load (hbm + BitVec.ofNat 64 (j * 4)) 4 = some (0x2000 + j * 4) ∧
       poisoned s (0x2000 + j * 4) 4 = false ∧ inLocal 0 (.here (0x2000 + j * 4)) = false) ∧
    (let s := maskedAt 0x1800000002000
     ok (.vld 1 4 0 0 1 0) [4, 0] [] s = true ∧ (s.core 0).sb = [] ∧ freeTag s 0 = some 0 ∧
     ∀ j ∈ [0, 2], farAt s (0x1800000002000 + BitVec.ofNat 64 (j * 4)) 4 = some (3, 0x2000 + j * 4)) ∧
    (let s := waits (.load [⟨0, hbm, .here 0x2000, 4, false, none, 0, 0⟩, ⟨2, hbm + 8, .here 0x2008, 4, false, none, 0, 0⟩]
       (.vec 1 0) none) access
     (s.waiting 0 0).isSome = true ∧ inLocal 0 (.here 0x2000) = false ∧ poisoned s 0x2000 4 = false ∧
     poisoned s 0x2008 4 = false ∧ (s.core 0).sb = [] ∧ (s.core 0).avgQ = []) := by decide +kernel

theorem test_far_lanes :
    let t := go (.vld 1 4 0 0 1 0) (maskedAt 0x1800000002000)
    (t.waiting 0 0).isSome = true ∧ t.outbox.length = 1 := by decide +kernel
theorem test_vld_masked :
    let t := go (.vld 1 4 0 0 1 0) { masked with mem := [(lsAddr 0 0x100, 7), (lsAddr 0 0x104, 8), (lsAddr 0 0x108, 9)] }
    lane (t.me.vec 1) 32 0 = 7 ∧ lane (t.me.vec 1) 32 1 = 0 ∧ lane (t.me.vec 1) 32 2 = 9 ∧ t.me.viu = true := by decide +kernel
theorem test_vst_lanes : ((go (.vst 1 4 0 0 1 0) masked).core 0).sb.map SbEntry.va = [own, own + 8] := by decide +kernel

/-! ## Atomics -/

/-- An AMO.ADD.W at 0x2000 is queued. -/
def amoQueued : State :=
  { waits (.amo ⟨0, 4, false, 3, hbm, .here 0x2000, 5, 0⟩ true 0) access with amoQ := [(0, 0, 0x80)], mem := [(0x2000, 0xFF)] }

theorem witness_AtomicsQueueAndComputeTheirTable :
    (ok (.amoAdd 3 5 4 0 0 0) [5, 4] [3] access = true ∧ ok (.amoCas 3 5 4 1 1 0) [5, 4] [3] access = true ∧
      access.me.isClipped 3 = false ∧ isOwn access (access.me.get 5) = true ∧ placeOf access .atomic hbm 4 = some 0x2000 ∧
      placeOf access .atomic hbm 8 = some 0x2000 ∧ quiet access 0 1 = true ∧ quiet full 0 1 = true ∧ quiet full 0 9 = false) ∧
    (amoQueued.waiting 0 0 = some (.amo ⟨0, 4, false, 3, hbm, .here 0x2000, 5, 0⟩ true 0) ∧
      (amoQueued.amoQ.find? fun x => x.2.2 == 0x2000 / 64) = some (0, 0, 0x2000 / 64) ∧ poisoned amoQueued 0x2000 4 = false ∧
      amoQueued.mem.wf = true ∧ ringWordAt 0x2000 = none ∧ amoQueued.held = []) := by decide +kernel

theorem test_amo_add : (go (.amoPerform 0 0) amoQueued).read 0x2000 4 = 0x104 ∧ (go (.amoPerform 0 0) amoQueued).me.get 3 = 0xFF := by
  decide +kernel

/-- An ordered ADD of 5 to the cell at 0x2000, whose VALUE is 7 and NEXT is 1, in a phase. -/
def ordered (key : Nat) (ph : OrdPhase) : State :=
  { waits (.ord ⟨0, 3, hbm, 0x2000, key, 5, 0, 0, ph⟩) access with mem := [(0x2000, 7), (0x2008, 1)] }

theorem witness_OrderedAtomicsApplyInKeyOrder :
    (ok (.amoOrdAdd 3 5 4 0) [5, 4, 3] [] access = true ∧ placeOf access .ord hbm 16 = none ∧
      placeOf { access with mem := [(0, 0x1F), (1, 1)] } .ord hbm 16 = some 0x2000) ∧
    ((ordered 1 .travelling).mem.wf = true ∧ cellMode (ordered 1 .travelling) 0x2000 = 0 ∧
      cellNext (ordered 1 .travelling) 0x2000 = 1 ∧ (2 + 2 ^ 32 - 1) % 2 ^ 32 < 2 ^ 31 ∧ 2 ^ 31 ≤ (0 + 2 ^ 32 - 1) % 2 ^ 32 ∧
      (2 ^ 31 + 2 ^ 32 - 1) % 2 ^ 32 < 2 ^ 31 + 1) ∧
    checked (ordered 1 (.applied 7)) 0 0 = false ∧ (ordered 1 .nacked).waiting 0 0 ≠ none ∧
    (({ ordered 2 .held with cyc := 2 ^ 26 }.modSlot 0 0 fun x => { x with lastIssue := some 0 }).slot 0 0).lastIssue =
      some (2 ^ 26 - 2 ^ 26) := by decide +kernel

theorem test_ord_apply : (go (.ordEntryArrival 0 0) (ordered 1 .travelling)).read 0x2000 8 = 12 ∧
    (go (.ordEntryArrival 0 0) (ordered 1 .travelling)).read 0x2008 4 = 2 := by decide +kernel
theorem test_ord_ahead_is_held : (go (.ordEntryArrival 0 0) (ordered 2 .travelling)).held.length = 1 := by decide +kernel

/-! ## Reductions, monitors, fences, multiple transfers -/

/-- g4 holds 0x10000, where a reduction cell stands, on an ORD page; g3 is 1.0 as F32. -/
def redCell : State := { paged (strand [(3, 0x3F800000), (4, 0x10000)]) with mem := [(0, 0x1F), (1, 1), (0x1000C, 1)] }

theorem witness_FredAddsToItsSlot :
    (ok (.fred 3 4 0) [3, 4] [] redCell = true ∧ isOwn redCell 0x10000 = true ∧ placeOf redCell .fred 0x10000 16 = some 0x10000) ∧
    (let s := waits (.fred 0x10000 0x10000 0x3F800000) redCell
     s.waiting 0 0 = some (.fred 0x10000 0x10000 0x3F800000) ∧ drained s 0 1 = true ∧ isRedCell s 0x10000 = true ∧
     s.mem.wf = true ∧ ringWordAt 0x10040 = none ∧ s.held = [] ∧ againAt s .fred 0x10000 16 = some (0x10000, true, none) ∧
     ∀ m < 9, m ≠ 0 → s.waiting 0 m = none) := by decide +kernel

theorem test_fred_sum :
    (go (.fredUpdate 0 0) (waits (.fred 0x10000 0x10000 0x3F800000) { redCell with mem := [(0, 0x1F), (1, 1), (0x1000C, 1), (0x10043, 0x40)] })).read
      0x10040 4 = 0x40400000 := by decide +kernel

/-- Four lines are armed, of which the line of hbm is none, and the latch is clear. -/
def armed : State := paged { strand [(4, own), (5, hbm), (6, 100)] with mon := [1, 2, 3, 4] }

/-- The place of this module at which an access of the strand in slot 0 of core 0 passes its checks once more. -/
def againPlace (s : State) (k : Acc) (va : Word) : Option Nat :=
  match checkAgain s 0 0 k va 1 with
  | .ok q =>
    match q.loc with
    | .here a => some a
    | .there _ _ => none
  | .error _ => none

theorem witness_MonitorsArmLatchAndWait :
    (ok (.mon 5 0) [5] [] access = true ∧ placeOf access .load hbm 1 = some 0x2000 ∧ isOwn access hbm = true ∧
      (0x2000 / 64) ∉ access.me.mon ∧ access.me.mon.length < 4 ∧ (0x2000 / 64) ∉ armed.me.mon ∧ 4 ≤ armed.me.mon.length ∧
      (armed.core 0).tvec ≠ 0) ∧
    (0x2000 / 64) ∈ (paged { strand [(5, hbm)] with mon := [0x80] }).me.mon ∧
    (let s := waits (.mon hbm) access
     s.waiting 0 0 = some (.mon hbm) ∧ againPlace s .load hbm = some 0x2000 ∧ 0x2000 / 64 ∉ (s.strand 0 0).mon) ∧ ok (.munm 0) [] [] access = true ∧
    (ok (.mwait 3 6 0) [6] [3] armed = true ∧ armed.me.latch = false ∧ (paged { strand [] with latch := true }).me.latch = true) ∧
    (let s := { armed.modSlot 0 8 fun x => { x with state := .ready, strand := armed.me } with cur := (0, 8) }
     ok (.mwait 3 6 0) [6] [3] s = true ∧ s.cur.2 = 8 ∧ (s.core 0).tvec ≠ 0) ∧
    (let s := { waits (.mwait 3 (some 50) false false) armed with cyc := 50 }
     s.waiting 0 0 = some (.mwait 3 (some 50) false false) ∧ 50 ≤ s.cyc ∧ (s.strand 0 0).latch = false) ∧
    (0 ∈ armed.cores.map Prod.fst ∧ (armed.cores.map Prod.fst).Nodup) := by decide +kernel

theorem test_write_latches :
    let s := { paged { strand [] with mon := [0x80] } with amoQ := [] }
    ((writeRaw 0x2038 [1, 2] s).strand 0 0).latch = true ∧ ((writeRaw 0x2040 [1, 2] s).strand 0 0).latch = false := by
  decide +kernel
theorem test_mwait_limit : (go (.mwait 3 6 0) armed).waiting 0 0 = some (.mwait 3 (some 100) false false) := by decide +kernel

theorem witness_FencesWaitForEarlierAccesses :
    (∀ i ∈ [Instr.fenceAcq 2 0, .fenceRel 0 0, .fenceRel 1 0, .fenceFull 3 0], runsB i access = true) ∧
    quiet access 0 1 = true ∧ enginesDone access 1 = true ∧
    quiet (buffered ⟨1, .plain, hbm, .here 0x2000, 4, 0, 0, 0, 0x1000, none, []⟩) 0 1 = false ∧
    (∀ e ∈ (access.core 0).sb, e.binds 1 = true → ∃ a, e.loc = .here a) ∧ access.pending = [] := by
  refine ⟨by decide +kernel, by decide +kernel, by decide +kernel, by decide +kernel, ?_, by decide +kernel⟩
  intro e he
  rw [show (access.core 0).sb = [] by decide +kernel] at he
  exact absurd he (by simp)

/-- A release at CORE scope leaves a store to another module before every later operation of a strand of the core. -/
theorem test_release_to_core :
    let s := buffered ⟨1, .plain, 0x1800000002000, .there 3 0x2000, 4, 0, 0, 0, 0x1000, none, []⟩
    (match exec (.fenceRel 0 0) s with
      | .next t => (t.core 0).sb.map SbEntry.readers
      | .fault _ => []
      | .refused _ => []) = [[0]] := by decide +kernel

/-- LDM and STM of g1 to g3 from g4; entry 2 of the list lies at the end of the local store. -/
def several (at_ : Word) : State := paged (strand [(1, 11), (2, 22), (3, 33), (4, at_)])

theorem witness_MultipleTransfersKeepTheirProgress :
    (let s := several own
     runsB (.ldm 1 4 3 0) s = true ∧ runsB (.stm 1 4 3 0) s = true ∧ s.me.isEmpty 4 = false ∧ s.me.isClipped 4 = false ∧
     max 1 s.me.ridx.toNat = 1 ∧ firstB s = true ∧ (∀ j ∈ [1, 2, 3], s.me.isEmpty (BitVec.ofNat 4 j) = false ∧
       s.me.isClipped (BitVec.ofNat 4 j) = false ∧ placeOf s .load (own + BitVec.ofNat 64 (8 * (j - 1))) 8 =
         some (lsAddr 0 (0x100 + 8 * (j - 1))) ∧ poisoned s (lsAddr 0 (0x100 + 8 * (j - 1))) 8 = false ∧
       stays s (own + BitVec.ofNat 64 (8 * (j - 1))) = true ∧ inLocal 0 (.here (lsAddr 0 (0x100 + 8 * (j - 1)))) = true ∧
       placeOf s (.store (some (11 * j))) (own + BitVec.ofNat 64 (8 * (j - 1))) 8 = some (lsAddr 0 (0x100 + 8 * (j - 1))))) ∧
    (let s := several 0xFFFFFFF8
     causeOf s .load 0x100000000 8 = some .pageFault ∧ causeOf s (.store (some 22)) 0x100000000 8 = some .pageFault ∧
     runsB (.stm 1 4 3 0) s = true ∧ placeOf s (.store (some 11)) 0xFFFFFFF8 8 = some 0xFFFFFFF8) ∧
    (let s := several hbm
     runsB (.ldm 1 4 3 0) s = true ∧ (s.core 0).sb = [] ∧ (s.core 0).avgQ = [] ∧ ∀ j ∈ [1, 2, 3],
       placeOf s .load (hbm + BitVec.ofNat 64 (8 * (j - 1))) 8 = some (0x2000 + 8 * (j - 1)) ∧
       stays s (hbm + BitVec.ofNat 64 (8 * (j - 1))) = true ∧ poisoned s (0x2000 + 8 * (j - 1)) 8 = false ∧
       inLocal 0 (.here (0x2000 + 8 * (j - 1))) = false) := by decide +kernel

theorem test_stm_stops : (go (.stm 1 4 3 0) (several 0xFFFFFFF8)).me.ridx = 2 ∧
    ((go (.stm 1 4 3 0) (several 0xFFFFFFF8)).core 0).sb.length = 1 := by decide +kernel
theorem test_ldm : (go (.ldm 1 4 3 0) { several own with mem := [(lsAddr 0 0x108, 7)] }).me.get 2 = 7 ∧
    (go (.ldm 1 4 3 0) { several own with mem := [(lsAddr 0 0x108, 7)] }).me.get 1 = 0 := by decide +kernel

/-! ## Tasks -/

/-- A record, and a machine whose frame counter is the doubleword at own. -/
def task : TaskRec := ⟨0x5000, ⟨#[1, 2, 3, 4, 5, 6], rfl⟩, own⟩
def tasks (g15 : Word) (d : List DequeEntry) : State :=
  { (machine (strand [(1, 0x77), (4, own), (15, g15)])).modCore 0 fun k => { k with deque := d } with
    mem := [(lsAddr 0 0x100, 1)] }

/-- The deque is at SPLIM, and g14 names the own local store. -/
def inlining : State := ((tasks 0 []).modMe fun x => x.put 14 (own + 0x138)).modCore 0 fun k => { k with splim := 0 }

/-- A continuation stands inline below g14, with the PC 0x5000. -/
def inlined : State :=
  { (tasks 1 []).modMe fun x => x.put 14 (own + 0xF8) with mem := [(lsAddr 0 0x201, 0x50), (lsAddr 0 0x238, 9)] }

theorem witness_SpawnLeavesItsContinuation :
    (let s := tasks 0 []
     ok (.spawn 4 8 0) (4 :: regGroup 1 6) [14, 15] s = true ∧ s.cur.2 < 8 ∧
     placeOf s .frame own 8 = some (lsAddr 0 0x100) ∧ quiet s 0 1 = true ∧ (s.core 0).deque.length < (s.core 0).splim.toNat ∧
     (s.core 0).deque.length < 32 ∧ poisoned s (lsAddr 0 0x100) 8 = false ∧ s.amoQ = [] ∧ s.mem.wf = true ∧
     ringWordAt (lsAddr 0 0x100) = none ∧ s.held = []) ∧
    (let s := (tasks 0 []).modCore 0 fun k => { k with sb := [⟨1, .plain, 0, .here 0, 1, 0, 0, 0, 0, none, []⟩] }
     ok (.spawn 4 8 0) (4 :: regGroup 1 6) [14, 15] s = true ∧ placeOf s .frame own 8 = some (lsAddr 0 0x100) ∧
     quiet s 0 1 = false) ∧
    (let s := inlining
     ok (.spawn 4 8 0) (4 :: regGroup 1 6) [14, 15] s = true ∧ placeOf s .frame own 8 = some (lsAddr 0 0x100) ∧
     quiet s 0 1 = true ∧ (s.core 0).splim.toNat ≤ (s.core 0).deque.length ∧ s.me.isClipped 14 = false ∧
     poisoned s (lsAddr 0 0x100) 8 = false ∧ s.amoQ = [] ∧ s.mem.wf = true ∧ s.held = [] ∧ firstB s = true ∧
     (s.core 0).sb.length ≤ 24 ∧
     ∀ j < 8, placeOf s (.store none) (s.me.get 14 - 56 + BitVec.ofNat 64 (8 * j)) 8 = some (lsAddr 0 (0x200 + 8 * j)) ∧
       (rangeOf (localPart (s.me.get 14 - 56 + BitVec.ofNat 64 (8 * j)))).any Range.isLocal = true) := by decide +kernel

theorem test_spawn_inline : let t := go (.spawn 4 8 0) inlining
    t.me.get 14 = own + 0x138 - 64 ∧ t.me.get 15 = 1 ∧ t.me.spl = true ∧ (t.core 0).sb.length = 8 := by decide +kernel

theorem test_spawn : (go (.spawn 4 8 0) (tasks 0 [])).me.pc = 0x1020 ∧
    ((go (.spawn 4 8 0) (tasks 0 [])).core 0).deque.map (fun e => (e.task.pc, e.task.g[0], e.task.frame)) =
      [(0x1004, 0x77, own)] := by decide +kernel

theorem witness_TendTakesATaskOrIdles :
    (let s := (machine (strand [])).modSlot 0 8 fun x => { x with state := .ready }
     runsB (.tend 0 0) { s with cur := (0, 8) } = true) ∧
    (let s := tasks 0 [⟨task, none⟩]
     ok (.tend 4 0) [4, 15] (regGroup 1 7 ++ [14]) s = true ∧ ok (.tend 0 0) [0, 15] (regGroup 1 7 ++ [14]) s = true ∧
     s.cur.2 < 8 ∧ s.me.get 15 ≠ 1 ∧ (s.core 0).deque = [] ++ [⟨task, none⟩] ∧
     placeOf s .frame own 8 = some (lsAddr 0 0x100) ∧ quiet s 0 1 = true ∧ poisoned s (lsAddr 0 0x100) 8 = false ∧
     s.amoQ = [] ∧ s.mem.wf = true ∧ ringWordAt (lsAddr 0 0x100) = none ∧ s.held = []) ∧
    (let s := tasks 0 [⟨task, some (5, 0)⟩]
     (∀ e ∈ (s.core 0).deque, e.lent.isSome = true) ∧ s.me.lease = none ∧ runsB (.tend 0 0) s = true) ∧
    (let s := inlined
     ok (.tend 0 0) [0, 15] (regGroup 1 7 ++ [14]) s = true ∧ s.me.get 15 = 1 ∧ s.me.isClipped 14 = false ∧
     bytesHeld s 0 (lsAddr 0 0x200) 8 % 4 = 0 ∧ (s.core 0).avgQ = [] ∧
     ∀ j < 8, placeOf s .load (s.me.get 14 + 8 + BitVec.ofNat 64 (8 * j)) 8 = some (lsAddr 0 (0x200 + 8 * j)) ∧
       poisoned s (lsAddr 0 (0x200 + 8 * j)) 8 = false ∧ inLocal 0 (.here (lsAddr 0 (0x200 + 8 * j))) = true) := by
  decide +kernel

theorem test_tend_inline : (go (.tend 0 0) inlined).me.pc = 0x5000 ∧ (go (.tend 0 0) inlined).me.get 7 = 9 := by decide +kernel

theorem test_tend : (go (.tend 4 0) (tasks 0 [⟨task, none⟩])).me.pc = 0x5000 ∧
    (go (.tend 4 0) (tasks 0 [⟨task, none⟩])).read (lsAddr 0 0x100) 8 = 0 := by decide +kernel
theorem test_tend_idle : (go (.tend 0 0) (tasks 0 [])).waiting 0 0 = some .idle := by decide +kernel

theorem witness_JoinWaitsForZero :
    (let s := tasks 0 []
     ok (.join 4 0) [4] [] s = true ∧ s.cur.2 < 8 ∧ placeOf s .frame own 8 = some (lsAddr 0 0x100) ∧ (s.core 0).avgQ = [] ∧
     poisoned s (lsAddr 0 0x100) 8 = false ∧ inLocal 0 (.here (lsAddr 0 0x100)) = true ∧
     loadTag s s.me.uid = none ∧ bytesHeld s 0 (lsAddr 0 0x100) 8 ≠ 0 ∧ bytesHeld { s with mem := [] } 0 (lsAddr 0 0x100) 8 = 0) ∧
    (let s := { (machine (strand [])).modSlot 0 8 fun x => { x with strand := strand [(4, own)] } with cur := (0, 8) }
     ok (.join 4 0) [4] [] s = true ∧ loadTag s s.me.uid = none ∧ (s.core 0).tvec ≠ 0) := by decide +kernel

theorem test_join : (go (.join 4 0) { tasks 0 [] with mem := [] }).me.pc = 0x1004 ∧
    ((go (.join 4 0) (tasks 0 [])).waiting 0 0).isSome = true := by decide +kernel

/-- One message of this module is on its way; core 0 is the thief and core 1 the victim. -/
def stealing (m : Msg) (d : List DequeEntry) (s : State) : State :=
  { s.modCore 1 fun k => { k with deque := d } with flight := [m] }

/-- The same with the record that the thief has been sent, and its idle strand. -/
def stolen : State := (stealing (.stealConfirm 0 1) [] (waits .idle access)).modCore 0 fun k => { k with stolen := some task }

theorem witness_StealsMoveOneTask :
    (let s := stealing (.stealRequest 0 1) [⟨task, some (7, 0)⟩, ⟨task, none⟩] access
     s.flight[0]? = some (.stealRequest 0 1) ∧ (s.core 1).det = false ∧ (s.core 1).preempted = [] ∧
     (s.core 1).deque = [⟨task, some (7, 0)⟩] ++ ⟨task, none⟩ :: []) ∧
    (let s := stealing (.stealRecord 0 1 7 task) [] (waits .idle access)
     s.flight[0]? = some (.stealRecord 0 1 7 task) ∧ (firstIdle s 0).isSome = true ∧ (s.core 0).preempted = [] ∧
     firstIdle access 0 = none) ∧
    (let s := (stealing (.stealReject 0 1 7) [⟨task, some (7, 0)⟩] access).modCore 0 fun k => { k with preempted := [3] }
     s.flight[0]? = some (.stealReject 0 1 7) ∧ firstIdle s 0 = none ∧ (s.core 0).preempted ≠ []) ∧
    (let s := stealing (.stealAck 0 1 7) [⟨task, some (7, 0)⟩] access
     s.flight[0]? = some (.stealAck 0 1 7) ∧ (s.core 1).deque = [] ++ ⟨task, some (7, 0)⟩ :: []) ∧
    (stolen.flight[0]? = some (.stealConfirm 0 1) ∧ (stolen.core 0).stolen = some task ∧ task.pc &&& 3 = 0 ∧
      firstIdle stolen 0 = some 0) ∧
    (let s := { stealing (.stealEmpty 0 1) [⟨task, some (7, 0)⟩] access with cyc := 4096 }
     s.flight[0]? = some (.stealEmpty 0 1) ∧ ⟨task, some (7, 0)⟩ ∈ (s.core 1).deque ∧ 0 + 4096 ≤ s.cyc) ∧
    (stealing (.stealVoid 0 1) [] access).flight[0]? = some (.stealVoid 0 1) := by decide +kernel

theorem test_steal_lends :
    let t := go (.stealRequest 0) (stealing (.stealRequest 0 1) [⟨task, some (7, 0)⟩, ⟨{ task with pc := 4 }, none⟩] access)
    t.flight = [.stealRecord 0 1 1 { task with pc := 4 }] := by decide +kernel
theorem test_steal_reject :
    ((go (.stealVoid 0) (stealing (.stealReject 0 1 7) [⟨task, some (7, 0)⟩] access)).core 1).deque = [⟨task, none⟩] := by
  decide +kernel
theorem test_steal_confirm : (go (.stealConfirm 0) stolen).me.pc = 0x5000 := by
  decide +kernel

/-! ## Messages -/

/-- g4 names core 0 of the own module, with reply register g7; g5 is a handler's address; g6 an unaligned limit. -/
def messages : State := machine (strand [(1, 11), (2, 22), (4, 0x7FFFC00000000000), (5, 0x6000), (6, 9),
  (8, 0x7FFFC00700000000), (9, 0x7FFFC00000003000), (10, 0x8000000000000000), (11, 0xC00000000000),
  (12, 0xFFFFC00000000000), (13, 0x8000001000000000)])

/-- The entry of a send of core 0 to itself. -/
def sending (svc : Bool) (held : Option Nat) : SendOp :=
  ⟨svc, 0x7FFFC00000000000, ⟨#[11, 0, 0, 0], rfl⟩, 0x6000, 0, 0, none, true, 0, held⟩

/-- A send waits, and the receive queue holds n entries. -/
def queued (svc : Bool) (held : Option Nat) (n : Nat) : State :=
  (waits (.send (sending svc held) 0) messages).modCore 0 fun k =>
    { k with recvQ := List.replicate n ⟨#[5, 6, 7, 8], rfl⟩ }

theorem waiting_none {s : State} {c : Nat} (h : ∀ m < 9, s.waiting c m = none) (m : Nat) : s.waiting c m = none := by
  by_cases hm : m < 9
  · exact h m hm
  · simp [State.waiting, State.slot, Core.slot, hm, Slot.reset]

theorem witness_MessagesReachTheirQueues :
    (ok (.send 1 4 1 0) (4 :: regGroup 1 2) [] messages = true ∧ destTok (messages.me.get 4) = false ∧
      destStop messages false (messages.me.get 4) = none ∧ destModule messages (messages.me.get 4) = messages.modId ∧
      (destStop messages false (messages.me.get 9)).isSome = true ∧ destTok (messages.me.get 10) = true ∧
      destModule messages (messages.me.get 12) = messages.modId ∧ (messages.me.get 12 >>> 36) &&& 0x3FF = 0 ∧
      destTok (messages.me.get 12) = true ∧ (messages.me.get 13 >>> 36) &&& 0x3FF ≠ 0 ∧
      ok (.send 1 12 0 0) [12, 1] [] messages = true) ∧
    (let s := { messages with peers := [3] }
     ok (.send 1 11 1 0) (11 :: regGroup 1 2) [] s = true ∧ destTok (s.me.get 11) = false ∧
     destStop s false (s.me.get 11) = none ∧ destModule s (s.me.get 11) = 3 ∧ (3 : Nat) ≠ s.modId ∧ quiet s 0 1 = true ∧ freeTag s 0 = some 0) ∧
    ((queued false none 0).waiting 0 0 = some (.send (sending false none) 0) ∧ quiet (queued false none 0) 0 1 = true ∧
      nobodyHeld (queued false none 0) false 0 = true ∧ queueRoom (queued false none 16) false 0 = false ∧ queueRoom (queued false none 0) false 0 = true ∧ queueRoom (queued false (some 3) 2) false 0 = true ∧
      firstHeld (queued false (some 3) 2) false 0 3 = true) ∧
    (let s := { (queued false (some 3) 16).modSlot 0 0 fun x => { x with lastIssue := some 0 } with cyc := 2 ^ 26 }
     (s.slot 0 0).lastIssue = some (s.cyc - 2 ^ 26) ∧ 2 ^ 26 ≤ s.cyc ∧ (s.core 0).tvec ≠ 0) ∧
    (ok (.recv 1 6 3 0) [6] (regGroup 1 4) messages = true ∧ messages.cur.2 < 8 ∧ (messages.me.get 6).toNat % 2 ^ 32 ≠ 0 ∧
      ok (.recv 1 0 3 0) [0] (regGroup 1 4) messages = true ∧ (messages.core 0).recvQ = []) ∧
    (let s := { waits (.recv 1 2 20) messages with cyc := 20 }
     s.waiting 0 0 = some (.recv 1 2 20) ∧ 20 ≤ s.cyc ∧ (s.core 0).recvQ = [] ∧ (s.core 0).tvec ≠ 0) ∧
    (ok (.sendSvc 1 8 5 1 0) (8 :: 5 :: regGroup 1 2) [] messages = true ∧
      destStop messages true (messages.me.get 8) = none ∧ messages.me.get 5 &&& 3 = 0 ∧
      destModule messages (messages.me.get 8) = messages.modId ∧ messages.me.isEmpty (destRreg (messages.me.get 8)) = false) ∧
    ((queued true none 0).waiting 0 0 = some (.send (sending true none) 0) ∧ queueRoom (queued true none 0) true 0 = true ∧
      nobodyHeld (queued true none 0) true 0 = true ∧ quiet (queued true none 0) 0 1 = true) ∧
    (let s := messages.modCore 0 fun k => { k with svcQ := [.message ⟨#[1, 2, 3, 4], rfl⟩ 0x6000 0 0 true none 0] }
     (s.slot 0 8).state = .empty ∧ (s.core 0).gating = .ungated ∧
     (s.core 0).svcQ = .message ⟨#[1, 2, 3, 4], rfl⟩ 0x6000 0 0 true none 0 :: []) := by decide +kernel

theorem witness_no_recv (m : Nat) (d : BitVec 4) (k l : Nat) : messages.waiting 0 m ≠ some (.recv d k l) := by
  rw [waiting_none (by decide +kernel)]; simp

theorem test_recv : (go (.recv 1 6 1 0) (messages.modCore 0 fun k => { k with recvQ := [⟨#[5, 6, 7, 8], rfl⟩] })).me.get 2 = 6 := by
  decide +kernel
theorem test_far_send : (go (.send 1 11 1 0) { messages with peers := [3] }).outbox =
    [(3, .recvEntry 0 0 (tagOf 0 0 1) ⟨#[11, 22, 0, 0], rfl⟩)] := by decide +kernel
/-- The cause with which an access of a supervisor strand to the first descriptor word of module 3 fails, and where it goes. -/
def farDescriptor (k : Acc) : Option Cause × Option Loc :=
  match checkAccess { messages with peers := [3] } 0 ⟨true, none⟩ k (BitVec.ofNat 64 (3 * 2 ^ 47 + csBase + 0xEFF00)) 8 with
  | .ok q => (none, some q.loc)
  | .error st => (some st.cause, none)

theorem test_far_descriptor_refused : farDescriptor (.store none) = (some .regionClass, none) ∧
    farDescriptor (.store (some 0)) = (none, some (.there 3 (csBase + 0xEFF00))) := by decide +kernel
theorem test_recv_limit_zero : (go (.recv 1 0 1 0) messages).me.xcause = 0x8000000000000010 := by decide +kernel

/-- A store and a load of another module stand at the head of the service queue of core 0. -/
def served (k : AccessKind) : State :=
  { access.modCore 0 fun x => { x with svcQ := [SvcEntry.access 3 9 ⟨0x2000, 8, k, 0, 11⟩] } with peers := [3] }

/-- The place of an access by the service slot of core 0. -/
def servedAt (s : State) (k : Acc) : Option Loc :=
  match checkWith s (s.cluster 0).tlb 0 ⟨true, none⟩ k 0x2000 with
  | .ok q => if q.mig.isNone then some q.loc else none
  | .error _ => none

/-- An entry of a send of module 3 has a place in the receive queue of core 0, and its confirmation is on its way. -/
def claim : Msg := .recvEntry 0 3 5 ⟨#[1, 2, 3, 4], rfl⟩
def claimed : State := { access.modCore 0 fun k => { k with claims := [claim] } with flight := [.sendConfirm 0 3 5] }

theorem witness_RemoteAccessesAreServed :
    (let s := { access with flight := [Msg.access 0 3 9 ⟨0x2000, 8, .store 7, 0, 11⟩, .recvEntry 0 3 5 ⟨#[1, 2, 3, 4], rfl⟩] }
     s.msg 0 = some (Msg.access 0 3 9 ⟨0x2000, 8, .store 7, 0, 11⟩) ∧ queueRoom s true 0 = true ∧
     s.msg 1 = some (.recvEntry 0 3 5 ⟨#[1, 2, 3, 4], rfl⟩) ∧ queueRoom s false 0 = true ∧ nobodyHeld s false 0 = true ∧
     nobodyHeld s true 0 = true ∧ s.farHeld = [] ∧ accessOpen s 0 3 11 = false ∧
     wasPerformed s 3 (sendNo 5) = false) ∧
    (claimed.msg 0 = some (.sendConfirm 0 3 5) ∧ (claimed.core 0).claims.find? (isEntryOf 3 5) = some claim) ∧
    (let s := { served (.store 7) with performed := [(3, accessNo 9, 0)] }
     wasPerformed s 3 (accessNo 9) = true ∧ (s.core 0).svcQ = SvcEntry.access 3 9 ⟨0x2000, 8, .store 7, 0, 11⟩ :: []) ∧
    (let s := served (.store 7)
     (s.slot 0 8).state = .empty ∧ (s.core 0).gating = .ungated ∧
     (s.core 0).svcQ = SvcEntry.access 3 9 ⟨0x2000, 8, .store 7, 0, 11⟩ :: [] ∧ (3 : Nat) ≠ s.modId ∧
     servedAt s (.store (some 7)) = some (.here 0x2000) ∧ wasPerformed s 3 (accessNo 9) = false ∧ (s.core 0).spill = [] ∧ (∀ k < 9, wantsRoom s 0 k = false) ∧
     (s.core 0).sb.length < 32) ∧
    (let s := buffered ⟨0, .plain, hbm, .here 0x2000, 8, 7, 0, 0, 0, some (3, 9, 11), []⟩
     (s.core 0).sb = ⟨0, .plain, hbm, .here 0x2000, 8, 7, 0, 0, 0, some (3, 9, 11), []⟩ :: [] ∧ 0 + 2 ≤ s.cyc ∧ s.mem.wf = true ∧
     ringWordAt 0x2000 = none ∧ s.held = [] ∧ (3 : Nat) ≠ s.modId ∧ walkedPages s (linesOfRange 0x2000 8) = []) ∧
    (let s := served (.load true)
     (s.slot 0 8).state = .empty ∧ (s.core 0).avgQ = [] ∧ (s.core 0).sb = [] ∧ servedAt s .load = some (.here 0x2000) ∧ wasPerformed s 3 (accessNo 9) = false ∧
     inLocal 0 (.here 0x2000) = false ∧ poisoned s 0x2000 8 = false) := by decide +kernel

theorem test_remote_store : let t := go (.storeBufferDrain 0) (buffered ⟨0, .plain, hbm, .here 0x2000, 8, 7, 0, 0, 0, some (3, 9, 11), []⟩)
    t.outbox = [(3, .ack 9 (.ok 0))] ∧ t.read 0x2000 8 = 7 := by decide +kernel
theorem test_remote_load : (go (.remoteAccessPerform 0) { served (.load true) with mem := [(0, 0x1F), (0x2001, 1)] }).outbox =
    [(3, .answer 9 (.ok 0x100))] := by decide +kernel

/-- A request to module 3 under a tag. -/
def asked (tag : Nat) (store : Bool) : Pending :=
  ⟨tag, 1, 3, 0x1800000002000, store, 0, 0x1000, [], ⟨0x2000, 8, if store then .store 7 else .load false, 0, 1⟩⟩

/-- A load of another module waits under tag 5. -/
def remoteLoad : State :=
  { waits (.load [⟨0, 0x1800000002000, .there 3 0x2000, 8, false, none, 5, 0⟩] (.scalar 3 false true) none) access with
    peers := [3], cyc := 2 ^ 22, pending := [asked 5 false] }

theorem witness_FillsAndEndedRequestsReachTheirStrand :
    (let s := { access with flight := [.ack 6 (.ok 0)], pending := [asked 6 true] }
     s.flight[0]? = some (.ack 6 (.ok 0)) ∧ s.pending.find? (fun p => p.tag == 6 && p.store) = some (asked 6 true) ∧ travels s.modId (.ack 6 (.ok 0)) = true ∧
     heldFar s (.ack 6 (.ok 0)) = false ∧
     access.pending.find? (fun p => p.tag == 6 && p.store) = none) ∧
    (remoteLoad.pending.find? (fun p => p.tag == 5) = some (asked 5 false) ∧
      0 + 2 ^ remoteLoad.fto ≤ remoteLoad.cyc ∧ remoteLoad.find 1 = some (0, 0) ∧
      remoteLoad.waiting 0 0 = some (.load [⟨0, 0x1800000002000, .there 3 0x2000, 8, false, none, 5, 0⟩] (.scalar 3 false true) none) ∧
      remoteLoad.flight = [] ∧ (remoteLoad.core 0).sb = [] ∧ (remoteLoad.core 0).tvec ≠ 0) ∧
    (let s := { bare.modCore 0 fun k => { k with lastIssue := some 0 } with flight := [.fill 1 4 9, .fill 1 3 9] }
     fillEarly s 1 = false ∧ s.find 1 = some (0, 0) ∧ s.flight[0]? = some (.fill 1 4 9) ∧ s.me.isEmpty 4 = true ∧ s.flight[1]? = some (.fill 1 3 9) ∧
     s.me.isEmpty 3 = false) := by decide +kernel

theorem test_fill_readies :
    let s := { bare.setState 0 0 (.park [4]) with flight := [.fill 1 4 9], cyc := 20 }
    (go (.registerFill 0) s).me.get 4 = 9 ∧ ((go (.registerFill 0) s).slot 0 0).state ≠ .park [4] := by
  refine ⟨by decide +kernel, ?_⟩
  intro h
  exact SlotState.noConfusion (h.symm.trans (show _ = SlotState.interval _ from rfl))
theorem test_requester_timeout : (go (.requesterTimeout 5) remoteLoad).me.xcause = 0x8000000000000018 := by decide +kernel

/-! ## Migration -/

/-- g4 names core 0 and g5 core 1 of the own module; page 1 is a MIGRATE page whose home is core 1. -/
def moving : State :=
  { paged (strand [(4, 0x7FFFC00000000000), (5, 0x7FFFC00000000001), (6, 0x100000000)]) with
    mem := [(0, 0x1F), (8, 0x5F), (13, 8)] }

/-- The home core of a load. -/
def homeOf (s : State) (va : Word) : Option Nat :=
  match checkAccess s s.cur.1 s.me.rights .load va 8 with
  | .ok p => p.mig
  | .error _ => none

/-- A strand, and its packet for core 1, with a place reserved there. -/
def traveller : Strand := { strand [(9, 7)] with ctxw := 8, mon := [5] }
def carried : Carried := ⟨some 3, none, 0, none, none, none⟩
def arriving : State :=
  { machine (strand []) with
    flight := [.migrate 1 0 1 carried (packetOf 0x1004 traveller)]
  }.modCore 1 fun k => { k with places := [(1, .queue)] }

theorem witness_MigrationMovesTheContext :
    (ok (.mig 4 0) [4] [] moving = true ∧ moving.cur.2 < 8 ∧ (moving.core 0).det = false ∧
      destStop moving false (moving.me.get 4) = none ∧ destCore (moving.me.get 4) = 0 ∧
      destModule moving (moving.me.get 4) = moving.modId ∧ destStop moving false (moving.me.get 5) = none ∧
      destCore (moving.me.get 5) ≠ 0 ∧ departStop moving 0 moving.me (moving.me.get 5) = none ∧
      (machine { strand [(5, 0x7FFFC00000000001)] with viu := true }).me.viu = true) ∧
    (ok (.ldd 3 6 0 0) [6] [3] moving = true ∧ homeOf moving 0x100000000 = some 1 ∧
      departStop moving 0 moving.me 0x100000000 = none) ∧
    (let s := waits (.migrate 1 0 true false false) moving
     s.waiting 0 0 = some (.migrate 1 s.modId true false false) ∧ freeTier s 1 = some .queue) ∧
    (let s := waits (.migrate 1 0 true true true) moving
     s.waiting 0 0 = some (.migrate 1 s.modId true true true) ∧ fullWithin (s.strand 0 0) = true ∧ quiet s 0 1 = true ∧
     (s.strand 0 0).redir = none ∧ (s.strand 0 0).redirX = none ∧ (s.strand 0 0).fault = []) ∧
    (arriving.msg 0 = some (.migrate 1 arriving.modId 1 carried (packetOf 0x1004 traveller)) ∧
      tabFind (arriving.core 1).places 1 = some .queue) ∧
    (traveller.launch < 2 ^ 42 ∧ traveller.idx < 8 ∧ traveller.q < 32 ∧ traveller.p.getLsbD 0 = true ∧
      (traveller.ctxw = 8 ∨ traveller.ctxw = 16) ∧ traveller.idle = false ∧ traveller.mon.length ≤ 4 ∧
      carried.gone = none ∧ (∀ l ∈ traveller.mon, l ≠ 0 ∧ l < 2 ^ 58) ∧ ∀ r < 8, traveller.clip.getLsbD r = false) := by decide +kernel

theorem test_arrival_is_clipped :
    ((go (.migrationArrival 0) arriving).core 1).arr.map (fun e => (e.strand.pc, e.strand.clip, e.strand.latch, e.strand.mon)) =
      [(0x1004, 0xFF00, true, [5])] := by decide +kernel
theorem test_mig_past : (go (.mig 5 0) moving).waiting 0 0 = some (.migrate 1 0 true false false) := by decide +kernel

/-! ## Vectors -/

/-- Lane types: 0 F32, 1 F16, 2 BF16, 3 to 5 the integers of 32, 16 and 8 bits, 6 E4M3, 7 E5M2 (R106). v1 and v2 hold 32-bit lanes; every
floating-point exception is enabled in the second. -/
def lanes (a b : Nat) : State :=
  machine { strand [(4, 7), (5, 2)] with v := ⟨#[0, BitVec.ofNat 512 a, BitVec.ofNat 512 b, 0, 0, 0, 0, 0], rfl⟩ }
def trapping (a b : Nat) : State := (lanes a b).modMe fun x => { x with fpc := 0x700 }

theorem witness_LanewiseInstructionsGiveEachActiveLane :
    (∀ i ∈ [Instr.vadd 3 1 2 0 3 0, .vsub 3 1 2 0 3 0, .vmul 3 1 2 0 3 0, .vfma 3 1 2 0 3 0, .vmin 3 1 2 0 3 0,
      .vmax 3 1 2 0 3 0, .vabs 3 1 0 3 0, .vneg 3 1 0 3 0, .vand 3 1 2 0 3 0, .vor 3 1 2 0 3 0, .vxor 3 1 2 0 3 0,
      .vshl 3 1 2 0 3 0, .vshr 3 1 2 0 3 0, .vperm 3 1 2 0 3 0, .vsel 3 1 2 0 3 0, .vrcp 3 1 0 0 0, .vrsq 3 1 0 0 0,
      .vexp2 3 1 0 0 0, .vlog2 3 1 0 0 0, .vdot 3 1 2 0 2 0], runsB i (lanes 1 2) = true) ∧
    raised (lanes 1 2).me 1 = none ∧ raised (trapping 1 2).me 1 = some 0 ∧ ((trapping 1 2).core 0).tvec ≠ 0 := by
  decide +kernel

theorem test_vadd_wraps : lane ((go (.vadd 3 1 2 0 3 0) (lanes 0xFFFFFFFF 2)).me.vec 3) 32 0 = 1 := by decide +kernel
theorem test_vmul_f32 : lane ((go (.vmul 3 1 2 0 0 0) (lanes 0x40000000 0xC0400000)).me.vec 3) 32 0 = 0xC0C00000 := by
  decide +kernel
theorem test_vrcp_zero : let t := go (.vrcp 3 1 0 0 0) (trapping 0x3F800000 0)
    t.me.xcause = 0x800000000000000D ∧ t.me.xaux = 1 := by decide +kernel
theorem test_vrcp_value : lane ((go (.vrcp 3 1 0 0 0) (lanes 0x40000000 0)).me.vec 3) 32 0 = 0x3F000000 := by decide +kernel

theorem witness_VectorsMoveCompareConvertAndReduce :
    (ok (.vbcast 4 1 3 0) [4] [] (lanes 1 2) = true ∧ ok (.vext 4 5 1 3 0) [5] [4] (lanes 1 2) = true ∧
      ok (.vins 4 5 1 3 0) [4, 5] [] (lanes 1 2) = true) ∧
    runsB (.vcmp 1 1 2 0 3 5 0) (lanes 1 2) = true ∧
    (runsB (.vcvt 3 1 0 3 2 0) (lanes 1 2) = true ∧ ∀ k < 3, (lanes 1 2).me.fpc.getLsbD (8 + k) = false) ∧
    (∀ i ∈ [Instr.vredSum 4 0 1 3 0, .vredMin 4 0 1 3 0, .vredMax 4 0 1 3 0], ok i [] [4] (lanes 1 2) = true) ∧
    runsB (.vscan 3 1 0 3 0) (lanes 1 2) = true := by decide +kernel

theorem test_vext_signed : (go (.vext 4 0 1 3 0) (lanes 0x80000000 0)).me.get 4 = 0xFFFFFFFF80000000 := by decide +kernel
theorem test_vredsum : (go (.vredSum 4 0 1 3 0) (lanes (0xFFFFFFFF + 5 * 2 ^ 32) 0)).me.get 4 = 4 := by decide +kernel
theorem test_vscan : lane ((go (.vscan 3 1 0 3 0) (lanes (7 + 5 * 2 ^ 32) 0)).me.vec 3) 32 1 = 12 := by decide +kernel

/-! ## Matrix engines -/

/-- g4 = 5 selects half 1 of engine 1, g5 = 8 releases, g6 = 9 is no operand; g7 holds a line of the own local store. -/
def free : State := machine (strand [(4, 5), (5, 8), (6, 16), (7, 0xFFFFFFFFFFFF9000)])
def leased : State :=
  (free.modMe fun x => { x with lease := some (1, 1) }).modCluster 0 fun k =>
    { k with leases := [(3, (0, 0))], tiles := [(12, 7)] }

theorem witness_LeasesAndTilesFollowTheirHalf :
    (ok (.mcfg 4 0) [4] [] free = true ∧ free.cur.2 < 8 ∧ (free.me.get 4).toNat < 8 ∧ free.me.lease = none ∧
      tabFind (free.cluster 0).leases 3 = none ∧ tabRising (free.cluster 0).tiles = true ∧
      tabRising (free.cluster 0).leases = true ∧ (free.core 0).tvec ≠ 0 ∧ free.me.get 5 = 8 ∧ 8 < (free.me.get 6).toNat) ∧
    (ok (.mcfg 5 0) [5] [] leased = true ∧ leased.me.lease = some (1, 1) ∧ tabRising (leased.cluster 0).tiles = true ∧
      tabRising (leased.cluster 0).leases = true) ∧
    (let s := { free.modSlot 0 8 fun x => { x with strand := free.me } with cur := (0, 8) }
     ok (.mcfg 4 0) [4] [] s = true ∧ (s.core 0).tvec ≠ 0) ∧
    (∀ i ∈ [Instr.mzero 0 0, .mrd 0 1 4 0, .mwr 0 1 4 0, .msave 0 7 0, .mload 0 7 0], ok i [4, 7] [] leased = true) ∧
    ((leased.me.get 7).toNat % 64 = 0 ∧ (leased.core 0).sb.length ≤ 32 ∧ (leased.core 0).avgQ = [] ∧ leased.poison = []) ∧
    (let s := waits (.storeRoom [] (.msave []) none false) leased
     s.waiting 0 0 = some (.storeRoom [] (.msave []) none false) ∧ quiet s 0 1 = true ∧ s.fatal = false ∧ s.me.fault = [] ∧
     checked s 0 0 = false ∧ firstB leased = true) ∧
    (∀ i ∈ [Instr.mzero 0 0, .msave 0 7 0, .mload 0 7 0], ok i [7] [] free = true) := by decide +kernel

/-- The places of MSAVE and MLOAD: every doubleword lies in the own local store. -/
theorem witness_tile_places : ∀ j < 512,
    placeOf leased (.store (some (lane (tileOf leased 0 0 0) 64 j))) (leased.me.get 7 + BitVec.ofNat 64 (8 * j)) 8 =
      some (lsAddr 0 (0x1000 + 8 * j)) ∧
    placeOf leased .load (leased.me.get 7 + BitVec.ofNat 64 (8 * j)) 8 = some (lsAddr 0 (0x1000 + 8 * j)) := by decide +kernel

theorem test_mcfg_twice : (go (.mcfg 4 0) leased).me.xcause = 0x8000000000000012 ∧ (go (.mcfg 4 0) leased).me.xval = 8 := by
  decide +kernel
theorem test_mrd : lane ((go (.mrd 0 1 0 0) leased).me.vec 1) 32 0 = 7 := by decide +kernel
theorem test_mwr : (go (.mwr 0 1 0 0) leased).me.dirty = 1 := by decide +kernel
theorem test_mload : lane (tileOf (go (.mload 2 7 0) { leased with mem := [(lsAddr 0 0x1FF8, 9)] }) 0 0 2) 64 511 = 9 := by
  decide +kernel

/-- Rings 0 and 1 of cluster 0: two slots of 2,048 bytes, both published. -/
def ringed : State :=
  { leased with mem := (List.range 2).flatMap fun r =>
      [(ringAddr 0 r + 2, 0x20), (ringAddr 0 r + 3, 2), (ringAddr 0 r + 7, 0x80), (ringAddr 0 r + 10, 2)] }

/-- An MMA.II of rings 0 and 1 with tiles of ones, not started or started in cycle 0. -/
def mma (ctl : BitVec 4) (started : Option Nat) : MmaOp :=
  ⟨7, 0, 0, 1, ctl, 0, ⟨0, false, false, false, false, false⟩, 0, started, List.replicate 2048 1, List.replicate 2048 1, true,
    ctl.getLsbD 1⟩

/-- It stands at the head of engine 1 in cycle 32. -/
def engaged (ctl : BitVec 4) (started : Option Nat) (s : State) : State :=
  { (waits (.mma (mma ctl started)) s).modCluster 0 fun k => { k with engines := ⟨#[[], [(0, 0)], [], []], rfl⟩ } with
    cyc := 32 }

theorem witness_MatrixMultipliesTakeTheirRings :
    (∀ i ∈ [Instr.mmaBb 0 0 1 0 0 0, .mmaHh 0 0 1 0 0 0, .mmaQq 0 0 1 0 0 0, .mmaWw 0 0 1 0 0 0, .mmaQw 0 0 1 0 0 0,
      .mmaNn 0 0 1 0 0 0, .mmaLl 0 0 1 0 0 0, .mmaIi 0 0 1 0 0], ok i [0] [] ringed = true) ∧
    ringed.me.lease = some (1, 1) ∧ ringed.cur.2 < 8 ∧ (ringed.core 0).tvec ≠ 0 ∧
    (∀ r ∈ [0, 1], ringOn ringed 0 r = true ∧ pairBytes 7 ≤ ringSlotBytes (ringCfg ringed 0 r) ∧ ringLive ringed 0 r = true ∧
      headReady ringed 0 r = true ∧ poisoned ringed (headAddr ringed 0 r) 2048 = false) ∧
    (let s := engaged 0 none ringed
     ((s.cluster 0).engines[1]? = some [(0, 0)]) ∧ s.waiting 0 0 = some (.mma (mma 0 none)) ∧ s.powerHold = false ∧
     (mma 0 none).judged = true ∧ drained s 0 1 = true) ∧
    (mma 2 none).ctl.getLsbD 1 = true ∧
    (let s := engaged 8 (some 0) ringed
     s.waiting 0 0 = some (.mma (mma 8 (some 0))) ∧ 0 + 32 ≤ s.cyc ∧ s.mem.wf = true ∧ s.held = [] ∧
     (mma 8 (some 0)).env.nve = false ∧ (mma 8 (some 0)).env.dze = false ∧ (mma 8 (some 0)).env.ofe = false ∧
     (mma 8 (some 0)).ctl.getLsbD 1 = false ∧ (∀ r ∈ [0, 1], (ringRt s 0 r).since = none)) ∧
    (let s := engaged 0 none leased
     s.waiting 0 0 = some (.mma (mma 0 none)) ∧ ringFull (ringState s 0 0) = 0 ∧
     0 + 2 ^ ringWlim (ringCfg s 0 0) ≤ s.cyc ∧ (s.core 0).tvec ≠ 0) := by decide +kernel

/-- Ring 1 has two consumers, and the one .SB MMA at an engine is not their whole group. -/
def halfGroup : State :=
  engaged 2 none { leased with mem :=
    [(ringAddr 0 1 + 2, 0x20), (ringAddr 0 1 + 3, 2), (ringAddr 0 1 + 4, 1), (ringAddr 0 1 + 7, 0x80)] }

theorem witness_half_group : ringCons (ringCfg halfGroup 0 1) ≠ 1 ∧ (sharedGroup halfGroup 0 1).length = 1 ∧
    ringCons (ringCfg halfGroup 0 1) = 2 := by decide +kernel

theorem test_mma_ii : (mmaResult (mma 0 none) 5).1.head? = some (69, 0) ∧ (mmaResult (mma 1 none) 5).1.head? = some (64, 0) := by
  decide +kernel
theorem test_mma_same_ring : (go (.mmaBb 0 1 1 0 0 0) ringed).me.xcause = 0x8000000000000011 ∧
    (go (.mmaBb 0 1 1 0 0 0) ringed).me.xaux = 1 := by decide +kernel

/-! ## Quantising stores -/

/-- g4 is an axis word of a serial axis of length 4, g5 one that loads from the slot at g6; g7 and g8 are ill formed. -/
def axes : State :=
  paged { strand [(4, 0x301), (5, 0x311), (6, 0xFFFFFFFFFFFF8800), (7, 3), (8, 0xFFFFFFFFFFFF8820), (9, hbm)] with
    v := ⟨#[0, BitVec.ofNat 512 0x3FFFFFFF, 0, 0, 0, 0, 0, 0], rfl⟩ }

/-- A strand with a lease, and a free axis. -/
def leasedAxes : State := axes.modMe fun x => { x with lease := some (0, 0) }

/-- The last group of a QST. -/
def group : QGroup := ⟨[⟨1, .plain, hbm, .here 0x2000, 8, 7, 0, 0, 0x1000, none, []⟩], 16, 0, 0, 0⟩

theorem witness_QuantisingStoresFollowTheirAxes :
    (∀ i ∈ [Instr.qaxis 1 4 0 0, .qaxis 1 5 6 0, .qaxis 1 7 0 0, .qaxis 1 5 8 0, .qresR 1 2 0, .qresW 1 2 0],
      ok i [4, 5, 6, 7, 8] [] axes = true) ∧
    axes.me.get 6 = BitVec.ofNat 64 (0xFFFFFFFFFFFF8000 + 0x800) ∧ (axes.me.get 8).toNat % 64 ≠ 0 ∧ (axes.core 0).tvec ≠ 0 ∧
    (ok (.qst 1 1 9 0 3 0) [9, 0] [] axes = true ∧ (axes.me.axisOf 1).elem = 0 ∧ (axes.me.axisOf 1).onEnd ≠ 2 ∧
      (∀ k < 3, axes.me.fpc.getLsbD (8 + k) = false) ∧ (axes.core 0).sb.length ≤ 16 ∧ firstB axes = true ∧ hbm.toNat % 2 = 0 ∧
      ∀ j < 16, isOwn axes (hbm + BitVec.ofNat 64 (2 * j)) = true ∧
        placeOf axes (.store none) (hbm + BitVec.ofNat 64 (2 * j)) 2 = some (0x2000 + 2 * j)) ∧
    (ok (.qsta 1 0 9 0 3 0) [9, 0] [] leasedAxes = true ∧ leasedAxes.me.lease.isSome = true ∧
      (leasedAxes.me.axisOf 1).kind ≠ 2 ∧ (leasedAxes.core 0).sb = [] ∧ firstB leasedAxes = true ∧ hbm.toNat % 8 = 0) ∧
    (let s := waits (.qst 1 [group] none none) axes
     s.waiting 0 0 = some (.qst 1 [group] none none) ∧ 0 < group.entries.length ∧
     (s.core 0).sb.length + group.entries.length ≤ 32 ∧ checked s 0 0 = false ∧ (s.core 0).spill = [] ∧
     (∀ m < 9, m ≠ 0 → wantsRoom s 0 m = false) ∧ s.fatal = false) ∧
    (let ax : Axis := ⟨1, 0, false, 3, 0, 0, 0⟩
     ax.kind = 1 ∧ ax.load = false ∧ 0 < ax.lenm1) := by decide +kernel

theorem witness_qsta_places : ∀ j < 1024, isOwn leasedAxes (hbm + BitVec.ofNat 64 (2 * j)) = true ∧
    placeOf leasedAxes (.store none) (hbm + BitVec.ofNat 64 (2 * j)) 2 = some (0x2000 + 2 * j) := by decide +kernel

theorem test_qst_serial : let t := go (.qst 1 1 9 0 3 0) (go (.qaxis 1 4 0 0) axes)
    (t.core 0).sb.length = 4 ∧ (t.me.axisOf 1).pos = 0 ∧ ((t.core 0).sb.head?.map SbEntry.data) = some 0xB4004000 := by decide +kernel
theorem test_qaxis_refused : (go (.qaxis 1 7 0 0) axes).me.xval = 3 := by decide +kernel

/-! ## Averaging and Lupin -/

/-- Page 1 maps its addresses to the lowest 4 GiB, with attribute AVG. Region 0 starts there: scale 32, minimum weight 1,
rate 0, one page. Line 0x100010000 is at 0x10000, with word 0 = 6 × 2^32 and weight 2. -/
def region : Region := newRegion 0x100000000 0x10020
def averaging (r : Region) : State :=
  { paged { strand [(4, 0x100000000), (5, 0x10020), (6, 0x100010000), (7, 0x800000010020), (9, 0x180000000)] with
      v := ⟨#[0, BitVec.ofNat 512 0x3F800000, 0, 0, 0, 0, 0, 0], rfl⟩ } with
    mem := [(0, 0x1F), (8, 0x9F), (0x10004, 6), (0x10038, 2)], regions := [(0, r)] }

/-- An averaging entry that adds 3 to word 0. -/
def add3 : AvgEntry := ⟨1, 0, false, 0x10000, 0x100010000, ⟨#[3, 0, 0, 0, 0, 0, 0], rfl⟩, 1, 0, 0⟩

theorem witness_AveragingInstructionsWorkOnTheirLine :
    (ok (.gcfg 3 4 5 0) [4, 5] [3] (averaging region) = true ∧ ok (.gcfg 3 4 7 0) [4, 7] [3] (averaging region) = true ∧
      cfgBad 0x10020 = false ∧ cfgBad 0x800000010020 = false ∧ localPart 0x100000000 % 2 ^ 18 = 0 ∧
      isOwn (averaging region) 0x100000000 = true ∧ rangeOf (localPart 0x100000000) = some .hbm ∧
      regionOf (averaging region) (localPart 0x100000000) = some (0, region) ∧ region.qc = false ∧
      (newRegion 0x100000000 0x18020).qc = true ∧
      (let s := { averaging region with regions := [] }
       regionOf s (localPart 0x100000000) = none ∧ s.regions.length < 64 ∧ pagesBad s 0x100000000 1 0 = none ∧
       cfgLen 0x10020 = 1 ∧ s.mem.wf = true ∧ localPart 0x100040000 % 2 ^ 18 = 0 ∧ rangeOf (localPart 0x100040000) = some .hbm ∧
       regionOf s (localPart 0x100040000) = none ∧ pagesBad s 0x100040000 1 0 = none ∧
       (match walk s 0x100040000 with
        | .leaf level w ls => bits w 42 10 * 1024 + 0x100040000 % pageSize level == 0x40000 && ls.all fun l => decide (64 * l < 0x40000)
        | .fault _ _ => false) = true)) ∧
    (ok (.gseed 1 6 0 0) [6, 0] [] (averaging region) = true ∧ ok (.gadd 1 6 0 0) [6, 0] [] (averaging region) = true ∧
      ok (.gld 1 6 0 0) [6, 0] [] (averaging region) = true ∧ (0x100010000 : Word).toNat % 64 = 0 ∧
      regionAt (averaging region) (localPart 0x100010000) = some (0, region) ∧
      placeOf (averaging region) (.avg true) 0x100010000 64 = some 0x10000 ∧
      placeOf (averaging region) (.avg false) 0x100010000 64 = some 0x10000 ∧
      poisoned (averaging region) 0x10000 64 = false ∧ (∀ k < 3, (averaging region).me.fpc.getLsbD (8 + k) = false) ∧
      checked (averaging region) 0 0 = false ∧ (((averaging region).modCore 0 fun k =>
        { k with avgQ := List.replicate 16 add3 }).core 0).avgQ.length = 16 ∧ ((averaging region).core 0).avgQ = [] ∧
      lineHeld (averaging region) 0 1 0x10000 = false ∧ lineQueued (averaging region) 0 1 0x10000 = false ∧ (0x100000000 : Word).toNat % 128 = 0) ∧
    (let s := (averaging region).modCore 0 fun k => { k with avgQ := [add3] }
     (s.core 0).avgQ = add3 :: [] ∧ regionAt s (localPart add3.va) = some (0, region) ∧ tabFind s.regions 0 = some region ∧
     poisoned s 0x10000 64 = false ∧ s.mem.wf = true ∧ ringWordAt 0x10000 = none ∧ s.held = []) ∧
    (ok (.gsprd 1 4 0 0) [4, 0] [] (averaging region) = true ∧ ok (.gsprd 1 4 4 0) [4] [] (averaging region) = true ∧
      ((averaging region).me.get 4).getLsbD 32 = true ∧ ok (.gfence 0) [] [] (averaging region) = true ∧
      ok (.gmass 3 4 0 0) [4, 0] [3] (averaging region) = true) := by decide +kernel

theorem test_gld : lane ((go (.gld 1 6 0 0) (averaging region)).me.vec 1) 32 0 = 0x50400000 := by decide +kernel
theorem test_gadd_apply :
    (go (.avgEntryApply 0) ((averaging region).modCore 0 fun k => { k with avgQ := [add3] })).read 0x10000 8 = 0x600000003 := by
  decide +kernel
theorem test_gcfg_not_quiet : (go (.gcfg 3 4 7 0) (averaging region)).me.xaux = 3 := by decide +kernel

/-- Port 0 is a link to module 3; its engine has sent n lines of the region. -/
def linked (n : Nat) (l : Link → Link) (m : List Msg) : State :=
  { averaging { region with count := [(0, n)] } with
    links := [(0, l { Link.reset with up := true, far := 3 })], flight := m, peers := [3] }

/-- The packet of line 0x100010000 that holds half of word 0 and of the weight. -/
def packet : LupPkt := ⟨0, 0, 0x100010000, ⟨#[0x300000000, 0, 0, 0, 0, 0, 0, 1], rfl⟩⟩

theorem witness_LupinExchangesHalves :
    (let s := linked 1024 id []
     tabFind s.regions 0 = some { region with count := [(0, 1024)] } ∧ s.mem.wf = true ∧ s.held = [] ∧
     ringWordAt 0x10000 = none ∧ (s.link 0).up = true ∧ (s.link 0).dom = s.domain ∧ (s.link 0).far ∉ s.removed ∧
     cfgQuiesce region.cfg = false ∧ cfgRate region.cfg ≠ 15 ∧ tabFind region.last 0 ≠ some (s.cyc / 64) ∧
     0 < regionLines region ∧ (s.link 0).recon = false ∧ (s.link 0).unacked.length < 64 ∧
     physical (s.portTlb 0) s (0x100000000 + 64 * lineOfCounter region 0 1024) = some 0x10000 ∧
     poisoned s 0x10000 64 = false ∧ 2 ^ cfgMinw region.cfg ≤ s.read (0x10000 + 56) 8) ∧
    (let s := linked 0 id [.lupPacket 0 packet 0x100000000 0x10020]
     s.flight[0]? = some (.lupPacket 0 packet 0x100000000 0x10020) ∧ packet.epoch = (s.link 0).rxEpoch ∧
     (s.link 0).rxClosed = false ∧ poisoned s 0x10000 64 = false ∧ walkedPages s (linesOfRange 0x10000 64) = [] ∧ cfgSigma region.cfg = cfgSigma 0x10020 ∧
     cfgLen region.cfg = cfgLen 0x10020 ∧
     packet.seq = (s.link 0).rxSeq ∧ packet.seq < 2 ^ 32 ∧ (regionOf s 0x100000000).isSome = true ∧
     physical (s.portTlb 0) s packet.va = some 0x10000 ∧ regionOf s 0x200000000 = none) := by decide +kernel

theorem witness_LupinAnswers :
    (let s := linked 0 (fun l => { l with rxSeq := 1, answers := [(0, true)] }) [.lupPacket 0 packet 0x100000000 0x10020]
     seqBefore packet.seq (s.link 0).rxSeq = true ∧ (s.link 0).answers.find? (fun x => x.1 == packet.seq) = some (0, true) ∧
     seqBefore 1 0 = false ∧ (1 : Nat) ≠ 0) ∧
    (let s := { linked 0 (fun l => { l with unacked := [(packet, 0)], recon := true })
       [.lupAck 0 0 0, .lupRefusal 0 0 0, .reconReply 0 0 1 [0], .reconReply 0 0 0 [], .reconRequest 0 0 [0], .reconRequest 0 1 []] with
       cyc := 65536 }
     (s.link 0).unacked = (packet, 0) :: [] ∧ (regionAt s packet.va).isSome = true ∧
     s.flight[0]? = some (.lupAck 0 (s.link 0).epoch packet.seq) ∧
     s.flight[1]? = some (.lupRefusal 0 (s.link 0).epoch packet.seq) ∧ s.flight[2]? = some (.reconReply 0 (s.link 0).epoch 1 [0]) ∧ [0].contains packet.seq = true ∧
     (s.link 0).recon = true ∧ s.flight[3]? = some (.reconReply 0 (s.link 0).epoch 0 []) ∧
     physical (s.portTlb 0) s packet.va = some 0x10000 ∧ s.flight[4]? = some (.reconRequest 0 (s.link 0).rxEpoch [0]) ∧
     s.flight[5]? = some (.reconRequest 0 1 []) ∧ (s.link 0).rxEpoch ≠ 1 ∧ 0 + 65536 ≤ s.cyc ∧
     (linked 0 (fun l => { l with unacked := [(packet, 0)] }) []).regions ≠ [] ∧
     ((linked 0 (fun l => { l with unacked := [(packet, 0)] }) []).link 0).recon = false) ∧
    (let s := linked 0 (fun l => { l with rxClosed := true }) [.lupPacket 0 packet 0x100000000 0x10020,
       .lupPacket 0 { packet with epoch := 1 } 0x200000000 0x10020]
     s.flight[0]? = some (.lupPacket 0 packet 0x100000000 0x10020) ∧ packet.epoch = (s.link 0).rxEpoch ∧
     (s.link 0).rxClosed = true ∧ s.flight[1]? = some (.lupPacket 0 { packet with epoch := 1 } 0x200000000 0x10020) ∧
     ({ packet with epoch := 1 }).epoch = (s.link 0).rxEpoch + 1 ∧ packet.seq = 0 ∧ regionOf s 0x200000000 = none) := by
  decide +kernel

theorem test_lupin_packet : (go (.lupinPacketArrival 0) (linked 0 id [.lupPacket 0 packet 0x100000000 0x10020])).read 0x10000 8 =
    0x900000000 := by decide +kernel
theorem test_closed_epoch :
    let s := linked 0 (fun l => { l with rxClosed := true }) [.lupPacket 0 packet 0x100000000 0x10020]
    (go (.lupinPacketArrival 0) s).read 0x10000 8 = 0x600000000 ∧ (go (.lupinPacketArrival 0) s).outbox = [] := by decide +kernel
theorem test_lupin_exchange : let t := go (.lupinExchange 0) (linked 1024 id [])
    t.read 0x10000 8 = 0x300000000 ∧ (t.link 0).txSeq = 1 ∧ t.outbox.length = 1 := by decide +kernel

/-! ## The end of strands, placement, barriers -/

/-- A strand that waits in the arrivals of core 0 for a slot of queue 3. -/
def waitingStrand : ArrEntry := ⟨{ strand [] with uid := 9, q := 3, issued := some 4 }, .queue, false, 0⟩
def arrivals (owner : Option Nat) : State :=
  (State.reset.modCore 0 fun k => { k with arr := [waitingStrand], weights := k.weights.set 3 2 }).modSlot 0 1 fun x =>
    { x with owner := owner }

theorem witness_StrandsEndYieldAndTakeSlots :
    (runsB (.halt 0) two = true ∧ two.me.bound = none ∧ two.me.far = none ∧ (two.core 0).avgQ = [] ∧ two.log.length < 4096 ∧
      runsB (.halt 0) boundTo0 = true ∧ boundTo0.me.bound.isSome = true ∧ (boundTo0.core 0).tvec ≠ 0) ∧
    (runsB (.yield 0) two = true ∧ (∀ e ∈ (two.core 0).arr, e.tier = .queue → e.strand.q ≠ two.me.q) ∧
      (let s := two.modCore 0 fun k => { k with arr := [⟨strand [], .queue, false, 0⟩] }
       runsB (.yield 0) s = true ∧ s.cur.2 < 8 ∧ (s.core 0).det = false ∧ ∃ e ∈ (s.core 0).arr, e.tier = .queue ∧ e.strand.q = s.me.q)) ∧
    (let s := machine { strand [] with pc := 0xC000000000000000, entry := true }
     causeOf s .fetch 0xC000000000000000 4 ≠ none ∧ isFpCause .pageFault = false ∧ s.me.entry = true ∧
     (machine { strand [] with pc := 0xC000000000000000 }).me.entry = false) ∧
    (let s := { two.setState 0 0 (.interval 8) with cyc := 8 }
     (s.slot 0 0).state = .interval 8 ∧ 8 ≤ s.cyc ∧ (two.setState 0 0 (.interval 8)).cyc < 8) ∧
    (let s := { (two.setState 0 8 .ready).modCore 0 fun k => { k with svcSince := some 1 } with cyc := 65 }
     (s.slot 0 8).state = .ready ∧ (s.core 0).svcSince = some 1 ∧ 1 + 64 ≤ s.cyc ∧ (s.core 0).svcForced = none ∧
     (s.core 0).det = false ∧ (s.core 0).forceNow = false ∧ (s.core 0).lastIssue ≠ some s.cyc ∧
     (s.core 0).gating = .ungated ∧ issuedAbove s 0 = false) ∧
    ((arrivals none).cyc % 1024 = 0 ∧ (arrivals none).rotated ≠ some 0 ∧ ((arrivals none).core 0).arr ≠ [] ∧
      (∀ e ∈ ((arrivals none).core 0).arr, e.strand.q = 3) ∧ (((arrivals none).core 0).weights[3]?.getD 0) ≠ 0) ∧
    (let s := arrivals (some 3)
     (s.slot 0 1).state = .empty ∧ (s.slot 0 1).freeFrom ≤ s.cyc ∧ (s.core 0).placeFrom ≤ s.cyc ∧
     (s.core 0).gating = .ungated ∧ (s.core 0).reserved = [] ∧ (s.core 0).arr = [] ++ waitingStrand :: [] ∧
     (s.slot 0 1).owner = some waitingStrand.strand.q ∧ (∀ q ∈ (s.core 0).preempted, waitingStrand.strand.isOf q = false) ∧
     waitingStrand.strand.relet = false ∧ waitingStrand.strand.lease = none ∧ waitingStrand.strand.idle = false ∧
     waitingStrand.strand.collw = none) := by decide +kernel

/-- A word that no instruction has, and a fetch that faults. -/
theorem witness_word_not_an_instruction : two.cur.2 < 9 ∧ decode 0 = .error .illOpcode ∧
    ∃ st, fetchWord (machine { strand [] with pc := 0xC000000000000000 }) = .error st := by
  refine ⟨by decide +kernel, rfl, ?_⟩
  have h : (match fetchWord (machine { strand [] with pc := 0xC000000000000000 }) with
    | .ok _ => true | .error _ => false) = false := by decide +kernel
  revert h
  cases fetchWord (machine { strand [] with pc := 0xC000000000000000 }) with
  | ok w => simp
  | error st => exact fun _ => ⟨st, rfl⟩

theorem test_halt : ((go (.halt 0) two).slot 0 0).state = .empty ∧ (go (.halt 0) two).log.length = 1 := by decide +kernel
theorem test_word_trap : (go (.wordNotAnInstruction 0) two).me.xcause = 0x8000000000000001 := by decide +kernel
theorem test_rotation_owner : ((go .rotationBoundary (arrivals none)).slot 0 5).owner = some 3 := by decide +kernel
theorem test_placement : ((go (.strandPlacement 0 1) (arrivals (some 3))).strand 0 1).uid = 9 := by decide +kernel

/-- g4 names counter 5 of the cluster, which expects 2 and is in generation 7; g8 gives it with a limit of 2^4 cycles; g9 is
a sync word. -/
def barriers : State :=
  (machine (strand [(4, 5), (5, 2), (6, 6), (7, 7), (8, 0x40005), (9, 0xFFFF800000000000 + csBase + 0x40)])).modCluster 0
    fun k => { k with bars := [(5, ⟨2, 1, 7⟩)] }

theorem witness_BarriersCountArrivals :
    (ok (.bari 4 5 0) [4, 5] [] barriers = true ∧ ok (.barv 3 4 0) [4] [3] barriers = true ∧
      ok (.barw 4 6 0) [4, 6] [] barriers = true ∧ ok (.barw 8 7 0) [8, 7] [] barriers = true ∧
      ok (.digest 3 0) [] [3] barriers = true ∧ ok (.synci 9 5 0) [9, 5] [] barriers = true) ∧
    barriers.me.get 4 = BitVec.ofNat 64 (5 + 0) ∧ 0 < (barriers.me.get 5).toNat ∧ (barriers.me.get 5).toNat ≤ 131071 ∧
    (barOf barriers 0 false 5).count ≠ 0 ∧ quiet barriers 0 1 = true ∧ (barOf barriers 0 false 5).arrived + 1 < 2 ^ 17 ∧
    (barOf (machine (strand [(4, 5)])) 0 false 5).count = 0 ∧ (barriers.core 0).tvec ≠ 0 ∧
    0 < (BitVec.ofNat 32 (7 + 2 ^ 32 - 6)).toInt ∧ ¬0 < (BitVec.ofNat 32 (7 + 2 ^ 32 - 7)).toInt ∧
    barriers.me.get 8 = BitVec.ofNat 64 (5 + 0) + BitVec.ofNat 64 (4 * 2 ^ 16) ∧
    (let s := { waits (.barw 5 false 7 (some 16) 0x40005) barriers with cyc := 16 }
     s.waiting 0 0 = some (.barw 5 false 7 (some 16) 0x40005) ∧ 16 ≤ s.cyc ∧ s.fatal = false ∧ arrivesYet s 0 false 5 = false) ∧
    (let s := waits (.barv 3 5 false) barriers
     s.waiting 0 0 = some (.barv 3 5 false) ∧ quiet s 0 1 = true) ∧
    (let s := barriers.modCore 0 fun k => { k with sb := [⟨1, .plain, 0, .here 0, 1, 0, 0, 0, 0, none, []⟩] }
     ok (.barv 3 4 0) [4] [3] s = true ∧ quiet s 0 1 = false ∧ drained s 0 1 = false) ∧
    (syncAddr barriers (barriers.me.get 9) = some (csAddr 0 0x40) ∧
      checkRange barriers 0 barriers.me.rights (.store none) (barriers.me.get 9) 32 = none ∧ drained barriers 0 1 = true ∧
      barriers.mem.wf = true ∧ ringWordAt (csAddr 0 0x40) = none ∧ barriers.held = [] ∧ checked barriers 0 0 = false) := by
  decide +kernel

theorem test_barv_completes : let t := (barvResume 0 0 (go (.barv 3 4 0) barriers)).getD barriers
    t.me.get 3 = 7 ∧ barOf t 0 false 5 = ⟨2, 0, 8⟩ := by decide +kernel
theorem test_bari_keeps_generation : barOf (go (.bari 4 5 0) barriers) 0 false 5 = ⟨2, 0, 7⟩ := by decide +kernel
theorem test_synci_keeps_generation :
    (go (.synci 9 5 0) { barriers with mem := [(csAddr 0 0x40, 9), (csAddr 0 0x46, 3)] }).read (csAddr 0 0x40) 8 = 3 * 2 ^ 48 := by
  decide +kernel

/-! ## Copy engines and Peony -/

/-- g4 to g7 hold a copy of 16 bytes from 0x2000 to 0x3000 on queue 1 that goes on at offset 4; g8 is a QFENCE operand, g9
an RPUSH operand, g10 a Peony queue. -/
def copying : State :=
  { paged (strand [(4, 0x3000), (5, 0x2000), (6, 0x1000000000010), (7, 4), (8, 0x102), (9, 0x10), (10, 1)]) with
    mem := [(0, 0x1F), (0x200F, 0x77)] }

/-- A command on queue 1 that has one byte left. -/
def command : Command :=
  { cid := 5, core := 0, uid := 1, q := none, rights := ⟨true, none⟩, fill := some ⟨1, 3⟩, sync := none, dst := 0x3000
    src := 0x2000, len := 16, off := 15, started := true, since := 0, moved := false, status := none, ring := none, face := none }
def onQueue (q : EngineQ) : State :=
  copying.modCluster 0 fun k => { k with copyQ := ⟨#[[], q, [], []], rfl⟩ }

/-- Ring 0 of cluster 0, with two slots of 64 bytes, is configured, and an RPUSH waits for it. -/
def pushing : State :=
  { waits (.rpush 0 1 hbm 3 64 0x10 none) copying with
    mem := [(0, 0x1F), (ringAddr 0 0 + 2, 1), (ringAddr 0 0 + 3, 2), (ringAddr 0 0 + 7, 0x80)] }

/-- The same ring with no RPUSH in WAIT, with a free slot, and with both slots published. -/
def roomy : State := { copying with mem := pushing.mem }
def crowded : State := { copying with mem := pushing.mem ++ [(ringAddr 0 0 + 10, 2)] }

/-- Ring 0 with a reserved slot that is filled, or being disabled. -/
def publishing (r : RingRt) : State :=
  pushing.modCluster 0 fun k => { k with rings := k.rings.set 0 r }

theorem witness_EngineCommandsQueueCopyAndComplete :
    (checked copying 0 0 = false ∧ ok (.cpy 3 4 0 0) [4, 5, 6, 0] [3] copying = true ∧
      ok (.cpyr 3 4 0 0) [4, 5, 6, 7, 0] [3] copying = true ∧ ok (.coll 3 4 10 0) [4, 10] [3] copying = true ∧
      ok (.collw 3 4 10 0) [4, 10] [3] copying = true ∧ ok (.rpush 3 4 9 0) [4, 9] [3] copying = true ∧
      ok (.qfence 8 0) [8] [] copying = true ∧ hasRoom copying 0 1 = true ∧ hasRoom copying 0 5 = true ∧
      ok (.rpush 3 4 9 0) [4, 9] [3] roomy = true ∧ ringLive roomy 0 0 = true ∧ ringIsFull roomy 0 0 = false ∧
      hasRoom roomy 0 1 = true ∧ roomy.mem.wf = true ∧ roomy.held = [] ∧ checked roomy 0 0 = false ∧
      ok (.rpush 3 4 9 0) [4, 9] [3] crowded = true ∧ ringOn crowded 0 0 = true ∧ ringIsFull crowded 0 0 = true ∧
      (copying.me.get 6).toNat / 2 ^ 48 = 1 ∧ (copying.me.get 7).toNat < (copying.me.get 6).toNat % 2 ^ 40 ∧
      ringOn copying 0 0 = false ∧ ringOn pushing 0 0 = true ∧ (copying.core 0).tvec ≠ 0 ∧
      cidsOf (getQ (onQueue [.cmd command]) 0 1) = [5] ∧ 5 ∈ liveCids (onQueue [.cmd command])) := by decide +kernel

theorem witness_EnginesCopyAndPublish :
    ((∀ e ≤ 0, e / 16 = 0 → willIssue pushing e = false) ∧ pushing.waiting 0 0 = some (.rpush 0 1 hbm 3 64 0x10 none) ∧ ringLive pushing 0 0 = true ∧ ringIsFull pushing 0 0 = false ∧
      hasRoom pushing 0 1 = true ∧ pushing.mem.wf = true ∧ pushing.held = [] ∧ checked pushing 0 0 = false) ∧
    (let s := onQueue [.cmd command]
     getQ s 0 1 = .cmd command :: [] ∧ command.off + 1 = command.len ∧ nextTurn s 0 = some 3 ∧ rotationQ 3 = 1 ∧
     placeOf s .load 0x200F 1 = some 0x200F ∧ placeOf s (.store none) 0x300F 1 = some 0x300F ∧
     settled true s command.cid = true ∧ command.moved = false ∧ walkedPages s (linesOfRange 0x300F 1) = [] ∧
     poisoned s 0x200F 1 = false ∧ (regionAt s (localPart 0x300F)).isNone = true ∧ s.mem.wf = true ∧
     ringWordAt 0x300F = none ∧ s.held = []) ∧
    (settled true (onQueue [.cmd { command with src := 0x100000000 }]) command.cid = true ∧
      causeOf copying .load 0x10000000F 1 = some .pageFault ∧
      nextTurn (onQueue [.cmd { command with src := 0x100000000 }]) 0 = some 3) ∧
    (∀ x ∈ [⟨0, 5, true, none, false⟩, ⟨0, 5, true, some (⟨1, 3⟩, 9), false⟩, ⟨0, 5, true, none, true⟩, ⟨0, 5, false, none, true⟩],
      (publishing { RingRt.reset with resv := [x] }).mem.wf = true ∧
      (ringRt (publishing { RingRt.reset with resv := [x] }) 0 0).resv = x :: []) ∧
    (let x := { command with off := 16, ring := some (0, 0) }
     let s := (onQueue [.cmd x]).modCluster 0 fun k => { k with rings := k.rings.set 0 { RingRt.reset with resv := [⟨0, 5, false, none, false⟩] } }
     getQ s 0 1 = .cmd x :: [] ∧ (ringRt s 0 0).resv = [⟨0, 5, false, none, false⟩] ∧ settled true s x.cid = true ∧ x.moved = false ∧ x.len ≤ x.off ∧ x.started = true) ∧
    (let s := publishing { RingRt.reset with disabling := true }
     (ringRt s 0 0).disabling = true ∧ (ringRt s 0 0).resv = [] ∧ ringInUse s 0 0 = false) ∧
    (copying.read 0x4000 8 % 2 ^ 48 + 3 < 2 ^ 48 ∧ ringWordAt 0x4000 = none ∧ 0x4000 % 0x100000 < 0xEFF00) := by decide +kernel

theorem other_core {s : State} {k : Core} {c : Nat} (h : s.cores = [(0, k)]) (hc : c ≠ 0) : s.core c = Core.reset := by
  simp [State.core, h, tabGet, tabFind, hc]

/-- With one core listed, whose slots but the first do not wait, no other strand waits. -/
theorem only_first {s : State} {k : Core} (h : s.cores = [(0, k)]) (h0 : ∀ m < 9, m ≠ 0 → s.waiting 0 m = none) (c n : Nat)
    (op : WaitOp) (hw : s.waiting c n = some op) : (c, n) = (0, 0) := by
  by_cases hc : c = 0
  · subst hc
    by_cases hn : n = 0
    · rw [hn]
    · by_cases hm : n < 9
      · rw [h0 n hm hn] at hw; exact absurd hw (by simp)
      · simp [State.waiting, State.slot, Core.slot, hm, Slot.reset] at hw
  · have : s.waiting c n = none := by
      refine waiting_none (fun m hm => ?_) n
      simp only [State.waiting, State.slot, other_core h hc]
      revert m; decide +kernel
    rw [this] at hw; exact absurd hw (by simp)

theorem witness_no_wait (c n : Nat) : copying.waiting c n = none ∧ roomy.waiting c n = none ∧ crowded.waiting c n = none := by
  have h : copying.waiting c n = none := by
    cases h : copying.waiting c n with
    | none => rfl
    | some op =>
      obtain ⟨rfl, rfl⟩ := Prod.mk.inj (only_first (k := copying.core 0) (by decide +kernel) (by decide +kernel) c n op h)
      revert h; rw [show copying.waiting 0 0 = none by decide +kernel]; simp
  exact ⟨h, h, h⟩

theorem witness_one_rpush (c n q l : Nat) (r : BitVec 3) (a w : Word) (d : BitVec 4) (at_ : Option Nat)
    (h : pushing.waiting c n = some (.rpush r q a d l w at_)) : (c, n) = (0, 0) :=
  only_first (k := pushing.core 0) (by decide +kernel) (by decide +kernel) c n _ h

theorem test_cpyr : let t := go (.cpyr 3 4 0 0) copying
    t.me.isEmpty 3 = true ∧ (getQ t 0 1).length = 1 ∧ t.me.pc = 0x1004 := by decide +kernel
theorem test_copy_chunk : (go (.copyChunk 0 1 (.ok [])) (onQueue [.cmd command])).read 0x300F 1 = 0x77 := by decide +kernel
theorem test_rpush_at_issue : let t := go (.rpush 3 4 9 0) roomy
    t.waiting 0 0 = none ∧ t.me.isEmpty 3 = true ∧ ringState t 0 0 = 0x1000100 := by decide +kernel
theorem test_rpush : let t := go (.rpushReserve 0 0) pushing
    ringState t 0 0 = 0x1000100 ∧ (getQ t 0 1).length = 1 := by decide +kernel
theorem test_sync_wraps :
    (addSync 0x4000 3 { copying with mem := [(0, 0x1F), (0x4000, 6), (0x4008, 8)] }).read 0x4000 8 = 2 ^ 48 + 1 := by
  decide +kernel

/-- A chain whose descriptor stands at 0x2000, and its step. -/
def chain : Chain :=
  { cid := 6, core := 0, uid := 1, q := none, rights := ⟨true, none⟩, fill := none, desc := some 0x2000, steps := 0
    started := true, since := 0, status := none, wait := false }
def pstep (op : Nat) : PStep :=
  { op := op, count := 1, pmod := 3, pdie := 2, buf := 0x3000, fa := if op = 0 then 0x5000 else 0, fb := if op = 2 then 0x5000 else 1
    sync := 0, next := 0, tag := 9, since := 0, ready := false, data := none, mine := [7], own := [0x3F800000], moved := false, no := 4 }

/-- The chain on queue 0 of die 0, with a descriptor of WIDEN or XADD in memory, and its running step. -/
def peony (op : Nat) (st : Option PStep) (m : List Msg) : State :=
  { (paged (strand [])).modDie 0 fun x => { x with pq := ⟨#[[.chain chain], []], rfl⟩, step := ⟨#[st, none], rfl⟩ } with
    peers := [3], flight := m, cyc := 2 ^ 26
    mem := [(0, 0x1F)] ++ (if op = 0 then [] else [(0x2000, BitVec.ofNat 8 op)]) ++ [(0x2001, 1), (0x2004, 3), (0x2006, 4), (0x2009, 0x30)] ++
      (if op = 0 then [(0x2011, 0x50)] else []) ++ (if op = 2 then [(0x2019, 0x50)] else [(0x2018, 1)]) ++ [(0x2030, 9)] }

/-- The place of an access by the chain. -/
def chainPlace (s : State) (k : Acc) (va : Word) (n : Nat) : Option Nat :=
  match peonyCheck s 0 chain k va n with
  | .ok p =>
    match p.loc with
    | .here a => some a
    | .there _ _ => none
  | .error _ => none

/-- Why a step fails its checks. -/
def stepFails (s : State) (t : PStep) : Option Cause :=
  match checkStep s 0 chain t t.count 0 with
  | .error c => some c
  | .ok b => if b then some .prot else none

/-- The address of the descriptor. -/
def descOf (s : State) : Option Nat :=
  match descAt s 0 chain 0x2000 with
  | .ok a => some a
  | .error _ => none

theorem witness_PeonyStepsRunTheirChain :
    (∀ op ∈ [0, 1], (let s := peony op none []
      getQ s 0 4 = .chain chain :: [] ∧ stepOf s 0 0 = none ∧ descOf s = some 0x2000 ∧ (readStep s 0x2000).2 = false ∧
      (readStep s 0x2000).1.op = op ∧ stepFails s (readStep s 0x2000).1 = none ∧ partnerOf s 3 ≠ s.modId ∧
      (s.die 0).notices = [] ∧ (s.die 0).readies = [])) ∧
    (let s := peony 1 (some (pstep 1)) [.peonyReady 3 2 0 9 1 6, .peonyData 3 2 0 9 [5] 6, .peonyNotice 3 2 0 9]
     stepOf s 0 0 = some (pstep 1) ∧ stepOf s 0 1 = none ∧ partnerOf s (pstep 1).pmod = 3 ∧ (3 : Nat) ≠ s.modId ∧
     s.msg 0 = some (.peonyReady 3 2 0 9 (pstep 1).count 6) ∧ s.msg 1 = some (.peonyData 3 2 0 9 [5] 6) ∧
     wasPerformed s 3 (readyNo 6) = false ∧ wasPerformed s 3 (dataNo 6) = false ∧
     (peony 1 (some (pstep 1)) [.peonyNotice 3 2 0 9]).msg 0 = some (.peonyNotice 3 2 0 9) ∧ (pstep 1).ready = false ∧ (pstep 1).data = none ∧
     getQ s 0 4 = .chain chain :: [] ∧ (pstep 1).since + 2 ^ 26 ≤ s.cyc) ∧
    (stepOf (peony 1 none []) 0 0 = none ∧ stepOf (peony 1 none []) 0 1 = none) ∧
    (∀ op ∈ [0, 2], (let s := peony op (some (pstep op)) []
      (chainPlace s .load (stepReadVa (pstep op) 0) (stepReadSize (pstep op))).isSome = true ∧
      (chainPlace s (.store none) (stepWriteVa (pstep op) 0) (stepWriteSize (pstep op))).isSome = true ∧ s.mem.wf = true ∧
      s.held = [] ∧ s.regions = [] ∧ s.stale = [] ∧ walkedPages s (linesOfRange 0x3000 4) = [])) ∧
    (let s := peony 1 (some { pstep 1 with ready := true, data := some [0x40000000] }) []
     s.modId < partnerOf s 3 ∧ chainPlace s .load (stepWriteVa (pstep 1) 0) 4 = some 0x3004) := by decide +kernel

theorem test_peony_ready : (go (.peonyReady 0) (peony 1 (some (pstep 1)) [.peonyReady 3 2 0 9 1 6])).outbox =
    [(3, .peonyData 0 0 2 9 [7] 4)] := by decide +kernel
theorem test_peony_xadd : (go (.peonyStepComplete 0 0 (.ok [])) (peony 1 (some { pstep 1 with ready := true, data := some [0x40000000] }) [])).read
    0x3004 4 = 0x40400000 := by decide +kernel

/-! ## The time front -/

/-- Block 4 of cluster 0 stands in a state, with one used edge slot, 2, whose neighbour is block 5. -/
def edge : Edge := { Edge.reset with nid := 5, peer := 3, rd := true, used := true, nv := true, nl := 8, nlp := 4 }
def block (st : BState) : Block :=
  { Block.reset with
    st := st, l := 4, lp := 4, endL := 100, logs := 2, dom := 7, upc := 0x6000, slot0 := 0x10000, slot1 := 0x11000, hb := 0x12000
    edges := Block.reset.edges.set 2 edge, rights := ⟨true, none⟩ }

/-- g4 names block 4, g5 is 4, g6 a level, g7 0, g8 a rule word for edge slot 2 that needs 4, g9 one that needs 1, g10 a
domain. -/
def front (b : Block) : State :=
  (paged (strand [(4, 4), (5, 4), (6, 8), (8, 0x210004), (9, 0x210000), (10, 7), (11, 0x3000), (12, 0x40000008)])).modBlock 0 4
    fun _ => b

/-- A worker bound to block 4. -/
def working (b : Block) : State := (front b).modMe fun x => { x with bound := some (0, 4), bnext := 0x900 }

/-- The descriptor of BDEF at 0x3000, and the words that it gives. -/
def defWord (j : Nat) : Nat :=
  [0x6000, 0, 0x10000, 0x11000, 0x12000, 100 + 2 * 2 ^ 32 + 7 * 2 ^ 48, 4 + 2 * 2 ^ 16, 0].getD j 0
def defining (link : Bool) (v : Nat → Nat) (s : State) : State :=
  waits (.load ((descLoad 0x3000 (fun j => 0x3000 + 8 * j) fun _ => false).map fun e => { e with val := some (v e.idx) })
    (.desc link 0 4 (if link then 0x3000 else 4)) none) s

/-- The load of a descriptor waits with memory as the descriptor says. -/
def described (link : Bool) (a : Word) (v : Nat → Nat) (s : State) : State :=
  { waits (.load (descLoad 0x3000 (fun j => 0x3000 + 8 * j) fun _ => false) (.desc link 0 a (if link then 0x3000 else 4)) none) s with
    mem := (List.range 8).foldl (fun m j => memWrite m (0x3000 + 8 * j) 8 (v j)) [(0, 0x1F)] }

/-- The descriptor of BNBR that links edge slot 2 of block 4 with edge slot 3 of block 5, which read and write. -/
def linkWord (j : Nat) : Nat := [5 + 2 * 2 ^ 40 + 3 * 2 ^ 48 + 3 * 2 ^ 56, 0, 0, 64 * 2 ^ 32, 64 * 2 ^ 32, 0, 0, 0].getD j 0
def unlinked : Block := { block .defined with edges := Block.reset.edges, ssz := 4, hsz := 2 }
def linking : State := described true 4 linkWord ((front unlinked).modBlock 0 5 fun _ => unlinked)

theorem witness_BlocksAreDefinedAndLinked :
    (let s := front Block.reset
     ok (.bdef 3 11 5 0) [11, 5] [3] s = true ∧ s.me.get 5 = BitVec.ofNat 64 4 ∧ s.me.get 11 ≠ 0 ∧ (s.block 0 4).st = .free ∧
     ∀ j < 8, placeOf s .load (0x3000 + BitVec.ofNat 64 (8 * j)) 8 = some (0x3000 + 8 * j)) ∧
    (let s := front (block .done)
     ok (.bdef 3 7 5 0) [7, 5] [3] s = true ∧ s.me.get 7 = 0 ∧ (s.block 0 4).st = .done ∧ mayName s (s.block 0 4).dom = true ∧
     (∀ e ∈ (s.block 0 4).edges.toList, e.used = true → idModule e.nid = s.modId ∧ idCluster e.nid = 0) ∧
     (s.core 0).tvec ≠ 0) ∧
    (let s := described false 0x3000 defWord (front Block.reset)
     (∀ e ∈ descLoad 0x3000 (fun j => 0x3000 + 8 * j) (fun _ => false),
       elemAnswer s 0 1 e = some (.ok (defWord e.idx))) ∧ (s.block 0 4).st = .free ∧ (s.strand 0 0).mode = true ∧
     (∀ r ∈ [((0x10000 : Word), 256), (0x11000, 256), (0x12000, 1536)], ownRange s 0 (s.strand 0 0).rights r.1 r.2 = none) ∧
     s.modId < 2 ^ 17) ∧
    (let s := front (block .defined)
     ok (.bnbr 4 11 0) [4, 11] [] s = true ∧ blockOperand s (s.me.get 4) = some (0, 4) ∧ (s.me.get 11).toNat % 64 = 0) ∧
    (let w (j : Nat) : Word := BitVec.ofNat 64 (linkWord j)
     (4 : Word).toNat = blockId linking 0 4 ∧
     (∀ e ∈ descLoad 0x3000 (fun j => 0x3000 + 8 * j) (fun _ => false),
       elemAnswer linking 0 1 e = some (.ok (linkWord e.idx))) ∧ bits (w 0) 35 0 = blockId linking 0 5 ∧ linkBad w = false ∧
     (linking.block 0 4).st = .defined ∧ (linking.block 0 5).st = .defined ∧
     bits (w 4) 47 32 ≤ 64 * unlinked.hsz ∧ bits (w 3) 31 0 + bits (w 3) 47 32 ≤ 64 * unlinked.ssz) ∧
    (let s := front (block .idle)
     ok (.brule 4 9 0) [4, 9] [] s = true ∧ ok (.brule 4 8 0) [4, 8] [] s = true ∧
     s.me.get 9 = BitVec.ofNat 64 (0x10000 + 2 * 2 ^ 20) ∧ ((s.block 0 4).edge 2).used = true ∧
     ((s.block 0 4).edge 2).rd = true ∧ ruleNeed 0x10000 ≤ defaultNeed 4 1 ∧ ruleFree 0 = false ∧ idEntry edge.nid ≠ 4 ∧
     edge.peer < 6 ∧ ruleOvr 0x10004 = true ∧ defaultNeed 4 1 < ruleNeed 0x10004) := by decide +kernel

theorem test_bdef : ((go (.loadComplete 0 0) (described false 0x3000 defWord (front Block.reset))).block 0 4).upc = 0x6000 := by
  decide +kernel
theorem test_bnbr : let t := go (.loadComplete 0 0) linking
    ((t.block 0 4).edge 2).nid = 5 ∧ ((t.block 0 5).edge 3).nid = 4 ∧ ((t.block 0 5).edge 3).dst = 0x12000 + 512 := by
  decide +kernel
theorem test_brule_strict : (go (.brule 4 8 0) (front (block .idle))).me.xcause = 0x8000000000000016 := by decide +kernel

/-- The launch of queue 0 is of domain 7. -/
def launched (s : State) : State := { s with launches := [(0, ⟨0, 0, 0, 0, 0, 1, 1, false, false, 1, 7, 0, false, 0, 0⟩)] }

theorem witness_BlocksStepWhenTheRuleHolds :
    (let s := front (block .idle)
     (s.block 0 4).st = .idle ∧ (s.block 0 4).spanf = false ∧ (s.block 0 4).dom ∉ s.frozenDoms ∧
     (∀ j < 6, (levelDiff ((s.block 0 4).edge j).nl ((s.block 0 4).l + need (s.block 0 4) ((s.block 0 4).edge j))).natAbs < 2 ^ 30 ∧
       (levelDiff ((s.block 0 4).edge j).nlp (s.block 0 4).l).natAbs < 2 ^ 30 ∧
       (levelDiff (s.block 0 4).l ((s.block 0 4).edge j).nl).natAbs < 2 ^ 30)) ∧
    (let s := front (block .defined)
     ok (.bstart 4 6 0) [4, 6] [] s = true ∧ ok (.bstart 4 12 0) [4, 12] [] s = true ∧ (s.block 0 4).st = .defined ∧
     8 % (s.block 0 4).step = 0 ∧ 0 ≤ levelDiff 100 8 ∧ levelDiff 100 8 < 2 ^ 30 ∧ 0x40000008 % (s.block 0 4).step = 0 ∧
     2 ^ 30 - 100 < (levelDiff 100 0x40000008).natAbs ∧ (s.core 0).tvec ≠ 0 ∧ s.me.bound = none ∧
     2 ^ 30 ≤ (levelDiff 100 0x80000000).natAbs) ∧
    (let s := launched (front (block .idle))
     ok (.bnext 0) [] [1, 2, 3, 4, 5, 6, 7] s = true ∧ s.cur.2 < 8 ∧ s.me.bound = none ∧
     (∃ e ∈ (s.cluster 0).blocks, some e.2.dom = domainOf s s.me ∧
        e.2.st ∈ [BState.idle, .runnable, .running, .held, .frozen]) ∧
     (working (block .running)).me.bound.isSome = true) ∧
    (let s := working { block .running with phase := true }
     runsB (.bcommit 0) s = true ∧ runsB (.bfrzB 0) s = true ∧ ok (.bcommitC 0) [] [1, 2, 3, 4, 5, 6, 7] s = true ∧
     s.me.bound = some (0, 4) ∧ (s.block 0 4).phase = true ∧ (working (block .running)).me.bound = some (0, 4) ∧
     ((working (block .running)).block 0 4).phase = false ∧ quiet s 0 1 = true ∧ (s.block 0 4).ssz = 0 ∧
     (∀ j < 6, ((s.block 0 4).edge j).used = true → ((s.block 0 4).edge j).nv = true →
       (levelDiff ((s.block 0 4).l + (s.block 0 4).step) ((s.block 0 4).edge j).nl).natAbs < 2 ^ 30) ∧
     (s.core 0).tvec ≠ 0 ∧ (front (block .idle)).me.bound = none) := by decide +kernel

theorem witness_TimeFrontAndStealFormsComplete :
    (let s := front (block .defined)
     ok (.bstart 4 6 0) [4, 6] [] s = true ∧ blockOperand s (s.me.get 4) = some (0, 4) ∧ s.me.get 6 = BitVec.ofNat 64 8 ∧
     (s.block 0 4).st = .defined ∧ 8 % (s.block 0 4).step = 0 ∧ 0 ≤ levelDiff (s.block 0 4).endL 8 ∧
     levelDiff (s.block 0 4).endL 8 < 2 ^ 30) ∧
    (let s := launched (front (block .done))
     ok (.bnext 0) [] [1, 2, 3, 4, 5, 6, 7] s = true ∧ s.cur.2 < 8 ∧ s.me.bound = none ∧
     (∀ e ∈ (s.cluster 0).blocks, some e.2.dom = domainOf s s.me → e.2.st = .free ∨ e.2.st = .defined ∨ e.2.st = .done)) ∧
    (let s := working (block .running)
     s.me.bound = some (0, 4) ∧ ok (.bcommitC 0) [] [1, 2, 3, 4, 5, 6, 7] s = true ∧ (s.block 0 4).phase = false) ∧
    (let s := working { block .running with phase := true }
     s.me.bound = some (0, 4) ∧ runsB (.bcommit 0) s = true ∧ (s.block 0 4).phase = true ∧ quiet s 0 1 = true ∧
     (∀ e ∈ (s.block 0 4).edges.toList, e.used = true → e.nv = true →
       (levelDiff ((s.block 0 4).l + (s.block 0 4).step) e.nl).natAbs < 2 ^ 30) ∧
     runsB (.bfrzB 0) s = true ∧ runsB (.bfrzB 0) (working (block .held)) = true ∧
     ((working (block .held)).block 0 4).st = .held) := by decide +kernel

theorem witness_StealFormsComplete :
    (stealing (.stealRequest 0 1) [⟨task, none⟩] access).flight[0]? = some (.stealRequest 0 1) ∧
    (stealing (.stealRecord 0 1 7 task) [] access).flight[0]? = some (.stealRecord 0 1 7 task) ∧
    (stealing (.stealEmpty 0 1) [] access).flight[0]? = some (.stealEmpty 0 1) ∧
    (stealing (.stealAck 0 1 7) [⟨task, some (7, 0)⟩] access).flight[0]? = some (.stealAck 0 1 7) ∧
    stolen.flight[0]? = some (.stealConfirm 0 1) ∧ (stolen.core 0).stolen = some task ∧ task.pc &&& 3 = 0 ∧
    (stealing (.stealVoid 0 1) [] access).flight[0]? = some (.stealVoid 0 1) ∧
    (let s := { stealing (.stealVoid 0 1) [⟨task, some (7, 0)⟩] access with cyc := 4096 }
     ∃ e ∈ (s.core 1).deque, e.lent = some (7, 0) ∧ (0 : Nat) + 4096 ≤ s.cyc) := by decide +kernel

theorem test_bfrzb_held : let t := go (.bfrzB 0) (working (block .held))
    t.me.xpc = 0x900 ∧ t.me.pc = 0x1004 ∧ t.me.bound = none ∧ (t.block 0 4).phase = false := by decide +kernel

theorem test_settle : ((settle 0 (front (block .idle))).block 0 4).st = .runnable ∧
    ((settle 0 (front { block .idle with edges := Block.reset.edges.set 2 { edge with nl := 3 } })).block 0 4).st = .idle := by
  decide +kernel
theorem test_bcommit : let t := go (.bcommit 0) (working { block .running with phase := true })
    (t.block 0 4).l = 8 ∧ (t.block 0 4).lp = 4 ∧ (t.block 0 4).cur = true ∧ t.me.pc = 0x904 := by decide +kernel

/-- A freeze of domain 7 is in progress; a strand waits for it. -/
def freezing (b : Block) : State :=
  { waits (.bfrzD 7 3) (front b) with freezes := [⟨7, 0, [], 0⟩], frozenDoms := [7], cyc := 4096 }

theorem witness_DomainsFreezeAndThaw :
    (let s := front (block .idle)
     ok (.blvl 3 4 0) [4] [3] s = true ∧ blockOperand s (s.me.get 4) = some (0, 4) ∧ ok (.blvl 3 10 0) [10] [3] s = true ∧
     blockOperand s (s.me.get 10) = none ∧ (s.core 0).tvec ≠ 0 ∧ ok (.bfrzD 3 10 0) [10] [3] s = true ∧
     ok (.bthaw 10 0) [10] [] s = true ∧ s.me.get 10 = BitVec.ofNat 64 7 ∧ s.me.mode = true ∧ 7 ∉ s.frozenDoms ∧ s.freezes = [] ∧
     7 ∈ (freezing (block .running)).frozenDoms ∧ (∃ f ∈ (freezing (block .running)).freezes, f.dom = 7)) ∧
    (let s := front { block .done with edges := Block.reset.edges }
     ok (.bfront 3 11 10 0) [11, 10] [3] s = true ∧ mayName s 7 = true ∧ (s.me.get 11).toNat % 64 = 0 ∧
     domainImages s 7 ≠ [] ∧ domainImages (front Block.reset) 7 = [] ∧ quiet s 0 1 = true ∧ (s.core 0).sb.length ≤ 32 ∧
     (∀ m < 1, ∀ j < 64, placeOf s (.store none) (0x3000 + BitVec.ofNat 64 (512 * m) + BitVec.ofNat 64 (8 * j)) 8 =
       some (0x3000 + 512 * m + 8 * j)) ∧ (s.me.get 5).toNat % 64 ≠ 0 ∧ ok (.bfront 3 5 10 0) [5, 10] [3] s = true) ∧
    (let s := freezing (block .running)
     s.freezes = [⟨7, 0, [], 0⟩] ∧ 0 + (s.cluster 0).fdrain ≤ s.cyc ∧ (⟨7, 0, [], 0⟩ : Freeze).dom = 7 ∧
     4095 < 0 + (s.cluster 0).fdrain) := by decide +kernel

theorem witness_FreezeCompletes :
    (let s := { freezing (block .frozen) with freezes := [⟨7, 0, [0], 0⟩] }
     tabRising s.cores = true ∧ s.waiting 0 0 = some (.bfrzD 7 3) ∧
     (∀ x ∈ s.clusters, ∀ b ∈ x.2.blocks, b.2.st ≠ .free → b.2.dom = 7 → x.1 ∈ [0]) ∧
     (∀ x ∈ s.clusters, x.2.faceQ = []) ∧
     (∀ b ∈ (s.cluster 0).blocks, b.2.dom = 7 → b.2.pushes = 0 ∧ b.2.st ≠ .running ∧ b.2.st ≠ .held)) := by decide +kernel

theorem test_blvl : (go (.blvl 3 4 0) (front (block .idle))).me.get 3 = 0x20200000004 := by decide +kernel
theorem test_bfrzd : let t := go (.bfrzD 3 10 0) (front (block .idle))
    (t.block 0 4).st = .frozen ∧ t.waiting 0 0 = some (.bfrzD 7 3) := by decide +kernel

/-- A push of edge slot 2 of block 4 is at the head of the face queue. -/
def push (off : Nat) : Command :=
  { command with uid := 0, fill := none, len := 64, off := off, src := 0x100000000, face := some ⟨4, 2, 5, 3, 8, 4, false, 0, 7⟩, started := true }
def facing (off : Nat) : State := (front (block .idle)).modCluster 0 fun k => { k with faceQ := [.cmd (push off)] }

/-- One message is on its way to block 4. -/
def told (b : Block) (m : Msg) : State := { front b with flight := [m] }

/-- A half link from block 5. -/
def half : HalfLink := ⟨5, 3, true, true, 0, 0, 64, 2, 2, 0x12000, false, 7, 64, 0, 5, 0x3000⟩

theorem witness_TheFrontMovesByItsMessages :
    (let s := waits .bnext (launched (front (block .runnable)))
     (nextDispatch s 0).1 = some (4, 0, 0) ∧ tabRising (s.cluster 0).blocks = true ∧
     (∀ x ∈ (s.cluster 0).blocks, x.2.l < 2 ^ 30)) ∧
    (getQ (facing 64) 0 6 = .cmd (push 64) :: [] ∧ (push 64).len ≤ (push 64).off ∧ settled true (facing 64) (push 64).cid = true ∧ (push 0).status = none ∧
      (push 0).sync = none ∧ (push 0).started = true ∧ ((facing 0).block 0 4).defn = 0 ∧ (push 0).off < (push 0).len ∧
      nextTurn (facing 0) 0 = some 0 ∧ rotationQ 0 = 6 ∧ causeOf (facing 0) .load 0x100000000 1 = some .pageFault) := by decide +kernel

theorem witness_MessagesReachTheirBlock :
    (blockAt (front (block .idle)) 4 = some (0, 4) ∧ edge.nid = 5 ∧
      (∀ m ∈ [Msg.level 4 2 5 12 8 false, .linkClear 4 2 5 9, .rfree 4 2 5 true 9, .linkInstall 4 2 half 9],
        (told (block .idle) m).msg 0 = some m) ∧ linkCrosses (told unlinked (.linkInstall 4 2 half 9)) 0 4 2 half = false ∧
      wasPerformed (told unlinked (.linkInstall 4 2 half 9)) 0 (sendNo 9) = false ∧ idModule 5 = 0 ∧ namesBlock unlinked half.nid = false ∧
      namesBlock { unlinked with edges := unlinked.edges.set 1 { Edge.reset with used := true, nid := half.nid } } half.nid = true ∧
      unlinked.st = .defined ∧ unlinked.dom = half.dom ∧ (unlinked.edge 2).used = false ∧
      half.flenOther ≤ 64 * unlinked.hsz ∧ half.soff + half.flen ≤ 64 * unlinked.ssz ∧ ruleOvr half.rule = false) ∧
    (let s := { front (block .idle) with flight := [.level 4 2 5 12 8 false, .level 4 2 5 16 12 false] }
     s.flight[1]? = some (.level 4 2 5 16 12 false) ∧ .level 4 2 5 12 8 false ∈ s.flight.take 1) := by decide +kernel

theorem witness_AnswersReachTheirWaiter :
    (∀ left ∈ [[(9, 3)], [(9, 3), (10, 0)]],
      (let s := waits (.confirm [] left (some 3) (some 4)) (told (block .done) (.confirm 9 3))
       s.flight[0]? = some (.confirm 9 3) ∧ waiterOf s 9 = some (0, 0, .confirm [] left (some 3) (some 4)))) ∧
    (([(9, 3)] : List (Nat × Nat)).filter (fun y => y.1 != 9) = [] ∧
      ([(9, 3), (10, 0)] : List (Nat × Nat)).filter (fun y => y.1 != 9) ≠ []) ∧
    (∀ m ∈ [Msg.linkRefused 9 0 ⟨.illOperand, 5, 0⟩, .linked 9 0 5 2 2 0x12000],
      (let s := waits (.link 9 4 2 edge 0) (told (block .done) m)
       s.flight[0]? = some m ∧ waiterOf s 9 = some (0, 0, .link 9 4 2 edge 0) ∧ (s.core 0).tvec ≠ 0)) ∧
    ((block .done).edge 2).used = true ∧ unlinked.st ≠ .free ∧ unlinked.defn = 0 ∧ (unlinked.edge 2).used = false ∧
    namesBlock unlinked edge.nid = false ∧
    isFpCause .illOperand = false := by decide +kernel

theorem test_link_refused : ((go (.asterConfirm 0) (waits (.link 9 4 2 edge 0) (told unlinked (.linkRefused 9 0 ⟨.illOperand, 5, 0⟩)))).block
    0 4).edge 2 = unlinked.edge 2 := by decide +kernel

theorem test_dispatch : let t := go (.asterDispatch 0) (waits .bnext (launched (front (block .runnable))))
    (t.block 0 4).st = .running ∧ t.me.pc = 0x6000 ∧ t.me.get 1 = 4 ∧ t.me.get 3 = 4 ∧ t.me.bound = some (0, 4) := by decide +kernel
theorem test_level : let t := go (.levelNotification 0) (told (block .idle) (.level 4 2 5 12 8 true))
    (t.block 0 4).edge 2 = { edge with nl := 12, nlp := 8, ndone := true } := by decide +kernel

/-! ## The host, launches and pre-emption -/

/-- The module has booted, and queue 5 is enabled with 16 packets of room; MAP0 binds it or not. -/
def hosted (bound : Bool) : State :=
  { State.reset with
    bootst := 0x103, queues := [(5, ⟨4, false, 0x100, true, 0, false, 1, 0, none⟩)]
    maps := if bound then State.reset.maps.set 0 0x8005 else State.reset.maps }

theorem witness_HostWritesMapTheQueues :
    (settled true (hosted false) 0 = true ∧ settled true (launched (hosted false)) 0 = true ∧
      bitAt (hosted false).bootst 8 = true ∧ ((hosted false).queue 5).en = true ∧ ((hosted false).queue 4).en = false ∧
      ((hosted false).queue 5).err = false ∧ bits (0x8000000000000004 : Word) 4 0 ≤ 16 ∧
      bitAt (0x8000000000000004 : Word) 63 = true ∧ 16 < bits (17 : Word) 4 0 ∧ bitAt (0x4 : Word) 63 = false ∧
      (∃ l ∈ (launched (hosted false)).launches, l.2.queue = 0)) ∧
    (boundSlot (hosted false) 5 = none ∧ boundSlot (hosted true) 5 = some 0 ∧ (hosted false).mapWait = [] ∧
      mapBound ((hosted false).map_ 0) = false ∧ (hosted false).launch 0 = none ∧
      2 ^ 4 < ((17 : Nat) + 2 ^ 16 - 0) % 2 ^ 16 ∧
      (∀ m < 32, runDry { hosted false with queues := tabSet (hosted false).queues 5 { (hosted false).queue 5 with err := true } } m =
        false) ∧ ((hosted false).queue 5).tail ≠ ((hosted false).queue 5).head ∧
      (∀ m < 32, runDry { hosted false with queues := tabSet (hosted false).queues 5 { (hosted false).queue 5 with tail := 2 } } m =
        false) ∧
      runDry { hosted true with queues := [(5, ⟨4, false, 0x100, true, 1, false, 1, 1, none⟩)] } 0 = true) ∧
    (bits (0x8005 : Word) 63 16 = 0 ∧ bits (0x8005 : Word) 13 10 = 0 ∧ mapBound 0x8005 = true ∧ mapQueue 0x8005 = 5 ∧
      ((launched (hosted false)).launch 0).isSome = true ∧ boundSlot (hosted true) 5 ≠ some 1) ∧
    (bits (0x40000 : Word) 63 43 = 0 ∧ bits (0x40000 : Word) 17 0 = 0 ∧ (hosted false).launches = [] ∧
      (launched (hosted false)).launches ≠ [] ∧ bits (1 : Word) 17 0 ≠ 0) ∧
    ((rangeOf (localPart hbm)).any Range.translated = true ∧ isOwn access hbm = true ∧
      (match walk access (localPart hbm) with | .leaf _ _ _ => true | .fault _ _ => false) = true ∧
      (match walk access (localPart 0x100000000) with | .leaf _ _ _ => false | .fault _ _ => true) = true ∧
      (access.cluster 0).tlb.length < 512) := by decide +kernel

theorem test_notify_binds : (go (.queueNotify 5 1) { hosted false with queues := [(5, ⟨4, false, 0x100, true, 0, false, 0, 0, none⟩)] }).map_ 0 =
    0x8005 := by decide +kernel
theorem test_notify_overfull : ((go (.queueNotify 5 17) (hosted false)).queue 5).err = true := by decide +kernel

/-- The packet at the head of queue 5: entry 0x9000, image 0, cores 0 and 1, two strands each, and no completion. -/
def packeted (per : Nat) : State :=
  { hosted true with mem := [(0x4001, 0x90), (0x4012, 2)] ++ (if per = 0 then [] else [(0x4018, BitVec.ofNat 8 per)]) }

/-- A launch on core 0 whose one strand is idle, or saved. -/
def running : Launch := ⟨5, 1, 0x9000, 0, 0, 1, 1, false, false, 1, 7, 0, false, 0, 0⟩
def ending (l : Launch) : State := { waits .idle (machine (strand [])) with launches := [(0, l)], queues := (hosted true).queues }

theorem witness_LaunchesRunToTheirCompletion :
    (∀ per ∈ [0, 2], (let s := packeted per
      bitAt s.bootst 8 = true ∧ s.fatal = false ∧ mapBound (s.map_ 0) = true ∧ s.launch 0 = none ∧ mapQueue (s.map_ 0) = 5 ∧
      queueBusy s 5 = false ∧ (s.queue 5).en = true ∧ (s.queue 5).err = false ∧ (s.queue 5).disabling = none ∧
      (s.queue 5).head ≠ (s.queue 5).tail ∧ s.mem.wf = true ∧ s.held = [] ∧ s.read (64 * 0x100) 8 = 0x9000 ∧
      s.read (64 * 0x100 + 0x10) 8 = 2 * 2 ^ 16 ∧ s.read (64 * 0x100 + 0x18) 8 = per ∧ s.read (64 * 0x100 + 0x20) 8 = 0 ∧
      ∀ c < 2, (s.core c).arr = [] ∧ (s.core c).reserved = [] ∧ tierLoad s .queue c + 2 ≤ 16)) ∧
    (let s := ending running
     kernelDone s 0 running = true ∧ s.launch 0 = some running ∧ (s.pctlOf 0).busy = false ∧ tabRising s.launches = true ∧
     s.flight = [] ∧ s.pending = [] ∧ s.stale = [] ∧ s.clusters = [] ∧ s.dies = [] ∧ (s.core 0).deque = [] ∧ (s.core 0).arr = [] ∧
     (s.core 0).sb = [] ∧ (s.core 0).spill = [] ∧ (s.core 0).avgQ = [] ∧ running.away = 0) ∧
    (let l := { running with compl := hbm }
     let s := { ending l with mem := [(0, 0x1F)] }
     placeOf s (.store none) hbm 8 = some 0x2000 ∧ s.me.mode = true ∧ s.regions = [] ∧ kernelDone s 0 l = true) ∧
    (kernelDone (ending { running with check := true }) 0 { running with check := true } = true ∧
      runDigest (ending { running with check := true, second := true }) { running with check := true, second := true } ≠
        1) := by decide +kernel

theorem test_launch_start : let t := go (.launchStart 0) (packeted 2)
    (t.core 1).arr.map (fun e => (e.strand.pc, e.strand.idx, e.strand.get 2)) = [(0x9000, 0, 2), (0x9000, 1, 3)] := by decide +kernel
theorem test_kernel_completion : (go (.kernelCompletion 0) { ending { running with compl := hbm } with mem := [(0, 0x1F)] }).read 0x2000 8 =
    0x10001 := by decide +kernel

/-- A pre-emption of the launch is in progress. -/
def preempting (reached : List Nat) (op : WaitOp) : State :=
  { waits op (machine (strand [])) with launches := [(0, running)], pctl := [(0, ⟨1, true, 0, 0, reached, true⟩)], frozenDoms := [7] }

/-- The launch is saved with its one strand. -/
def saved : State :=
  { machine (strand []) with saved := [(0, ⟨running, [(0, strand [(3, 9)])], 0x40000, [], [], [], [], [], true⟩)], frozenDoms := [7] }

theorem witness_PreemptionSavesAndResumes :
    (let s := ending running
     s.launch 0 = some running ∧ (s.pctlOf 0).busy = false ∧ tabFind s.saved 0 = none ∧ settled true s 0 = true ∧ running.domain ∉ s.frozenDoms ∧
     running.domain ∈ { s with frozenDoms := [7] }.frozenDoms) ∧
    (let s := preempting [] .bnext
     s.launch 0 = some running ∧ (s.pctlOf 0).busy = true ∧ (s.pctlOf 0).op = 1 ∧ 0 ∉ (s.pctlOf 0).reached ∧ s.freezes = [] ∧
     (s.strand 0 0).q = 0 ∧ s.waiting 0 0 = some .bnext ∧ ∀ i < 8, i ≠ 0 → s.waiting 0 i = none) ∧
    (let s := preempting [0] .idle
     saveReady s 0 running = true ∧ tabRising s.launches = true ∧ (s.slot 0 0).state ≠ .empty ∧
     saveReady (preempting [] .idle) 0 running = false) ∧
    (settled true saved 0 = true ∧ (tabFind saved.saved 0).isSome = true ∧ (saved.pctlOf 0).busy = false ∧ saved.launch 0 = none ∧ tabRising saved.saved = true) := by
  decide +kernel

theorem test_preempt_reaches : ((go (.preemptRequestArrival 0 0) (preempting [] .bnext)).slot 0 0).state = .ready := by decide +kernel
/-- The launch is on its way back. -/
def resuming : State := (resume 0 saved).getD saved

theorem witness_ResumptionCompletes : (tabFind resuming.saved 0).isSome = true ∧ (resuming.pctlOf 0).busy = true ∧
    (resuming.pctlOf 0).op = 2 ∧ returns resuming 0 = false ∧ tabRising resuming.saved = true := by decide +kernel
theorem test_resume : (resumeComplete 0 resuming).isSome = true ∧
    (let t := (resumeComplete 0 resuming).getD resuming
     t.frozenDoms = [] ∧ (t.core 0).arr.map (fun e => e.strand.get 3) = [9]) := by decide +kernel

/-! ## The host port, links, errors, power -/

/-- A multicast line of module 3 is on its way, and module 0 waits for the answers of its own. -/
def multicast : State := { hosted true with flight := [.multicast 3 8 0x5000 (List.replicate 64 3)], mcctl := 0x200, mcWait := 2 }

theorem witness_TheHostPortReadsAndWrites :
    bitAt (hosted true).bootst 8 = true ∧ tabFind (hosted true).saved 0 = none ∧ (tabFind saved.saved 0).isSome = true ∧
    bitAt ({ saved with bootst := 0x103 }).bootst 8 = true ∧ 0x10 % 8 = 0 ∧ 0x10 + 8 ≤ 2 ^ 36 ∧
    (hosted true).apbase.toNat + 0x10 + 8 ≤ 0x30000000000 ∧
    0x30000000000 < ({ hosted true with apbase := 0x30000000000 }).apbase.toNat + 0x10 + 8 ∧
    (hosted true).log.length < 4096 ∧ bitAt (0x101 : Word) 8 = true ∧ bitAt (hosted true).mcctl 9 = false ∧
    poisoned (hosted true) 0 64 = false ∧ bitAt multicast.mcctl 9 = true ∧
    multicast.mcWait ≠ 0 ∧ settled true (hosted true) 0 = true ∧ walkedPages multicast (linesOfRange 0x5000 64) = [] ∧
    multicast.flight[0]? = some (.multicast 3 8 0x5000 (List.replicate 64 3)) ∧ wasPerformed multicast 3 (multicastNo 8) = false ∧
    wasPerformed { multicast with performed := [(3, multicastNo 8, 0)] } 3 (multicastNo 8) = true ∧ (0x5000 : Nat) % 64 = 0 ∧ (0x5001 : Nat) % 64 ≠ 0 ∧
    (List.replicate 64 (3 : Byte)).length = 64 ∧ 0x5000 + 64 ≤ 0x30000000000 ∧ 0x7FFFFFFFFC0 + 64 ≤ 0x80000000000 ∧ ¬0x7FFFFFFFFC0 + 64 ≤ 0x30000000000 ∧
    (hosted true).attBusy = false ∧
    ({ hosted true with attBusy := true }).attBusy = true ∧ bitAt State.reset.bootst 8 = false ∧
    bits State.reset.bootst 7 4 = 0 ∧ bits State.reset.bootst 3 0 ≤ 1 ∧ bits ({ State.reset with bootst := 2 }).bootst 3 0 = 2 ∧
    ((hosted true).pctlOf 0).busy = false ∧ ((preempting [] .idle).pctlOf 0).busy = true ∧
    bitAt ({ preempting [] .idle with bootst := 0x103 }).bootst 8 = true ∧ bits (3 : Word) 1 0 = 3 ∧ settled true ({ preempting [] .idle with bootst := 0x103 }) 0 = true ∧
    settled true ({ saved with bootst := 0x103 }) 0 = true ∧ (State.reset.firmware = []) ∧ State.reset.closing = false ∧
    0x40000000000 ≤ 0x7FFFFFFFFFF ∧
    0x7FFFFFFFFFF + [(1 : Byte)].length ≤ 0x80000000000 := by decide +kernel

/-- One word of a host's write of its own memory. -/
def hostWrites : State :=
  match step { State.reset with agenda := [.hostWrite 0x40000000000 [1, 2]] } with
  | .next t => t
  | .fault _ => State.reset
  | .refused _ => State.reset

theorem test_host_write : memByte hostWrites.mem 0x40000000001 = 2 := by decide +kernel

theorem test_aperture : (go (.apertureRead 0x11 1) { hosted true with mem := [(0x11, 7)] }).hostRead = 7 := by decide +kernel
theorem test_boot : (go (.boot 3 0) { State.reset with bootst := 2 }).bootst = 0x103 := by decide +kernel

/-- Port 2 is up, to module 3 of the own domain, or of another. -/
def cabled (dom : Nat) : State :=
  { machine (strand [(3, 5)]) with links := [(2, { Link.reset with up := true, far := 3, dom := dom })], peers := if dom = 0 then [3] else [], cyc := 2400 }

theorem witness_LinksAndErrorsAreHandled :
    (2 < Config.ports ∧ ((cabled 0).link 2).up = true ∧ ((cabled 0).link 1).up = false ∧
      ((cabled 0).link 2).dom = (cabled 0).domain ∧ ((cabled 1).link 2).dom ≠ (cabled 1).domain ∧
      ((cabled 0).link 2).heard + 2400 ≤ (cabled 0).cyc ∧ State.reset.cyc < (State.reset.link 2).heard + 2400 ∧
      atPort 2 (.confirm 9 3) = .confirm 9 3 ∧ reachesAgent (.confirm 9 3) = true ∧
      sameDomain ((cabled 0).link 2) (cabled 0) (.confirm 9 3) = true ∧ sameDomain ((cabled 1).link 2) (cabled 1) (.confirm 9 3) = false ∧
      ((cabled 0).link 2).frames + 1 < 2 ^ 48 ∧ (((cabled 0).modLink 2 fun l => { l with frames := 2 ^ 48 - 1 }).link 2).frames + 1 = 2 ^ 48 ∧ (cabled 0).log.length < 4096 ∧
      ((cabled 0).link 2).retry = false ∧ (((cabled 0).modLink 2 fun l => { l with retry := true }).link 2).retry = true) ∧
    (wired 0 2 (Config.ports) = false ∧ (groupPort 0 2).any (wired 0 2) = true) ∧
    (bits (3 : Word) 16 0 ≠ (cabled 0).modId ∧ bits (0 : Word) 16 0 = (cabled 0).modId ∧ (cabled 0).pending = [] ∧ settled true (cabled 0) 0 = true ∧
      (cabled 0).mcLines = [] ∧ (∀ x ∈ (cabled 0).cores, x.2.claims = []) ∧
      (cabled 0).clusters = [] ∧ (cabled 0).dies = [] ∧ ∀ n < 8, (cabled 0).waiting 0 n = none) ∧
    (((cabled 0).slot 0 0).state = .ready ∧ ((cabled 0).strand 0 0).isEmpty 3 = false ∧ ((cabled 0).core 0).tvec ≠ 0 ∧
      (cabled 0).fatal = false ∧ (cabled 0).mem.wf = true ∧ (cabled 0).held = []) ∧
    ((cabled 0).cyc < (cabled 0).minute + 144000000000 ∧
      ({ cabled 0 with cyc := 144000000000 }).minute + 144000000000 ≤ ({ cabled 0 with cyc := 144000000000 }).cyc) := by
  decide +kernel

/-- The states of the clause of MODULE_REMOVE. -/
theorem witness_RemovalEndsRequests :
    (let s := { linked 0 (fun l => { l with unacked := [(packet, 0)] }) [] with cores := [] }
     0 < Config.ports ∧ (s.link 0).far = 3 ∧ (s.link 0).unacked = [(packet, 0)] ∧ s.links.map Prod.fst = [0] ∧
     (tabFind s.regions 0).isSome = true ∧ (regionAt s packet.va).map Prod.fst = some 0 ∧ s.pending = [] ∧ s.mcLines = [] ∧
     s.clusters = [] ∧ s.dies = [] ∧ settled true s 0 = true ∧ bits (3 : Word) 16 0 ≠ s.modId) ∧
    (remoteLoad.pending = [asked 5 false] ∧ (asked 5 false).module = 3 ∧ remoteLoad.find 1 = some (0, 0) ∧ remoteLoad.mcLines = [] ∧
      remoteLoad.clusters = [] ∧ remoteLoad.dies = [] ∧ (∀ x ∈ remoteLoad.cores, x.2.claims = []) ∧
      remoteLoad.cores.map Prod.fst = [0] ∧ (∀ n < 9, n ≠ 0 → remoteLoad.waiting 0 n = none) ∧
      settled true remoteLoad 0 = true ∧ bits (3 : Word) 16 0 ≠ remoteLoad.modId) := by decide +kernel

theorem test_register_error : let t := go (.registerEccError 0 0 3 9) (cabled 0)
    t.me.xcause = 0x800000000000001F ∧ t.me.get 3 = 0 ∧ t.me.xaux = 9 := by decide +kernel
/-- Module 3 is removed: a load that waits for it ends, and the escrow toward it is forfeited. -/
theorem test_module_removed :
    (go (.moduleRemove 3) remoteLoad).me.xcause = 0x8000000000000018 ∧ (go (.moduleRemove 3) remoteLoad).me.xaux = 3 ∧
    (((go (.moduleRemove 3) (linked 0 (fun l => { l with unacked := [(packet, 0)] }) [])).regions.head?.map fun x => x.2.forfeit[0]) =
      some 0x300000000) := by decide +kernel
/-- VINS v0, g3 with g3 lost: the guard has passed, so the in-use flag is set (R105). -/
theorem test_register_error_sets_viu :
    (go (.registerEccError 0 0 3 9) { paged (strand [(3, 5)]) with
      mem := memWrite [(0, 0x1F)] 0x1000 4 (encode (.vins 0 3 0 1 0)).toNat }).me.viu = true := by decide +kernel
theorem test_retried_frame_ends_link :
    let s := cabled 0
    ((go (.linkFrame 2 false []) s).link 2).up = true ∧
      ((go (.linkFrame 2 false []) (go (.linkFrame 2 false []) s)).link 2).up = false := by decide +kernel
theorem test_link_frame : (go (.linkFrame 2 true [.confirm 9 3]) (cabled 1)).latecnt = 1 := by decide +kernel

/-- Core 0 stands at a point of its gating, in cycle 16,384. -/
def gatingAt (g : Gating) : State := { State.reset.modCore 0 fun k => { k with gating := g } with cyc := 16384 }

theorem witness_CoresAreGatedAndTheModuleResets :
    (((gatingAt .ungated).core 0).idleSince = some 0 ∧ eligible ((gatingAt .ungated).core 0) = true ∧
      0 + 16384 ≤ (gatingAt .ungated).cyc ∧ ({ gatingAt .ungated with cyc := 16383 }).cyc < 0 + 16384) ∧
    ((gatingAt (.gating 0 false false)).core 0).gating = .gating 0 false false ∧ 0 + 64 ≤ (gatingAt .gated).cyc ∧
    ((gatingAt (.gating 16350 false false)).core 0).gating = .gating 16350 false false ∧ (gatingAt .gated).cyc < 16350 + 64 ∧
    ((gatingAt (.gating 0 true true)).core 0).gating = .gating 0 true true ∧ 0 + 96 ≤ (gatingAt .gated).cyc ∧
    ((gatingAt (.waking 0)).core 0).gating = .waking 0 ∧ 0 < (gatingAt .gated).cyc ∧ (gatingAt .gated).mem.wf = true := by
  decide +kernel

theorem test_wake_at_64 :
    ((go (.wakeEvent 0) (gatingAt (.gating 16320 false false))).core 0).gating = .gating 16320 false true ∧
    ((go (.wakeEvent 0) (gatingAt (.gating 16321 false false))).core 0).gating = .ungated := by decide +kernel
theorem test_gated_waking : ((go (.gated 0) (gatingAt (.gating 0 true true))).core 0).gating = .waking 16384 := by decide +kernel

/-! ## Steps -/

/-- The word of MOVI g3, 5 stands at the PC, and nothing but its issue can happen. -/
def stepping : State :=
  { paged (strand []) with mem := memWrite [(0, 0x1F)] 0x1000 4 (encode (.movi 3 5 0)).toNat, cyc := 1 }

theorem witness_AStepRunsTheDecodedInstruction :
    ({ stepping with agenda := [.issue 0] }.agenda = .issue 0 :: [] ∧ stepping.closing = false ∧ limitOf (.loadComplete 0 0) = none ∧
      (limitOf (.recvWaitLimit 0 0)).isSome = true ∧ happensLast stepping (.happen (.recvWaitLimit 0 0)) = true ∧
      happensLast stepping (.happen (.loadComplete 0 0)) = false ∧ pickSlot stepping 0 = some 0 ∧
      happensHeld (.happen .moduleReset) = true ∧ happensHeld (.happen (.loadComplete 0 0)) = false ∧
      ({ stepping with fatal := true }).fatal = true) ∧
    (stepping.agenda = [] ∧ stepping.fatal = false ∧ (firstEvent (earlyEvents stepping) stepping).isNone = true ∧
      (firstResume stepping).isNone = true ∧ firstIssue stepping = some (0, 0)) ∧
    placeOf stepping .fetch stepping.me.pc 4 = some 0x1000 ∧ poisoned stepping 0x1000 4 = false ∧
    bytesHeld stepping 0 0x1000 4 = (encode (.movi 3 5 0)).toNat := by decide +kernel

theorem witness_fetched : fetchWord stepping = .ok (encode (.movi 3 5 0)) ∧ decode (encode (.movi 3 5 0)) = .ok (.movi 3 5 0) := by
  refine ⟨?_, rfl⟩
  have h : (match fetchWord stepping with
    | .ok w => w == encode (.movi 3 5 0)
    | .error _ => false) = true := by decide +kernel
  split at h
  · rename_i w hw; rw [hw, eq_of_beq h]
  · exact absurd h (by simp)

theorem witness_DecodeUndoesEncode : (Instr.movi 3 5 0).Encodable := by decide +kernel
theorem witness_EncodeUndoesDecode : decode 0x67144030 = .ok (.std 12 5 256 0) := rfl

theorem witness_StepsKeepMemoryCanonical : State.reset.mem.wf = true ∧
    (match step State.reset with | .next t => t.mem.wf | .fault _ => false | .refused _ => false) = true := by decide +kernel

/-- The host's question: right after reset, an instruction placed where the next step fetches it is the one that runs. -/
theorem test_first_instruction :
    (match step (State.reset.withFetchWord 32 (encode (.movi 3 5 0)).toNat) with
      | .next t => t.me.get 3 == 5 && t.me.pc == 0x10004
      | .fault _ => false
      | .refused _ => false) = true := by decide +kernel

end Sys2Proof.Tests
end

section
/-! PROOF. The bits of a field, and what replacing a bit or a field leaves of a word. -/

namespace Sys2Proof.Machine

theorem testBit_bits {w : Nat} (x : BitVec w) (hi lo j : Nat) :
    (bits x hi lo).testBit j = (decide (j < hi + 1 - lo) && x.getLsbD (lo + j)) := by
  rw [bits, Nat.testBit_mod_two_pow, Nat.testBit_shiftRight, BitVec.testBit_toNat]

/-- The lowest field of a word. -/
theorem bits_low {w : Nat} (x : BitVec w) (hi : Nat) : bits x hi 0 = x.toNat % 2 ^ (hi + 1) := rfl

theorem getLsbD_oneBit {w i : Nat} (hi : i < w) (j : Nat) : (BitVec.ofNat w (2 ^ i)).getLsbD j = decide (j = i) := by
  rw [BitVec.getLsbD_ofNat, Nat.testBit_two_pow]
  by_cases h : j = i
  · simp [h, hi]
  · simp [h, Ne.symm h]

theorem getLsbD_setBit {w : Nat} (x : BitVec w) {i : Nat} (hi : i < w) (b : Bool) (j : Nat) :
    (setBit x i b).getLsbD j = if j = i then b else x.getLsbD j := by
  cases b with
  | true =>
    rw [setBit, if_pos rfl, BitVec.getLsbD_or, getLsbD_oneBit hi]
    by_cases h : j = i <;> simp [h]
  | false =>
    rw [setBit, if_neg Bool.false_ne_true, BitVec.getLsbD_and, BitVec.getLsbD_not, getLsbD_oneBit hi]
    by_cases h : j = i
    · simp [h]
    · simpa [h] using fun hx => BitVec.lt_of_getLsbD hx

/-- A field that lies below a bit does not depend on it. -/
theorem bits_setBit_above {w : Nat} (x : BitVec w) {hi lo i : Nat} (h : hi < i) (hw : i < w) (b : Bool) :
    bits (setBit x i b) hi lo = bits x hi lo := by
  refine Nat.eq_of_testBit_eq fun j => ?_
  rw [testBit_bits, testBit_bits, getLsbD_setBit x hw]
  by_cases hj : j < hi + 1 - lo
  · rw [if_neg (by omega)]
  · simp [hj]

theorem getLsbD_setField {w : Nat} (x : BitVec w) {lo n : Nat} (h : lo + n ≤ w) (v i : Nat) :
    (setField x lo n v).getLsbD i = if lo ≤ i ∧ i < lo + n then v.testBit (i - lo) else x.getLsbD i := by
  simp only [setField, BitVec.getLsbD_or, BitVec.getLsbD_and, BitVec.getLsbD_not, BitVec.getLsbD_ofNat,
    Nat.testBit_shiftLeft, Nat.testBit_two_pow_sub_one, Nat.testBit_mod_two_pow]
  by_cases hi : lo ≤ i ∧ i < lo + n
  · have h1 : i < w := by omega
    have h2 : i - lo < n := by omega
    simp [hi, h1, h2]
  · rw [if_neg hi]
    by_cases hw : i < w
    · by_cases hl : lo ≤ i
      · have : ¬i - lo < n := by omega
        simp [hw, this]
      · simp [hw, hl]
    · rw [BitVec.getLsbD_of_ge x i (by omega)]
      simp [hw]

end Sys2Proof.Machine
end

section
/-! PROOF. What a write leaves where no ordered atomic is held and no ring descriptor is met (R152, R211, R221, R268, R317). -/

namespace Sys2Proof.Machine

/-- No ring descriptor lies below the cluster stores. -/
theorem ringWordAt_below {a : Nat} (h : a < csBase) : ringWordAt a = none := by
  rw [ringWordAt, if_pos (Or.inl h)]

/-- With no ordered atomic held, a write has nothing to apply or refuse. -/
theorem ordSweep_none {t : State} (h : t.held = []) (a n : Nat) (s : State) : ordSweep a n s t = t := by
  simp [ordSweep, h]

theorem perform_below {s : State} (hh : s.held = []) {a : Nat} (ha : a < csBase) (bs : List Byte) :
    perform a bs s = writeRaw a bs s := by
  have hr : ringStored a (s.read a 8) (writeRaw a bs s) = writeRaw a bs s := by
    rw [ringStored, ringWordAt_below ha]
  rw [perform, hr, ordSweep_none (t := writeRaw a bs s) hh]

/-- Counting a store in the totals of its region changes the region table only. -/
theorem performPhysical_eq (pa : Nat) (bs : List Byte) (s : State) :
    performPhysical pa bs s = { perform pa bs s with regions := (performPhysical pa bs s).regions } := by
  unfold performPhysical
  split
  · dsimp only
    split
    · rfl
    · rw [countStored, State.modRegion]; split <;> rfl
  · rfl

/-- A store to what may be a page table leaves everything but the note of the accesses that have walked it. -/
theorem shoot_eq (agent pa n : Nat) (s t : State) : shoot agent pa n s t = { t with stale := (shoot agent pa n s t).stale } := by
  unfold shoot
  split <;> rfl

@[simp] theorem mem_performPhysical (pa : Nat) (bs : List Byte) (s : State) :
    (performPhysical pa bs s).mem = (perform pa bs s).mem := by rw [performPhysical_eq]

@[simp] theorem mem_shoot (agent pa n : Nat) (s t : State) : (shoot agent pa n s t).mem = t.mem := by rw [shoot_eq]

/-- What a write of a physical address below the cluster stores leaves of the module's identity and messages. -/
theorem rest_performPhysical {s : State} (hh : s.held = []) {a : Nat} (ha : a < csBase) (bs : List Byte) :
    (performPhysical a bs s).flight = s.flight ∧ (performPhysical a bs s).outbox = s.outbox := by
  rw [performPhysical_eq, perform_below hh ha]
  exact ⟨rfl, rfl⟩

/-- The bytes after a write below the cluster stores. -/
theorem memByte_perform {s : State} (hw : s.mem.wf = true) (hh : s.held = []) {a : Nat} (ha : a < csBase) (bs : List Byte)
    (b : Nat) :
    memByte (perform a bs s).mem b = if a ≤ b ∧ b < a + bs.length then bs.getD (b - a) 0 else memByte s.mem b := by
  rw [perform_below hh ha, mem_writeRaw, memByte_memPutAll hw]

theorem memByte_perform_inside {s : State} (hw : s.mem.wf = true) (hh : s.held = []) {a : Nat} (ha : a < csBase)
    {bs : List Byte} {i : Nat} (hi : i < bs.length) :
    memByte (perform a bs s).mem (a + i) = bs[i]?.getD 0 := by
  rw [memByte_perform hw hh ha, if_pos (by omega), Nat.add_sub_cancel_left, List.getD_eq_getElem?_getD]

theorem memByte_perform_outside {s : State} (hw : s.mem.wf = true) (hh : s.held = []) {a : Nat} (ha : a < csBase)
    {bs : List Byte} {j : Nat} (hj : j < a ∨ a + bs.length ≤ j) :
    memByte (perform a bs s).mem j = memByte s.mem j := by
  rw [memByte_perform hw hh ha, if_neg (by omega)]

@[simp] theorem length_leBytes (n x : Nat) : (leBytes n x).length = n := by
  induction n generalizing x with
  | zero => rfl
  | succ n ih => rw [leBytes, List.length_cons, ih]

/-- A number of n bytes, read back from where its bytes lie. -/
theorem memRead_of_leBytes {m : Memory} {a n x : Nat} (h : ∀ i < n, memByte m (a + i) = (leBytes n x)[i]?.getD 0) :
    memRead m a n = x % 2 ^ (8 * n) := by
  induction n generalizing a x with
  | zero => rw [memRead, Nat.mul_zero, Nat.pow_zero, Nat.mod_one]
  | succ n ih =>
    have h0 : memByte m a = BitVec.ofNat 8 x := h 0 (Nat.succ_pos n)
    have hs : memRead m (a + 1) n = x / 256 % 2 ^ (8 * n) := ih fun i hi => by
      rw [Nat.add_assoc, Nat.add_comm 1 i]
      exact h (i + 1) (Nat.succ_lt_succ hi)
    rw [memRead, h0, hs, BitVec.toNat_ofNat, Nat.mul_succ, Nat.add_comm (8 * n), Nat.pow_add, Nat.mod_mul]

end Sys2Proof.Machine
end

section
/-! PROOF. The registers of the host port, host memory and the aperture (R152, R354, R376-R380). -/

namespace Sys2Proof.Machine

/-- The host's write or read has its effect once its earlier writes are settled. -/
theorem hostEvent_settled {f : State → Option State} {s : State} (h : settled true s 0 = true) :
    hostEvent f s = .next ((f s).getD s) := by
  simp [hostEvent, event, h]

/-- An event whose effect is known. -/
theorem event_some {f : State → Option State} {s t : State} (h : f s = some t) : event f s = .next t := by
  rw [event, h, Option.getD_some]

/-- An event whose conditions do not hold. -/
theorem event_none {f : State → Option State} {s : State} (h : f s = none) : event f s = .next s := by
  rw [event, h, Option.getD_none]

theorem hostEvent_some {f : State → Option State} {s t : State} (hs : settled true s 0 = true) (h : f s = some t) :
    hostEvent f s = .next t := by
  rw [hostEvent_settled hs, h, Option.getD_some]

theorem hostEvent_none {f : State → Option State} {s : State} (hs : settled true s 0 = true) (h : f s = none) :
    hostEvent f s = .next s := by
  rw [hostEvent_settled hs, h, Option.getD_none]

/-- Appending to a trap log that has room. -/
theorem logRecord_room {s : State} (h : s.log.length < 4096) (r : LogRecord) :
    logRecord r s = { s with log := s.log ++ [r], logHead := (s.logHead + 1) % 4096 } :=
  if_pos h

@[simp] theorem State.pctlOf_modPctl_same (s : State) (n : Nat) (f : Pctl → Pctl) :
    (s.modPctl n f).pctlOf n = f (s.pctlOf n) :=
  tabGet_tabSet_same ..

theorem State.pctlOf_modPctl_other (s : State) {m n : Nat} (f : Pctl → Pctl) (h : m ≠ n) :
    (s.modPctl n f).pctlOf m = s.pctlOf m :=
  tabGet_tabSet_other _ _ _ h

/-- An update of one PCTL changes nothing else. -/
theorem next_modPctl {o : Out} {s : State} {n : Nat} {f : Pctl → Pctl} (h : o = .next (s.modPctl n f)) :
    ∃ t, o = .next t ∧ t = { s with pctl := t.pctl } ∧ t.pctlOf n = f (s.pctlOf n) ∧ ∀ m, m ≠ n → t.pctlOf m = s.pctlOf m :=
  ⟨_, h, rfl, s.pctlOf_modPctl_same n f, fun _ hm => s.pctlOf_modPctl_other f hm⟩

theorem exec_registerWrite {off : Nat} {w : Word} {s t : State} (hs : settled true s 0 = true)
    (h : registerWrite off w s = some t) : exec (.registerWrite off w) s = .next t :=
  hostEvent_some hs h

theorem pbaseAt_pbase {n : Nat} (h : n < 32) : pbaseAt (0x408 + 16 * n) = some n := by
  rw [pbaseAt, if_pos (by omega), Option.some_inj]; omega

theorem pbaseAt_pctl (n : Nat) : pbaseAt (0x400 + 16 * n) = none := by
  rw [pbaseAt, if_neg (by omega)]

theorem pctlAt_pctl {n : Nat} (h : n < 32) : pctlAt (0x400 + 16 * n) = some n := by
  rw [pctlAt, if_pos (by omega), Option.some_inj]; omega

/-- A register of the first 4 KiB is written before the end of boot too. -/
theorem registerWrite_reaches {off : Nat} (s : State) (h8 : off % 8 = 0) (h : off < 0x1000) :
    ¬(off % 8 ≠ 0 || (decide (off ≥ 0x1000) && !booted s)) = true := by
  simp only [h8, decide_eq_false (Nat.not_le.mpr h), ge_iff_le, ne_eq, not_true, decide_false, Bool.false_and, Bool.or_self,
    Bool.false_eq_true, not_false_iff]

theorem registerWrite_fcfg (w : Word) (s : State) : registerWrite 0x8 w s =
    some (if 16 ≤ bits w 4 0 ∧ bits w 4 0 ≤ 24 then { s with fto := bits w 4 0, skid := bitAt w 8 } else s) :=
  rfl

theorem registerWrite_pbase {n : Nat} (h : n < 32) (w : Word) (s : State) : registerWrite (0x408 + 16 * n) w s =
    some (s.modPctl n fun y => { y with base := BitVec.ofNat 64 (bits w 42 18 * 2 ^ 18) }) := by
  have hr := registerWrite_reaches s (off := 0x408 + 16 * n) (by omega) (by omega)
  simp (disch := omega) only [registerWrite, hr, if_neg, pbaseAt_pbase h]
  rfl

theorem registerWrite_pctl {n : Nat} (h : n < 32) (w : Word) (s : State) : registerWrite (0x400 + 16 * n) w s =
    some (if (s.pctlOf n).busy || bits w 1 0 == 1 || bits w 1 0 == 2 then s
      else s.modPctl n fun y => { y with op := bits w 1 0 }) := by
  have hr := registerWrite_reaches s (off := 0x400 + 16 * n) (by omega) (by omega)
  simp (disch := omega) only [registerWrite, hr, if_neg, pbaseAt_pctl, pctlAt_pctl h]
  rfl

theorem registerWrite_nonce {j : Nat} (h : j < 4) (w : Word) (s : State) : registerWrite (0xC00 + 8 * j) w s =
    some { s with nonce := setField s.nonce (64 * j) 64 w.toNat } := by
  have hr := registerWrite_reaches s (off := 0xC00 + 8 * j) (by omega) (by omega)
  have hp : 8 * (0xC00 + 8 * j - 0xC00) = 64 * j := by omega
  simp (disch := omega) only [registerWrite, hr, if_neg, if_pos, hp]
  rfl

/-- The host's read of an agenda reads once its writes are settled, or while a fatal error holds the module. -/
theorem step_registerRead {off : Nat} {s : State} (h8 : off % 8 = 0) (hlt : off < 0x1000)
    (hs : s.fatal = true ∨ settled true s 0 = true) :
    step { s with agenda := [.registerRead off] } =
      .next { s with agenda := [], hostRead := BitVec.ofNat 64 (barWord s off) } := by
  have hb : (s.fatal || settled true s 0) = true := by simpa using hs
  have hn : ¬(off % 8 ≠ 0 || decide (0x100000 ≤ off) || (decide (off ≥ 0x1000) && !booted s) ||
      !(s.fatal || settled true s 0)) = true := by
    simp only [hb, h8]; simp; omega
  have hr : barRead off { s with agenda := [] } = { s with agenda := [], hostRead := BitVec.ofNat 64 (barWord s off) } :=
    if_neg hn
  rw [← hr]
  simp [step, choose, happensHeld, happensLast]

/-- What the host reads at the offsets of five registers. -/
theorem barWord_registers {s : State} {off : Nat} {v : Word}
    (h : (off, v) ∈ [(0x20, s.latecnt), (0x40, s.mcctl), (0x60, s.mcstat), (0x100, s.troot), (0x800, s.bootst)]) :
    off % 8 = 0 ∧ off < 0x1000 ∧ BitVec.ofNat 64 (barWord s off) = v := by
  simp only [List.mem_cons, List.not_mem_nil, or_false, Prod.mk.injEq] at h
  obtain ⟨rfl, rfl⟩ | ⟨rfl, rfl⟩ | ⟨rfl, rfl⟩ | ⟨rfl, rfl⟩ | ⟨rfl, rfl⟩ := h <;>
    exact ⟨rfl, by decide, BitVec.eq_of_toNat_eq (by simp [barWord])⟩

/-- The host's write of its own memory. -/
theorem step_hostWrite {a : Nat} {data : List Byte} {s : State} (h0 : 0x40000000000 ≤ a)
    (h1 : a + data.length ≤ 0x80000000000) (hc : s.closing = false) :
    step { s with agenda := [.hostWrite a data] } = .next (perform a data { s with agenda := [] }) := by
  have hw : hostWrite a data { s with agenda := [] } = perform a data { s with agenda := [] } := if_pos ⟨h0, h1⟩
  rw [← hw]
  simp [step, choose, happensHeld, hc]

section Aperture

variable {off size : Nat} {w : Word} {s : State}

theorem apertureOk_of (hb : bitAt s.bootst 8 = true) (hz : size ∈ [1, 2, 4, 8]) (ha : off % size = 0)
    (hr : off + size ≤ 2 ^ 36) : apertureOk s off size = true := by
  have hz' : (size == 1 || size == 2 || size == 4 || size == 8) = true := by simpa [or_assoc] using hz
  simp only [apertureOk, booted, hb, hz', ha, beq_self_eq_true, Bool.true_and, decide_eq_true_eq]
  exact hr

variable (hs : settled true s 0 = true) (hk : apertureOk s off size = true)
include hs hk

theorem exec_apertureWrite_memory (h : s.apbase.toNat + off + size ≤ 0x30000000000) :
    exec (.apertureWrite off size w) s =
      .next (shoot 0 (s.apbase.toNat + off) size s
        (performPhysical (s.apbase.toNat + off) (leBytes size w.toNat) s)) :=
  hostEvent_some hs (by simp [apertureWrite, hk, deviceMemory, h])

theorem exec_apertureRead_memory (h : s.apbase.toNat + off + size ≤ 0x30000000000) :
    exec (.apertureRead off size) s =
      .next { s with hostRead := BitVec.ofNat 64 (s.read (s.apbase.toNat + off) size) } :=
  hostEvent_some hs (by simp [apertureRead, hk, deviceMemory, h])

theorem exec_apertureWrite_outside (h : 0x30000000000 < s.apbase.toNat + off + size) :
    exec (.apertureWrite off size w) s =
      .next (logRecord ⟨8, 0, BitVec.ofNat 64 (s.apbase.toNat + off), w, 1, 0⟩ s) :=
  hostEvent_some hs (by simp only [apertureWrite, hk, deviceMemory, decide_eq_false (Nat.not_le.mpr h)]; rfl)

theorem exec_apertureRead_outside (h : 0x30000000000 < s.apbase.toNat + off + size) :
    exec (.apertureRead off size) s =
      .next { (logRecord ⟨8, 0, BitVec.ofNat 64 (s.apbase.toNat + off), 0, 0, 0⟩ s) with
        hostRead := BitVec.ofNat 64 (2 ^ (8 * size) - 1) } :=
  hostEvent_some hs (by simp only [apertureRead, hk, deviceMemory, decide_eq_false (Nat.not_le.mpr h)]; rfl)

end Aperture

/-- A write through the aperture is read back at its place, and leaves every other byte. -/
theorem apertureWrite_memory {a size : Nat} (w : Word) {s : State} (h : a + size ≤ 0x30000000000)
    (hw : s.mem.wf = true) (hh : s.held = []) :
    let t := shoot 0 a size s (performPhysical a (leBytes size w.toNat) s)
    t.read a size = w.toNat % 2 ^ (8 * size) ∧ ∀ j, j < a ∨ a + size ≤ j → memByte t.mem j = memByte s.mem j := by
  have ha : a < csBase := by unfold csBase; omega
  simp only [State.read, mem_shoot, mem_performPhysical]
  refine ⟨memRead_of_leBytes fun i hi => memByte_perform_inside hw hh ha (by simpa using hi), fun j hj => ?_⟩
  exact memByte_perform_outside hw hh ha (by simpa using hj)

end Sys2Proof.Machine
end

section
/-! PROOF. Multicast: the lines that go out, the line that arrives, and the answers (R375). -/

namespace Sys2Proof.Machine

/-- A multicast of which members are outstanding goes on. -/
theorem multicastSettle_open {s : State} (h : s.mcOwn ≠ 0 ∨ s.mcWait ≠ 0) : multicastSettle s = s := by
  refine if_neg fun hd => ?_
  simp only [Bool.and_eq_true, beq_iff_eq] at hd
  exact h.elim (· hd.1.2) (· hd.2)

/-- A multicast of which no member is outstanding ends. -/
theorem multicastSettle_done {s : State} (h : bitAt s.mcctl 9 = true) (ho : s.mcOwn = 0) (hw : s.mcWait = 0) :
    multicastSettle s = { s with mcstat := s.mcFailed, mcctl := setBit (setBit s.mcctl 9 false) 10 true } :=
  if_pos (by simp [h, ho, hw])

/-- Settling a multicast changes MCCTL and MCSTAT only. -/
theorem multicastSettle_eq (s : State) :
    multicastSettle s = { s with mcstat := (multicastSettle s).mcstat, mcctl := (multicastSettle s).mcctl } := by
  unfold multicastSettle
  split <;> rfl

@[simp] theorem mem_multicastSettle (s : State) : (multicastSettle s).mem = s.mem := by rw [multicastSettle_eq]
@[simp] theorem flight_multicastSettle (s : State) : (multicastSettle s).flight = s.flight := by rw [multicastSettle_eq]

/-- MCCTL of a multicast that has ended: BUSY is clear and DONE is set. -/
theorem getLsbD_mcDone (c : Word) (j : Nat) : (setBit (setBit c 9 false) 10 true).getLsbD j =
    if j = 9 then false else if j = 10 then true else c.getLsbD j := by
  rw [getLsbD_setBit _ (by decide), getLsbD_setBit _ (by decide)]
  by_cases h : j = 10
  · simp [h]
  · simp [h]

theorem bits_mcDone (c : Word) : bits (setBit (setBit c 9 false) 10 true) 5 0 = bits c 5 0 := by
  rw [bits_setBit_above _ (by decide) (by decide), bits_setBit_above _ (by decide) (by decide)]

theorem bits_mcctl_multicastSettle (s : State) : bits (multicastSettle s).mcctl 5 0 = bits s.mcctl 5 0 := by
  unfold multicastSettle
  split
  · exact bits_mcDone _
  · rfl

/-! ### The lines that go out -/

/-- The bit of a place in the member list. -/
def memberBit (k : Nat) : Word := 1 <<< k

theorem memberBit_eq (k : Nat) : memberBit k = BitVec.ofNat 64 (2 ^ k) := by
  rw [← Nat.one_shiftLeft]; rfl

theorem getLsbD_memberBit {k : Nat} (h : k < 64) (j : Nat) : (memberBit k).getLsbD j = decide (j = k) := by
  rw [memberBit_eq, getLsbD_oneBit h]

/-- A word that takes the bit of a member is not zero. -/
theorem or_memberBit_ne_zero (x : Word) {k : Nat} (h : k < 64) : x ||| memberBit k ≠ 0 := fun he => by
  have hk : (x ||| memberBit k).getLsbD k = false := by rw [he]; exact BitVec.getLsbD_zero
  simp [getLsbD_memberBit h] at hk

/-- The module in a place of the member list. -/
def listedMember (s : State) (k : Nat) : Nat := s.read (s.mclist.toNat + 8 * k) 8 % 2 ^ 17

/-- The message of a multicast line. -/
def multicastLineOf (s : State) (no : Nat) (data : List Byte) : Msg := .multicast s.modId no s.mcdst.toNat data

section Member

variable {s : State} {k no : Nat} {data : List Byte}

theorem inDomain_self (s : State) : inDomain s s.modId = true := by simp [inDomain]

theorem multicastTo_outside (h : inDomain s (listedMember s k) = false) :
    multicastTo false no data s k = { s with mcFailed := s.mcFailed ||| memberBit k } := by
  have hm : s.read (s.mclist.toNat + 8 * k) 8 % 2 ^ 17 = listedMember s k := rfl
  simp only [multicastTo, hm, h, memberBit]
  rfl

theorem multicastTo_own (h : listedMember s k = s.modId) :
    multicastTo false no data s k = { s with mcOwn := s.mcOwn ||| memberBit k } := by
  have hm : s.read (s.mclist.toNat + 8 * k) 8 % 2 ^ 17 = s.modId := h
  simp only [multicastTo, hm, inDomain_self, memberBit]
  rfl

theorem multicastTo_other (hd : inDomain s (listedMember s k) = true) (h : listedMember s k ≠ s.modId) :
    multicastTo false no data s k =
      { s with mcWait := s.mcWait ||| memberBit k
               mcLines := s.mcLines ++ [(k, listedMember s k, multicastLineOf s no data)]
               outbox := s.outbox ++ [(listedMember s k, multicastLineOf s no data)] } := by
  have hm : s.read (s.mclist.toNat + 8 * k) 8 % 2 ^ 17 = listedMember s k := rfl
  simp only [multicastTo, hm, hd, if_neg h, memberBit, multicastLineOf]
  rfl

end Member

/-- What stands in t once the line of a multicast has gone to the first n members of the list of s. -/
structure LineSpread (s : State) (line : Msg) (n : Nat) (t : State) : Prop where
  /-- Nothing else has changed. -/
  rest : t = { s with mcOwn := t.mcOwn, mcWait := t.mcWait, mcFailed := t.mcFailed, mcLines := t.mcLines, outbox := t.outbox }
  own : ∀ k < n, listedMember s k = s.modId → t.mcOwn ≠ 0
  other : ∀ k < n, inDomain s (listedMember s k) = true → listedMember s k ≠ s.modId →
    t.mcWait ≠ 0 ∧ (listedMember s k, line) ∈ t.outbox
  none : (∀ k < n, inDomain s (listedMember s k) = false) → t.mcOwn = s.mcOwn ∧ t.mcWait = s.mcWait ∧
    ∀ j, t.mcFailed.getLsbD j = (s.mcFailed.getLsbD j || decide (j < n))

theorem LineSpread.refl (s : State) (line : Msg) : LineSpread s line 0 s where
  rest := rfl
  own _ h := absurd h (Nat.not_lt_zero _)
  other _ h := absurd h (Nat.not_lt_zero _)
  none _ := ⟨rfl, rfl, fun j => by simp⟩

/-- The line goes to the next member of the list. -/
theorem LineSpread.step {s t : State} {no n : Nat} {data : List Byte} (h : LineSpread s (multicastLineOf s no data) n t)
    (hn : n < 64) : LineSpread s (multicastLineOf s no data) (n + 1) (multicastTo false no data t n) := by
  have hm : listedMember t n = listedMember s n := by rw [h.rest]; rfl
  have hi : ∀ m, inDomain t m = inDomain s m := fun m => by rw [h.rest]; rfl
  have hid : t.modId = s.modId := by rw [h.rest]
  have hline : multicastLineOf t no data = multicastLineOf s no data := by rw [h.rest]; rfl
  have before : ∀ {k}, k < n + 1 → k ≠ n → k < n := fun h1 h2 => by omega
  by_cases hd : inDomain s (listedMember s n) = true
  · by_cases ho : listedMember s n = s.modId
    · rw [multicastTo_own (hm.trans (ho.trans hid.symm))]
      exact
        { rest := by rw [h.rest]
          own := fun k hk hs => or_memberBit_ne_zero _ hn
          other := fun k hk hs hne => h.other k (before hk (by rintro rfl; exact hne ho)) hs hne
          none := fun hall => by rw [hall n (Nat.lt_succ_self n)] at hd; cases hd }
    · rw [multicastTo_other (by rw [hi, hm]; exact hd) (by rw [hm, hid]; exact ho), hm, hline]
      exact
        { rest := by rw [h.rest]
          own := fun k hk hs => h.own k (before hk (by rintro rfl; exact ho hs)) hs
          other := fun k hk hs hne => by
            refine ⟨or_memberBit_ne_zero _ hn, ?_⟩
            by_cases hkn : k = n
            · subst hkn; exact List.mem_append_right _ (List.mem_singleton_self _)
            · exact List.mem_append_left _ (h.other k (before hk hkn) hs hne).2
          none := fun hall => by rw [hall n (Nat.lt_succ_self n)] at hd; cases hd }
  · rw [Bool.not_eq_true] at hd
    rw [multicastTo_outside (by rw [hi, hm]; exact hd)]
    exact
      { rest := by rw [h.rest]
        own := fun k hk hs => h.own k (before hk (by rintro rfl; rw [hs, inDomain_self] at hd; cases hd)) hs
        other := fun k hk hs hne => h.other k (before hk (by rintro rfl; rw [hs] at hd; cases hd)) hs hne
        none := fun hall => by
          obtain ⟨h1, h2, h3⟩ := h.none fun k hk => hall k (Nat.lt_succ_of_lt hk)
          refine ⟨h1, h2, fun j => ?_⟩
          simp only [BitVec.getLsbD_or, h3, getLsbD_memberBit hn, Bool.or_assoc, Nat.lt_succ_iff_lt_or_eq, Bool.decide_or] }

theorem LineSpread.foldl (s : State) (no : Nat) (data : List Byte) {n : Nat} (hn : n ≤ 64) :
    LineSpread s (multicastLineOf s no data) n ((List.range n).foldl (multicastTo false no data) s) := by
  induction n with
  | zero => exact .refl s _
  | succ n ih =>
    rw [List.range_succ, List.foldl_append, List.foldl_cons, List.foldl_nil]
    exact (ih (Nat.le_of_succ_le hn)).step hn

/-- The 64 bytes at MCSRC. -/
def multicastData (s : State) : List Byte := (List.range 64).map fun i => memByte s.mem (s.mcsrc.toNat + i)

/-- The module as a multicast starts: BUSY, with nothing sent. -/
def multicastStart (w : Word) (s : State) : State :=
  { s with
    serial := s.serial + 1, mcctl := BitVec.ofNat 64 (bits w 5 0 + 2 ^ 9), mcOwn := 0, mcWait := 0, mcFailed := 0
    mcSince := s.cyc, mcLines := [] }

/-- The module once the line has gone to every member of the list. -/
def multicastSent (w : Word) (s : State) : State :=
  (List.range (bits w 5 0 + 1)).foldl (multicastTo false s.serial (multicastData s)) (multicastStart w s)

theorem bits_lt_64 (w : Word) : bits w 5 0 < 64 := Nat.mod_lt _ (by decide)

theorem getLsbD_mcctl_start (w : Word) (s : State) : bitAt (multicastStart w s).mcctl 9 = true := by
  have h := bits_lt_64 w
  have e : (bits w 5 0 + 2 ^ 9) / 2 ^ 9 % 2 = 1 := by omega
  rw [multicastStart, bitAt, BitVec.getLsbD_ofNat, Nat.testBit_eq_decide_div_mod_eq, e]
  rfl

theorem bits_mcctl_start (w : Word) (s : State) : bits (multicastStart w s).mcctl 5 0 = bits w 5 0 := by
  have h := bits_lt_64 w
  have e : (bits w 5 0 + 2 ^ 9) % 2 ^ 64 % 2 ^ 6 = bits w 5 0 := by omega
  rw [multicastStart, bits_low (BitVec.ofNat 64 _), BitVec.toNat_ofNat, e]

theorem spread_multicastSent (w : Word) (s : State) : LineSpread (multicastStart w s)
    (.multicast s.modId s.serial s.mcdst.toNat (multicastData s)) (bits w 5 0 + 1) (multicastSent w s) :=
  LineSpread.foldl (multicastStart w s) s.serial (multicastData s) (bits_lt_64 w)

/-- The module once the line is also in flight to itself, where it is a member. -/
def multicastOut (w : Word) (s : State) : State :=
  if (multicastSent w s).mcOwn = 0 then multicastSent w s
  else { multicastSent w s with
    flight := (multicastSent w s).flight ++ [.multicast s.modId s.serial s.mcdst.toNat (multicastData s)] }

theorem multicastOut_eq (w : Word) (s : State) :
    multicastOut w s = { multicastSent w s with flight := (multicastOut w s).flight } := by
  unfold multicastOut
  split <;> rfl

theorem mem_flight_multicastOut {w : Word} {s : State} (h : (multicastSent w s).mcOwn ≠ 0) :
    .multicast s.modId s.serial s.mcdst.toNat (multicastData s) ∈ (multicastOut w s).flight := by
  rw [multicastOut, if_neg h]
  exact List.mem_append_right _ (List.mem_singleton_self _)

/-- A write of MCCTL with GO sends the line to every member of the list, to the own module through the messages in flight. -/
theorem multicastGo_sends {w : Word} {s : State} (hg : bitAt w 8 = true) (hb : bitAt s.mcctl 9 = false)
    (hp : poisoned s s.mcsrc.toNat 64 = false) :
    multicastGo w s = some (multicastSettle (multicastOut w s)) := by
  have hc : mcCount (multicastStart w s) = bits w 5 0 + 1 := by rw [mcCount, bits_mcctl_start]
  rw [multicastOut, multicastSent, ← hc, multicastGo, if_neg (by simp [hg, hb]), hp]
  rfl

theorem multicastGo_busy {w : Word} {s : State} (hb : bitAt s.mcctl 9 = true) : multicastGo w s = none :=
  if_pos (by simp [hb])

theorem mem_multicastOut (w : Word) (s : State) : (multicastOut w s).mem = s.mem := by
  rw [multicastOut_eq, (spread_multicastSent w s).rest]; rfl

theorem modId_multicastOut (w : Word) (s : State) : (multicastOut w s).modId = s.modId := by
  rw [multicastOut_eq, (spread_multicastSent w s).rest]; rfl

theorem mcctl_multicastOut (w : Word) (s : State) : (multicastOut w s).mcctl = (multicastStart w s).mcctl := by
  rw [multicastOut_eq, (spread_multicastSent w s).rest]

/-- A member of the domain is sent the line, and is outstanding. -/
theorem multicastOut_member {w : Word} {s : State} {k : Nat} (hk : k ≤ bits w 5 0)
    (hd : inDomain s (listedMember s k) = true) :
    ((multicastOut w s).mcOwn ≠ 0 ∨ (multicastOut w s).mcWait ≠ 0) ∧
    SentTo (multicastOut w s) (listedMember s k) (.multicast s.modId s.serial s.mcdst.toNat (multicastData s)) := by
  have hs := spread_multicastSent w s
  have hk' := Nat.lt_succ_of_le hk
  have eOwn : (multicastOut w s).mcOwn = (multicastSent w s).mcOwn := by rw [multicastOut_eq]
  have eWait : (multicastOut w s).mcWait = (multicastSent w s).mcWait := by rw [multicastOut_eq]
  have eOut : (multicastOut w s).outbox = (multicastSent w s).outbox := by rw [multicastOut_eq]
  rw [SentTo, modId_multicastOut, eOwn, eWait, eOut]
  by_cases ho : listedMember s k = s.modId
  · have hown := hs.own k hk' ho
    rw [if_pos ho]
    exact ⟨Or.inl hown, mem_flight_multicastOut hown⟩
  · obtain ⟨hwait, hout⟩ := hs.other k hk' hd ho
    rw [if_neg ho]
    exact ⟨Or.inr hwait, hout⟩

/-- With no member of the domain, nothing is outstanding, and every member has failed. -/
theorem multicastOut_noMember {w : Word} {s : State}
    (h : ∀ k ≤ bits w 5 0, inDomain s (listedMember s k) = false) :
    (multicastOut w s).mcOwn = 0 ∧ (multicastOut w s).mcWait = 0 ∧
    ∀ j, (multicastOut w s).mcFailed.getLsbD j = decide (j ≤ bits w 5 0) := by
  obtain ⟨hown, hwait, hfailed⟩ := (spread_multicastSent w s).none fun k hk => h k (Nat.le_of_lt_succ hk)
  have eOwn : (multicastOut w s).mcOwn = (multicastSent w s).mcOwn := by rw [multicastOut_eq]
  have eWait : (multicastOut w s).mcWait = (multicastSent w s).mcWait := by rw [multicastOut_eq]
  have eFailed : (multicastOut w s).mcFailed = (multicastSent w s).mcFailed := by rw [multicastOut_eq]
  have hstart : (multicastStart w s).mcFailed = 0#64 := rfl
  rw [eOwn, eWait, eFailed, hown, hwait]
  refine ⟨rfl, rfl, fun j => ?_⟩
  rw [hfailed, hstart, BitVec.getLsbD_zero, Bool.false_or]
  exact decide_eq_decide.mpr Nat.lt_succ_iff

/-- What stands once the line has gone out (R375). -/
theorem multicastGo_effect {w : Word} {s : State} {t : State} (ht : t = multicastSettle (multicastOut w s)) :
    t.mem = s.mem ∧ bits t.mcctl 5 0 = bits w 5 0 ∧
    (∀ k ≤ bits w 5 0, inDomain s (listedMember s k) = true → bitAt t.mcctl 9 = true ∧
      SentTo t (listedMember s k) (.multicast s.modId s.serial s.mcdst.toNat (multicastData s))) ∧
    ((∀ k ≤ bits w 5 0, inDomain s (listedMember s k) = false) → bitAt t.mcctl 9 = false ∧ bitAt t.mcctl 10 = true ∧
      ∀ j < 64, t.mcstat.getLsbD j = decide (j ≤ bits w 5 0)) := by
  have hbusy : bitAt (multicastOut w s).mcctl 9 = true := by rw [mcctl_multicastOut, getLsbD_mcctl_start]
  refine ⟨?_, ?_, fun k hk hd => ?_, fun h => ?_⟩
  · rw [ht, mem_multicastSettle]; exact mem_multicastOut w s
  · rw [ht, bits_mcctl_multicastSettle, mcctl_multicastOut, bits_mcctl_start]
  · have hmember := multicastOut_member hk hd
    rw [ht, multicastSettle_open hmember.1]
    exact hmember.imp_left fun _ => hbusy
  · obtain ⟨hown, hwait, hfailed⟩ := multicastOut_noMember h
    rw [ht, multicastSettle_done hbusy hown hwait]
    refine ⟨?_, ?_, fun j _ => hfailed j⟩
    · rw [bitAt, getLsbD_mcDone, if_pos rfl]
    · rw [bitAt, getLsbD_mcDone, if_neg (by decide), if_pos rfl]

end Sys2Proof.Machine
end

section
/-! PROOF. The multicast line that arrives, and the merged answers (R375). -/

namespace Sys2Proof.Machine

theorem sameStrand_multicast (x : Msg) (from_ no dst : Nat) (data : List Byte) :
    sameStrand x (.multicast from_ no dst data) = false := by
  cases x <;> rfl

/-- A multicast line is of no flow: it can be taken at once. -/
theorem msg_multicast {s : State} {n from_ no dst : Nat} {data : List Byte}
    (h : s.flight[n]? = some (.multicast from_ no dst data)) : s.msg n = some (.multicast from_ no dst data) := by
  simp [State.msg, h, flowFirst, msgFlow, sameStrand_multicast]

theorem multicastFits_iff (dst : Nat) (data : List Byte) : multicastFits dst data = true ↔
    dst % 64 = 0 ∧ data.length = 64 ∧
      (dst + 64 ≤ 0x30000000000 ∨ 0x40000000000 ≤ dst ∧ dst + 64 ≤ 0x80000000000) := by
  simp [multicastFits, deviceMemory, hostMemory, and_assoc]

/-- A line that has been performed, or has failed, at module m is settled there or acknowledged to its source. -/
def answerLine (m from_ no : Nat) (ok : Bool) (t : State) : State :=
  if from_ = m then multicastSettle { t with mcFailed := if ok then t.mcFailed else t.mcFailed ||| t.mcOwn, mcOwn := 0 }
  else sendOut from_ (.multicastAck !ok) (notePerformed from_ (multicastNo no) t)

section Answer

variable (m from_ no : Nat) (ok : Bool) (t : State)

@[simp] theorem mem_answerLine : (answerLine m from_ no ok t).mem = t.mem := by
  unfold answerLine
  split
  · rw [mem_multicastSettle]
  · rfl

@[simp] theorem flight_answerLine : (answerLine m from_ no ok t).flight = t.flight := by
  unfold answerLine
  split
  · rw [flight_multicastSettle]
  · rfl

theorem outbox_answerLine (h : from_ ≠ m) :
    (answerLine m from_ no ok t).outbox = t.outbox ++ [(from_, .multicastAck !ok)] := by
  rw [answerLine, if_neg h]; rfl

end Answer

section Line

variable {n from_ no dst : Nat} {data : List Byte} {s : State}
  (hm : s.flight[n]? = some (.multicast from_ no dst data))
include hm

theorem multicastLine_copy (hc : from_ ≠ s.modId ∧ wasPerformed s from_ (multicastNo no) = true) :
    multicastLine n s = some { s with flight := s.flight.eraseIdx n } := by
  simp only [multicastLine, msg_multicast hm]
  exact if_pos hc

variable (hc : ¬(from_ ≠ s.modId ∧ wasPerformed s from_ (multicastNo no) = true))
include hc

theorem multicastLine_performs (hf : multicastFits dst data = true)
    (hp : dst < 2 ^ 40 → walkedPages s (linesOfRange dst 64) = []) :
    multicastLine n s = some (answerLine s.modId from_ no true (performPhysical dst data (takeMsg n s))) := by
  have hn : ¬(true && decide (dst < 2 ^ 40) && !(walkedPages s (linesOfRange dst 64)).isEmpty) = true := by
    simpa using hp
  simp only [multicastLine, msg_multicast hm, if_neg hc, hf, if_neg hn]
  rfl

theorem multicastLine_fails (hf : multicastFits dst data = false) :
    multicastLine n s = some (answerLine s.modId from_ no false (takeMsg n s)) := by
  simp only [multicastLine, msg_multicast hm, if_neg hc, hf]
  rfl

end Line

/-- A line that fits is stored in one step, and leaves every other byte. -/
theorem multicastLine_stores {n from_ no dst : Nat} {data : List Byte} {s t : State} (hf : multicastFits dst data = true)
    (hw : s.mem.wf = true) (hh : s.held = [])
    (ht : t = answerLine s.modId from_ no true (performPhysical dst data (takeMsg n s))) :
    t.flight = s.flight.eraseIdx n ∧ (∀ i < 64, memByte t.mem (dst + i) = data[i]?.getD 0) ∧
    (∀ j, j < dst ∨ dst + 64 ≤ j → memByte t.mem j = memByte s.mem j) ∧
    (from_ ≠ s.modId → t.outbox = s.outbox ++ [(from_, .multicastAck false)]) := by
  obtain ⟨-, hlen, hr⟩ := (multicastFits_iff dst data).mp hf
  have ha : dst < csBase := by unfold csBase; omega
  obtain ⟨hflight, hout⟩ := rest_performPhysical (s := takeMsg n s) hh ha data
  rw [ht, mem_answerLine, flight_answerLine, mem_performPhysical, hflight]
  refine ⟨rfl, fun i hi => ?_, fun j hj => ?_, fun h => ?_⟩
  · exact memByte_perform_inside (s := takeMsg n s) hw hh ha (by rw [hlen]; exact hi)
  · exact memByte_perform_outside (s := takeMsg n s) hw hh ha (by rw [hlen]; exact hj)
  · rw [outbox_answerLine _ _ _ _ _ h, hout]; rfl

theorem multicastReply_ends {s : State} (failed : Word) (hb : bitAt s.mcctl 9 = true) (hw : s.mcWait ≠ 0) :
    multicastReply failed s = some (multicastEnds failed s) :=
  if_pos (by simpa [hb] using hw)

theorem multicastReply_none {s : State} (failed : Word) (h : bitAt s.mcctl 9 = false ∨ s.mcWait = 0) :
    multicastReply failed s = none := by
  refine if_neg ?_
  obtain h | h := h <;> simp [h]

/-- The merged answers end what is outstanding to the other members. -/
theorem multicastEnds_eq {failed : Word} {s t : State} (hb : bitAt s.mcctl 9 = true) (ht : t = multicastEnds failed s) :
    t = { s with
      mcctl := t.mcctl, mcstat := t.mcstat, mcWait := 0, mcLines := [], mcFailed := s.mcFailed ||| (failed &&& s.mcWait) } ∧
    (s.mcOwn = 0 → t.mcstat = t.mcFailed ∧
      ∀ j < 64, t.mcctl.getLsbD j = (if j = 9 then false else if j = 10 then true else s.mcctl.getLsbD j)) ∧
    (s.mcOwn ≠ 0 → t.mcctl = s.mcctl ∧ t.mcstat = s.mcstat) := by
  subst ht
  by_cases ho : s.mcOwn = 0
  · have e : multicastEnds failed s = _ := multicastSettle_done hb ho rfl
    rw [e]
    exact ⟨rfl, fun _ => ⟨rfl, fun j _ => getLsbD_mcDone _ j⟩, fun h => absurd ho h⟩
  · have e : multicastEnds failed s = _ := multicastSettle_open (Or.inl ho)
    rw [e]
    exact ⟨rfl, fun h => absurd h ho, fun _ => ⟨rfl, rfl⟩⟩

end Sys2Proof.Machine
end

section
/-! PROOF. Attestation reports, the stages of boot, and updates of firmware (R16, R381-R383). -/

namespace Sys2Proof.Machine

/-- A bit of a field of n bits that lies at lo, over what is below it and under what is above it. -/
theorem testBit_field {x lo n low v hi i : Nat} (hx : x = 2 ^ lo * (2 ^ n * hi + v) + low) (hlow : low < 2 ^ lo)
    (hv : v < 2 ^ n) (hi' : i < n) : x.testBit (lo + i) = v.testBit i := by
  rw [hx, Nat.testBit_two_pow_mul_add _ hlow, if_neg (by omega), Nat.add_sub_cancel_left,
    Nat.testBit_two_pow_mul_add _ hv, if_pos hi']

/-- The low bits of a number are those of the word that lies lowest in it. -/
theorem getLsbD_ofNat_low {m n i : Nat} (x : BitVec m) (y : Nat) (hm : i < m) (hn : i < n) :
    (BitVec.ofNat n (x.toNat + y * 2 ^ m)).getLsbD i = x.getLsbD i := by
  rw [BitVec.getLsbD_ofNat, Nat.add_comm, Nat.mul_comm, Nat.testBit_two_pow_mul_add _ x.isLt, if_pos hm, decide_eq_true hn,
    Bool.true_and, BitVec.testBit_toNat]

/-- The report with its signature above its body. -/
def signedReport (s : State) : BitVec 1536 :=
  BitVec.ofNat 1536 ((reportBody s).toNat + (Config.signature (reportBody s)).toNat * 2 ^ 1024)

theorem getLsbD_signedReport (s : State) {i : Nat} (h : i < 1024) :
    (signedReport s).getLsbD i = (reportBody s).getLsbD i :=
  getLsbD_ofNat_low (reportBody s) _ h (Nat.lt_trans h (by decide))

/-- What lies below MODINFO in the body of a report, and the body as a number. -/
def reportBelow (s : State) : Nat :=
  s.nonce.toNat + (Config.imageDigest s.firmware).toNat * 2 ^ 256 + (Config.fuseDigest s.record).toNat * 2 ^ 512

def reportNat (s : State) : Nat :=
  reportBelow s + modInfo s * 2 ^ 768 + Config.serialNumber.toNat * 2 ^ 832 +
    (Config.securityVersion s.firmware).toNat * 2 ^ 960

theorem reportBody_eq (s : State) : reportBody s = BitVec.ofNat 1024 (reportNat s) := rfl

theorem reportBelow_lt (s : State) : reportBelow s < 2 ^ 768 := by
  have h1 := s.nonce.isLt
  have h2 := (Config.imageDigest s.firmware).isLt
  have h3 := (Config.fuseDigest s.record).isLt
  unfold reportBelow
  omega

theorem getLsbD_report_field {s : State} {lo n low v hi i : Nat} (hx : reportNat s = 2 ^ lo * (2 ^ n * hi + v) + low)
    (hlow : low < 2 ^ lo) (hv : v < 2 ^ n) (hi' : i < n) (h : lo + n ≤ 1024) :
    (signedReport s).getLsbD (lo + i) = v.testBit i := by
  rw [getLsbD_signedReport s (by omega), reportBody_eq, BitVec.getLsbD_ofNat, testBit_field hx hlow hv hi',
    decide_eq_true (by omega : lo + i < 1024), Bool.true_and]

/-- The first 256 bits of a report are the nonce. -/
theorem getLsbD_report_nonce (s : State) {i : Nat} (h : i < 256) : (signedReport s).getLsbD i = s.nonce.getLsbD i := by
  have e := getLsbD_report_field (s := s) (lo := 0) (n := 256) (low := 0) (v := s.nonce.toNat) (i := i)
    (hi := (Config.imageDigest s.firmware).toNat + (Config.fuseDigest s.record).toNat * 2 ^ 256 +
      modInfo s * 2 ^ 512 + Config.serialNumber.toNat * 2 ^ 576 + (Config.securityVersion s.firmware).toNat * 2 ^ 704)
    (by unfold reportNat reportBelow; omega) (by decide) s.nonce.isLt h (by decide)
  rwa [Nat.zero_add, BitVec.testBit_toNat] at e

/-- Bits 768 and up of a report are the module's ID. -/
theorem getLsbD_report_modId (s : State) {i : Nat} (h : i < 17) :
    (signedReport s).getLsbD (768 + i) = (BitVec.ofNat 17 s.modId).getLsbD i := by
  have e := getLsbD_report_field (s := s) (lo := 768) (n := 17) (low := reportBelow s) (v := s.modId % 2 ^ 17) (i := i)
    (hi := s.domain % 2 ^ 16 * 2 ^ 15 + Config.serialNumber.toNat * 2 ^ 47 +
      (Config.securityVersion s.firmware).toNat * 2 ^ 175)
    (by unfold reportNat modInfo; omega) (reportBelow_lt s) (Nat.mod_lt _ (by decide)) h (by decide)
  rw [e, Nat.testBit_mod_two_pow, BitVec.getLsbD_ofNat]

/-- Bits 800 and up of a report are the module's domain. -/
theorem getLsbD_report_domain (s : State) {i : Nat} (h : i < 16) :
    (signedReport s).getLsbD (800 + i) = (BitVec.ofNat 16 s.domain).getLsbD i := by
  have hlow : reportBelow s + s.modId % 2 ^ 17 * 2 ^ 768 < 2 ^ 800 := by
    have := reportBelow_lt s
    omega
  have e := getLsbD_report_field (s := s) (lo := 800) (n := 16) (v := s.domain % 2 ^ 16) (i := i)
    (hi := Config.serialNumber.toNat * 2 ^ 16 + (Config.securityVersion s.firmware).toNat * 2 ^ 144)
    (by unfold reportNat modInfo; omega) hlow (Nat.mod_lt _ (by decide)) h (by decide)
  rw [e, Nat.testBit_mod_two_pow, BitVec.getLsbD_ofNat]

section Boot

variable {stage why : Nat} {s : State}

/-- Boot can take a stage: it has not ended or failed, and the stage is the present or the next one. -/
theorem boot_takes (hb : bitAt s.bootst 8 = false) (hf : bits s.bootst 7 4 = 0) (hs : stage ≤ 3) (hw : why ≤ 3)
    (h1 : bits s.bootst 3 0 ≤ stage) (h2 : stage ≤ bits s.bootst 3 0 + 1) :
    boot stage why s =
      if why ≠ 0 then some (bootFails stage why s)
      else if s.firmware.any fun (_, v) => tooOld v then some (bootFails (bits s.bootst 3 0) 2 s)
      else some { s with bootst := BitVec.ofNat 64 (stage + b2n (decide (stage = 3)) * 2 ^ 8) } := by
  refine if_neg ?_
  simp [booted, hb, hf]
  omega

/-- Another stage than the present or the next is none. -/
theorem boot_none (h : stage < bits s.bootst 3 0 ∨ bits s.bootst 3 0 + 1 < stage) : boot stage why s = none := by
  refine if_pos ?_
  obtain h | h := h <;> simp [h]

theorem bootFails_room (h : s.log.length < 4096) :
    (bootFails stage why s).mem = s.mem ∧ (bootFails stage why s).bootst = BitVec.ofNat 64 (stage + why * 2 ^ 4) ∧
    (bootFails stage why s).log = s.log ++ [⟨9, 0, BitVec.ofNat 64 stage, BitVec.ofNat 64 why, 0, 0⟩] := by
  rw [bootFails, logRecord_room (by exact h)]
  exact ⟨rfl, rfl, rfl⟩

theorem any_tooOld_iff (f : Tab Nat) : (f.any fun (_, v) => tooOld v) = true ↔ ∃ x ∈ f, x.2 < Config.fusedMinimum := by
  simp [tooOld]

theorem bootStage_eq (stage : Nat) :
    stage + b2n (decide (stage = 3)) * 2 ^ 8 = stage + if stage = 3 then 2 ^ 8 else 0 := by
  by_cases h : stage = 3 <;> simp [b2n, h]

end Boot

section Firmware

variable {unit version why : Nat} {s : State}

/-- An image that verifies and is not too old is the unit's from now on. -/
theorem firmwareUpdate_installs (hw : why = 0) (hv : Config.fusedMinimum ≤ version) :
    firmwareUpdate unit version why s = some { s with firmware := tabSet s.firmware unit version } := by
  simp [firmwareUpdate, hw, tooOld, Nat.not_lt.mpr hv]

/-- Any other image is not run, which is logged. -/
theorem firmwareUpdate_fails (h : why ≠ 0 ∨ version < Config.fusedMinimum) :
    firmwareUpdate unit version why s = some (logRecord ⟨9, 0, BitVec.ofNat 64 (unit + 2 ^ 32),
      BitVec.ofNat 64 (if why = 0 then 2 else why), BitVec.ofNat 64 version, 0⟩ s) := by
  by_cases hw : why = 0
  · have hv : version < Config.fusedMinimum := h.resolve_left (not_not_intro hw)
    simp [firmwareUpdate, hw, tooOld, hv]
  · simp [firmwareUpdate, hw]

end Firmware

end Sys2Proof.Machine
end

section
/-! PROOF. The host port as a whole (R16, R152, R354, R375-R383). -/

namespace Sys2Proof.Machine

/-- Settles O52: the registers, the aperture, multicast, attestation, boot, host memory and firmware, each by the lemma on
its event. -/
theorem theHostPortReadsAndWrites : Obligations.TheHostPortReadsAndWrites := by
  unfold Obligations.TheHostPortReadsAndWrites
  refine ⟨fun s hs => hostEvent_some hs rfl, fun s off v hs hv => ?read, fun w s _ hs => ?write, ?aperture, ?go, ?line, ?reply,
    ?attest, ?boot, ?host, ?firmware⟩
  case read =>
    obtain ⟨h8, hlt, hword⟩ := barWord_registers hv
    rw [step_registerRead h8 hlt hs, hword]
  case write =>
    refine ⟨fun f _ hf => hf ▸ exec_registerWrite hs (registerWrite_fcfg w s), exec_registerWrite hs rfl,
      exec_registerWrite hs rfl, exec_registerWrite hs rfl, exec_registerWrite hs rfl,
      fun n hn => next_modPctl (exec_registerWrite hs (registerWrite_pbase hn w s)), fun n hn hb ho => ?_,
      fun n hn hb => ?_, fun j hj => ?_⟩
    · refine next_modPctl (f := fun y => { y with op := bits w 1 0 }) (exec_registerWrite hs ?_)
      rw [registerWrite_pctl hn, hb]
      obtain ho | ho := ho <;> rw [ho] <;> rfl
    · refine exec_registerWrite hs ?_
      rw [registerWrite_pctl hn, hb]
      rfl
    · refine ⟨_, exec_registerWrite hs (registerWrite_nonce hj w s), fun i _ => ?_⟩
      rw [getLsbD_setField s.nonce (by omega), BitVec.testBit_toNat]
  case aperture =>
    intro off size w s hb hs hz ha hr a
    have hk := apertureOk_of hb hz ha hr
    refine ⟨fun h hw hh => ⟨⟨_, exec_apertureWrite_memory hs hk h, apertureWrite_memory w h hw hh⟩,
      exec_apertureRead_memory hs hk h⟩, fun h hl => ⟨⟨_, exec_apertureWrite_outside hs hk h, ?_⟩,
      ⟨_, exec_apertureRead_outside hs hk h, ?_⟩⟩⟩
    · rw [logRecord_room hl]
      exact ⟨rfl, rfl⟩
    · rw [logRecord_room hl]
      exact ⟨rfl, rfl, rfl⟩
  case go =>
    intro w s hg hs member
    exact ⟨fun hb hp => ⟨_, hostEvent_some hs (multicastGo_sends hg hb hp), multicastGo_effect rfl⟩,
      fun hb => hostEvent_none hs (multicastGo_busy hb)⟩
  case line =>
    intro n from_ no dst data s hm fits copy
    refine ⟨fun hc => event_some (multicastLine_copy hm hc), fun hc hf hw hh hp => ?_, fun hc hf => ?_⟩
    · have hf' : multicastFits dst data = true := (multicastFits_iff dst data).mpr hf
      exact ⟨_, event_some (multicastLine_performs hm hc hf' hp), multicastLine_stores hf' hw hh rfl⟩
    · have hf' : multicastFits dst data = false :=
        Bool.eq_false_iff.mpr fun h => hf ((multicastFits_iff dst data).mp h)
      refine ⟨_, event_some (multicastLine_fails hm hc hf'), ?_, ?_, fun h => ?_⟩
      · rw [flight_answerLine]; rfl
      · rw [mem_answerLine]; rfl
      · rw [outbox_answerLine _ _ _ _ _ h]; rfl
  case reply =>
    intro failed s
    exact ⟨fun hb hw => ⟨_, event_some (multicastReply_ends failed hb hw), multicastEnds_eq hb rfl⟩,
      fun h => event_none (multicastReply_none failed h)⟩
  case attest =>
    intro s
    have hgo (hb : s.attBusy = false) : attestationGo s = some { s with attBusy := true } := by simp [attestationGo, hb]
    refine ⟨fun hb hs => hostEvent_some hs (hgo hb), fun hb => ⟨signedReport s, event_some (if_pos hb), ?_⟩⟩
    exact ⟨fun i => getLsbD_report_nonce s, fun i => getLsbD_report_modId s, fun i => getLsbD_report_domain s⟩
  case boot =>
    intro stage why s hb hf hs hw now stops
    refine ⟨fun h1 h2 hl => ?_, fun h => event_none (boot_none h)⟩
    have hboot := boot_takes hb hf hs hw h1 h2
    by_cases hy : why = 0
    · rw [if_neg (not_not_intro hy)] at hboot
      by_cases hold : ∃ x ∈ s.firmware, x.2 < Config.fusedMinimum
      · rw [if_pos ((any_tooOld_iff _).mpr hold)] at hboot
        obtain ⟨hmem, hstops⟩ := bootFails_room (stage := now) (why := 2) hl
        obtain ⟨x, hx, hlt⟩ := hold
        exact ⟨_, event_some hboot, hmem, fun h => absurd hy h, fun _ _ => hstops,
          fun _ h => absurd (h x hx) (Nat.not_le.mpr hlt)⟩
      · rw [if_neg (hold ∘ (any_tooOld_iff _).mp), bootStage_eq] at hboot
        exact ⟨_, event_some hboot, rfl, fun h => absurd hy h, fun _ h => absurd h hold, fun _ _ => ⟨rfl, rfl⟩⟩
    · rw [if_pos hy] at hboot
      obtain ⟨hmem, hstops⟩ := bootFails_room (stage := stage) (why := why) hl
      exact ⟨_, event_some hboot, hmem, fun _ => hstops, fun h => absurd h hy, fun h => absurd h hy⟩
  case host =>
    intro a data s h0 h1 hw hh hc
    have ha : a < csBase := by unfold csBase; omega
    exact ⟨_, step_hostWrite h0 h1 hc, fun i hi => memByte_perform_inside (s := { s with agenda := [] }) hw hh ha hi,
      fun j hj => memByte_perform_outside (s := { s with agenda := [] }) hw hh ha hj⟩
  case firmware =>
    intro unit version why s hl
    refine ⟨fun hw hv => ⟨_, event_some (firmwareUpdate_installs hw hv), rfl, tabFind_tabSet_same _ _ _⟩,
      fun h => ⟨_, event_some (firmwareUpdate_fails h), ?_⟩⟩
    rw [logRecord_room hl]
    exact ⟨rfl, rfl, rfl⟩

end Sys2Proof.Machine
end

section
/-! PROOF. What an issue that leaves ran or ranTo changes (R21, R63, R149). -/

namespace Sys2Proof.Machine

/-- ran is ranTo of the next word, as the effect leaves the PC. -/
theorem ran_eq_ranTo {s : State} (h : s.cur.2 < 9) (f : Strand → Strand) :
    ran f s = ranTo ((f { s.me with entry := false }).pc + 4) f s := by
  rw [ran, ranTo]
  exact State.modMe_congr (by rw [me_markIssue h])

theorem frame_ranTo (pc : Word) (f : Strand → Strand) (s : State) : Frame id s (ranTo pc f s) :=
  (Frame.refl_markIssue s).modSlot _

theorem me_ranTo {s : State} (h : s.cur.2 < 9) (pc : Word) (f : Strand → Strand) :
    (ranTo pc f s).me =
      { f { s.me with entry := false } with pc := pc, icnt := (f { s.me with entry := false }).icnt + 1 } := by
  rw [← me_markIssue h]
  exact State.me_modMe (markIssue s) _ h

/-- The slot of an issue is in INTERVAL (R21). -/
theorem slotState_markIssue {s : State} (h : s.cur.2 < 9) :
    ((markIssue s).slot s.cur.1 s.cur.2).state = .interval (s.cyc + 8) := by
  simp only [State.slot, markIssue, State.core_modCore_same, State.modSlot]
  split <;> simp [Core.slot, Core.modSlot, h]

theorem slotState_ranTo {s : State} (h : s.cur.2 < 9) (pc : Word) (f : Strand → Strand) :
    ((ranTo pc f s).slot s.cur.1 s.cur.2).state = .interval (s.cyc + 8) := by
  rw [ranTo, State.modMe, State.modStrand, cur_markIssue, State.slot_modSlot_same _ _ _ h]
  exact slotState_markIssue h

/-- Settles O8: ran and ranTo update the executing strand's slot of an issue that is marked, and nothing else. -/
theorem registerInstructionsChangeNothingElse : Obligations.RegisterInstructionsChangeNothingElse := by
  intro f pc s h
  rw [ran_eq_ranTo h]
  have hmem : ∀ pc, (ranTo pc f s).mem = s.mem := fun pc => (frame_ranTo pc f s).mem
  exact ⟨frame_ranTo _ f s, frame_ranTo pc f s, fun a => by rw [hmem, hmem]; exact ⟨rfl, rfl⟩, me_ranTo h _ f, me_ranTo h pc f,
    slotState_ranTo h _ f, slotState_ranTo h pc f⟩

end Sys2Proof.Machine
end

section
/-! PROOF. The issue of an instruction that names an empty or a clipped register (R20, R80, R252). -/

namespace Sys2Proof.Machine

/-- An instruction whose registers are not all full parks on those that are empty. -/
theorem needs_empty {reads writes : List (BitVec 4)} {s : State} (body : State → State) (hs : s.cur.2 < 9)
    (h : ∃ r ∈ reads ++ writes, s.me.isEmpty r = true) :
    needs reads writes body (markIssue s) = park ((reads ++ writes).filter s.me.isEmpty) (markIssue s) := by
  have hne : (reads ++ writes).filter s.me.isEmpty ≠ [] := fun hnil => by
    obtain ⟨r, hr, he⟩ := h
    exact List.filter_eq_nil_iff.mp hnil r hr he
  rw [needs, parksOr, isEmpty_markIssue hs]
  split
  · next hnil => exact absurd hnil hne
  · rfl

/-- An instruction whose registers are full traps on the first clipped one that it reads. -/
theorem needs_clipped {reads writes : List (BitVec 4)} {s : State} {r : BitVec 4} (body : State → State)
    (hs : s.cur.2 < 9) (hfull : ∀ q ∈ reads ++ writes, s.me.isEmpty q = false)
    (hr : reads.find? s.me.isClipped = some r) :
    needs reads writes body (markIssue s) = trapHere ⟨.contextClipped, r.setWidth 64, 0⟩ (markIssue s) := by
  have hnil : (reads ++ writes).filter s.me.isEmpty = [] :=
    List.filter_eq_nil_iff.mpr fun q hq => by simp [hfull q hq]
  simp only [needs, parksOr, unclipped, isEmpty_markIssue hs, isClipped_markIssue hs, hnil, hr]

section Needs

variable {i : Instr} {reads writes : List (BitVec 4)} {body : State → State}
  (h : ∀ s, exec i s = issue i (needs reads writes body) s)
include h

/-- An instruction whose effect needs some registers parks on the empty ones among them (R80). -/
theorem parksOn_of_needs {regs : List (BitVec 4)} (hregs : reads ++ writes = regs) : ParksOn i regs := by
  intro s hs he
  refine ⟨_, regs.filter s.me.isEmpty, (h s).trans (issue_runs _ hs), ?_, fun r => List.mem_filter⟩
  subst hregs
  rw [needs_empty body hs.slot he]
  exact parks_park hs.slot

/-- It traps on the first clipped one that it reads (R252). -/
theorem trapsOnClipped_of_needs : TrapsOnClipped i reads writes := by
  intro s r hs ht hfull hr
  refine ⟨_, (h s).trans (issue_runs _ hs), ?_⟩
  rw [needs_clipped body hs.slot hfull hr]
  exact traps_trapHere hs.slot rfl ht

end Needs

/-- Settles O7: the effect of each instruction is one that needs its registers, by the definition of its arm, and such an
effect parks on the empty ones (R80) or traps on a clipped one (R252). -/
theorem emptyRegistersParkAndClippedOnesTrap : Obligations.EmptyRegistersParkAndClippedOnesTrap := by
  refine ⟨⟨fun d a b p => ⟨?twoSources, ?sumStores, ?oneSource, ?jmpr, ?callr, ?ret, ?prd, ?predicates, ?fields, ?atomics⟩,
    fun d a o p => ⟨?dispLoads, ?dispStores, ?csrr⟩, fun d a i p => ?immediates,
    fun d a p => ⟨fun i => ⟨?movi, ?movhi⟩, fun i => ?call, fun k => ⟨?ldk, ?addk⟩⟩⟩,
    fun d a b p o => ⟨?clippedTwo, ?popc, ?ldd, ?std, ?csrw, ?clippedJmpr, ?clippedRet⟩⟩
  case predicates =>
    exact fun n => ⟨parksOn_of_needs (fun _ => rfl) rfl, parksOn_of_needs (fun _ => rfl) rfl, fun c =>
      ⟨parksOn_of_needs (fun _ => rfl) rfl, fun i => parksOn_of_needs (fun _ => rfl) rfl⟩⟩
  case fields =>
    exact fun n w => ⟨parksOn_of_needs (fun _ => rfl) rfl, parksOn_of_needs (fun _ => rfl) rfl,
      parksOn_of_needs (fun _ => rfl) rfl, parksOn_of_needs (fun _ => rfl) rfl, parksOn_of_needs (fun _ => rfl) rfl⟩
  case twoSources | sumStores | oneSource | dispLoads | dispStores | immediates =>
    repeat refine List.forall_mem_cons.2 ⟨parksOn_of_needs (fun _ => rfl) rfl, ?_⟩
    exact List.forall_mem_nil _
  case atomics =>
    intro z r
    repeat refine List.forall_mem_cons.2 ⟨parksOn_of_needs (fun _ => rfl) rfl, ?_⟩
    exact List.forall_mem_nil _
  case clippedTwo =>
    repeat refine List.forall_mem_cons.2 ⟨trapsOnClipped_of_needs (fun _ => rfl), ?_⟩
    exact List.forall_mem_nil _
  case popc | ldd | std | csrw | clippedJmpr | clippedRet => exact trapsOnClipped_of_needs fun _ => rfl
  all_goals exact parksOn_of_needs (fun _ => rfl) rfl

end Sys2Proof.Machine
end

section
/-! PROOF. A load in WAIT whose data arrive (R19, R155, R156, R164, R361). -/

namespace Sys2Proof.Machine

/-- Leaving WAIT updates the strand's slot and nothing else (R19). -/
theorem woken_wake {c n : Nat} (hn : n < 9) (f : Strand → Strand) (s : State) : Woken c n f s (wake c n f s) where
  rest := rfl
  others _ hd := State.core_modCore_other _ _ hd
  core := by simp only [wake, State.modSlot, State.core_modCore_same]; rfl
  slots _ hm := State.slot_modSlot_other _ _ (Or.inr hm)
  slot := State.slot_modSlot_same _ _ _ hn

/-- An update of a strand that then leaves WAIT is part of its leaving. -/
theorem wake_modStrand {c n : Nat} (hn : n < 9) (f : Strand → Strand) (s : State) :
    wake c n id (s.modStrand c n f) = wake c n f s := by
  have hslot : (s.modStrand c n f).slot c n = { s.slot c n with strand := f (s.strand c n) } :=
    State.slot_modSlot_same _ _ _ hn
  have hat : wakeAt (s.modStrand c n f) c n = wakeAt s c n := by simp only [wakeAt, hslot]; rfl
  rw [wake, wake, hat, State.modStrand, State.modSlot_modSlot]
  rfl

/-- The buffer holds no byte of a place. -/
theorem sbByte_none {sb : List SbEntry} {p : Loc} (h : ∀ e ∈ sb, e.byte p = none) : sbByte sb p = none := by
  induction sb with
  | nil => rfl
  | cons e sb ih =>
    have he : e.byte p = none := h e List.mem_cons_self
    rw [sbByte, List.foldl_cons, he]
    exact ih fun x hx => h x (List.mem_cons_of_mem _ hx)

/-- The trap entry of the strand in a slot, for every cause but those of floating point (R343). -/
theorem strand_takeTrap {c n : Nat} {xpc : Word} {stop : Stop} {late : Bool} {s : State} (hn : n < 9)
    (hf : isFpCause stop.cause = false) (ht : (s.core c).tvec ≠ 0) :
    (takeTrap c n xpc stop late s).strand c n =
      { s.strand c n with
        xpc := ((s.strand c n).redir <|> (s.strand c n).redirX).getD xpc, redir := none, redirX := none
        xcause := BitVec.ofNat 64 (causeCode stop.cause + b2n (s.strand c n).mode * 2 ^ 63), xval := stop.xval
        xaux := stop.xaux, mode := true, pc := (s.core c).tvec.setWidth 64 <<< 2, entry := true
        icnt := if late then (s.strand c n).icnt - 1 else (s.strand c n).icnt } := by
  unfold takeTrap
  simp only [hf, Bool.false_eq_true, if_false, if_neg ht]
  split
  · rw [State.strand, State.modBlock, State.slot_modCluster, State.slot_modSlot_same _ _ _ hn]; rfl
  · rw [State.strand, State.slot_modSlot_same _ _ _ hn]; rfl

theorem mem_takeTrap {c n : Nat} {xpc : Word} {stop : Stop} {late : Bool} {s : State}
    (hf : isFpCause stop.cause = false) (ht : (s.core c).tvec ≠ 0) : (takeTrap c n xpc stop late s).mem = s.mem := by
  unfold takeTrap
  simp only [hf, Bool.false_eq_true, if_false, if_neg ht]
  split <;> rfl

section WaitingLoad

/-- The element of a scalar load of this module that has not been read. -/
def openElem (va : Word) (a size : Nat) (ord : Bool) : Elem := ⟨0, va, .here a, size, ord, none, 0, 0⟩

variable {c n a size : Nat} {s : State} {va : Word} {ord signed plain : Bool} {d : BitVec 4}

/-- An element outside the own local store of which the buffer holds no byte, and for whose line no averaging entry waits, is
read from memory, unless its line is poisoned (R155, R164, R361). -/
theorem loadElem_memory {uid : Nat} (hz : 0 < size) (hl : inLocal c (.here a) = false)
    (hb : ∀ e ∈ (s.core c).sb, ∀ j < size, e.byte (.here (a + j)) = none)
    (hq : ∀ x ∈ (s.core c).avgQ, x.uid = uid ∨ releasedTo s c x.uid uid = true → x.line ≠ a / 64 * 64) :
    loadElem s c uid (openElem va a size ord) = if poisoned s a size then .poison else .val (loadMem s ord a size) := by
  have havg : avgPending s c uid (openElem va a size ord) = false := by
    simpa [avgPending, openElem] using hq
  have hheld : heldBytes s c (openElem va a size ord) = List.replicate size none := by
    refine List.eq_replicate_iff.mpr ⟨by simp [heldBytes, openElem], fun b hm => ?_⟩
    obtain ⟨j, hj, rfl⟩ := List.mem_map.mp hm
    exact sbByte_none fun e he => hb e he j (List.mem_range.mp hj)
  have hany : (heldBytes s c (openElem va a size ord)).any Option.isSome = false := by
    simp [hheld]
  have hall : (heldBytes s c (openElem va a size ord)).all Option.isSome = false := by
    rw [hheld, List.all_replicate, if_neg (Nat.ne_of_gt hz)]
    rfl
  simp only [loadElem, havg, hall, hany, Bool.false_eq_true, if_false]
  simp only [openElem, hl, Bool.false_eq_true, if_false]
  rfl

/-- Such an element takes nothing from a store of another strand. -/
theorem markSeen_memory {uid : Nat} (hb : ∀ e ∈ (s.core c).sb, ∀ j < size, e.byte (.here (a + j)) = none) :
    markSeen c uid [openElem va a size ord] s = s := by
  refine if_neg fun hany => ?_
  obtain ⟨x, hx, hs⟩ := List.any_eq_true.mp hany
  have hf : forwards x (openElem va a size ord) = false := by
    refine List.any_eq_false.mpr fun j hj => ?_
    rw [openElem, Loc.plus, hb x hx j (List.mem_range.mp hj)]
    exact Bool.false_ne_true
  simp [newlySeen, hf] at hs

variable (hw : s.waiting c n = some (.load [openElem va a size ord] (.scalar d signed plain) none))
include hw

/-- LOAD_COMPLETE of a scalar load. -/
theorem exec_loadComplete_scalar {t : State}
    (h : loadComplete c n s = some t) : exec (.loadComplete c n) s = .next t := by
  have ha : loadArrives c n s = loadComplete c n s := by simp only [loadArrives, hw]
  exact event_some (ha.trans h)

/-- A scalar load whose element finds its bytes ends with their value (R155, R156). -/
theorem loadComplete_value {v : Nat} (hn : n < 9)
    (hb : ∀ e ∈ (s.core c).sb, ∀ j < size, e.byte (.here (a + j)) = none)
    (hv : loadElem s c (s.strand c n).uid (openElem va a size ord) = .val v) :
    loadComplete c n s = some (wake c n (fun x => x.put d (extend signed size v)) s) := by
  have hans : elemAnswer s c (s.strand c n).uid (openElem va a size ord) = some (.ok v) := by
    simp only [elemAnswer, hv, show (openElem va a size ord).val = none from rfl]
  have htags : elemTags [openElem va a size ord] = [] := rfl
  simp only [loadComplete, hw, gather, hans, loadEnd, htags, dropTags_nil, markSeen_memory hb, LoadDst.home, writeLoaded,
    wake_modStrand hn]
  rfl

/-- A scalar load whose element finds poison traps with the address (R155, R361). -/
theorem loadComplete_poison (hv : loadElem s c (s.strand c n).uid (openElem va a size ord) = .poison) :
    loadComplete c n s = some (trapWait c n ⟨.poison, va, 0⟩ s) := by
  have hans : elemAnswer s c (s.strand c n).uid (openElem va a size ord) = some (.stop ⟨.poison, va, 0⟩) := by
    simp only [elemAnswer, hv, show (openElem va a size ord).val = none from rfl]
    rfl
  have htags : elemTags [openElem va a size ord] = [] := rfl
  have hseen : ∀ uid, markSeen c uid [] s = s := fun uid => by simp [markSeen, newlySeen]
  simp only [loadComplete, hw, gather, hans, loadEnd, htags, dropTags_nil, List.map_nil, hseen, partLoaded, elemStop]

end WaitingLoad

/-- Settles O13: what the element of the load finds decides between its value and the trap. -/
theorem waitingLoadsComplete : Obligations.WaitingLoadsComplete := by
  intro c n s va a size ord signed plain d hn hz hw hl hb hq
  have hfind : loadElem s c (s.strand c n).uid (openElem va a size ord) = _ := loadElem_memory hz hl hb hq
  refine ⟨fun hp => ?_, fun hp ht => ?_⟩
  · rw [hp] at hfind
    exact ⟨_, exec_loadComplete_scalar hw (loadComplete_value hw hn hb hfind), woken_wake hn _ s⟩
  · rw [hp] at hfind
    refine ⟨_, exec_loadComplete_scalar hw (loadComplete_poison hw hfind), ?_⟩
    rw [trapWait, strand_takeTrap hn rfl ht, mem_takeTrap rfl ht]
    refine ⟨rfl, rfl, ?_, rfl, rfl⟩
    cases (s.strand c n).mode <;> rfl

end Sys2Proof.Machine
end

section
/-! PROOF. What a performed write leaves of the module beside memory: the strands that wait for a core, but for their latch;
the slots that are EMPTY; and all that is neither core, engine nor memory (R152, R211, R221, R227, R317, R365). -/

namespace Sys2Proof.Machine

theorem tabFind_map {α : Type} (f : Nat → α → α) (t : Tab α) (x : Nat) :
    tabFind (t.map fun p => (p.1, f p.1 p.2)) x = (tabFind t x).map (f x) := by
  induction t with
  | nil => rfl
  | cons p t ih =>
    by_cases h : x = p.1
    · simp [tabFind, h]
    · simp [tabFind, h, ih]

/-- A table whose entries all take f, where the default is one that f keeps. -/
theorem tabGet_map {α : Type} {d : α} {f : Nat → α → α} {x : Nat} (h : f x d = d) (t : Tab α) :
    tabGet d (t.map fun p => (p.1, f p.1 p.2)) x = f x (tabGet d t x) := by
  rw [tabGet, tabFind_map, tabGet]
  cases tabFind t x with
  | none => exact h.symm
  | some v => rfl

/-- A core listed or not takes f, where a core at reset is one that f keeps. -/
theorem core_mapCores {s t : State} {f : Nat → Core → Core} {c : Nat}
    (ht : t.cores = s.cores.map fun p => (p.1, f p.1 p.2)) (h : f c Core.reset = Core.reset) :
    t.core c = f c (s.core c) := by
  rw [State.core, ht]
  exact tabGet_map h s.cores

/-- The strands that wait for a core, in their order, the pending latch aside. -/
def Core.arrivals (k : Core) : List Strand := k.arr.map fun e => { e.strand with latch := true }

/-- What writes to memory make of a core: latches are set, ordered atomics in WAIT go on, and a core that is gated wakes. -/
structure CoreWritten (k k' : Core) : Prop where
  rest : k' = { k with slots := k'.slots, arr := k'.arr, gating := k'.gating, idleSince := k'.idleSince }
  arrivals : k'.arrivals = k.arrivals
  empty : ∀ i, (k'.slot i).state = .empty ↔ (k.slot i).state = .empty

theorem CoreWritten.refl (k : Core) : CoreWritten k k := ⟨rfl, rfl, fun _ => Iff.rfl⟩

theorem CoreWritten.trans {k l m : Core} (h : CoreWritten k l) (h' : CoreWritten l m) : CoreWritten k m where
  rest := by rw [h'.rest, h.rest]
  arrivals := h'.arrivals.trans h.arrivals
  empty i := (h'.empty i).trans (h.empty i)

/-- Nothing of s has changed in t but cores, engines, memory and the ordered atomics that are held. -/
structure SameControl (s t : State) : Prop where
  rest : t = { s with
    cores := t.cores, clusters := t.clusters, dies := t.dies, ioTlbs := t.ioTlbs, mem := t.mem, poison := t.poison
    held := t.held }

theorem SameControl.trans {s t u : State} (h : SameControl s t) (h' : SameControl t u) : SameControl s u where
  rest := by rw [h'.rest, h.rest]

/-- What writes to memory make of the module. -/
structure Written (s t : State) : Prop extends SameControl s t where
  core : ∀ c, CoreWritten (s.core c) (t.core c)

theorem Written.refl (s : State) : Written s s := ⟨⟨rfl⟩, fun _ => .refl _⟩

theorem Written.trans {s t u : State} (h : Written s t) (h' : Written t u) : Written s u where
  toSameControl := h.toSameControl.trans h'.toSameControl
  core c := (h.core c).trans (h'.core c)

theorem Written.foldl {α : Type} {f : State → α → State} (hf : ∀ s x, Written s (f s x)) (l : List α) (s : State) :
    Written s (l.foldl f s) := by
  induction l generalizing s with
  | nil => exact .refl s
  | cons x l ih => exact (hf s x).trans (ih _)

theorem Core.woken_eq (cyc : Nat) (k : Core) :
    k.woken cyc = { k with gating := (k.woken cyc).gating, idleSince := (k.woken cyc).idleSince } := by
  unfold Core.woken
  split
  · split <;> rfl
  · rfl
  · rfl

@[simp] theorem Core.slots_woken (cyc : Nat) (k : Core) : (k.woken cyc).slots = k.slots := by rw [Core.woken_eq]
@[simp] theorem Core.arr_woken (cyc : Nat) (k : Core) : (k.woken cyc).arr = k.arr := by rw [Core.woken_eq]
@[simp] theorem Core.preempted_woken (cyc : Nat) (k : Core) : (k.woken cyc).preempted = k.preempted := by rw [Core.woken_eq]

@[simp] theorem Core.slot_woken (cyc : Nat) (k : Core) (i : Nat) : (k.woken cyc).slot i = k.slot i := by
  rw [Core.slot, Core.slots_woken, Core.slot]

theorem CoreWritten.woken (cyc : Nat) (k : Core) : CoreWritten k (k.woken cyc) where
  rest := by rw [Core.woken_eq]
  arrivals := by rw [Core.arrivals, Core.arr_woken, Core.arrivals]
  empty i := by rw [Core.slot_woken]

/-- A core's strands that have one of some lines armed, with their latch set. -/
def Core.latched (ls : List Nat) (k : Core) : Core :=
  { k with slots := k.slots.map (fun x => { x with strand := x.strand.latchOn ls })
           arr := k.arr.map fun e => { e with strand := e.strand.latchOn ls } }

theorem Strand.latch_latchOn (ls : List Nat) (x : Strand) :
    { x.latchOn ls with latch := true } = { x with latch := true } := by
  unfold Strand.latchOn
  split <;> rfl

theorem CoreWritten.latched (ls : List Nat) (k : Core) : CoreWritten k (k.latched ls) where
  rest := rfl
  arrivals := by simp [Core.arrivals, Core.latched, Function.comp_def, Strand.latch_latchOn]
  empty i := by
    simp only [Core.slot, Core.latched, Vector.getElem?_map]
    cases k.slots[i]? <;> rfl

theorem Core.latched_reset (ls : List Nat) : Core.reset.latched ls = Core.reset := by
  simp [Core.latched, Core.reset, Slot.reset, Strand.reset, Strand.latchOn]

theorem written_latchLines (ls : List Nat) (s : State) : Written s (latchLines ls s) where
  rest := rfl
  core c := by
    rw [core_mapCores (s := s) (t := latchLines ls s) (f := fun _ k => k.latched ls) rfl (Core.latched_reset ls)]
    exact .latched ls _

theorem written_wakeStored (a n : Nat) (s : State) : Written s (wakeStored a n s) where
  rest := rfl
  core c := by
    rw [core_mapCores (s := s) (t := wakeStored a n s)
      (f := fun c k => if decide (a < lsAddr c 0x8000) && decide (lsAddr c 0 < a + n) then k.woken s.cyc else k)
      rfl (by split <;> rfl)]
    split
    · exact .woken s.cyc _
    · exact .refl _

/-- A change of engines and memory alone. -/
theorem Written.of_cores {s t : State} (hc : t.cores = s.cores)
    (h : SameControl s t) : Written s t where
  toSameControl := h
  core c := by
    have e : t.core c = s.core c := by rw [State.core, hc, State.core]
    rw [e]
    exact .refl _

theorem written_writeRaw (a : Nat) (bs : List Byte) (s : State) : Written s (writeRaw a bs s) :=
  (Written.of_cores (s := s)
      (t := { s with mem := memPutAll s.mem a bs, poison := (writeRaw a bs s).poison }) rfl ⟨rfl⟩).trans
    ((written_latchLines _ _).trans ((written_wakeStored a bs.length _).trans (.of_cores rfl ⟨rfl⟩)))

theorem written_ringStored (a old : Nat) (s : State) : Written s (ringStored a old s) := by
  unfold ringStored
  split
  · exact .refl s
  · dsimp only
    split
    · exact .of_cores rfl ⟨rfl⟩
    · split
      · exact .of_cores rfl ⟨rfl⟩
      · exact .refl s

/-- An ordered atomic in WAIT goes on in its slot. -/
theorem written_setOrd {c n : Nat} (op : OrdOp) (ph : OrdPhase) {s : State} (h : (s.slot c n).state ≠ .empty) :
    Written s (setOrd c n op ph s) where
  rest := rfl
  core d := by
    by_cases hd : d = c
    · subst hd
      rw [setOrd, State.setState, State.modSlot, State.core_modCore_same]
      refine ⟨rfl, rfl, fun i => ?_⟩
      by_cases hi : i = n
      · subst hi
        by_cases h9 : i < 9
        · rw [Core.slot_modSlot_same _ _ h9]
          exact ⟨fun he => SlotState.noConfusion he, fun he => absurd he h⟩
        · simp [Core.slot, Core.modSlot, h9]
      · rw [Core.slot_modSlot_other _ _ hi]
    · rw [setOrd, State.setState, State.modSlot, State.core_modCore_other _ _ hd]
      exact .refl _

theorem slotState_of_ordOf {s : State} {c n : Nat} {op : OrdOp} (h : ordOf s c n = some op) :
    (s.slot c n).state ≠ .empty := fun he => by
  simp [ordOf, State.waiting, he] at h

theorem Written.slot_ne_empty {s t : State} (h : Written s t) {c n : Nat} (hs : (s.slot c n).state ≠ .empty) :
    (t.slot c n).state ≠ .empty := fun he => hs (((h.core c).empty n).mp he)

theorem written_unhold (c n : Nat) (s : State) : Written s (unhold c n s) := .of_cores rfl ⟨rfl⟩

theorem written_ordApplyOne {c n : Nat} (op : OrdOp) {s : State} (h : (s.slot c n).state ≠ .empty) :
    Written s (ordApplyOne c n op s) := by
  have hw := written_writeRaw op.cell
    (leBytes 8 (ordValue op.op (cellValue s op.cell) op.v) ++ leBytes 4 ((cellNext s op.cell + 1) % 2 ^ 32)) s
  exact hw.trans ((written_setOrd op _ (hw.slot_ne_empty h)).trans (written_unhold c n _))

theorem written_ordChain (cell f : Nat) (s : State) : Written s (ordChain cell f s) := by
  induction f generalizing s with
  | zero => exact .refl s
  | succ f ih =>
    unfold ordChain
    split
    · next c n op h =>
      obtain ⟨⟨c', n', u⟩, -, hx⟩ := List.exists_of_findSome?_eq_some h
      have hord : ordOf s c n = some op := by
        dsimp only at hx
        split at hx
        · next op' ho =>
          split at hx
          · cases hx; exact ho
          · cases hx
        · cases hx
      exact (written_ordApplyOne op (slotState_of_ordOf hord)).trans (ih _)
    · exact .refl s

theorem written_ordRecheck (next : Nat) {c n : Nat} (op : OrdOp) {s : State} (h : (s.slot c n).state ≠ .empty) :
    Written s (ordRecheck next c n op s) := by
  have hset (ph : OrdPhase) : Written s (unhold c n (setOrd c n op ph s)) :=
    (written_setOrd op ph h).trans (written_unhold c n _)
  unfold ordRecheck
  split
  · exact hset _
  · split
    · exact hset _
    · exact .refl s

/-- Rechecks of entries whose slots are not EMPTY. -/
theorem written_ordRechecks (next : OrdOp → Nat) (l : List (Nat × Nat × OrdOp)) {s : State}
    (h : ∀ x ∈ l, (s.slot x.1 x.2.1).state ≠ .empty) :
    Written s (l.foldl (fun s x => ordRecheck (next x.2.2) x.1 x.2.1 x.2.2 s) s) := by
  induction l generalizing s with
  | nil => exact .refl s
  | cons x l ih =>
    have hw := written_ordRecheck (next x.2.2) x.2.2 (h x List.mem_cons_self)
    exact hw.trans (ih fun y hy => hw.slot_ne_empty (h y (List.mem_cons_of_mem _ hy)))

theorem written_ordSweep (a n : Nat) (old s : State) : Written s (ordSweep a n old s) := by
  refine (written_ordRechecks (fun op => cellNext old op.cell) _ fun x hx => ?_).trans
    (.foldl (fun t x => written_ordChain _ _ t) _ _)
  obtain ⟨⟨c, m, u⟩, -, hm⟩ := List.mem_filterMap.mp hx
  dsimp only at hm
  split at hm
  · next op ho =>
    split at hm
    · cases hm; exact slotState_of_ordOf ho
    · cases hm
  · cases hm

theorem written_perform (a : Nat) (bs : List Byte) (s : State) : Written s (perform a bs s) :=
  (written_writeRaw a bs s).trans ((written_ringStored a _ _).trans (written_ordSweep a _ s _))

end Sys2Proof.Machine
end

section
/-! PROOF. The start of a pre-emption, and its request at a core (R36, R308, R354, R356). -/

namespace Sys2Proof.Machine

theorem preempt_eq {n : Nat} {s : State} {l : Launch} (hl : s.launch n = some l) (hb : (s.pctlOf n).busy = false)
    (hv : tabFind s.saved n = none) : preempt n s = some (
      let fresh := !s.frozenDoms.contains l.domain
      let s1 := s.modPctl n fun y => { y with op := 1, busy := true, reached := [], froze := fresh }
      if fresh then startFreeze l.domain s1 else s1) := by
  simp only [preempt, hl, hb, hv, Option.isSome_none, Bool.or_self, Bool.false_eq_true, if_false]

theorem preempt_frozen {n : Nat} {s : State} {l : Launch} (hl : s.launch n = some l) (hb : (s.pctlOf n).busy = false)
    (hv : tabFind s.saved n = none) (hd : l.domain ∈ s.frozenDoms) :
    preempt n s = some (s.modPctl n fun y => { y with op := 1, busy := true, reached := [], froze := false }) := by
  simp [preempt_eq hl hb hv, hd]

theorem preempt_freezes {n : Nat} {s : State} {l : Launch} (hl : s.launch n = some l) (hb : (s.pctlOf n).busy = false)
    (hv : tabFind s.saved n = none) (hd : l.domain ∉ s.frozenDoms) :
    preempt n s = some (startFreeze l.domain
      (s.modPctl n fun y => { y with op := 1, busy := true, reached := [], froze := true })) := by
  simp [preempt_eq hl hb hv, hd]

/-! ### The request at a core -/

/-- Operations in WAIT that the request withdraws with no more ado, BNEXT and RECV, or leaves as they are (R356). -/
def StopsSimply (op : WaitOp) : Prop :=
  op = .bnext ∨ op = .idle ∨ (∃ d m lim, op = .recv d m lim) ∨ ∃ x b m, op = .amo x b m

/-- What the request makes of an operation in WAIT in one slot of a core (R356). -/
def stopSlot (n c : Nat) (s : State) (i : Nat) : State :=
  if (s.strand c i).isOf n then
    match s.waiting c i with
    | some op => stopWait c i op s
    | none => s
  else s

/-- A slot whose operation the request withdraws. -/
def Slot.withdrawn (x : Slot) : Slot := { x with state := .ready, strand := x.strand.goTo x.strand.pc }

/-- The request withdraws what waits in a slot: a strand of the launch in BNEXT or RECV. -/
def Withdraws (n : Nat) (s : State) (c i : Nat) : Prop :=
  (s.strand c i).isOf n = true ∧ (s.waiting c i = some .bnext ∨ ∃ d m lim, s.waiting c i = some (.recv d m lim))

theorem stopSlot_withdraws {n c i : Nat} {s : State} (h : Withdraws n s c i) :
    stopSlot n c s i = s.modSlot c i Slot.withdrawn := by
  obtain ⟨hn, hw⟩ := h
  rw [stopSlot, if_pos hn]
  obtain hw | ⟨d, m, lim, hw⟩ := hw <;> rw [hw] <;> rfl

theorem stopSlot_keeps {n c i : Nat} {s : State} (h : ¬Withdraws n s c i)
    (hs : ∀ op, (s.strand c i).isOf n = true → s.waiting c i = some op → StopsSimply op) : stopSlot n c s i = s := by
  by_cases hn : (s.strand c i).isOf n = true
  · rw [stopSlot, if_pos hn]
    cases hw : s.waiting c i with
    | none => rfl
    | some op =>
      obtain rfl | rfl | ⟨d, m, lim, rfl⟩ | ⟨x, b, m, rfl⟩ := hs op hn hw
      · exact absurd ⟨hn, .inl hw⟩ h
      · rfl
      · exact absurd ⟨hn, .inr ⟨d, m, lim, hw⟩⟩ h
      · rfl
  · rw [stopSlot, if_neg hn]

/-- t is s after the request has met the first k slots of core c. -/
structure Stopped (n c k : Nat) (s t : State) : Prop where
  rest : t = { s with cores := t.cores }
  core : t.core c = { s.core c with slots := (t.core c).slots }
  done : ∀ i < k, Withdraws n s c i → t.slot c i = (s.slot c i).withdrawn
  kept : ∀ i, k ≤ i ∨ ¬Withdraws n s c i → t.slot c i = s.slot c i

theorem Stopped.step {n c k : Nat} {s t : State} (h : Stopped n c k s t) (hk : k < 9)
    (hs : ∀ op, (s.strand c k).isOf n = true → s.waiting c k = some op → StopsSimply op) :
    Stopped n c (k + 1) s (stopSlot n c t k) := by
  have hsame : t.slot c k = s.slot c k := h.kept k (.inl (Nat.le_refl k))
  have hstrand : t.strand c k = s.strand c k := by rw [State.strand, hsame, State.strand]
  have hwait : t.waiting c k = s.waiting c k := by rw [State.waiting, hsame, State.waiting]
  have hiff : Withdraws n t c k ↔ Withdraws n s c k := by rw [Withdraws, Withdraws, hstrand, hwait]
  have before {i : Nat} (hi : i < k + 1) (hne : i ≠ k) : i < k := by omega
  by_cases hw : Withdraws n s c k
  · rw [stopSlot_withdraws (hiff.mpr hw)]
    exact
      { rest := by
          have := h.rest
          simp only [State.modSlot, State.modCore]
          rw [this]
        core := by rw [State.modSlot, State.core_modCore_same, h.core]; rfl
        done := fun i hi hwi => by
          by_cases hik : i = k
          · subst hik
            rw [State.slot_modSlot_same _ _ _ hk, hsame]
          · rw [State.slot_modSlot_other _ _ (.inr hik)]
            exact h.done i (before hi hik) hwi
        kept := fun i hi => by
          have hik : i ≠ k := by
            rintro rfl
            exact hi.elim (fun hle => absurd hle (Nat.not_succ_le_self i)) fun hn => hn hw
          rw [State.slot_modSlot_other _ _ (.inr hik)]
          exact h.kept i (hi.imp_left Nat.le_of_succ_le) }
  · rw [stopSlot_keeps (fun ht => hw (hiff.mp ht)) (by rw [hstrand, hwait]; exact hs)]
    exact
      { rest := h.rest
        core := h.core
        done := fun i hi hwi => h.done i (before hi (by rintro rfl; exact hw hwi)) hwi
        kept := fun i hi => h.kept i (hi.imp_left Nat.le_of_succ_le) }

theorem stopped_foldl {n c : Nat} {s : State} {k : Nat} (hk : k ≤ 9)
    (hs : ∀ i < k, ∀ op, (s.strand c i).isOf n = true → s.waiting c i = some op → StopsSimply op) :
    Stopped n c k s ((List.range k).foldl (stopSlot n c) s) := by
  induction k with
  | zero => exact ⟨rfl, rfl, fun i hi => absurd hi (Nat.not_lt_zero i), fun _ _ => rfl⟩
  | succ k ih =>
    rw [List.range_succ, List.foldl_append, List.foldl_cons, List.foldl_nil]
    exact (ih (Nat.le_of_succ_le hk) fun i hi => hs i (Nat.lt_succ_of_lt hi)).step hk (hs k (Nat.lt_succ_self k))

/-- The module as the request reaches a core, before it meets the slots. -/
def requestAt (n c : Nat) (s : State) : State :=
  (s.modPctl n fun y => { y with reached := y.reached ++ [c] }).modCore c fun k =>
    { k.woken s.cyc with preempted := k.preempted ++ [n] }

theorem core_requestAt (n c : Nat) (s : State) :
    (requestAt n c s).core c = { (s.core c).woken s.cyc with preempted := (s.core c).preempted ++ [n] } :=
  State.core_modCore_same ..

theorem slot_requestAt (n c i : Nat) (s : State) : (requestAt n c s).slot c i = s.slot c i := by
  rw [State.slot, core_requestAt]
  exact Core.slot_woken s.cyc (s.core c) i

theorem strand_requestAt (n c i : Nat) (s : State) : (requestAt n c s).strand c i = s.strand c i := by
  rw [State.strand, slot_requestAt, State.strand]

theorem waiting_requestAt (n c i : Nat) (s : State) : (requestAt n c s).waiting c i = s.waiting c i := by
  rw [State.waiting, slot_requestAt, State.waiting]

theorem withdraws_requestAt (n c i : Nat) (s : State) : Withdraws n (requestAt n c s) c i ↔ Withdraws n s c i := by
  rw [Withdraws, Withdraws, strand_requestAt, waiting_requestAt]

/-- A core of a launch that is being pre-empted is one that the request reaches. -/
theorem mem_preemptCores {n c : Nat} {s : State} {l : Launch} (h0 : l.first ≤ c) (h1 : c < l.first + l.ncores) :
    c ∈ preemptCores s n l :=
  List.mem_append_left _ (List.mem_map.mpr ⟨c - l.first, List.mem_range.mpr (by omega), by omega⟩)

theorem preemptArrives_eq {n c : Nat} {s : State} {l : Launch} (hl : s.launch n = some l)
    (hb : (s.pctlOf n).busy = true) (ho : (s.pctlOf n).op = 1) (hr : c ∉ (s.pctlOf n).reached) (h0 : l.first ≤ c)
    (h1 : c < l.first + l.ncores) (hf : ∀ f ∈ s.freezes, f.dom ≠ l.domain) :
    preemptArrives n c s = some ((List.range 8).foldl (stopSlot n c) (requestAt n c s)) := by
  have hfree : freezeOf s l.domain = none := List.find?_eq_none.mpr fun f hm => by simpa using hf f hm
  have hcond : (!(s.pctlOf n).busy || (s.pctlOf n).op != 1 || (freezeOf s l.domain).isSome ||
      (s.pctlOf n).reached.contains c || !(preemptCores s n l).contains c) = false := by
    simp [hb, ho, hfree, hr, mem_preemptCores (n := n) (s := s) h0 h1]
  simp only [preemptArrives, hl, hcond, Bool.false_eq_true, if_false]
  rfl

/-- What the request leaves of a core whose strands of the launch wait for nothing else (R356). -/
theorem stopped_requestAt {n c : Nat} {s : State}
    (hs : ∀ i < 8, ∀ op, (s.strand c i).isOf n = true → s.waiting c i = some op → StopsSimply op) {t : State}
    (ht : t = (List.range 8).foldl (stopSlot n c) (requestAt n c s)) :
    t.mem = s.mem ∧ (t.core c).preempted = (s.core c).preempted ++ [n] ∧
    (t.pctlOf n).reached = (s.pctlOf n).reached ++ [c] ∧
    ∀ i < 8,
      ((s.strand c i).isOf n = false ∨ s.waiting c i = none ∨ s.waiting c i = some .idle ∨
        (∃ x b m, s.waiting c i = some (.amo x b m)) → t.slot c i = s.slot c i) ∧
      ((s.strand c i).isOf n = true → (s.waiting c i = some .bnext ∨ ∃ d m lim, s.waiting c i = some (.recv d m lim)) →
        (t.slot c i).state = .ready ∧ t.strand c i = (s.strand c i).goTo (s.strand c i).pc) := by
  have h : Stopped n c 8 (requestAt n c s) t := ht ▸ stopped_foldl (by decide) fun i hi op => by
    rw [strand_requestAt, waiting_requestAt]; exact hs i hi op
  refine ⟨by rw [h.rest]; rfl, by rw [h.core, core_requestAt], ?_, fun i hi => ⟨fun hk => ?_, fun hn hw => ?_⟩⟩
  · have hp : t.pctl = (requestAt n c s).pctl := by rw [h.rest]
    rw [State.pctlOf, hp]
    exact congrArg Pctl.reached (State.pctlOf_modPctl_same s n fun y => { y with reached := y.reached ++ [c] })
  · rw [h.kept i (.inr ?_), slot_requestAt]
    rw [withdraws_requestAt]
    rintro ⟨hn, hw⟩
    obtain hk | hk | hk | ⟨x, b, m, hk⟩ := hk
    · rw [hk] at hn; cases hn
    all_goals
      rw [hk] at hw
      simp at hw
  · have e : t.slot c i = (s.slot c i).withdrawn := by
      rw [h.done i hi ((withdraws_requestAt n c i s).mpr ⟨hn, hw⟩), slot_requestAt]
    rw [State.strand, e]
    exact ⟨rfl, rfl⟩

end Sys2Proof.Machine
end

section
/-! PROOF. The save of a pre-empted launch: what is saved, and what its leaving makes of the module (R25, R36, R355-R357). -/

namespace Sys2Proof.Machine

/-! ### Tables -/

theorem mem_of_tabFind {α : Type} {t : Tab α} {x : Nat} {v : α} (h : tabFind t x = some v) : (x, v) ∈ t := by
  induction t with
  | nil => cases h
  | cons p t ih =>
    obtain ⟨k, u⟩ := p
    rw [tabFind] at h
    split at h
    · next e => cases h; subst e; exact List.mem_cons_self
    · exact List.mem_cons_of_mem _ (ih h)

theorem tabRising_tail {α : Type} {p : Nat × α} {t : Tab α} (h : tabRising (p :: t) = true) : tabRising t = true := by
  cases t with
  | nil => rfl
  | cons q t => exact (Bool.and_eq_true_iff.mp h).2

/-- A table whose keys rise lists no key up to its first again. -/
theorem tabFind_le {α : Type} {p : Nat × α} {t : Tab α} {x : Nat} (h : tabRising (p :: t) = true) (hx : x ≤ p.1) :
    tabFind t x = none := by
  induction t generalizing p with
  | nil => rfl
  | cons q t ih =>
    have hlt : p.1 < q.1 := of_decide_eq_true (Bool.and_eq_true_iff.mp h).1
    rw [tabFind, if_neg (by omega)]
    exact ih (tabRising_tail h) (by omega)

theorem tabFind_tabDel {α : Type} {t : Tab α} (h : tabRising t = true) (x : Nat) : tabFind (tabDel t x) x = none := by
  induction t with
  | nil => rfl
  | cons p t ih =>
    rw [tabDel]
    split
    · next e => exact tabFind_le h (Nat.le_of_eq e)
    · next e => rw [tabFind, if_neg e]; exact ih (tabRising_tail h)

/-! ### What is saved -/

/-- A strand of the launch in an issue slot is among those of the launch. -/
theorem mem_slotStrands {s : State} {n c i : Nat} (hi : i < 8) (he : (s.slot c i).state ≠ .empty)
    (hn : (s.strand c i).isOf n = true) : (c, i) ∈ slotStrands s n := by
  have hlisted : ∃ k, (c, k) ∈ s.cores := by
    cases hf : tabFind s.cores c with
    | some k => exact ⟨k, mem_of_tabFind hf⟩
    | none =>
      refine absurd ?_ he
      have hreset : s.core c = Core.reset := by rw [State.core, tabGet, hf]; rfl
      rw [State.slot, hreset]
      simp [Core.slot, Core.reset, show i < 9 by omega, Slot.reset]
  obtain ⟨k, hk⟩ := hlisted
  refine List.mem_filter.mpr ⟨List.mem_flatMap.mpr ⟨_, hk, List.mem_map.mpr ⟨i, List.mem_range.mpr (by omega), rfl⟩⟩, ?_⟩
  simp [hi, hn, he]

theorem mem_savedLaunch {s : State} {n c i : Nat} {l : Launch} (h0 : l.first ≤ c) (h1 : c < l.first + l.ncores)
    (hi : i < 8) (he : (s.slot c i).state ≠ .empty) (hn : (s.strand c i).isOf n = true) :
    (c, saveStrand s c i) ∈ (savedLaunch s n l).strands := by
  refine List.mem_append_left _ (List.mem_flatMap.mpr ⟨c, mem_preemptCores h0 h1, List.mem_map.mpr ⟨(c, i), ?_, rfl⟩⟩)
  exact List.mem_filter.mpr ⟨mem_slotStrands hi he hn, beq_self_eq_true c⟩

/-- A context as it is saved keeps its general registers, predicates, PC and count (R356, R357). -/
theorem saveContext_keeps (s : State) (c : Nat) (x : Strand) :
    (saveContext s c x).uid = x.uid ∧ (saveContext s c x).pc = x.pc ∧ (saveContext s c x).g = x.g ∧
    (saveContext s c x).full = x.full ∧ (saveContext s c x).p = x.p ∧ (saveContext s c x).icnt = x.icnt ∧
    (saveContext s c x).idle = x.idle := by
  unfold saveContext
  split <;> exact ⟨rfl, rfl, rfl, rfl, rfl, rfl, rfl⟩

/-- The save of a strand says whether it was idle. -/
theorem saveStrand_idle (s : State) (c i : Nat) : (saveStrand s c i).idle = true ↔ s.waiting c i = some .idle := by
  obtain ⟨-, -, -, -, -, -, hidle⟩ := saveContext_keeps s c { s.strand c i with
    idle := s.waiting c i == some .idle, issued := (s.slot c i).lastIssue
    collw := match s.waiting c i with
      | some (.collw cid d) => some (cid, d)
      | _ => none }
  exact (Bool.eq_iff_iff.mp hidle).trans beq_iff_eq

/-! ### What leaves the module -/

/-- Nothing of s has changed in t but clusters and the slots of cores: those that were EMPTY are, and those of a list are too. -/
structure Emptied (xs : List (Nat × Nat)) (s t : State) : Prop where
  rest : t = { s with cores := t.cores, clusters := t.clusters }
  core : ∀ c, t.core c = { s.core c with slots := (t.core c).slots }
  empty : ∀ c i, (s.slot c i).state = .empty ∨ (c, i) ∈ xs ∧ i < 9 → (t.slot c i).state = .empty

theorem Emptied.of_clusters {s t : State} (h : t = { s with clusters := t.clusters }) : Emptied [] s t where
  rest := by rw [h]
  core c := by rw [h]; rfl
  empty c i hi := by
    rw [h]
    exact hi.resolve_right fun hm => List.not_mem_nil hm.1

theorem Emptied.trans {xs ys : List (Nat × Nat)} {s t u : State} (h : Emptied xs s t) (h' : Emptied ys t u) :
    Emptied (xs ++ ys) s u where
  rest := by rw [h'.rest, h.rest]
  core c := by rw [h'.core, h.core]
  empty c i hi := by
    obtain he | ⟨hm, h9⟩ := hi
    · exact h'.empty c i (.inl (h.empty c i (.inl he)))
    · obtain hx | hy := List.mem_append.mp hm
      · exact h'.empty c i (.inl (h.empty c i (.inr ⟨hx, h9⟩)))
      · exact h'.empty c i (.inr ⟨hy, h9⟩)

theorem core_modSlot_slots (s : State) (c d n : Nat) (f : Slot → Slot) :
    (s.modSlot c n f).core d = { s.core d with slots := ((s.modSlot c n f).core d).slots } := by
  by_cases hd : d = c
  · subst hd
    rw [State.modSlot, State.core_modCore_same]
    rfl
  · rw [State.modSlot, State.core_modCore_other _ _ hd]

/-- An update of a slot that leaves an EMPTY one EMPTY. -/
theorem emptied_modSlot (s : State) (c n : Nat) {f : Slot → Slot} (hf : ∀ x, x.state = .empty → (f x).state = .empty) :
    Emptied [] s (s.modSlot c n f) where
  rest := rfl
  core d := core_modSlot_slots s c d n f
  empty d i hi := by
    have he : (s.slot d i).state = .empty := hi.resolve_right fun hm => List.not_mem_nil hm.1
    by_cases hx : d = c ∧ i = n
    · obtain ⟨rfl, rfl⟩ := hx
      by_cases h9 : i < 9
      · rw [State.slot_modSlot_same _ _ _ h9]; exact hf _ he
      · rw [State.slot, State.modSlot, State.core_modCore_same]
        simp [Core.slot, Core.modSlot, h9, Slot.reset]
    · rw [State.slot_modSlot_other _ _ (by omega)]
      exact he

theorem emptied_leaveSlot (s : State) (c n : Nat) : Emptied [(c, n)] s (leaveSlot c n s) where
  rest := rfl
  core d := core_modSlot_slots s c d n _
  empty d i hi := by
    obtain he | ⟨hm, h9⟩ := hi
    · exact (emptied_modSlot s c n fun _ _ => rfl).empty d i (.inl he)
    · cases List.mem_singleton.mp hm
      rw [leaveSlot, State.slot_modSlot_same _ _ _ h9]

theorem emptied_releaseLease (s : State) (c n : Nat) : Emptied [] s (releaseLease c n s) := by
  unfold releaseLease
  split
  · exact .of_clusters rfl
  · exact (Emptied.of_clusters rfl).trans (emptied_modSlot _ c n fun _ h => h)

/-- Strands leave their slots, with their leases. -/
theorem emptied_leaveSlots (xs : List (Nat × Nat)) (s : State) :
    Emptied xs s (xs.foldl (fun s x => leaveSlot x.1 x.2 (releaseLease x.1 x.2 s)) s) := by
  induction xs generalizing s with
  | nil => exact .of_clusters rfl
  | cons x xs ih => exact ((emptied_releaseLease s x.1 x.2).trans (emptied_leaveSlot _ x.1 x.2)).trans (ih _)

theorem emptied_freeHalves (xs : List (Nat × Nat × Nat)) (s : State) :
    Emptied [] s (xs.foldl (fun s x => freeHalf (clusterOf x.1) x.2.1 x.2.2 s) s) := by
  induction xs generalizing s with
  | nil => exact .of_clusters rfl
  | cons x xs ih => exact (Emptied.of_clusters rfl).trans (ih _)

/-- The launch of an active queue slot takes its reservation off a core (R25). -/
def Core.unreserved (n : Nat) (k : Core) : Core :=
  let k1 := { k with reserved := k.reserved.filter (· != n) }
  if k.reserved.head? = some n then { k1 with det := false, turnZero := none } else k1

theorem Core.unreserved_eq (n : Nat) (k : Core) : k.unreserved n =
    { k with reserved := (k.unreserved n).reserved, det := (k.unreserved n).det, turnZero := (k.unreserved n).turnZero } := by
  unfold Core.unreserved
  dsimp only
  split <;> rfl

/-- A core that a launch leaves, in its set or outside (R36, R355). -/
def Core.leftBy (n : Nat) (l : Launch) (c : Nat) (k : Core) : Core :=
  let k1 := { k with arr := k.arr.filter (fun e => !e.strand.isOf n), preempted := k.preempted.filter (· != n) }
  if inSet (l.first, l.ncores) c then { k1 with deque := [], recvQ := [] } else k1

theorem Core.leftBy_eq (n : Nat) (l : Launch) (c : Nat) (k : Core) : k.leftBy n l c =
    { k with arr := (k.leftBy n l c).arr, preempted := k.preempted.filter (· != n)
             deque := (k.leftBy n l c).deque, recvQ := (k.leftBy n l c).recvQ } := by
  unfold Core.leftBy
  dsimp only
  split <;> rfl

theorem clearLaunch_eq (n : Nat) (s : State) : ∃ t, Emptied (slotStrands s n) s t ∧
    clearLaunch n s = { t with cores := t.cores.map fun p => (p.1, p.2.unreserved n) } := by
  have ht := (emptied_leaveSlots (slotStrands s n) s).trans (emptied_freeHalves (waitingLeases s n) _)
  rw [List.append_nil] at ht
  exact ⟨_, ht, rfl⟩

/-- t is s after a launch has left its cores and queues (R25, R36, R123, R278, R355). -/
structure Removed (n : Nat) (l : Launch) (s t : State) : Prop where
  rest : t = { s with
    cores := t.cores, clusters := t.clusters, dies := t.dies, returning := t.returning, pctl := t.pctl
    launches := tabDel s.launches n }
  pctl : t.pctlOf n = { s.pctlOf n with busy := false, reached := [] }
  core : ∀ c, l.first ≤ c → c < l.first + l.ncores →
    (t.core c).deque = [] ∧ (t.core c).recvQ = [] ∧ n ∉ (t.core c).preempted
  empty : ∀ c i, (c, i) ∈ slotStrands s n → i < 9 → (t.slot c i).state = .empty

theorem removed_removeLaunch (n : Nat) (l : Launch) (s : State) : Removed n l s (removeLaunch n l s) := by
  obtain ⟨t, ht, hclear⟩ := clearLaunch_eq n s
  have hcore (c : Nat) : (removeLaunch n l s).core c = ((t.core c).unreserved n).leftBy n l c := by
    have h1 : (clearLaunch n s).core c = (t.core c).unreserved n :=
      core_mapCores (f := fun _ k => k.unreserved n) (by rw [hclear]) rfl
    rw [← h1]
    exact core_mapCores (f := fun c k => k.leftBy n l c) rfl (by unfold Core.leftBy; dsimp only; split <;> rfl)
  have hrest := ht.rest
  refine ⟨?_, ?_, fun c h0 h1 => ?_, fun c i hm h9 => ?_⟩
  · simp only [removeLaunch, hclear, State.modPctl]
    rw [hrest]
  · have hp : (clearLaunch n s).pctl = s.pctl := by rw [hclear, hrest]
    refine (State.pctlOf_modPctl_same ..).trans ?_
    simp only [State.pctlOf, hp]
  · have hset : inSet (l.first, l.ncores) c = true := by simp [inSet, h0, h1]
    have hleft : (((t.core c).unreserved n).leftBy n l c).preempted = _ :=
      congrArg Core.preempted (Core.leftBy_eq n l c _)
    refine ⟨?_, ?_, ?_⟩
    · rw [hcore, Core.leftBy, if_pos hset]
    · rw [hcore, Core.leftBy, if_pos hset]
    · rw [hcore, hleft]
      simp
  · have hslots : ((removeLaunch n l s).core c).slots = (t.core c).slots := by
      rw [hcore, Core.leftBy_eq, Core.unreserved_eq]
    have hslot : (removeLaunch n l s).slot c i = t.slot c i := by
      rw [State.slot, Core.slot, hslots]; rfl
    rw [hslot]
    exact ht.empty c i (.inr ⟨hm, h9⟩)

/-! ### What follows the save -/

theorem mapNext_eq (f : Nat) (s : State) :
    mapNext f s = { s with maps := (mapNext f s).maps, mapWait := (mapNext f s).mapWait } := by
  induction f generalizing s with
  | zero => rfl
  | succ f ih =>
    unfold mapNext
    split
    · rw [ih]
      split <;> rfl
    · rfl

theorem mapper_eq (s : State) : mapper s = { s with maps := (mapper s).maps, mapWait := (mapper s).mapWait } := by
  have hm := mapNext_eq s.mapWait.length (unbindDry s)
  have hu : unbindDry s = { s with maps := (unbindDry s).maps } := rfl
  unfold mapper
  generalize unbindDry s = u at hm hu ⊢
  rw [hm, hu]

theorem trootRelease_eq (s : State) : trootRelease s = { s with
    troot := (trootRelease s).troot, trootHeld := (trootRelease s).trootHeld, clusters := (trootRelease s).clusters
    dies := (trootRelease s).dies, ioTlbs := (trootRelease s).ioTlbs } := by
  unfold trootRelease
  split
  · split <;> rfl
  · rfl

@[simp] theorem cores_mapper (s : State) : (mapper s).cores = s.cores := by rw [mapper_eq]
@[simp] theorem launches_mapper (s : State) : (mapper s).launches = s.launches := by rw [mapper_eq]
@[simp] theorem saved_mapper (s : State) : (mapper s).saved = s.saved := by rw [mapper_eq]
@[simp] theorem pctl_mapper (s : State) : (mapper s).pctl = s.pctl := by rw [mapper_eq]

@[simp] theorem cores_trootRelease (s : State) : (trootRelease s).cores = s.cores := by rw [trootRelease_eq]
@[simp] theorem launches_trootRelease (s : State) : (trootRelease s).launches = s.launches := by rw [trootRelease_eq]
@[simp] theorem saved_trootRelease (s : State) : (trootRelease s).saved = s.saved := by rw [trootRelease_eq]
@[simp] theorem pctl_trootRelease (s : State) : (trootRelease s).pctl = s.pctl := by rw [trootRelease_eq]

@[simp] theorem cores_shoot (agent pa n : Nat) (s t : State) : (shoot agent pa n s t).cores = t.cores := by rw [shoot_eq]
@[simp] theorem launches_shoot (agent pa n : Nat) (s t : State) : (shoot agent pa n s t).launches = t.launches := by
  rw [shoot_eq]
@[simp] theorem pctl_shoot (agent pa n : Nat) (s t : State) : (shoot agent pa n s t).pctl = t.pctl := by rw [shoot_eq]

/-- What follows the writing of the save area, in a module u: the launch is noted as saved, and what waited for its end happens
(R313, R317, R323). -/
def saveEnd (n : Nat) (sv : Saved) (s u : State) : State :=
  let s1 := shoot 0 sv.base sv.bytes.length s u
  mapper (trootRelease { s1 with saved := tabSet s1.saved n sv })

@[simp] theorem cores_saveEnd (n : Nat) (sv : Saved) (s u : State) : (saveEnd n sv s u).cores = u.cores := by
  simp [saveEnd]
@[simp] theorem launches_saveEnd (n : Nat) (sv : Saved) (s u : State) : (saveEnd n sv s u).launches = u.launches := by
  simp [saveEnd]
@[simp] theorem pctl_saveEnd (n : Nat) (sv : Saved) (s u : State) : (saveEnd n sv s u).pctl = u.pctl := by
  simp [saveEnd]

theorem saved_saveEnd (n : Nat) (sv : Saved) (s u : State) : tabFind (saveEnd n sv s u).saved n = some sv := by
  simp [saveEnd]

/-- The module once a launch has left it, its save area is written, and it is saved. -/
def saveDone (n : Nat) (l : Launch) (s : State) : State :=
  saveEnd n (savedLaunch s n l) s
    (perform (savedLaunch s n l).base (savedLaunch s n l).bytes (removeLaunch n l s))

theorem saveComplete_ready {n : Nat} {s : State} {l : Launch} (hl : s.launch n = some l)
    (hb : (s.pctlOf n).busy = true) (ho : (s.pctlOf n).op = 1) (hr : saveReady s n l = true) :
    saveComplete n s = some (saveDone n l s) := by
  simp only [saveComplete, hl, hb, ho, hr, beq_self_eq_true, Bool.and_self, if_true]
  rfl

theorem saveComplete_waits {n : Nat} {s : State} {l : Launch} (hl : s.launch n = some l)
    (hr : saveReady s n l = false) : saveComplete n s = none := by
  simp [saveComplete, hl, hr]

/-- What stands once a launch is saved (R36, R355). -/
theorem saveDone_effect {n : Nat} {l : Launch} {s : State} (hrise : tabRising s.launches = true) :
    (saveDone n l s).launch n = none ∧ tabFind (saveDone n l s).saved n = some (savedLaunch s n l) ∧
    (saveDone n l s).pctlOf n = { s.pctlOf n with busy := false, reached := [] } ∧
    (∀ c i, (c, i) ∈ slotStrands s n → i < 9 → ((saveDone n l s).slot c i).state = .empty) ∧
    ∀ c, l.first ≤ c → c < l.first + l.ncores →
      ((saveDone n l s).core c).deque = [] ∧ ((saveDone n l s).core c).recvQ = [] ∧
        n ∉ ((saveDone n l s).core c).preempted := by
  have hgone := removed_removeLaunch n l s
  have hwritten := written_perform (savedLaunch s n l).base (savedLaunch s n l).bytes (removeLaunch n l s)
  rw [saveDone]
  generalize perform (savedLaunch s n l).base (savedLaunch s n l).bytes (removeLaunch n l s) = u at hwritten ⊢
  generalize removeLaunch n l s = r at hwritten hgone
  have hcore (c : Nat) : CoreWritten (r.core c) ((saveEnd n (savedLaunch s n l) s u).core c) := by
    have e : (saveEnd n (savedLaunch s n l) s u).core c = u.core c := by rw [State.core, cores_saveEnd, State.core]
    rw [e]
    exact hwritten.core c
  refine ⟨?_, saved_saveEnd .., ?_, fun c i hm h9 => ((hcore c).empty i).mpr (hgone.empty c i hm h9), fun c h0 h1 => ?_⟩
  · have e : u.launches = tabDel s.launches n := by rw [hwritten.rest, hgone.rest]
    rw [State.launch, launches_saveEnd, e, tabFind_tabDel hrise]
  · have e : u.pctl = r.pctl := by rw [hwritten.rest]
    rw [State.pctlOf, pctl_saveEnd, e]
    exact hgone.pctl
  · rw [(hcore c).rest]
    exact hgone.core c h0 h1

end Sys2Proof.Machine
end

section
/-! PROOF. The resumption of a saved launch, and its end (R25, R278, R309, R359). -/

namespace Sys2Proof.Machine

/-- The strands that wait for a core are the same in t as in s, the pending latch aside, and so is all but cores, engines and
memory. -/
structure KeepsArrivals (s t : State) : Prop extends SameControl s t where
  arrivals : ∀ c, (t.core c).arrivals = (s.core c).arrivals

theorem KeepsArrivals.refl (s : State) : KeepsArrivals s s := ⟨⟨rfl⟩, fun _ => rfl⟩

theorem KeepsArrivals.trans {s t u : State} (h : KeepsArrivals s t) (h' : KeepsArrivals t u) : KeepsArrivals s u where
  toSameControl := h.toSameControl.trans h'.toSameControl
  arrivals c := (h'.arrivals c).trans (h.arrivals c)

theorem KeepsArrivals.foldl {α : Type} {f : State → α → State} (hf : ∀ s x, KeepsArrivals s (f s x)) (l : List α)
    (s : State) : KeepsArrivals s (l.foldl f s) := by
  induction l generalizing s with
  | nil => exact .refl s
  | cons x l ih => exact (hf s x).trans (ih _)

theorem Written.keepsArrivals {s t : State} (h : Written s t) : KeepsArrivals s t :=
  ⟨h.toSameControl, fun c => (h.core c).arrivals⟩

theorem keepsArrivals_modCore (s : State) (c : Nat) {f : Core → Core} (hf : ∀ k, (f k).arr = k.arr) :
    KeepsArrivals s (s.modCore c f) where
  rest := rfl
  arrivals d := by
    by_cases hd : d = c
    · subst hd
      rw [State.core_modCore_same, Core.arrivals, hf, Core.arrivals]
    · rw [State.core_modCore_other _ _ hd]

theorem KeepsArrivals.modCore {s t : State} (h : KeepsArrivals s t) (c : Nat) {f : Core → Core}
    (hf : ∀ k, (f k).arr = k.arr) : KeepsArrivals s (t.modCore c f) :=
  h.trans (keepsArrivals_modCore t c hf)

theorem keepsArrivals_spillFrom (c : Nat) (xs : List (DequeEntry × Nat)) (s : State) :
    KeepsArrivals s (spillFrom c xs s) := by
  induction xs generalizing s with
  | nil => exact .refl s
  | cons x xs ih =>
    refine KeepsArrivals.trans ?_ (ih _)
    split
    · exact .refl s
    · exact keepsArrivals_modCore s c fun _ => rfl

theorem keepsArrivals_storeDeque (c : Nat) (d : List DequeEntry) (s : State) : KeepsArrivals s (storeDeque c d s) := by
  have h : KeepsArrivals s (s.modCore c fun k => { k with deque := d }) := keepsArrivals_modCore s c fun _ => rfl
  unfold storeDeque spillIn
  exact (h.trans (keepsArrivals_spillFrom c _ _)).modCore c fun _ => rfl

theorem keepsArrivals_restoreLocal (n : Nat) (l : Launch) (s : State) (x : Nat × List Host.Cell) :
    KeepsArrivals s (restoreLocal n l s x) :=
  ((written_perform _ _ s).trans (written_perform _ _ _)).keepsArrivals

theorem keepsArrivals_restoreCore (n : Nat) (sv : Saved) (s : State) (c : Nat) : KeepsArrivals s (restoreCore n sv s c) := by
  unfold restoreCore
  exact (keepsArrivals_storeDeque c (tabGet [] sv.deques c ++ loadDeque s c) s).modCore c fun k => Core.arr_woken s.cyc k

/-! ### Restored commands -/

theorem modQ_eq (k q : Nat) (f : EngineQ → EngineQ) (s : State) :
    modQ k q f s = { s with clusters := (modQ k q f s).clusters, dies := (modQ k q f s).dies } := by
  unfold modQ
  split
  · rfl
  · split <;> rfl

theorem returnItem_eq {x : Nat × Nat × QItem} {s t : State} (h : returnItem x s = some t) :
    t = { s with clusters := t.clusters, dies := t.dies, returning := t.returning } := by
  have hq := modQ_eq x.1 x.2.1 (· ++ [x.2.2]) { s with returning := s.returning.erase x }
  unfold returnItem at h
  dsimp only at h
  split at h
  · cases h; rw [hq]
  · split at h
    · cases h; rw [hq]
    · cases h

/-- A restored item that enters its queue changes the queues alone. -/
theorem returnNext_eq {s t : State} (h : returnNext s = some t) :
    t = { s with clusters := t.clusters, dies := t.dies, returning := t.returning } := by
  obtain ⟨u, hu, rfl⟩ := Option.map_eq_some_iff.mp h
  obtain ⟨x, -, hx⟩ := List.exists_of_findSome?_eq_some hu
  split at hx
  · rw [pruneMarkers, returnItem_eq hx]
  · cases hx

theorem returnAll_eq (f : Nat) (s : State) : returnAll f s = { s with
    clusters := (returnAll f s).clusters, dies := (returnAll f s).dies, returning := (returnAll f s).returning } := by
  induction f generalizing s with
  | zero => rfl
  | succ f ih =>
    unfold returnAll
    split
    · next t h => rw [ih, returnNext_eq h]
    · rfl

/-! ### The start of a resumption -/

/-- The module with the local stores and the cores of a saved launch restored. -/
def restored (n : Nat) (sv : Saved) (s : State) : State :=
  (launchCores sv.launch).foldl (restoreCore n sv) (sv.locals.foldl (restoreLocal n sv.launch) s)

theorem keepsArrivals_restored (n : Nat) (sv : Saved) (s : State) : KeepsArrivals s (restored n sv s) :=
  (KeepsArrivals.foldl (keepsArrivals_restoreLocal n sv.launch) sv.locals s).trans
    (KeepsArrivals.foldl (keepsArrivals_restoreCore n sv) _ _)

/-- A module u in which a launch is restored, as the launch runs again under a resumption, before its commands return. -/
def resumed (n : Nat) (sv : Saved) (u : State) : State :=
  ({ u with
    returning := u.returning ++ sv.items, saved := tabSet u.saved n { sv with items := [] }
    launches := tabSet u.launches n sv.launch, run := if sv.launch.check then sv.launch.second else u.run } : State).modPctl n
      fun y => { y with op := 2, busy := true }

theorem resume_eq {n : Nat} {s : State} {sv : Saved} (hv : tabFind s.saved n = some sv) (hb : (s.pctlOf n).busy = false)
    (hl : s.launch n = none) :
    resume n s = some (returnAll sv.items.length (resumed n sv (restored n sv s))) := by
  simp only [resume, hv, hb, runs, hl, Option.isSome_none, Bool.or_self, Bool.false_eq_true, if_false]
  rfl

/-- What stands as a resumption starts (R354, R359). -/
theorem resume_effect {n : Nat} {s t : State} {sv : Saved}
    (ht : t = returnAll sv.items.length (resumed n sv (restored n sv s))) :
    t.launch n = some sv.launch ∧ (t.pctlOf n).busy = true ∧ (t.pctlOf n).op = 2 ∧
    tabFind t.saved n = some { sv with items := [] } ∧ t.frozenDoms = s.frozenDoms ∧
    t.run = (if sv.launch.check then sv.launch.second else s.run) ∧
    (s.returning = [] → sv.items = [] → t.returning = []) ∧ ∀ c, (t.core c).arrivals = (s.core c).arrivals := by
  have hu := keepsArrivals_restored n sv s
  generalize restored n sv s = u at hu ht
  have hr := returnAll_eq sv.items.length (resumed n sv u)
  have hpctl : t.pctlOf n = { u.pctlOf n with op := 2, busy := true } := by
    have e : t.pctl = (resumed n sv u).pctl := by rw [ht, hr]
    rw [State.pctlOf, e]
    exact State.pctlOf_modPctl_same ..
  have hreturning (h0 : s.returning = []) (h1 : sv.items = []) : t.returning = [] := by
    have e : u.returning = s.returning := by rw [hu.rest]
    rw [ht, h1]
    change u.returning ++ sv.items = []
    rw [e, h0, h1]
    rfl
  have hcores : t.cores = u.cores := by rw [ht, hr]; rfl
  refine ⟨?_, by rw [hpctl], by rw [hpctl], ?_, ?_, ?_, hreturning, fun c => ?_⟩
  · have e : t.launches = tabSet u.launches n sv.launch := by rw [ht, hr]; rfl
    rw [State.launch, e, tabFind_tabSet_same]
  · have e : t.saved = tabSet u.saved n { sv with items := [] } := by rw [ht, hr]; rfl
    rw [e, tabFind_tabSet_same]
  · have e : t.frozenDoms = u.frozenDoms := by rw [ht, hr]; rfl
    rw [e, hu.rest]
  · have e : t.run = if sv.launch.check then sv.launch.second else u.run := by rw [ht, hr]; rfl
    rw [e, hu.rest]
  · have e : t.core c = u.core c := by rw [State.core, hcores, State.core]
    rw [e]
    exact hu.arrivals c

/-! ### The thaw of a domain -/

theorem foldl_clusters {α : Type} {f : State → α → State}
    (hf : ∀ s x, f s x = { s with clusters := (f s x).clusters }) (l : List α) (s : State) :
    l.foldl f s = { s with clusters := (l.foldl f s).clusters } := by
  induction l generalizing s with
  | nil => rfl
  | cons x l ih => rw [List.foldl_cons, ih, hf]

theorem evalBlock_eq (k i : Nat) (s : State) :
    evalBlock k i s = { s with clusters := (evalBlock k i s).clusters } := by
  unfold evalBlock
  dsimp only
  split <;> rfl

theorem settle_eq (k : Nat) (s : State) : settle k s = { s with clusters := (settle k s).clusters } := by
  unfold settle
  exact foldl_clusters (f := fun t (x : Nat × Block) => evalBlock k x.1 t) (fun t x => evalBlock_eq k x.1 t) _ s

/-- The module as a domain is no more frozen, before its blocks are evaluated (R309). -/
def unfrozen (dom : Nat) (s : State) : State :=
  let go (b : Block) : Block := if b.dom == dom && b.st == .frozen then { b with st := .idle } else b
  { s with
    clusters := s.clusters.map fun (k, x) => (k, { x with blocks := x.blocks.map fun (i, b) => (i, go b) })
    frozenDoms := s.frozenDoms.filter fun d => d != dom }

/-- A thaw changes blocks, and the domain is frozen no more (R309). -/
theorem thaw_eq (dom : Nat) (s : State) :
    thaw dom s = { s with clusters := (thaw dom s).clusters, frozenDoms := s.frozenDoms.filter fun d => d != dom } := by
  have hsettle : thaw dom s = { unfrozen dom s with clusters := (thaw dom s).clusters } :=
    foldl_clusters (f := fun t (x : Nat × Cluster) => settle x.1 t) (fun t x => settle_eq x.1 t)
      (unfrozen dom s).clusters (unfrozen dom s)
  have hu : unfrozen dom s = { s with
    clusters := (unfrozen dom s).clusters, frozenDoms := s.frozenDoms.filter fun d => d != dom } := rfl
  generalize unfrozen dom s = u at hsettle hu
  rw [hsettle, hu]

/-! ### The end of a resumption -/

/-- t is s after strands have come to wait on cores, and their packets stand in the spill areas. -/
structure Arrived (xs : List (Nat × Strand)) (s t : State) : Prop extends SameControl s t where
  arrivals : ∀ c, (t.core c).arrivals =
    (s.core c).arrivals ++ (xs.filter fun x => x.1 == c).map fun x => { x.2 with latch := true }

theorem Arrived.trans {xs ys : List (Nat × Strand)} {s t u : State} (h : Arrived xs s t) (h' : Arrived ys t u) :
    Arrived (xs ++ ys) s u where
  toSameControl := h.toSameControl.trans h'.toSameControl
  arrivals c := by rw [h'.arrivals, h.arrivals, List.filter_append, List.map_append, List.append_assoc]

theorem arrived_modCore (s : State) (c : Nat) (e : ArrEntry) :
    Arrived [(c, e.strand)] s (s.modCore c fun k => { k with arr := k.arr ++ [e] }) where
  rest := rfl
  arrivals d := by
    by_cases hd : c = d
    · subst hd
      rw [State.core_modCore_same]
      simp [Core.arrivals]
    · rw [State.core_modCore_other _ _ (Ne.symm hd)]
      simp [hd]

theorem Arrived.keepsArrivals {xs : List (Nat × Strand)} {s t u : State} (h : Arrived xs s t) (h' : KeepsArrivals t u) :
    Arrived xs s u where
  toSameControl := h.toSameControl.trans h'.toSameControl
  arrivals c := (h'.arrivals c).trans (h.arrivals c)

theorem arrived_enterArrivals (launched : Bool) (c : Nat) (x : Strand) (t : Tier) (s : State) :
    Arrived [(c, x)] s (enterArrivals launched c x t s) := by
  cases t with
  | cluster => exact (arrived_modCore s c ⟨x, _, _, _⟩).keepsArrivals (written_perform _ _ _).keepsArrivals
  | queue => exact arrived_modCore s c ⟨x, _, _, _⟩
  | hbm => exact arrived_modCore s c ⟨x, _, _, _⟩

theorem arrived_foldl (xs : List (Nat × Strand)) (s : State) :
    Arrived xs s (xs.foldl (fun s x => enterArrivals true x.1 x.2 ((freeTier s x.1).getD .hbm) s) s) := by
  induction xs generalizing s with
  | nil => exact ⟨⟨rfl⟩, fun c => by simp⟩
  | cons x xs ih => exact (arrived_enterArrivals true x.1 x.2 _ s).trans (ih _)

/-- The module with a saved launch's strands on their cores. -/
def broughtBack (n : Nat) (sv : Saved) (s : State) : State :=
  sv.strands.foldl (fun s x => enterArrivals true x.1 x.2 ((freeTier s x.1).getD .hbm) s)
    { s with saved := tabDel s.saved n }

/-- The end of a resumption in a module u whose strands are on their cores. -/
def resumeEnd (n : Nat) (sv : Saved) (u : State) : State :=
  (if sv.froze then thaw sv.launch.domain u else u).modPctl n fun y => { y with busy := false, froze := false }

theorem resumeComplete_eq {n : Nat} {s : State} {sv : Saved} (hv : tabFind s.saved n = some sv)
    (hb : (s.pctlOf n).busy = true) (ho : (s.pctlOf n).op = 2) (hr : returns s n = false) :
    resumeComplete n s = some (resumeEnd n sv (broughtBack n sv s)) := by
  simp only [resumeComplete, hv, hb, ho, hr, bne_self_eq_false, Bool.not_true, Bool.or_self, Bool.false_eq_true, if_false]
  rfl

/-- The end of a resumption changes blocks, the frozen domains and PCTL alone. -/
theorem resumeEnd_eq (n : Nat) (sv : Saved) (u : State) : resumeEnd n sv u = { u with
    clusters := (resumeEnd n sv u).clusters, pctl := (resumeEnd n sv u).pctl
    frozenDoms := if sv.froze then u.frozenDoms.filter fun d => d != sv.launch.domain else u.frozenDoms } := by
  cases h : sv.froze with
  | false => simp only [resumeEnd, h, Bool.false_eq_true, if_false, State.modPctl]
  | true =>
    simp only [resumeEnd, h, if_true, State.modPctl]
    rw [thaw_eq]

theorem pctlOf_resumeEnd (n : Nat) (sv : Saved) (u : State) : ((resumeEnd n sv u).pctlOf n).busy = false :=
  congrArg Pctl.busy (State.pctlOf_modPctl_same _ n fun y => { y with busy := false, froze := false })

/-- What stands once a resumption has ended (R359). -/
theorem resumeEnd_effect {n : Nat} {s t : State} {sv : Saved} (ht : t = resumeEnd n sv (broughtBack n sv s)) :
    t.launches = s.launches ∧ (t.pctlOf n).busy = false ∧ (tabRising s.saved = true → tabFind t.saved n = none) ∧
    (∀ c, (t.core c).arrivals =
      (s.core c).arrivals ++ (sv.strands.filter fun x => x.1 == c).map fun x => { x.2 with latch := true }) ∧
    (sv.froze = true → sv.launch.domain ∉ t.frozenDoms) ∧ (sv.froze = false → t.frozenDoms = s.frozenDoms) := by
  have hu : Arrived sv.strands { s with saved := tabDel s.saved n } (broughtBack n sv s) := arrived_foldl sv.strands _
  generalize broughtBack n sv s = u at hu ht
  have hbusy : (t.pctlOf n).busy = false := by rw [ht, pctlOf_resumeEnd]
  have hend := resumeEnd_eq n sv u
  rw [← ht] at hend
  have hdoms : u.frozenDoms = s.frozenDoms := by rw [hu.rest]
  have hfrozen : t.frozenDoms =
      if sv.froze then s.frozenDoms.filter fun d => d != sv.launch.domain else s.frozenDoms := by rw [hend, hdoms]
  refine ⟨by rw [hend, hu.rest], hbusy, fun hrise => ?_, fun c => ?_, fun hf => ?_, fun hf => ?_⟩
  · have e : t.saved = tabDel s.saved n := by rw [hend, hu.rest]
    rw [e, tabFind_tabDel hrise]
  · have e : t.core c = u.core c := by rw [State.core, show t.cores = u.cores by rw [hend], State.core]
    rw [e]
    exact hu.arrivals c
  · rw [hfrozen, if_pos hf]
    simp
  · rw [hfrozen, hf]
    rfl

end Sys2Proof.Machine
end

section
/-! PROOF. Pre-emption and resumption (R36, R275, R278, R308, R354-R359). -/

namespace Sys2Proof.Machine

/-- Settles O51: the two writes of PCTL, the request at a core, the save, and the end of a resumption, each by its effect. -/
theorem preemptionSavesAndResumes : Obligations.PreemptionSavesAndResumes := by
  refine ⟨?preempt, ?request, ?save, ?resume, ?complete⟩
  case preempt =>
    intro n s l hl hb hv hs
    by_cases hd : l.domain ∈ s.frozenDoms
    · have hp := s.pctlOf_modPctl_same n fun y => { y with op := 1, busy := true, reached := [], froze := false }
      exact ⟨_, hostEvent_some hs (preempt_frozen hl hb hv hd), rfl, rfl, congrArg Pctl.op hp, congrArg Pctl.busy hp,
        congrArg Pctl.reached hp, fun _ => ⟨rfl, rfl, congrArg Pctl.froze hp⟩, fun h => absurd hd h⟩
    · have hp := s.pctlOf_modPctl_same n fun y => { y with op := 1, busy := true, reached := [], froze := true }
      exact ⟨_, hostEvent_some hs (preempt_freezes hl hb hv hd), rfl, rfl, congrArg Pctl.op hp, congrArg Pctl.busy hp,
        congrArg Pctl.reached hp, fun h => absurd h hd, fun _ => ⟨rfl, congrArg Pctl.froze hp, rfl⟩⟩
  case request =>
    intro n c s l hl hb ho hr h0 h1 hf hs
    exact ⟨_, event_some (preemptArrives_eq hl hb ho hr h0 h1 hf),
      stopped_requestAt (fun i hi op hn hw => hs i hi op hn hw) rfl⟩
  case save =>
    intro n s l hl hrise hb ho
    refine ⟨fun hr => ?_, fun hr => event_none (saveComplete_waits hl hr)⟩
    obtain ⟨hlaunch, hsaved, hpctl, hempty, hcores⟩ := saveDone_effect (n := n) (l := l) hrise
    refine ⟨_, savedLaunch s n l, event_some (saveComplete_ready hl hb ho hr), hlaunch, hsaved, rfl, by rw [hpctl],
      by rw [hpctl, ho], fun c i hi h0 h1 he hn => ⟨hempty c i (mem_slotStrands hi he hn) (by omega), saveStrand s c i,
        mem_savedLaunch h0 h1 hi he hn, ?_⟩, hcores⟩
    obtain ⟨huid, hpc, hg, hfull, hp, hicnt, -⟩ := saveContext_keeps s c _
    exact ⟨huid, hpc, hg, hfull, hp, hicnt, saveStrand_idle s c i⟩
  case resume =>
    intro n s sv hv hb hl hs
    exact ⟨_, hostEvent_some hs (resume_eq hv hb hl), resume_effect rfl⟩
  case complete =>
    intro n s sv hv hb ho hr
    exact ⟨_, resumeComplete_eq hv hb ho hr, resumeEnd_effect rfl⟩

end Sys2Proof.Machine
end

section
/-! PROOF. Checks 4 and 5 and the guard of every issue, before the effect of its instruction (R64, R72). -/

namespace Sys2Proof.Machine

/-- Every row of the opcode table that is no event is an issue with an effect of its own: the body of its arm. -/
theorem exec_eq_issue {i : Instr} (h : i.isEvent = false) (s : State) : ∃ body, exec i s = issue i body s := by
  unfold exec
  cases i
  all_goals cases h  -- the events
  all_goals exact ⟨_, rfl⟩

section Issue

variable {i : Instr} {s : State} (body : State → State) (hs : s.cur.2 < 9)
include hs

/-- The mode of check 4 is that before the issue: marking an issue does not change it. -/
theorem mode_markIssue : (markIssue s).me.mode = s.me.mode := by
  rw [me_markIssue hs]

/-- An issue that check 4 refuses traps with PRIV, whatever its fields and its guard. -/
theorem issue_priv (hp : i.privileged = true) (hm : s.me.mode = false) :
    issue i body s = .next (trapHere ⟨.priv, wordOf i, 0⟩ (markIssue s)) := by
  simp [issue, mode_markIssue hs, hp, hm]

variable (hm : i.privileged = true → s.me.mode = true)
include hm

theorem passes_check4 : (i.privileged && !(markIssue s).me.mode) = false := by
  rw [mode_markIssue hs]
  cases hp : i.privileged with
  | false => rfl
  | true => simp [hm hp]

/-- An issue that check 5 refuses traps with ILL_OPERAND, whatever its guard. -/
theorem issue_illOperand (hl : i.limits = false) :
    issue i body s = .next (trapHere ⟨.illOperand, wordOf i, 0⟩ (markIssue s)) := by
  simp [issue, passes_check4 hs hm, hl]

/-- An issue whose guard does not hold only goes on at the next word. -/
theorem issue_guardFails (hl : i.limits = true) (hg : guardHolds s.me i.guardField = false) :
    issue i body s = .next (ran id s) := by
  have hg' : guardHolds (markIssue s).me i.guardField = false := by rw [me_markIssue hs]; exact hg
  rw [← advance_markIssue hs]
  simp [issue, passes_check4 hs hm, hl, hg']

end Issue

/-- Settles O6: an instruction is an issue (exec_eq_issue), and an issue makes its checks before it comes to its effect. -/
theorem issueChecksComeBeforeTheEffect : Obligations.IssueChecksComeBeforeTheEffect := by
  refine ⟨?guard, ?priv, ?illOperand⟩
  case guard =>
    intro i s hi hs hm hl hg
    obtain ⟨body, he⟩ := exec_eq_issue hi s
    rw [he, issue_guardFails body hs hm hl hg]
  case priv =>
    intro i s hi hs hp hm ht
    obtain ⟨body, he⟩ := exec_eq_issue hi s
    exact ⟨_, he.trans (issue_priv body hs hp hm), traps_trapHere hs rfl ht⟩
  case illOperand =>
    intro i s hi hs hm hl ht
    obtain ⟨body, he⟩ := exec_eq_issue hi s
    exact ⟨_, he.trans (issue_illOperand body hs hm hl), traps_trapHere hs rfl ht⟩

end Sys2Proof.Machine
end

section
/-! PROOF. What one step issues or lets happen, and the word that an issue fetches (R63, R72, R100, R164; log 3). -/

namespace Sys2Proof.Machine

/-- The word of a fetch that is checked, on this module and not poisoned: its bytes as the core finds them. -/
theorem fetchWord_here {s : State} {q : Place} {a : Nat}
    (hq : checkAccess s s.cur.1 s.me.rights .fetch s.me.pc 4 = .ok q) (hl : q.loc = .here a)
    (hp : poisoned s a 4 = false) : fetchWord s = .ok (BitVec.ofNat 32 (bytesHeld s s.cur.1 a 4)) := by
  simp only [fetchWord, hq, hl, hp, heldBytes, Loc.plus, bytesHeld, Bool.false_eq_true, if_false]
  refine congrArg (fun l => Except.ok (BitVec.ofNat 32 (leNat l))) (List.map_congr_left fun i hi => ?_)
  simp [List.getD, List.mem_range.mp hi]

/-- o is the outcome that the word at the PC of the executing strand of s gives: of the instruction that it decodes to, of a
word that is no instruction, or of a fetch that faults. -/
def IssuesTheWord (s : State) (o : Out) : Prop :=
  (∀ w i, fetchWord s = .ok w → decode w = .ok i → o = exec i s) ∧
  (∀ w e, fetchWord s = .ok w → decode w = .error e → o = exec (.wordNotAnInstruction w) s) ∧
  ∀ st, fetchWord s = .error st → o = exec .instructionFetchFault s

theorem issueFrom_issuesTheWord (c n : Nat) (s : State) : IssuesTheWord { s with cur := (c, n) } (issueFrom c n s) := by
  refine ⟨fun w i hw hi => ?_, fun w e hw he => ?_, fun st hst => ?_⟩
  · simp only [issueFrom, hw, hi]
  · simp only [issueFrom, hw, he]; rfl
  · simp only [issueFrom, hst]; rfl

theorem step_agenda {s : State} {x : Choice} {rest : List Choice} (h : s.agenda = x :: rest) :
    step s = choose x { s with agenda := rest } := by
  simp only [step, h]

section Choose

variable {i : Instr} {c n : Nat} {s : State}

/-- A choice that the module's state does not hold back issues from the slot whose turn it is. -/
theorem choose_issue (hf : s.fatal = false) (hc : s.closing = false) (hn : pickSlot s c = some n) :
    choose (.issue c) s = issueFrom c n s := by
  simp only [choose, hf, hc, hn, Bool.false_and, Bool.or_self, Bool.false_eq_true, if_false]

theorem happen_noLimit (h : limitOf i = none) : happen i s = exec i s := by
  simp only [happen, closes, h, Bool.false_eq_true, if_false]
  cases exec i s <;> rfl

/-- The end of a limit closes the cycle, where it can take place. -/
theorem happen_limit {f : Candidate} {t : State} (h : limitOf i = some f) (ht : exec i s = .next t) :
    happen i s = .next (if (f s).isSome then { t with closing := true } else t) := by
  simp only [happen, closes, h, ht]

/-- An event takes place unless a fatal error or the end of the cycle holds it back. -/
theorem choose_happen (hf : s.fatal = false ∨ happensHeld (.happen i) = true)
    (hc : s.closing = false ∨ happensLast s (.happen i) = true) : choose (.happen i) s = happen i s := by
  refine if_neg ?_
  rcases hf with hf | hf <;> rcases hc with hc | hc <;> simp [hf, hc]

theorem choose_heldBack (h : s.fatal = true ∧ happensHeld (.happen i) = false ∨
    s.closing = true ∧ happensLast s (.happen i) = false) : choose (.happen i) s = .next s := by
  refine if_pos ?_
  rcases h with ⟨h1, h2⟩ | ⟨h1, h2⟩ <;> simp [h1, h2]

/-- Whether an event can still happen at the end of a cycle depends on the event alone. -/
theorem happensLast_happen (s t : State) (i : Instr) : happensLast s (.happen i) = happensLast t (.happen i) := by
  cases i <;> rfl

end Choose

/-- The module issues when no event and no operation in WAIT goes before. -/
theorem step_firstIssue {c n : Nat} {s : State} (ha : s.agenda = []) (hf : s.fatal = false) (hc : s.closing = false)
    (he : firstEvent (earlyEvents s) s = none) (hr : firstResume s = none) (hi : firstIssue s = some (c, n)) :
    step s = issueFrom c n s := by
  simp only [step, ha, hf, proceed, hc, he, hr, hi, Bool.false_eq_true, if_false]

/-- Settles O56: a step is the head of the agenda or the module's own choice, and what is chosen issues the word at the PC or
lets the event happen. -/
theorem aStepRunsTheDecodedInstruction : Obligations.AStepRunsTheDecodedInstruction := by
  refine ⟨?agenda, ?module, ?event, ?word⟩
  case agenda =>
    intro c n s rest ha hf hc s1 hn
    have hstep : step s = issueFrom c n { s with agenda := rest } :=
      (step_agenda ha).trans (choose_issue (s := { s with agenda := rest }) hf hc hn)
    rw [hstep]
    exact issueFrom_issuesTheWord c n { s with agenda := rest }
  case module =>
    intro c n s ha hf hc he hr hi
    rw [step_firstIssue ha hf hc he hr hi]
    exact issueFrom_issuesTheWord c n s
  case event =>
    intro i s rest ha s1
    have hstep : step s = choose (.happen i) s1 := step_agenda ha
    rw [hstep, happensLast_happen s s1]
    refine ⟨fun hf hc => ?_, choose_heldBack (s := s1)⟩
    rw [choose_happen (s := s1) hf hc]
    exact ⟨happen_noLimit, fun f hl t ht => happen_limit hl ht⟩
  case word =>
    exact fun s q a hq hl hp => fetchWord_here hq hl hp

end Sys2Proof.Machine
end

section
/-! PROOF. What the CSRs read as, the values that they refuse, and writes to SST (R139, R142, R144-R149). -/

namespace Sys2Proof.Machine

/-- SST, with the non-zero flags of the residue registers one by one (R146, R150). -/
theorem csrRead_sst (s : State) (c n : Nat) :
    let x := s.strand c n
    csrRead s c n 0x010 = BitVec.ofNat 64 (x.ridx.toNat + b2n x.viu * 2 ^ 4 + b2n x.spl * 2 ^ 5 +
      (b2n (decide (x.res 0 ≠ 0)) * 2 ^ 8 + b2n (decide (x.res 1 ≠ 0)) * 2 ^ 9 + b2n (decide (x.res 2 ≠ 0)) * 2 ^ 10 +
        b2n (decide (x.res 3 ≠ 0)) * 2 ^ 11) + b2n x.mode * 2 ^ 16) := by
  intro x
  have hflag (j : BitVec 2) : (x.res j != 0) = decide (x.res j ≠ 0) := by rw [bne, Bool.beq_eq_decide_eq, decide_not]
  have henz : x.enz * 2 ^ 8 = b2n (decide (x.res 0 ≠ 0)) * 2 ^ 8 + b2n (decide (x.res 1 ≠ 0)) * 2 ^ 9 +
      b2n (decide (x.res 2 ≠ 0)) * 2 ^ 10 + b2n (decide (x.res 3 ≠ 0)) * 2 ^ 11 := by
    simp only [Strand.enz, hflag]
    omega
  rw [← henz]
  rfl

/-- DMODE in normal mode (R148). -/
theorem csrRead_dmode_normal {s : State} {c : Nat} (n : Nat) (h : (s.core c).det = false) : csrRead s c n 0x033 = 0 := by
  have hturn : turnOf s (s.core c) = 0 := by rw [turnOf, h]; rfl
  show BitVec.ofNat 64 (b2n (s.core c).det + turnOf s (s.core c) * 2 ^ 8) = 0
  rw [hturn, h]
  rfl

/-- DMODE in deterministic mode, while the turn counter runs (R24, R148). -/
theorem csrRead_dmode_deterministic {s : State} {c t : Nat} (n : Nat) (h : (s.core c).det = true)
    (ht : (s.core c).turnZero = some t) : csrRead s c n 0x033 = BitVec.ofNat 64 (1 + (s.cyc - t) % 9 * 2 ^ 8) := by
  have hturn : turnOf s (s.core c) = (s.cyc - t) % 9 := by rw [turnOf, h, ht]; rfl
  show BitVec.ofNat 64 (b2n (s.core c).det + turnOf s (s.core c) * 2 ^ 8) = _
  rw [hturn, h]
  rfl

/-- The marks of an issue are in no CSR. -/
theorem csrRead_markIssue {s : State} (h : s.cur.2 < 9) (num : Nat) :
    csrRead (markIssue s) s.cur.1 s.cur.2 num = csrRead s s.cur.1 s.cur.2 num := by
  have hx : (markIssue s).strand s.cur.1 s.cur.2 = { s.strand s.cur.1 s.cur.2 with entry := false } := me_markIssue h
  unfold csrRead
  rw [hx, (CoreFrame.refl_markIssue s).core]
  rfl

/-- The values that R142 refuses. -/
theorem csrRefused_iff (num : BitVec 12) (v : Word) : csrRefused num.toNat v = true ↔
    num = 0x001 ∧ 5 ≤ v.toNat % 8 ∨ num = 0x012 ∧ v.toNat % 32 ≠ 8 ∧ v.toNat % 32 ≠ 16 ∨
      num = 0x031 ∧ 288 < v.toNat % 512 ∨ num = 0x050 ∧ v.setWidth 16 = (v >>> 16).setWidth 16 := by
  have hnum (k : BitVec 12) : num = k ↔ num.toNat = k.toNat := BitVec.toNat_inj.symm
  have hseeds : v.setWidth 16 = (v >>> 16).setWidth 16 ↔ bits v 15 0 = bits v 31 16 := by
    rw [← BitVec.toNat_inj, BitVec.toNat_setWidth, BitVec.toNat_setWidth, BitVec.toNat_ushiftRight]
    rfl
  simp only [csrRefused, hnum, hseeds]
  split <;> simp_all [bits_low]

/-- A write to SST with VIU set (R146). -/
theorem writeSst_keeps {v : Word} (hv : v.getLsbD 4 = true) (x : Strand) :
    writeSst v x = { x with ridx := v.setWidth 4, viu := true, spl := v.getLsbD 5 } := by
  simp only [writeSst, bitAt, hv, if_true]

/-- One with VIU clear zeroes the v and k registers (R105, R146). -/
theorem writeSst_clears {v : Word} (hv : v.getLsbD 4 = false) (x : Strand) : writeSst v x =
    { x with ridx := v.setWidth 4, viu := false, spl := v.getLsbD 5, v := Vector.replicate 8 0, k := Strand.reset.k } := by
  simp only [writeSst, bitAt, hv, Bool.false_eq_true, if_false]

end Sys2Proof.Machine
end

section
/-! PROOF. What the end of a CSR write leaves, by the place that holds the register (R140, R141, R149). -/

namespace Sys2Proof.Machine

/-- An update of a core that neither reads nor writes its slots. -/
structure LeavesSlots (g : Core → Core) : Prop where
  slots : ∀ k, (g k).slots = k.slots
  modSlot : ∀ k n f, (g k).modSlot n f = g (k.modSlot n f)

section LeavesSlots

variable {g : Core → Core} (hg : LeavesSlots g)
include hg

theorem LeavesSlots.me_modCore (s : State) : (s.modCore s.cur.1 g).me = s.me := by
  simp [State.me, State.strand, State.slot, Core.slot, hg.slots]

/-- Such an update of the executing strand's core and an update of that strand do not depend on their order. -/
theorem LeavesSlots.modMe_modCore (f : Strand → Strand) (s : State) :
    (s.modCore s.cur.1 g).modMe f = (s.modMe f).modCore s.cur.1 g := by
  simp only [State.modMe, State.modStrand, State.modSlot, State.modCore_cur, State.modCore_modCore, hg.modSlot]

theorem LeavesSlots.finish_modCore (f : Strand → Strand) (s : State) :
    finish f (s.modCore s.cur.1 g) = (finish f s).modCore s.cur.1 g := by
  simp only [finish, advance, goOn, hg.modMe_modCore]
  rw [← State.modMe_cur s f, hg.me_modCore, hg.modMe_modCore]

end LeavesSlots

section Done

variable {s : State} {num : Nat} (d : BitVec 4) (old : Word)

theorem csrDone_strand (hs : s.cur.2 < 9) (hn : num ≠ 0x014) (f : Strand → Strand) :
    csrDone num d old ((markIssue s).modMe f) = ran (fun x => (f x).put d old) s := by
  rw [csrDone, if_neg hn, setG, finish, State.modMe_modMe]
  exact finish_markIssue hs

theorem csrDone_core (hs : s.cur.2 < 9) (hn : num ≠ 0x014) {g : Core → Core} (hg : LeavesSlots g) :
    csrDone num d old ((markIssue s).modCore s.cur.1 g) = (ran (fun x => x.put d old) s).modCore s.cur.1 g := by
  rw [csrDone, if_neg hn, ← setG_markIssue hs, ← cur_markIssue s]
  exact hg.finish_modCore _ _

theorem csrDone_cluster (hs : s.cur.2 < 9) (hn : num ≠ 0x014) (k : Nat) (g : Cluster → Cluster) :
    csrDone num d old ((markIssue s).modCluster k g) = (ran (fun x => x.put d old) s).modCluster k g := by
  rw [csrDone, if_neg hn, ← setG_markIssue hs]
  rfl

theorem csrDone_seeds (hs : s.cur.2 < 9) (hn : num ≠ 0x014) (a b : BitVec 16) :
    csrDone num d old { markIssue s with seedA := a, seedB := b } =
      { ran (fun x => x.put d old) s with seedA := a, seedB := b } := by
  rw [csrDone, if_neg hn, ← setG_markIssue hs]
  rfl

theorem Strand.put_icnt (x : Strand) (v : Word) :
    { x with icnt := v }.put d old = { x.put d old with icnt := v } := by
  unfold Strand.put
  split <;> rfl

/-- A write of ICNT counts no issue (R149). -/
theorem csrDone_icnt (v : Word) : csrDone 0x014 d old ((markIssue s).modMe fun x => { x with icnt := v }) =
    (markIssue s).modMe fun x => { x.put d old with pc := x.pc + 4, icnt := v } := by
  simp only [csrDone, if_true, State.modMe_modMe, Strand.put_icnt]

end Done

end Sys2Proof.Machine
end

section
/-! PROOF. CSRR, CSRW, CSRS and CSRC (R139-R149). -/

namespace Sys2Proof.Machine

section Update

variable {mk : BitVec 4 → BitVec 4 → BitVec 12 → BitVec 4 → Instr} {new : Word → Word → Word}
  (h : ∀ d a num p s, exec (mk d a num p) s = issue (mk d a num p) (csrUpdate d a num new) s)
include h

/-- What an update of a CSR comes to: the trap of R142, or the write and then gd. -/
theorem exec_csrUpdate {d a p : BitVec 4} {num : BitVec 12} {s : State} (hr : Runs (mk d a num p) s)
    (hq : Readable [a] [d] s) :
    let old := csrRead s s.cur.1 s.cur.2 num.toNat
    let v := new old (s.me.get a)
    exec (mk d a num p) s =
      .next (if csrRefused num.toNat v then trapHere ⟨.illOperand, v, 0⟩ (markIssue s)
        else csrDone num.toNat d old (csrWrite num.toNat v (markIssue s))) := by
  have hg : (markIssue s).me.get a = s.me.get a := by rw [me_markIssue hr.slot, Strand.get_entry]
  rw [h, issue_runs _ hr, csrUpdate, needs_readable _ hq hr.slot]
  simp only [cur_markIssue, csrRead_markIssue hr.slot, hg]

/-- A value that R142 does not refuse is written. -/
theorem exec_csrUpdate_taken {d a p : BitVec 4} {num : BitVec 12} {s : State} (hr : Runs (mk d a num p) s)
    (hq : Readable [a] [d] s) :
    let old := csrRead s s.cur.1 s.cur.2 num.toNat
    let v := new old (s.me.get a)
    ¬csrRefused num.toNat v = true →
      exec (mk d a num p) s = .next (csrDone num.toNat d old (csrWrite num.toNat v (markIssue s))) :=
  fun hv => (exec_csrUpdate h hr hq).trans (congrArg _ (if_neg hv))

theorem writesCsrs_of_csrUpdate : WritesCsrs mk new := by
  intro d a p num s hr hq old v c
  have hs := hr.slot
  have hw {t : State} (hok : ¬csrRefused num.toNat v = true)
      (ht : csrDone num.toNat d old (csrWrite num.toNat v (markIssue s)) = t) : exec (mk d a num p) s = .next t :=
    (exec_csrUpdate_taken h hr hq hok).trans (congrArg _ ht)
  rw [csrRefused_iff] at hw
  refine ⟨?fpc, ?fps, ?sstKeeps, ?sstClears, ?ctxw, ?stdom, ?icnt, ?xpc, ?xcause, ?xval, ?xaux, ?tvec, ?splim, ?weight,
    ?fdrain, ?spans, ?replay⟩ <;> intro hn <;> subst hn
  case fpc => exact fun hv => hw (by simp [hv]) (csrDone_strand d old hs (by decide) _)
  case ctxw => exact fun hv => hw (by simp; omega) (csrDone_strand d old hs (by decide) _)
  case fps | stdom | xpc | xcause | xval | xaux => exact hw (by simp) (csrDone_strand d old hs (by decide) _)
  case sstKeeps =>
    exact fun hv => hw (by simp) ((csrDone_strand d old hs (by decide) _).trans
      (ran_congr (congrArg (Strand.put · d old) (writeSst_keeps hv _))))
  case sstClears =>
    exact fun hv => hw (by simp) ((csrDone_strand d old hs (by decide) _).trans
      (ran_congr (congrArg (Strand.put · d old) (writeSst_clears hv _))))
  case icnt => exact hw (by simp) (csrDone_icnt d old v)
  case tvec => exact hw (by simp) (csrDone_core d old hs (by decide) ⟨fun _ => rfl, fun _ _ _ => rfl⟩)
  case splim => exact fun hv => hw (by simp [hv]) (csrDone_core d old hs (by decide) ⟨fun _ => rfl, fun _ _ _ => rfl⟩)
  case weight =>
    have hq : (markIssue s).me.q = s.me.q := by rw [me_markIssue hs]
    rw [← hq]
    exact hw (by simp) (csrDone_core d old hs (by decide) ⟨fun _ => rfl, fun _ _ _ => rfl⟩)
  case fdrain | spans => exact hw (by simp) (csrDone_cluster d old hs (by decide) _ _)
  case replay => exact fun hv => hw (by simp [hv]) (csrDone_seeds d old hs (by decide) _ _)

theorem refusesCsrValues_of_csrUpdate : RefusesCsrValues mk new := by
  intro d a p num s hr hq ht v hv
  refine ⟨_, (exec_csrUpdate h hr hq).trans (congrArg _ (if_pos ((csrRefused_iff num v).2 hv))), ?_⟩
  exact traps_trapHere hr.slot rfl ht

end Update

/-- Settles O10: a read is the field by definition, and CSRW, CSRS and CSRC are one update (csrUpdate), which the refused
values of R142 trap and the others come through. -/
theorem csrsReadTheirFieldsAndTakeWrites : Obligations.CsrsReadTheirFieldsAndTakeWrites := by
  refine ⟨?reads, ⟨?csrr, writesCsrs_of_csrUpdate ?_, writesCsrs_of_csrUpdate ?_, writesCsrs_of_csrUpdate ?_⟩,
    refusesCsrValues_of_csrUpdate ?_, refusesCsrValues_of_csrUpdate ?_, refusesCsrValues_of_csrUpdate ?_⟩
  case reads =>
    intro s c n x bit
    exact ⟨rfl, rfl, csrRead_sst s c n, rfl, rfl, rfl, rfl, rfl, rfl, rfl, rfl, rfl, rfl, rfl, csrRead_dmode_normal n,
      fun _ => csrRead_dmode_deterministic n, rfl, rfl, rfl, rfl⟩
  case csrr =>
    intro d num p s hr hq
    have hexec : exec (.csrr d num p) s = .next _ := issue_runs _ hr
    rw [hexec, needs_readable _ hq hr.slot, cur_markIssue, csrRead_markIssue hr.slot, setG_markIssue hr.slot]
  all_goals exact fun _ _ _ _ _ => rfl

end Sys2Proof.Machine
end

section
/-! PROOF. The values right after module reset and at placement (R139, R148, R149, R312, R362, R377-R379; log 1). -/

namespace Sys2Proof.Machine

@[simp] theorem State.core_reset (c : Nat) : State.reset.core c = Core.reset := rfl

/-- Every slot is EMPTY and of no queue, the ones that a core does not have included. -/
@[simp] theorem State.slot_reset (c n : Nat) : State.reset.slot c n = Slot.reset := by
  by_cases h : n < 9 <;> simp [State.slot, Core.slot, Core.reset, h]

@[simp] theorem State.map_reset (n : Nat) : State.reset.map_ n = 0 := by
  by_cases h : n < 32 <;> simp [State.map_, State.reset, h]

@[simp] theorem Strand.axisOf_reset (j : BitVec 2) : Strand.reset.axisOf j = Axis.reset := by
  simp [Strand.axisOf, Strand.reset]

@[simp] theorem Strand.get_reset (r : BitVec 4) : Strand.reset.get r = 0 := by
  simp [Strand.get, Strand.reset]

theorem Strand.isEmpty_reset (r : BitVec 4) : Strand.reset.isEmpty r = false := by
  simp only [Strand.isEmpty, bitAt, Strand.reset]
  revert r
  decide

theorem Strand.isClipped_reset (r : BitVec 4) : Strand.reset.isClipped r = false := by
  simp [Strand.isClipped, bitAt, Strand.reset]

/-- Settles O55: the module at reset lists no core, no cluster, no queue and no byte, so each reads as its reset value. -/
theorem resetLeavesTheStatedValues : Obligations.ResetLeavesTheStatedValues := by
  refine ⟨?cores, ?strand, ?maps, ?tlbs, rfl, rfl, rfl, ?queues, rfl, rfl, ?memory⟩
  case cores =>
    intro c
    refine ⟨rfl, rfl, rfl, fun n => ⟨rfl, rfl, csrRead_dmode_normal n rfl, rfl, ?span, rfl, rfl, ?owner, ?state⟩⟩
    case span =>
      show BitVec.ofNat 64 (0 + b2n false * 2 ^ 31) = 0
      rfl
    case owner | state => rw [State.slot_reset]; rfl
  case strand =>
    exact ⟨rfl, rfl, rfl, rfl, rfl, rfl, rfl, rfl, rfl, rfl, rfl, rfl, rfl,
      fun j => by rw [Strand.axisOf_reset]; exact ⟨rfl, rfl, rfl⟩,
      fun r => ⟨Strand.get_reset r, Strand.isEmpty_reset r, Strand.isClipped_reset r⟩⟩
  case maps => exact fun n _ => State.map_reset n
  case tlbs => exact fun _ => rfl
  case queues => exact fun _ => rfl
  case memory => exact fun _ => rfl

end Sys2Proof.Machine
end
